-- ==== Sys2Proof/Word.lean ====
section
/-! DEFINITION. The module's basic words (R2, R10, R13 of spec/01): nonets, 36-bit words, 48-bit wafer addresses,
576-bit wide rows, and the two set-up register widths. -/

namespace Sys2Proof

/-- A nonet, the basic storage element (R10). -/
abbrev Nonet := BitVec 9
/-- A 36-bit word of four nonets (R10). -/
abbrev Word := BitVec 36
/-- A 48-bit wafer address counted in nonets (R60). -/
abbrev WAddr := BitVec 48
/-- A wide row: 64 nonets, 576 bits (R10). -/
abbrev Row := BitVec 576
/-- A 32-bit set-up register (R453). -/
abbrev Reg32 := BitVec 32
/-- A 64-bit counter, seed or step (R29, R82). -/
abbrev Word64 := BitVec 64
/-- One octet of host memory, of a flit or of a well (R19). -/
abbrev Octet := BitVec 8

end Sys2Proof
end

