-- ==== Sys2Proof/Syntax.lean ====
section
/-! DEFINITION. The commands of the block: one constructor of `Instr` per row of spec/opcode_table.json, with the
operands each carries. What only time or physics decides (what an error check finds, whether a credit is there,
which hands a latency holds back, a sensor's reading, a test's outcome) is an operand of the command (log 2). -/

namespace Sys2Proof

/-- What an error check finds on a read: nothing, a corrected bit, or an uncorrectable error (R90, R91, R98, R223,
R250, R251). The bit is the number the spec gives it (Table SPD-8: 0-575 data, 576-587 check). `voted e`: one of the three
copies of the row's metadata disagreed, and the check of the data finds `e` (R73). -/
inductive Ecc where
  | clean
  | corrected (bit : Nat)
  | uncorrectable
  | voted (e : Ecc)
deriving DecidableEq, Repr

/-- What the check of the data finds. -/
def Ecc.ofData : Ecc → Ecc
  | .voted e => e.ofData
  | e => e

/-- A copy of the metadata disagreed (R73). -/
def Ecc.ofMeta : Ecc → Bool
  | .voted _ => true
  | _ => false

/-- What the checks find on the accesses of one command, by number in the engine's own order of accesses (R481);
an access that is not listed is clean. -/
abbrev Errs := List (Nat × Ecc)

/-- One issue slot of a scribe core (R95, R120): the unit, the hand, and the timing inputs of that ACLK. -/
structure Issue where
  unit : Nat
  hand : Nat
  /-- Bit h: hand h is held back in this ACLK by a latency of R97, R98, R105 or R106. -/
  held : BitVec 8
  /-- What the script store's check finds on the fetch (R98). -/
  fetch : Ecc
  /-- A VC0 credit is there for a sync instruction (R95, R113). -/
  credit : Bool
  /-- What the row's check finds on a narrow access of the instruction (R89). -/
  ecc : Ecc
deriving DecidableEq, Repr

/-- A request at a scratchpad bank (R82, Table SPD-5). -/
structure Access where
  unit : Nat
  /-- Port of Table SPD-5, 0 to 10. -/
  port : Nat
  /-- The requester on the port: the hand on port 6, 8 x unit + hand on port 7, the unit on ports 8 and 9, else 0. -/
  agent : Nat
  offset : Nat
  wide : Bool
  /-- The 16-bit deadline (R82). -/
  deadline : BitVec 16
  /-- The 12-bit declared hold length, 0 for an indefinite hold (R82). -/
  hold : BitVec 12
  /-- The port goes on presenting requests to the bank after this access (R85). -/
  keep : Bool
  /-- Further requests are presented to the bank in the same cycle: it decides when the last of them is there (R80, R84). -/
  more : Bool
  /-- The row or, in bits [35:0], the word of a write. -/
  data : Row
  nf : Bool
  ecc : Ecc
deriving DecidableEq, Repr

/-- An on-wafer message (Table NET-4). Words 5 to 15 of the head flit are `w5` to `w15` in order. -/
structure Msg where
  dstRegion : Nat
  dstUnit : Nat
  dstKind : Nat
  vc : Nat
  type : Nat
  nf : Bool
  srcRegion : Nat
  srcUnit : Nat
  srcKind : Nat
  epoch : BitVec 12
  tag : BitVec 16
  srcModule : BitVec 12
  akind : Nat
  wa : WAddr
  status : BitVec 12
  /-- Head words 5 to 15; missing ones are zero. -/
  words : List Word
  /-- Body flits, one wide row each. -/
  body : List Row
  /-- What a mover's request carries beside its head: the requesting mover's deadline and hold (R185), and the nonets of a
  host-window access, 0 for whole rows (log 126). -/
  deadline : BitVec 16
  hold : BitVec 12
  nonets : Nat
  /-- Rows of a write that have been written already, while the message waits at the port for the next (R76). -/
  done : Nat := 0
deriving DecidableEq, Repr

/-- A flit on a link (Tables LNK-2 to LNK-4): the 224 header bits and the payload as the eight rows of a granule. -/
structure Flit where
  header : BitVec 224
  payload : List Row
  /-- What the fibres did to the 640 octets it was sent as (R315): the octets that arrive changed, and the bits that differ. -/
  errors : List (Nat × BitVec 8)
deriving DecidableEq, Repr

/-- Where a reduction contribution arrives (R241, R242). -/
inductive RedPlace where
  | clusterRouter (cluster : Nat)
  | regionRouter (region : Nat)
  | endpoint
deriving DecidableEq, Repr

/-- Who writes a register (R429, R432, R461). -/
inductive Writer where
  | host
  | mcA
  | mcB
deriving DecidableEq, Repr

/-- A write to BAR0: an access of 4 or 8 bytes at an offset (R453). Any other size is an unsupported request. -/
structure BarWrite where
  writer : Writer
  offset : Nat
  size : Nat
  value : BitVec 64
  /-- Every byte enable is set (R453). -/
  fullBe : Bool
deriving DecidableEq, Repr

/-- A resident script or data image of one unit in a job image: where it goes and its rows (R99, R360). Its rows lie in the region's
well from granule `place` on, eight to a granule, and `digest` is the SHA-256 digest of those granules. -/
structure UnitImage where
  unit : Nat
  place : Nat
  digest : List Octet
  startPc : BitVec 15
  imageOffset : Nat
  imageRows : Nat
  /-- Resident rows by wide row index: data, tagged, full, nf. -/
  rows : List (Nat × Row × Bool × Bool × Bool)
deriving DecidableEq, Repr

/-- One record of a table set or job image (R392): kind, region (255 for module-wide), first index, and the
entries as words. -/
structure TableRec where
  kind : Nat
  region : Nat
  first : Nat
  count : Nat
  words : List (BitVec 64)
deriving DecidableEq, Repr

/-- What a job image says once read and parsed (R272, R291, R391). Its octet format is not given (log 14). -/
structure JobImage where
  detClass : BitVec 16
  /-- The SHA-256 digest agrees with the one in the header (0x70D otherwise). -/
  digestOk : Bool
  octets : Nat
  digest : BitVec 256
  step : Word64
  jobSeed : Word64
  scaleExp : Int
  scaleMin : Int
  scaleMax : Int
  cleanCount : Nat
  cleanLimit : Nat
  skipRun : Nat
  skipLimit : Nat
  updCount : Nat
  inputCursor : Word64
  jobRingPos : Nat
  verdictRegion : Nat
  /-- Entries of the schedule table: k5 and k7 per update (R287). -/
  schedule : List (Word × Word)
  /-- Pipeline stages (R64); fewer surviving regions than stages stop the job (R364). -/
  stages : Nat
  /-- Length classes: micro-batch length and chunk limit (R277). -/
  classes : List (Nat × Nat)
  /-- Carried sync objects: object and region (R291). -/
  carried : List (Nat × Nat)
  /-- Sync object records by region and object: words 0 and 1 (R233). -/
  sync : List (Nat × Nat × Word × Word)
  /-- Role epochs by logical unit (R230). -/
  epochs : List (Nat × BitVec 12)
  /-- Where owner and carbon blocks lie: shard, first block, blocks, region, first granule of 12 to a block (R367). -/
  areas : List (Nat × Nat × Nat × Nat × Nat)
  /-- Parameters of the shards whose last block is not full (R310). -/
  shardParams : List (Nat × Nat)
  /-- red_blocks, wgt_granules and trl_granules expected by region (Table STP-5). -/
  expected : List (Nat × Nat × Nat × Nat)
  units : List UnitImage
  tables : List TableRec
deriving DecidableEq, Repr

/-- The content of a checkpoint (R371, R372): owner blocks by shard and block as 96 rows, digests, schedule state
and carried objects as read from host memory. Its octet format is not given (log 14). -/
structure Checkpoint where
  detClass : BitVec 16
  /-- Shard digests by shard. -/
  digests : List (Nat × List Octet)
  step : Word64
  jobSeed : Word64
  scaleExp : Int
  cleanCount : Nat
  skipRun : Nat
  updCount : Nat
  inputCursor : Word64
  jobRingPos : Nat
  scaleMin : Int
  scaleMax : Int
  cleanLimit : Nat
  skipLimit : Nat
  carried : List (Nat × Nat × Word)
  /-- Well rows to write: region, well row index, data. -/
  rows : List (Nat × Nat × Row)
deriving DecidableEq, Repr

/-- A structure under test (Table FLT-2): the test's code and its target. -/
structure TestTarget where
  code : Nat
  region : Nat
  /-- Logical unit, port, channel or lane tested. -/
  target : Nat
  /-- The scratchpad bank, for code 1. -/
  part : Nat
deriving DecidableEq, Repr

/-- A sensor's reading of one cluster or the well of a region (R418), in degrees Celsius. -/
inductive Sensor where
  | cluster (index : Nat)
  | well
deriving DecidableEq, Repr

/-- A power source (R399). -/
inductive Source where
  | feedA
  | feedB
  | service
deriving DecidableEq, Repr

/-- What a boot finds (R436, R437): what only the hardware's own checks decide. -/
structure BootFacts where
  /-- A controller verifies an image: MC-A, MC-B; and whether it is its active one (R436, R449). -/
  imageA : Bool
  imageB : Bool
  activeA : Bool
  activeB : Bool
  /-- Factory records verify in some flash; identity derived; identity matches (R437). -/
  factoryOk : Bool
  identityDerived : Bool
  identityMatch : Bool
  stepping : Nat
  /-- Class and release in the header of an image that a flash has held since before cold reset (R305, R440). -/
  detClassA : BitVec 16
  detClassB : BitVec 16
  fwRelease : BitVec 16
  serial : BitVec 64
  /-- Regions that come up: rail check, lock of their die (R413, R417). -/
  railOk : BitVec 48
  lockOk : BitVec 12
  /-- Channels trained per region (R436 step 6); DRAM rows that the effective map remaps: region, channel, pseudo-channel, bank, row
  (R258). -/
  trained : List (Nat × BitVec 16)
  spareRows : List (Nat × Nat × Nat × Nat × Nat)
  /-- Identity records read: region, the 64 octets, and the checks of the read (R249, R259). -/
  ident : List (Nat × BitVec 512 × Errs)
  /-- Retired physical positions by region and position 0-399 (R444), in the effective map. -/
  retired : List (Nat × Nat)
  /-- Margin plan in force by cluster: divider and voltage code (R406, R426). -/
  plan : List (Nat × Nat × Nat)
  /-- Phases working by cluster, where not all eight. -/
  phases : List (Nat × BitVec 8)
  /-- Failed boundary wires: region, port, group of wires, how many (R44). -/
  wires : List (Nat × Nat × Nat × Nat)
deriving DecidableEq, Repr

/-- The record that a management controller writes, and the controller (R432, R443). -/
structure RecordWrite where
  writer : Writer
  kind : BitVec 16
deriving DecidableEq, Repr

/-- A message and what the receiving ports on its path find, 9 numbers to a port, one to a flit (R223). -/
structure Arrival where
  msg : Msg
  flits : Errs
deriving DecidableEq, Repr

/-- What the checks find when a mover command reads its rows and its tables (R215, R481). -/
structure TableChecks where
  rows : Errs
  /-- The use of a parity-checked structure, counted in this row of the command table, at which a mismatch shows. -/
  parity : Option Nat
deriving DecidableEq, Repr

/-- A scratchpad row of a unit. -/
structure RowPlace where
  unit : Nat
  row : Nat
deriving DecidableEq, Repr

/-- How a self-test ended, for a mesh link which of its boundary wires failed (group and number), and the checks of the well rows that
a reload of the unit's image then reads (R44, R348, R352). -/
structure TestResult where
  pass : Bool
  wires : List (Nat × Nat)
  errs : Errs
deriving DecidableEq, Repr

/-- The rows that a carbon copy brings, by block, the owner's shard digest, and what the checks of the reads find (R368). -/
structure CarbonData where
  blocks : List (Nat × List Row)
  owner : List Octet
  errs : Errs
deriving DecidableEq, Repr

/-- A flit that may end the step, and what the checks of the rows find that the commit then reads (R293). -/
structure FlitReads where
  flit : Flit
  errs : Errs
deriving DecidableEq, Repr

/-- What the reads of a RESTORE find: the checks of well rows, and whether host memory could be read (R372). -/
structure RestoreReads where
  errs : Errs
  ok : Bool
deriving DecidableEq, Repr

/-- A region whose neighbours switch to their detours, and which messages in flight stood queued for it there, by their places in the
network's list (R411). -/
structure Switched where
  region : Nat
  queued : List Nat
deriving DecidableEq, Repr

/-- A die lost to its PLL or to its controller (R58, R417). -/
inductive DieLoss where
  | lock (die : Nat)
  | controller (die : Nat)
deriving DecidableEq, Repr

/-- Whether the reads of a poll of the host's memory succeed: the doorbell blocks, and the descriptors (R377, R383). -/
structure PollReads where
  doorbell : Bool
  desc : Bool
deriving DecidableEq, Repr

/-- How the transfer of a checkpoint ended: the writes to the host, and the checks of the well rows read (R371). -/
structure TransferEnd where
  writeOk : Bool
  errs : Errs
deriving DecidableEq, Repr

/-- The commands, one per row of spec/opcode_table.json, in its order. -/
inductive Instr where
  -- scribe core: ALU functions (Table SCR-4)
  | add (x : Issue) | sub (x : Issue) | and (x : Issue) | or (x : Issue) | xor (x : Issue)
  | sll (x : Issue) | srl (x : Issue) | sra (x : Issue) | slt (x : Issue) | sltu (x : Issue)
  | min (x : Issue) | max (x : Issue) | adds (x : Issue) | subs (x : Issue) | mul (x : Issue)
  | mulh (x : Issue) | mulhu (x : Issue) | clz (x : Issue) | popc (x : Issue)
  -- scribe core: immediates, branches, jumps (Table SCR-3)
  | addi (x : Issue) | andi (x : Issue) | ori (x : Issue) | xori (x : Issue)
  | slli (x : Issue) | srli (x : Issue) | srai (x : Issue) | slti (x : Issue) | sltiu (x : Issue)
  | lui (x : Issue) | beq (x : Issue) | bne (x : Issue) | blt (x : Issue) | bge (x : Issue)
  | bltu (x : Issue) | bgeu (x : Issue) | jal (x : Issue) | jalr (x : Issue)
  -- scribe core: narrow memory and tag instructions
  | ld (x : Issue) | ldp (x : Issue) | ldt (x : Issue) | st (x : Issue) | stf (x : Issue) | sts (x : Issue)
  | seal (x : Issue) | tst (x : Issue) | tagset (x : Issue) | twait (x : Issue)
  -- scribe core: address bases, sync, issue, control
  | aset (x : Issue) | aadd (x : Issue) | aaddi (x : Issue) | aget (x : Issue)
  | sync (x : Issue) | syncr (x : Issue) | issue (x : Issue) | fence (x : Issue)
  | hstart (x : Issue) | halt (x : Issue) | raise (x : Issue) | plan (x : Issue) | planr (x : Issue)
  | rdsr (x : Issue) | wrsr (x : Issue)
  -- unit control
  | backOffExpiry (x : Issue)
  | scriptLoad (unit : Nat) (errs : Errs)
  | go (unit : Nat)
  | unitStop (unit : Nat)
  | flush (unit : Nat)
  -- scratchpad accesses
  | plainRead (a : Access) | peek (a : Access) | take (a : Access) | plainWrite (a : Access) | put (a : Access)
  | fill (a : Access) | fillSeal (a : Access) | tagSeal (a : Access) | tagTest (a : Access)
  | parkedRequestWake (unit bank index : Nat) (ecc : Ecc)
  | tagWaitEvent (unit bank index : Nat)
  | overhold (unit bank : Nat)
  | scrub (unit bank : Nat) (ecc : Ecc)
  | verifyRead (unit row : Nat) (ecc : Ecc)
  -- matrix array
  | mac (unit : Nat) (block : Ecc) | minPlus (unit : Nat) (block : Ecc) | maxPlus (unit : Nat) (block : Ecc)
  | l1 (unit : Nat) (block : Ecc) | squaredDifference (unit : Nat) (block : Ecc)
  | compareCountLess (unit : Nat) (block : Ecc) | compareCountLessOrEqual (unit : Nat) (block : Ecc)
  | mxaRowEntry (unit : Nat) (errs : Errs) (parity : Option Nat)
  | mxaResultWrite (unit : Nat)
  | fillGatePass (unit : Nat) (waited : Bool)
  | completionPut (unit engine : Nat)
  -- stroke engine
  | strokeCommand (unit : Nat) (errs : Errs)
  | strokeBlockEntry (unit : Nat) (errs : Errs) (parity : Option Nat)
  -- tensor mover
  | records (unit : Nat) (checks : TableChecks) | register (unit : Nat) (checks : TableChecks)
  | release (unit : Nat) (checks : TableChecks)
  | copy (unit : Nat) (errs : Errs) (parity : Option Nat) | gather (unit : Nat) (errs : Errs) (parity : Option Nat)
  | scatter (unit : Nat) (errs : Errs) (parity : Option Nat)
  | moverInboundRequest (x : Arrival) (hold : BitVec 12) (deadline : BitVec 16) (ecc : Ecc)
  -- network messages; `flits` are the checks of the receiving ports on the path, 9 numbers to a port, one to a flit (R223)
  | readRequest (m : Msg) (flits errs : Errs)
  | writeRequest (m : Msg) (flits errs : Errs)
  | readResponse (m : Msg) (flits : Errs) | writeAcknowledgement (m : Msg) (flits : Errs)
  | errorResponse (m : Msg) (flits : Errs) | syncReply (m : Msg) (flits : Errs)
  | syncAcknowledgement (m : Msg) (flits : Errs)
  | epochUpdate (table : Nat) (x : Arrival)
  | epochUpdateAcknowledged (unit : Nat)
  | eventRecord (x : Arrival)
  | reductionContribution (place : RedPlace) (m : Msg) (flits : Errs)
  | holdWindowEnd (region : Nat) (place : RedPlace) (index : Nat)
  | dryNib (region place port vc : Nat)
  | strayPop (region : Nat)
  -- sync operations, each as the message that carries it (R237)
  | syncRead (x : Arrival) | syncAdd (x : Arrival) | syncSet (x : Arrival)
  | waitGe (x : Arrival) | arrive (x : Arrival) | syncOr (x : Arrival)
  | syncClear (x : Arrival) | waitAny (x : Arrival) | contribute (x : Arrival)
  | await (x : Arrival) | decide (x : Arrival) | rearm (x : Arrival)
  | syncInit (x : Arrival)
  -- wells and ink lines
  | refresh (region channel pseudo bank : Nat)
  | patrolScrub (region channel pseudo : Nat) (errs : Errs)
  | targetedScrub (region channel : Nat) (found : List (Nat × Nat × Ecc)) (again : List (Nat × Nat))
  | streamStart (region stream : Nat)
  | streamRow (region line : Nat) (errs : Errs)
  | inkLineRow (unit : Nat)
  | inkStall (region line : Nat)
  | inkCommandWait (unit : Nat)
  | lineEntryWrite (region line : Nat) (words : List Word)
  | streamEntryWrite (region stream : Nat) (words : List Word)
  -- training step
  | openStep (batches : List (Nat × Nat))
  | regionVerdictContribution (region : Nat)
  | weightPacket (shard block : Nat) (place : RowPlace) (errs : Errs)
  | snapshotGranule (shard : Nat)
  | moduleReady
  | digestComplete
  | sequencerAbort
  | drainComplete
  | selfTestResult (t : TestTarget) (result : TestResult)
  | spareWake (region rowMap : Nat)
  | spareTestResult (region rowMap : Nat) (pass : Bool)
  | spareLoadComplete (region rowMap : Nat) (errs : Errs)
  | regionRestore (region : Nat)
  | carbonCopy (shard : Nat) (copy : CarbonData)
  -- links
  | idle (link : Nat) (f : Flit) | wrd (link : Nat) (f : Flit) | wrs (link : Nat) (f : Flit)
  | wwr (link : Nat) (f : Flit) | wak (link : Nat) (f : Flit) | wer (link : Nat) (f : Flit)
  | red (link : Nat) (f : Flit) | wgt (link : Nat) (f : Flit)
  | nak (link : Nat) (f : Flit)
  | replayTimeout (link : Nat)
  | retrain (link : Nat) (txPass rxPass : BitVec 9)
  | pause (link : Nat) (f : Flit) | resume (link : Nat) (f : Flit)
  | laneTestStart (link : Nat) (f : Flit) | laneTestResult (link : Nat) (f : Flit) (sparePass : Bool)
  | setLaneMap (link : Nat) (f : Flit)
  | linkStarvation (link lvc : Nat)
  | peerLossTimeout (peer : Nat)
  | verdictUp (link : Nat) (f : Flit) | decideDown (link : Nat) (f : Flit) | readyUp (link : Nat) (x : FlitReads)
  | commitDown (link : Nat) (x : FlitReads) | abortUp (link : Nat) (f : Flit) | abortDown (link : Nat) (f : Flit)
  | lossUp (link : Nat) (f : Flit) | hello (link : Nat) (f : Flit) | helloAck (link : Nat) (f : Flit)
  | linkEnable (w : BarWrite)
  -- host interface
  | doorbellPoll (reads : PollReads)
  | copyIn (ring : Nat) (errs : Errs) (readOk : Bool) | copyOut (ring : Nat) (errs : Errs) (writeOk : Bool)
  | loadImage (ring : Nat) (img : JobImage) (readOk : Bool)
  | start (ring : Nat) | stop (ring : Nat) | checkpoint (ring : Nat)
  | restore (ring : Nat) (ck : Checkpoint) (reads : RestoreReads)
  -- `set`: the octets that the host has put at the descriptor's address (R392)
  | redistribute (ring : Nat) (set : List Octet) (readOk superseded : Bool)
  | digest (ring : Nat)
  | completionWrite (ring : Nat) (writeOk : Bool)
  | interruptTimer (ring : Nat)
  | hostEventRecord
  | flr | hotReset | perst | d3hot | d0
  | configurationRequest (address : BitVec 12) (write : Option Reg32)
  | ringEnable (w : BarWrite) | eventRingEnable (w : BarWrite) | engineEnable (w : BarWrite)
  | msixEntryWrite (w : BarWrite) | p1clrSend (w : BarWrite) | summaryClear (w : BarWrite)
  | summaryRefresh (region : Nat)
  | registerWrite (w : BarWrite)
  -- power, clocks and heat
  | sourceConnect (src : Source) (both : Bool)
  | interlockRelease
  | feedLoss (src : Source) | feedRestore (src : Source)
  | bothFeedsLost
  | phaseLoss (cluster phase : Nat)
  | droop (cluster : Nat)
  | isolationTrip (region : Nat) (t3 : Bool)
  | detourSwitch (x : Switched)
  | pllLockLoss (x : DieLoss)
  | isolationSwitchOpen (die : Nat)
  | referenceClockLoss
  | thermalReading (region : Nat) (readings : List (Sensor × Nat))
  | thermalStepBack (cluster : Nat)
  | powerCapComparison (drawW : Nat) (raise lower : Bool)
  | peakGuard | peakGuardRelease
  | dividerChange (cluster : Nat)
  | slackMeasurement (region : Nat) (slack : List (Nat × Int × Int))
  | hourlyAgeingRecord (osc : List (Nat × List Nat))
  | marginPlan
  -- management
  | boot (facts : BootFacts)
  | warmReset (facts : BootFacts)
  | penCompareAndSet (who : Writer) (expHolder : Nat) (expGen : BitVec 16) (newHolder : Nat)
  | heartbeat
  | heartbeatSample
  | penRelease
  | penNoneTimeout (who : Writer)
  | recoveryStatus (who : Writer) | recoveryBegin (who : Writer) (length : Nat)
  | recoveryData (who : Writer) (offset : Nat) (data : List Octet)
  | recoveryCommit (who : Writer) (good : Bool) | recoveryAbort (who : Writer)
  | stage (image : List Octet) (release detClass : BitVec 16) (good : Bool)
  | activate | cancel
  | trialTimeout (who : Writer)
  | flashRecordWrite (kind : RecordWrite) (payload : List Octet) (verified : Bool)
  | getVersion | getCapabilities | negotiateAlgorithms (asym hash : Nat) | getDigests
  | getCertificate (slot offset length : Nat) | challenge (slot : Nat) (nonce : BitVec 256)
  | getMeasurements (index : Nat) | keyExchange (reqKey : BitVec 512) | finish (verify : Bool)
  | laneLockLoss (link lane : Nat)
  | linkTrainingComplete (link : Nat)
  | completionTimeout (ring : Nat)
  | checkpointTransferComplete (x : TransferEnd)
  | serviceConnectorRemoval
  | ideKmRequest (message : List Octet)
  | strokeRowWrite (unit : Nat)
  | invalidInstruction (x : Issue)
deriving DecidableEq, Repr

end Sys2Proof
end

