-- ==== Sys2Proof/Config.lean ====
section
/-! DEFINITION. What an implementation fixes and the spec leaves open: constants without a body, of which no proof can
see the value. -/

namespace Sys2Proof.Config

/-- `projected_slack(c, div, code, t)` of R425 in hundredths of a percent, by the delay model of the stepping that the
flash holds as a signed record and the spec does not give; arguments: cluster, divider, voltage code, temperature, and the slack
that the cluster's two replicas measured. -/
opaque projectedSlack : Nat → Nat → Nat → Nat → Int → Int → Int

/-- The ECDSA P-256 signature the identity key makes over a SHA-256 digest (R441, R446, R447); the argument is the
digest and a counter, since a signature may draw a nonce. -/
opaque ecdsaSign : BitVec 256 → Nat → BitVec 512

/-- The responder's key-exchange public value and the digest-sized MAC of FINISH (R447), by session counter. -/
opaque keyShare : Nat → BitVec 512

/-- The fields of SPDM 1.2 responses that the spec leaves to that standard (capability flags, opaque data), by request
code and position (R447). -/
opaque spdmOctet : Nat → Nat → BitVec 8

/-- The seed that the fuzzy extractor yields from the PUF (R446) is not visible; the public key of the derived identity
and the vendor chain are, as octets of the chain of kind 0x05. -/
opaque chainOctet : Nat → BitVec 8

/-- Length of the certificate chain of kind 0x05 in octets (R442, R447). -/
opaque chainLength : Nat

/-- SHA-256 of the mask ROM (R447, Table MGT-5, index 1). -/
opaque romDigest : BitVec 256

/-- The configuration-space word read at a word address: the PCI Express capability structures of Table HST-1, whose
layout the spec leaves to the PCI Express specification (R376). -/
opaque configWord : BitVec 12 → BitVec 32

/-- Where the Message Control word of the MSI-X capability lies in configuration space (R376, R462). -/
opaque msixCap : BitVec 12

/-- Where the device capabilities word of the PCI Express capability, and the control and status word of the power management
capability, lie in configuration space (Table HST-1). -/
opaque deviceCap : BitVec 12
opaque powerCap : BitVec 12

/-- The write of digests to host memory succeeds, by root cycle (Table HST-11, 0x704). -/
opaque hostWriteOk : Nat → Bool

/-- What a self-test that overwrites a structure leaves in a wide row (R352): bits [575:0] data, then tagged, full and nf;
by root cycle, unit and row. -/
opaque testRow : Nat → Nat → Nat → BitVec 579

/-- What a self-test leaves in a script store word (R352), by root cycle, unit and word. -/
opaque testWord : Nat → Nat → Nat → BitVec 36

/-- A value that a record names and the spec does not state, by what it is and the root cycle: the detail of an event that a
message reports (0), the plan entry of a reduction error that concerns none (1), an octet of a descriptor whose read failed (2),
the detail that names the well of a region, which stands in place of the root cycle (3), the release and the class in the header of a recovered image (4, 5). -/
opaque unstated : Nat → Nat → BitVec 36

/-- What the checks find on the rows that MODULE_READY and DIGEST_COMPLETE read, and a planned withdrawal or an owner's digest, by root
cycle (R249, R293, R365, R368; log 152). -/
opaque blotChecks : Nat → Errs

/-- Which of the ports that lead on firmware's route tables give where dimension order does not (R221), by the links that are
out, region and destination. -/
opaque rerouted : Nat → Nat → Nat → BitVec 3

/-- Where a planned withdrawal puts a granule of a region's well (R365): a number that picks the surviving region, and the granule
there; by region and granule. -/
opaque newPlace : Nat → Nat → Nat × Nat

/-- How long after a trip of a cluster's droop detector its voltage has recovered, in root cycles, by the root cycle of the trip
(R408). -/
opaque droop : Nat → Nat

/-- What PWR_FEED_A (0) and PWR_FEED_B (1) show at the root cycle of a comparison: volts and watts (Table PWR-7). -/
opaque feedReading : Nat → Nat → BitVec 32

end Sys2Proof.Config
end

