-- ==== Sys2Proof/Machine/Num.lean ====
section
/-! DEFINITION. The number formats and their arithmetic (spec/01): decoding of codes, rounding by every mode of
Table FMT-8, the exact accumulator and the N18 window, IEEE non-finite rules, minimum and maximum. A finite value is
exact: a sign, a magnitude and a power of two. -/

namespace Sys2Proof.Num

/-- An exact value: a sign and magnitude `mag * 2^exp`, an infinity, or a NaN (R14). -/
inductive Val where
  | fin (neg : Bool) (mag : Nat) (exp : Int)
  | inf (neg : Bool)
  | nan
deriving DecidableEq, Repr

/-- The format codes of Table FMT-1. -/
abbrev n9e4 : Nat := 0
abbrev n9e5 : Nat := 1
abbrev n18 : Nat := 2
abbrev n36 : Nat := 3
abbrev int36 : Nat := 4
abbrev acc108 : Nat := 5
abbrev raw9 : Nat := 6

/-- Nonets of one element (Table FMT-1). -/
def size (fmt : Nat) : Nat :=
  match fmt with
  | 0 => 1 | 1 => 1 | 2 => 2 | 3 => 4 | 4 => 4 | 5 => 12 | 6 => 1 | _ => 0

/-- Elements of one wide row (Table FMT-1). -/
def perRow (fmt : Nat) : Nat :=
  match fmt with
  | 0 => 64 | 1 => 64 | 2 => 32 | 3 => 16 | 4 => 16 | 5 => 5 | 6 => 64 | _ => 0

/-- Mantissa bits, exponent bits and bias (Table FMT-2). -/
structure Layout where
  p : Nat
  e : Nat
  bias : Nat
deriving DecidableEq, Repr

/-- The layout of a floating-point format (R13); N36 stands for codes that are not floating. -/
def layout (fmt : Nat) : Layout :=
  match fmt with
  | 0 => ⟨4, 4, 7⟩ | 1 => ⟨3, 5, 15⟩ | 2 => ⟨10, 7, 63⟩ | _ => ⟨26, 9, 255⟩

/-- The value of a floating-point code (R14). -/
def decodeFloat (l : Layout) (code : Nat) : Val :=
  let m := code % 2 ^ l.p
  let e := code / 2 ^ l.p % 2 ^ l.e
  let neg := code / 2 ^ (l.p + l.e) % 2 == 1
  if e == 2 ^ l.e - 1 then (if m == 0 then .inf neg else .nan)
  else if e == 0 then .fin neg m (1 - (l.bias : Int) - l.p)
  else .fin neg (2 ^ l.p + m) ((e : Int) - l.bias - l.p)

/-- A signed 36-bit integer as an exact value (R18). -/
def ofInt (i : Int) : Val := .fin (i < 0) i.natAbs 0

/-- The value of a code in any arithmetic format (R13, R18). -/
def decode (fmt code : Nat) : Val :=
  if fmt == 4 then ofInt (BitVec.ofNat 36 code).toInt else decodeFloat (layout fmt) code

/-- Whether the value is a NaN or an infinity (R39). -/
def Val.nonFinite : Val → Bool
  | .fin _ _ _ => false
  | _ => true

/-- Whether the value is a NaN. -/
def Val.isNan : Val → Bool
  | .nan => true
  | _ => false

/-- Whether the value is zero of either sign. -/
def Val.isZero : Val → Bool
  | .fin _ m _ => m == 0
  | _ => false

/-- Rounds `mag * 2^-k` to an integer by a mode of Table FMT-8; `r` holds the 32 random bits (R25, R30). -/
def roundInt (mode r mag k : Nat) : Nat :=
  let n := mag / 2 ^ k
  let rem := mag % 2 ^ k
  if rem == 0 then n
  else if mode == 1 || mode == 3 then n
  else if mode == 4 || mode == 5 then
    (if rem * 2 ^ 32 / 2 ^ k + r ≥ 2 ^ 32 then n + 1 else n)
  else if 2 * rem > 2 ^ k then n + 1
  else if 2 * rem == 2 ^ k then n + n % 2
  else n

/-- Rounds `mag * 2^(exp - q)` to an integer. -/
def roundAt (mode r mag : Nat) (exp q : Int) : Nat :=
  if q ≤ exp then mag * 2 ^ (exp - q).toNat else roundInt mode r mag (q - exp).toNat

/-- The magnitude code of a finite non-zero magnitude and whether it overflowed to infinity (R24, R25, R27, R30). The
grid's step never exceeds the top exponent's, so overflow is judged on the extended grid of R30. -/
def roundMag (l : Layout) (mode r mag : Nat) (exp : Int) : Nat × Bool :=
  let qmin : Int := 1 - (l.bias : Int) - l.p
  let qmax : Int := (2 ^ l.e - 2 : Nat) - (l.bias : Int) - l.p
  let q := min (max ((Nat.log2 mag : Int) + exp - l.p) qmin) qmax
  let n := roundAt mode r mag exp q
  let code := (q - qmin).toNat * 2 ^ l.p + n
  let top := (2 ^ l.e - 1) * 2 ^ l.p
  if code < top then (code, false)
  else if mode == 0 || mode == 4 then (top, true)
  else (top - 1, false)

/-- The canonical NaN of a format (R15). -/
def canonicalNan (l : Layout) : Nat := (2 ^ l.e - 1) * 2 ^ l.p + 2 ^ (l.p - 1)

/-- Rounds an exact value into a floating-point format: the code, and whether a finite value became infinite. A zero
keeps the sign its producer gave it (R27). -/
def encodeFloat (l : Layout) (mode r : Nat) (v : Val) : Nat × Bool :=
  let s (neg : Bool) : Nat := if neg then 2 ^ (l.p + l.e) else 0
  match v with
  | .nan => (canonicalNan l, false)
  | .inf neg => (s neg + (2 ^ l.e - 1) * 2 ^ l.p, false)
  | .fin neg mag exp =>
    if mag == 0 then (s neg, false)
    else
      let (c, o) := roundMag l mode r mag exp
      (s neg + c, o)

/-- Rounds an exact value to a signed integer by the mode (R28, R36). -/
def toInt (mode r : Nat) (neg : Bool) (mag : Nat) (exp : Int) : Int :=
  let n : Int := roundAt mode r mag exp 0
  if neg then -n else n

/-- Conversion to INT36 (R28): the value and whether it is one of the flagged cases. -/
def encodeInt (mode r : Nat) (v : Val) : Nat × Bool :=
  let w (i : Int) : Nat := (BitVec.ofInt 36 i).toNat
  match v with
  | .nan => (0, true)
  | .inf neg => (w (if neg then -(2 ^ 35) else 2 ^ 35 - 1), true)
  | .fin neg mag exp => (w (max (-(2 ^ 35)) (min (2 ^ 35 - 1) (toInt mode r neg mag exp))), false)

/-- Rounds an exact value into format 0 to 4 (R25): the code, and whether the rounding sets the non-finite flag. -/
def encode (fmt mode r : Nat) (v : Val) : Nat × Bool :=
  if fmt == 4 then encodeInt mode r v else encodeFloat (layout fmt) mode r v

/-- An exact value rounded once to N36 by RNE (R156), with the overflow flag of R39. -/
def toN36 (v : Val) : Val × Bool :=
  let (c, o) := encodeFloat (layout 3) 0 0 v
  (decodeFloat (layout 3) c, o)

/-- The code of a value that lies on the N36 grid. -/
def n36Code (v : Val) : Nat := (encodeFloat (layout 3) 0 0 v).1

/-- The signed numerator of a finite value at a common exponent. -/
def scaled (neg : Bool) (mag : Nat) (exp q : Int) : Int :=
  let n : Int := mag * 2 ^ (exp - q).toNat
  if neg then -n else n

/-- An exact finite value from a signed numerator; an exact zero is +0 (R27). -/
def ofScaled (i : Int) (q : Int) : Val := .fin (i < 0) i.natAbs q

/-- Changes the sign of a value; an exact zero is +0 (R27). -/
def neg : Val → Val
  | .fin n m e => .fin (!n && m != 0) m e
  | .inf n => .inf !n
  | .nan => .nan

/-- The absolute value. -/
def abs : Val → Val
  | .fin _ m e => .fin false m e
  | .inf _ => .inf false
  | .nan => .nan

/-- The exact sum (R37). -/
def sum (a b : Val) : Val :=
  match a, b with
  | .nan, _ => .nan
  | _, .nan => .nan
  | .inf x, .inf y => if x == y then .inf x else .nan
  | .inf x, _ => .inf x
  | _, .inf y => .inf y
  | .fin n m e, .fin n' m' e' =>
    let q := min e e'
    ofScaled (scaled n m e q + scaled n' m' e' q) q

/-- The exact product (R37): ∞ × 0 is NaN; an exact zero is +0. -/
def prod (a b : Val) : Val :=
  match a, b with
  | .nan, _ => .nan
  | _, .nan => .nan
  | .inf x, .inf y => .inf (x != y)
  | .inf x, .fin n m _ => if m == 0 then .nan else .inf (x != n)
  | .fin n m _, .inf x => if m == 0 then .nan else .inf (x != n)
  | .fin n m e, .fin n' m' e' => .fin ((n != n') && m * m' != 0) (m * m') (e + e')

/-- Whether a < b for values that are not NaN; −0 and +0 are equal (R37). -/
def lt (a b : Val) : Bool :=
  match a, b with
  | .nan, _ => false
  | _, .nan => false
  | .inf x, .inf y => x && !y
  | .inf x, _ => x
  | _, .inf y => !y
  | .fin n m e, .fin n' m' e' =>
    let q := min e e'
    scaled n m e q < scaled n' m' e' q

/-- Whether a = b, false with a NaN (R37, R164). -/
def eq (a b : Val) : Bool := !a.isNan && !b.isNan && !lt a b && !lt b a

/-- Whether a ≤ b, false with a NaN. -/
def le (a b : Val) : Bool := lt a b || eq a b

/-- The sign of a value. -/
def Val.sign : Val → Bool
  | .fin n _ _ => n
  | .inf n => n
  | .nan => false

/-- Minimum (R37): NaN with a NaN operand, −0 below +0. -/
def vmin (a b : Val) : Val :=
  if a.isNan || b.isNan then .nan
  else if lt a b then a
  else if lt b a then b
  else if a.sign then a else b

/-- Maximum (R37): NaN with a NaN operand, −0 below +0. -/
def vmax (a b : Val) : Val :=
  if a.isNan || b.isNan then .nan
  else if lt a b then b
  else if lt b a then a
  else if a.sign then b else a

/-- Sum rounded once to N36 with the flag of R39 for non-finite operands or result (R156). -/
def flagged (v : Val) (ops : List Val) : Val × Bool :=
  let (y, _) := toN36 v
  (y, ops.any Val.nonFinite || y.nonFinite)

/-! ### The exact accumulator and the window (R32-R38) -/

/-- One accumulator of the array: 108 bits with the side bits pos_inf, neg_inf, nan in [0], [1], [2] (R38 lists the three for bits [2:0];
which stands where is a DESIGN CHOICE, log 137). In an
entry of window kind the bits are W in [98:0] and q in [107:99] (R36); in one of min or max kind [35:0] holds the N36
code of the running value (R138). -/
structure Acc where
  bits : BitVec 108
  side : BitVec 3
deriving DecidableEq, Repr

/-- Entry kinds of R132. -/
inductive Kind where
  | exact | window | min | max
deriving DecidableEq, Repr

/-- Packs a window (R36). -/
def packWindow (w q : Int) : BitVec 108 := (BitVec.ofInt 9 q) ++ (BitVec.ofInt 99 w)

/-- The value an entry of a kind starts at (R36, R132, R138). -/
def Acc.start (k : Kind) : Acc :=
  match k with
  | .exact => ⟨0, 0⟩
  | .window => ⟨packWindow 0 (-160), 0⟩
  | .min => ⟨BitVec.ofNat 108 (n36Code (.inf false)), 0⟩
  | .max => ⟨BitVec.ofNat 108 (n36Code (.inf true)), 0⟩

/-- A non-finite term sets its side bit and leaves the 108 bits (R38). -/
def Acc.mark (a : Acc) (v : Val) : Acc :=
  match v with
  | .nan => { a with side := a.side ||| 4 }
  | .inf false => { a with side := a.side ||| 1 }
  | .inf true => { a with side := a.side ||| 2 }
  | .fin _ _ _ => a

/-- Adds an exact term: the integer A-increment of R32, no rounding (R33, R136). -/
def Acc.addExact (a : Acc) (t : Val) : Acc :=
  match t with
  | .fin n m e => { a with bits := a.bits + BitVec.ofInt 108 (scaled n m (e + 40) 0) }
  | v => a.mark v

/-- Rounds `num * 2^e` to an integer, ties to even, for a signed numerator (R36). -/
def rneInt (i e : Int) : Int :=
  let n : Int := roundAt 0 0 i.natAbs e 0
  if i < 0 then -n else n

/-- Bits needed above 97 (R36): the smallest s with |w| / 2^s < 2^97. -/
def excess (w : Int) : Nat := Nat.log2 w.natAbs + 1 - 97

/-- Adds one product to a window (R36). -/
def Acc.addWindow (a : Acc) (t : Val) : Acc :=
  match t with
  | .fin n m e =>
    let w := (a.bits.extractLsb' 0 99).toInt
    let q := (a.bits.extractLsb' 99 9).toInt
    let w' := w + rneInt (if n then -(m : Int) else m) (e - q)
    if w'.natAbs ≥ 2 ^ 97 then
      let s := excess w'
      { a with bits := packWindow (rneInt w' (-(s : Int))) (q + s) }
    else { a with bits := packWindow w' q }
  | v => a.mark v

/-- Takes the minimum or maximum with a term rounded once to N36 (R138). A NaN term is kept in the nan side bit. -/
def Acc.addMinMax (isMax : Bool) (a : Acc) (t : Val) : Acc :=
  let t' := (toN36 t).1
  if t'.isNan then a.mark .nan
  else
    let old := decodeFloat (layout 3) (a.bits.toNat % 2 ^ 36)
    { a with bits := BitVec.ofNat 108 (n36Code (if isMax then vmax old t' else vmin old t')) }

/-- The value an accumulator holds on exit, before the exit rounding (R35, R36, R38, R149). -/
def Acc.value (k : Kind) (a : Acc) : Val :=
  if a.side.getLsbD 2 || (a.side.getLsbD 0 && a.side.getLsbD 1) then .nan
  else if a.side.getLsbD 0 then .inf false
  else if a.side.getLsbD 1 then .inf true
  else match k with
    | .exact => ofScaled a.bits.toInt (-40)
    | .window => ofScaled (a.bits.extractLsb' 0 99).toInt (a.bits.extractLsb' 99 9).toInt
    | _ => decodeFloat (layout 3) (a.bits.toNat % 2 ^ 36)

/-- The exit of an accumulator into fmt_out by the mode (R35, R149): the code and the flag of R39. In the min and max
kinds an infinity that is passed on does not set the flag; a NaN or an overflow does. -/
def Acc.exit (k : Kind) (fmt mode r : Nat) (a : Acc) : Nat × Bool :=
  let v := a.value k
  let (c, o) := encode fmt mode r v
  match k with
  | .exact => (c, o || v.nonFinite)
  | .window => (c, o || v.nonFinite)
  | _ => (c, (o && (!v.nonFinite)) || v.isNan)

end Sys2Proof.Num
end

