-- ==== Sys2Proof/Machine/Isa.lean ====
section
/-! DEFINITION. The encoding of the scribe core's instructions (R101-R104, Tables SCR-2 to SCR-4): the fields of a
word, and the instruction it is, if it is valid. -/

namespace Sys2Proof.Machine

/-- The instructions of Tables SCR-3 and SCR-4. -/
inductive Op where
  | add | sub | and | or | xor | sll | srl | sra | slt | sltu | min | max | adds | subs | mul | mulh | mulhu | clz | popc
  | addi | andi | ori | xori | slli | srli | srai | slti | sltiu | lui
  | beq | bne | blt | bge | bltu | bgeu | jal | jalr
  | ld | ldp | ldt | st | stf | sts | seal | tst | tagset | twait
  | aset | aadd | aaddi | aget | sync | syncr | issue | fence | hstart | halt | raise | plan | planr | rdsr | wrsr
deriving DecidableEq, Repr

/-- The M-format instructions (Table SCR-3). -/
def Op.isMem : Op → Bool
  | .ld | .ldp | .ldt | .st | .stf | .sts | .seal | .tst | .tagset | .twait => true
  | _ => false

/-- Fields of Table SCR-2. `fA`, `fB` and `fC` are the register fields [29:25], [24:20] and [19:15]. -/
def fOp (w : Word) : Nat := (w.extractLsb' 30 6).toNat
def fA (w : Word) : Nat := (w.extractLsb' 25 5).toNat
def fB (w : Word) : Nat := (w.extractLsb' 20 5).toNat
def fC (w : Word) : Nat := (w.extractLsb' 15 5).toNat
/-- R format: [14:6], reserved. -/
def fRes (w : Word) : Nat := (w.extractLsb' 6 9).toNat
def fFn (w : Word) : Nat := (w.extractLsb' 0 6).toNat
def imm20 (w : Word) : BitVec 20 := w.extractLsb' 0 20
def imm25 (w : Word) : BitVec 25 := w.extractLsb' 0 25
def off22 (w : Word) : BitVec 22 := w.extractLsb' 0 22
/-- The address base of formats M, Y and C. -/
def fAb (w : Word) : Nat := (w.extractLsb' 22 3).toNat
/-- Y format: rs, sop and idx12. -/
def fRs (w : Word) : Nat := (w.extractLsb' 17 5).toNat
def fSop (w : Word) : Nat := (w.extractLsb' 12 5).toNat
def idx12 (w : Word) : BitVec 12 := w.extractLsb' 0 12
/-- C format: eng. -/
def fEng (w : Word) : Nat := (w.extractLsb' 20 2).toNat

/-- ALU functions by fn (Table SCR-4). -/
def aluOps : List Op :=
  [.add, .sub, .and, .or, .xor, .sll, .srl, .sra, .slt, .sltu, .min, .max, .adds, .subs, .mul, .mulh, .mulhu, .clz,
   .popc]

/-- `op` when the reserved fields are zero. -/
def Op.given (op : Op) (ok : Bool) : Option Op := if ok then some op else none

/-- The instruction of a word: none if its opcode or fn is unlisted or a field that the operation does not use is not
zero (R104). -/
def opOf (w : Word) : Option Op :=
  match fOp w with
  | 0o00 =>
    match aluOps[fFn w]? with
    | none => none
    | some op => op.given (fRes w == 0 && ((op ≠ .clz && op ≠ .popc) || fC w == 0))
  | 0o01 => some .addi
  | 0o02 => some .andi
  | 0o03 => some .ori
  | 0o04 => some .xori
  | 0o05 => Op.slli.given ((imm20 w).toNat < 64)
  | 0o06 => Op.srli.given ((imm20 w).toNat < 64)
  | 0o07 => Op.srai.given ((imm20 w).toNat < 64)
  | 0o10 => some .slti
  | 0o11 => some .sltiu
  | 0o12 => some .lui
  | 0o20 => some .beq
  | 0o21 => some .bne
  | 0o22 => some .blt
  | 0o23 => some .bge
  | 0o24 => some .bltu
  | 0o25 => some .bgeu
  | 0o26 => some .jal
  | 0o27 => some .jalr
  | 0o30 => some .ld
  | 0o31 => some .ldp
  | 0o32 => some .ldt
  | 0o33 => some .st
  | 0o34 => some .stf
  | 0o35 => some .sts
  | 0o36 => Op.seal.given (fA w == 0)
  | 0o37 => some .tst
  | 0o40 => Op.tagset.given (fA w < 4)
  | 0o41 => Op.twait.given (fA w == 0)
  | 0o42 => Op.aset.given (fA w < 8 && fRes w == 0 && fFn w == 0)
  | 0o43 => Op.aadd.given (fA w < 8 && fB w < 8 && fRes w == 0 && fFn w == 0)
  | 0o44 => Op.aaddi.given (fA w < 8 && fB w < 8)
  | 0o45 => Op.aget.given (fB w < 8 && fC w == 0 && fRes w == 0 && fFn w < 2)
  | 0o50 => Op.sync.given (fA w == 0)
  | 0o51 => some .syncr
  | 0o52 => Op.issue.given (fEng w ≠ 3)
  | 0o53 => Op.fence.given ((imm25 w).toNat == 0 && fA w == 0)
  | 0o60 => Op.hstart.given (fA w < 8 && fC w == 0 && fRes w == 0 && fFn w == 0)
  | 0o61 => Op.halt.given ((imm25 w).toNat == 0 && fA w == 0)
  | 0o62 => Op.raise.given (fA w == 0 && (imm20 w).toNat == 0)
  | 0o63 => Op.plan.given (fA w == 0)
  | 0o64 => Op.planr.given (fA w == 0 && (imm20 w).toNat == 0)
  | 0o65 => Op.rdsr.given (fB w == 0 && (imm20 w).toNat < 4096)
  | 0o66 => Op.wrsr.given (fA w == 0 && (imm20 w).toNat < 4096)
  | _ => none

/-- The word registers that an instruction reads or writes (R97, Table SCR-3). -/
def Op.regs (op : Op) (w : Word) : List Nat :=
  match op with
  | .clz | .popc | .addi | .andi | .ori | .xori | .slli | .srli | .srai | .slti | .sltiu | .jalr => [fA w, fB w]
  | .add | .sub | .and | .or | .xor | .sll | .srl | .sra | .slt | .sltu | .min | .max | .adds | .subs | .mul | .mulh
  | .mulhu => [fA w, fB w, fC w]
  | .beq | .bne | .blt | .bge | .bltu | .bgeu => [fA w, fB w]
  | .lui | .jal | .ld | .ldp | .ldt | .st | .stf | .sts | .tst | .aget | .issue | .rdsr => [fA w]
  | .seal | .tagset | .twait | .aaddi | .fence | .halt | .plan => []
  | .aset => [fB w, fC w]
  | .aadd => [fC w]
  | .sync => [fRs w]
  | .syncr => [fA w, fRs w]
  | .hstart | .raise | .planr | .wrsr => [fB w]

end Sys2Proof.Machine
end

