-- ==== Sys2Proof/Machine/Flags.lean ====
section
/-! DEFINITION. Fields of words: flags, saturating counters, write-1-to-clear, and the words of a wide row. -/

namespace Sys2Proof.Machine

/-- The field of `len` bits at bit `lo`. -/
def field {n : Nat} (w : BitVec n) (lo len : Nat) : Nat := (w.toNat >>> lo) % 2 ^ len

/-- `w` with the field of `len` bits at bit `lo` replaced. -/
def putField {n : Nat} (w : BitVec n) (lo len v : Nat) : BitVec n :=
  (w &&& ~~~(BitVec.ofNat n ((2 ^ len - 1) <<< lo))) ||| BitVec.ofNat n ((v % 2 ^ len) <<< lo)

/-- A counter field incremented, saturating at its all-ones value (R93). -/
def bumpField {n : Nat} (w : BitVec n) (lo len : Nat) : BitVec n :=
  if field w lo len + 1 < 2 ^ len then putField w lo len (field w lo len + 1) else w

/-- The 36-bit word `j` of a wide row; word 0 is the least significant (R14). -/
def wordOf (r : Row) (j : Nat) : Word := r.extractLsb' (36 * j) 36

/-- A wide row with word `j` replaced. -/
def setWordOf (r : Row) (j : Nat) (w : Word) : Row :=
  (r &&& ~~~((BitVec.allOnes 36).setWidth 576 <<< (36 * j))) ||| (w.setWidth 576 <<< (36 * j))

/-- A wide row from its words, word 0 first. -/
def rowOfWords : List Word → Row
  | [] => 0
  | w :: ws => (rowOfWords ws <<< 36) ||| w.setWidth 576

/-- A word from a number. -/
abbrev wd (n : Nat) : Word := BitVec.ofNat 36 n

/-- A write of `v` to a write-1-to-clear field mask `m` (R8): the bits written as 1 clear. -/
def writeClear {n : Nat} (w m v : BitVec n) : BitVec n := w &&& ~~~(m &&& v)

end Sys2Proof.Machine
end

