-- ==== Sys2Proof/Machine/Sparse.lean ====
section
/-! DEFINITION. Sparse tables: every addressed store of the block (scratchpad rows, well rows, register files, tables
by index) is a list of (key, value) pairs in one canonical form: keys strictly rising, no entry equal to what an
unlisted key reads as. Equal stores are then equal lists. -/

namespace Sys2Proof

/-- A sparse table. -/
abbrev Sparse (α : Type) := List (Nat × α)

/-- The value at a key; an unlisted key reads as `d`. -/
def Sparse.get {α : Type} (d : α) : Sparse α → Nat → α
  | [], _ => d
  | (k, v) :: m, key => if k == key then v else Sparse.get d m key

/-- Removes a key. -/
def Sparse.erase {α : Type} : Sparse α → Nat → Sparse α
  | [], _ => []
  | (k, v) :: m, key => if k == key then Sparse.erase m key else (k, v) :: Sparse.erase m key

/-- Inserts or replaces a key, keeping the keys rising. -/
def Sparse.insert {α : Type} : Sparse α → Nat → α → Sparse α
  | [], key, x => [(key, x)]
  | (k, v) :: m, key, x =>
    if key < k then (key, x) :: (k, v) :: m
    else if k == key then (key, x) :: m
    else (k, v) :: Sparse.insert m key x

/-- Writes a key, keeping the canonical form: writing what an unlisted key reads as removes the entry. -/
def Sparse.set {α : Type} [DecidableEq α] (d : α) (m : Sparse α) (key : Nat) (x : α) : Sparse α :=
  if x = d then m.erase key else m.insert key x

/-- Changes the value at a key. -/
def Sparse.upd {α : Type} [DecidableEq α] (d : α) (m : Sparse α) (key : Nat) (f : α → α) : Sparse α :=
  m.set d key (f (m.get d key))

/-- The keys rise strictly from a bound. -/
def Sparse.rising {α : Type} : Nat → Sparse α → Bool
  | _, [] => true
  | b, (k, _) :: m => decide (b ≤ k) && Sparse.rising (k + 1) m

/-- The canonical form, where an unlisted key `k` reads as `d k`. -/
def Sparse.wf {α : Type} [DecidableEq α] (d : Nat → α) (m : Sparse α) : Bool :=
  Sparse.rising 0 m && m.all fun e => decide (e.2 ≠ d e.1)

end Sys2Proof
end

