-- ==== Sys2Proof/Machine/State.lean ====
section
/-! DEFINITION. The state of the block: every register, queue, buffer, counter and mode the spec gives the module, as
plain data, and its value at cold reset. Register files the spec numbers are kept as words by their number: page 1 of
each region controller (36-bit words) and BAR0 (32-bit words). -/

namespace Sys2Proof.Machine

open Sys2Proof.Num (Acc Kind)

/-! ### Scribe core (spec/04) -/

/-- States of a hand (Table SCR-1). -/
inductive HandState where
  | idle | ready | dataWait | parked | backOff | creditWait | replyWait | halted
deriving DecidableEq, Repr

/-- Access kinds (Table SPD-3), and the tagging of TAGSET (R111). -/
inductive AccKind where
  | plainRead | peek | take | plainWrite | put | fill | fillSeal | seal | test | tagset
deriving DecidableEq, Repr

/-- A hand's narrow access that is parked or backed off (R109, R121). -/
structure Narrow where
  kind : AccKind
  unit : Nat
  offset : Nat
  /-- Register written with the result; 32 for none. -/
  rd : Nat
  data : Word
  deadline : BitVec 16
  /-- The turn hint of the lost arbitration (R87, R121). -/
  hint : Nat
  /-- Program counter of the instruction (R129). -/
  pc : Word
deriving DecidableEq, Repr

/-- One hand (R96). `ready` holds the ready bits (R97). -/
structure Hand where
  st : HandState
  w : Sparse Word
  ready : BitVec 32
  /-- Registers whose value can be used only from a later ACLK cycle on, with that cycle (R97, R105). -/
  due : List (Nat × Nat)
  a : Sparse WAddr
  pc : Word
  planned : Word
  window : BitVec 12
  prio : BitVec 2
  narrow : Option Narrow
  /-- Posted SYNCs not acknowledged: slot and program counter of each (R237). -/
  posted : List (Nat × Word)
  /-- SYNCR waiting for its reply: rd and program counter (R113, R237). -/
  reply : Option (Nat × Word)
deriving DecidableEq, Repr

/-- A hand at go, and the model's cold-reset value (R126, log 6). -/
def Hand.reset : Hand :=
  { st := .idle, w := [], ready := BitVec.allOnes 32, due := [], a := [], pc := 0, planned := 0, window := 16, prio := 0,
    narrow := none, posted := [], reply := none }

/-! ### Scratchpad (spec/03) -/

/-- A wide row with its metadata (R73). -/
structure Cell where
  data : Row
  tagged : Bool
  full : Bool
  nf : Bool
deriving DecidableEq, Repr

/-- A row at cold reset (R74; the data is a choice of the model, log 9). -/
def Cell.reset : Cell := { data := 0, tagged := false, full := false, nf := false }

/-- A request at a bank: the access, its kind, its slack when it entered and the cycle it entered (R82, R83). -/
structure Req where
  acc : Access
  kind : AccKind
  slack : Int
  entered : Nat
  /-- The cycle in which it was parked last (R79). -/
  parkedAt : Nat
  /-- An engine of the module makes it for a command and takes the answer itself. -/
  own : Bool
  /-- The row changed state since the request parked (R78). -/
  woken : Bool
  /-- The tag-wait event has been raised (R79). -/
  waited : Bool
deriving DecidableEq, Repr

/-- The grant of a bank (R85, R86). -/
structure Grant where
  port : Nat
  agent : Nat
  hold : Nat
  granted : Nat
  overheld : Bool
deriving DecidableEq, Repr

/-- One bank: owner, competing requests, parking list, next row of the scrub (R78, R84, R92). -/
structure Bank where
  owner : Option Grant
  waiting : List Req
  parked : List Req
  scrubRow : Nat
deriving DecidableEq, Repr

/-- A bank at cold reset (R92). -/
def Bank.reset : Bank := { owner := none, waiting := [], parked := [], scrubRow := 0 }

/-- What an access last delivered to its requester (R76, R94), or the turn hint of a lost cycle (R87). -/
structure Resp where
  port : Nat
  agent : Nat
  kind : AccKind
  offset : Nat
  status : BitVec 12
  data : Row
  nf : Bool
  hint : Option Nat
deriving DecidableEq, Repr

/-! ### Engines (spec/05, spec/06, spec/07) -/

/-- A command queued at an engine: its block's offset and its sequence number (R115). -/
structure Queued where
  offset : Nat
  seq : Word
deriving DecidableEq, Repr

/-- A completion to be put (R117, R118): status, attribute, sequence number, words 1 to 3, completion row offset,
and the notification (object, region, sop). -/
structure Cpl where
  status : BitVec 12
  nf : Bool
  seq : Word
  w1 : Word
  w2 : Word
  w3 : Word
  offset : Nat
  ntf : Option (Nat × Nat × Nat)
  /-- Elements written so far, reported in word 1 if a later result write fails (R177). -/
  progress : Nat
  /-- The put's planned cycle and declared hold; none for a command that executed nothing (R117). -/
  plan : Option (Int × BitVec 12)
deriving DecidableEq, Repr

/-- A result row waiting for an engine's output port (R147, R176). -/
structure OutRow where
  seq : Word
  offset : Nat
  put : Bool
  data : Row
  nf : Bool
  /-- Elements that are written once this row is (R177). -/
  elems : Nat
  /-- Its planned cycle and declared hold (R82, R123). -/
  plan : Int
  hold : BitVec 12
  /-- The ACLK cycle from which a matrix array row is in the output queue (R147). -/
  ready : Nat := 0
deriving DecidableEq, Repr

/-- A weight set: its rows so far, whether it is of the N18 family, its format, and the OR of its rows' nf (R134, R142,
R40). -/
structure WSet where
  rows : List Row
  n18 : Bool
  fmt : Nat
  nf : Bool
  /-- An ink row of it did not carry the row number or the last-row mark of its place (R264). -/
  bad : Bool := false
deriving DecidableEq, Repr

/-- An accumulator entry (R132). -/
structure Entry where
  kind : Kind
  count : Nat
  started : Bool
  acc : List Acc
deriving DecidableEq, Repr

/-- An entry that nothing has started (R132). -/
def Entry.reset : Entry := { kind := .exact, count := 0, started := false, acc := [] }

/-- A matrix array command that has been taken (R142, R147). -/
structure MxaCmd where
  block : Row
  /-- The status of its checks or of the load of its weights, 0 when it runs; such a command keeps its place in queue order (R147). -/
  code : Nat
  /-- The status is that of its checks. -/
  rejected : Bool
  seq : Word
  entered : Nat
  /-- The cycle in which it was taken (R264). -/
  takenAt : Nat
  firstCycle : Word
  passes : Nat
  /-- Rows the current gated pass still admits (R150). -/
  passLeft : Nat
  nf : Bool
  /-- ACC108 rows loaded so far, those of the entry that is not complete, and the OR of their nf (R145, R149). -/
  loaded : Nat
  accBuf : List Row
  accNf : Bool
deriving DecidableEq, Repr

/-- The matrix array (R131, R132, R147). -/
structure Mxa where
  queue : List Queued
  issued : Word
  cur : Option MxaCmd
  nxt : Option MxaCmd
  active : Option WSet
  shadow : Option WSet
  entries : Sparse Entry
  outq : List OutRow
  cpls : List Cpl
deriving DecidableEq, Repr

def Mxa.reset : Mxa :=
  { queue := [], issued := 0, cur := none, nxt := none, active := none, shadow := none, entries := [],
    outq := [], cpls := [] }

/-- A stroke command being read or in the chain (R175, R176): the block and the rows its prologue read. -/
structure StrokeCmd where
  block : Row
  seq : Word
  /-- 0: the rows that the checks need are being read. 1: the rest of the prologue. 2: blocks. -/
  stage : Nat
  /-- Rows read through ports A and B and not yet used: stream number (4: a plan row), row and nf. -/
  gotA : List (Nat × Row × Bool)
  gotB : List (Nat × Row × Bool)
  inTab : Row
  outTab : Row
  param : Row
  glyph : Row
  map : Row
  /-- Rows of the stride-zero streams, by stream (R167), and the OR of the prologue rows' nf. -/
  szRows : List (Nat × List Row)
  proNf : Bool
  nextBlock : Nat
  firstCycle : Word
  laneRange : Bool
  nf : Bool
  written : Nat
  /-- Output elements formed and not yet in a row, by output stream: code and nf (R166). -/
  elems : List (List (Nat × Bool))
  /-- Rows formed so far, by output stream. -/
  rowsOut : List Nat
  /-- Elements of the group that REDUCE has not completed: N36 code and nf (R170). -/
  group : List (Nat × Bool)
deriving DecidableEq, Repr

/-- The stroke engine. -/
structure Stroke where
  queue : List Queued
  issued : Word
  /-- The command whose blocks enter; one whose blocks have all entered drains from the write queue (R176). -/
  cur : Option StrokeCmd
  outq : List OutRow
  cpls : List Cpl
deriving DecidableEq, Repr

def Stroke.reset : Stroke := { queue := [], issued := 0, cur := none, outq := [], cpls := [] }

/-- An allocation record (Table MOV-3). -/
structure AllocRec where
  base : WAddr
  tagged : Bool
  writable : Bool
  length : Nat
deriving DecidableEq, Repr

/-- A row that a mover command reads or writes: the module that holds it and the row's wafer address (R186, R213). -/
structure RowKey where
  module : Nat
  addr : WAddr
deriving DecidableEq, Repr

/-- A destination run that the mover has begun to fill (R203): its row, the first nonet, the bits covered and their data, the nf of
its source rows, and its elements. -/
structure OpenRun where
  dst : RowKey
  pos : Nat
  mask : Row
  data : Row
  nf : Bool
  elems : Nat
deriving DecidableEq, Repr

/-- A table row in the accumulate unit (R209): its data and nf, the bits overwritten, and those whose source row had nf. -/
structure HeldRow where
  key : RowKey
  data : Row
  nf : Bool
  covered : Row
  coveredNf : Row
deriving DecidableEq, Repr

/-- The mover's command in progress, element by element. -/
structure MoverWait where
  block : Row
  seq : Word
  /-- Accesses made (R214). -/
  made : Nat
  /-- The command has made its first data access, in this cycle. -/
  started : Bool
  firstCycle : Word
  /-- Record, descriptor and owner table rows read, in order; the checks have been made. -/
  rows : List Row
  checked : Bool
  /-- Indices done, the choice that the present one makes (`some none`: skipped), and whether an index stopped the command. -/
  index : Nat
  pick : Option (Option Nat)
  stop : Bool
  /-- Elements done of the copy, or of the present slice. -/
  pos : Nat
  /-- The index row and the source row held, and the tile buffer: data and nf bits by line (R204). -/
  ixRow : Option (RowKey × Row)
  src : Option (RowKey × Row × Bool)
  tile : List (Row × Row)
  run : Option OpenRun
  /-- The row that a merge has read (R202). -/
  merge : Option (Row × Bool)
  /-- The accumulate unit's rows, the least recently used first. -/
  table : List HeldRow
  /-- Counts for the completion: elements or updates, indices that met their policy; its nf (R198). -/
  elems : Nat
  met : Nat
  nf : Bool
  /-- A read asked of another structure, by tag, and its answer: status, row, nf. -/
  ask : Option (Nat × RowKey)
  ans : Option (Nat × Row × Bool)
  /-- Writes of other structures not settled, in order: tag, elements, the answer's status. -/
  acks : List (Nat × Nat × Option Nat)
  /-- The status of a command that makes no further access and waits for answers to its writes. -/
  ended : Option Nat
deriving DecidableEq, Repr

/-- The tensor mover (R187, R189); `tag` numbers its requests over the network. -/
structure Mover where
  queue : List Queued
  issued : Word
  records : Sparse (Option AllocRec)
  slots : Sparse (Option Row)
  tag : Nat
  cur : Option MoverWait
  cpls : List Cpl
deriving DecidableEq, Repr

def Mover.reset : Mover :=
  { queue := [], issued := 0, records := [], slots := [], tag := 0, cur := none, cpls := [] }

/-- A row on an ink line (R261): its data and the tag fields. -/
structure InkRow where
  data : Row
  row : Nat
  pos : Nat
  bcast : Bool
  last : Bool
  /-- The well row it came from. -/
  wa : WAddr
deriving DecidableEq, Repr

/-- A logical unit. -/
structure Unit where
  hands : Sparse Hand
  /-- Hands in order of their last issue, latest first (R120). -/
  recency : List Nat
  script : Sparse Word
  /-- Rows that the script load in progress has copied (R99). -/
  loadRows : Nat
  pbaseLo : Word
  planBase : Word64
  /-- The sticky non-finite flag (R40). -/
  nf : Bool
  /-- Rounding inputs (R141). -/
  seed : Word64
  step : Word64
  rows : Sparse Cell
  banks : Sparse Bank
  /-- The latest answer to each requester (log 10). -/
  resps : List Resp
  mxa : Mxa
  stroke : Stroke
  mover : Mover
  ink : List InkRow
  /-- Rows on this unit's ink input that have not moved yet (R263). -/
  inkIn : List InkRow
  /-- The cycle from which the first of them has been at the input. -/
  inkSince : Nat
  /-- The event of a command that waits for ink rows has been raised (R264). -/
  inkStalled : Bool
  /-- Mover requests of other units that wait at this unit's ports (R185). -/
  inbound : List Msg
deriving DecidableEq, Repr

/-- A unit at cold reset. -/
def Unit.reset : Unit :=
  { hands := [], recency := [], script := [], loadRows := 0, pbaseLo := 0, planBase := 0, nf := false, seed := 0, step := 0,
    rows := [], banks := [], resps := [], mxa := Mxa.reset, stroke := Stroke.reset, mover := Mover.reset,
    ink := [], inkIn := [], inkSince := 0, inkStalled := false, inbound := [] }

/-! ### Regions (spec/02, spec/08, spec/09, spec/10, spec/13) -/

/-- A sync object record (Table NET-7). -/
structure SyncObj where
  w0 : Word
  w1 : Word
  w2 : Word
  w3 : Word
deriving DecidableEq, Repr

def SyncObj.reset : SyncObj := { w0 := 0, w1 := 0, w2 := 0, w3 := 0 }

/-- A waiting sync operation (R234, R237): the object, the operation, and the message to answer. -/
structure Waiter where
  object : Nat
  sop : Nat
  operand : Word
  msg : Msg
deriving DecidableEq, Repr

/-- A reduction node held at an endpoint or in a combine buffer: the contribution as its message (R240-R242). -/
structure Node where
  place : Nat
  entry : Nat
  msg : Msg
deriving DecidableEq, Repr

/-- A complete block that the endpoint writes: its entry, its root node, and the tags of the rows whose writes are not answered
(R242). -/
structure BlockWrite where
  entry : Nat
  msg : Msg
  tags : List Nat
deriving DecidableEq, Repr

/-- The stream that runs on an ink line (R262, R265). -/
structure Running where
  line : Nat
  stream : Nat
  nextRow : Nat
  buf : Bool
deriving DecidableEq, Repr

/-- Stages of a spare fill (Table FLT-4). -/
inductive FillStage where
  | waking | testing | loading
deriving DecidableEq, Repr

/-- A spare fill: the row map, the logical column, its stage, and whether its image failed once (R359, R360). -/
structure Fill where
  rowMap : Nat
  lc : Nat
  stage : FillStage
  failedOnce : Bool
deriving DecidableEq, Repr

/-- A row map change that waits for the acknowledgement of an epoch update (R51, R230, R359). -/
structure EpochWait where
  unit : Nat
  rowMap : Nat
  /-- The column that is to serve the unit, 7 for absent. -/
  column : Nat
  /-- New spare_state and fill_lc, where they change. -/
  spare : Option (Nat × Nat)
deriving DecidableEq, Repr

/-- A region: register file, sync objects, network and well state. -/
structure Region where
  p1 : Sparse Word
  sync : Sparse SyncObj
  waiters : List Waiter
  epochs : Sparse (BitVec 12)
  /-- Epoch tables of the 20 cluster interfaces, by cluster x 16,384 + unit (R230). -/
  ifEpochs : Sparse (BitVec 12)
  epochWaits : List EpochWait
  /-- Endpoint nodes (R242), arrivals held for want of slots (R243), and combine buffers (R241). -/
  nodes : List Node
  heldIn : List Msg
  heldEpisode : Bool
  combine : List Node
  /-- Blocks being written, and the tag of the endpoint's next write (R242). -/
  writing : List BlockWrite
  wtag : Nat
  /-- Route table by destination; detour table of neighbour d at 64 x (d + 1) + destination (R221). -/
  route : Sparse (BitVec 3)
  /-- Detour in use, and ports disabled toward lost neighbours (R411, R412). -/
  detour : Option Nat
  portOff : BitVec 4
  /-- Groups of boundary wires whose spare is in use: port and group (R44). -/
  steered : List (Nat × Nat)
  /-- Stream entries and status words at the blot point (R357). -/
  blot : Sparse Word
deriving DecidableEq, Repr

/-- The well of a region and its ink lines (spec/09). -/
structure Well where
  /-- Well rows by 8 x granule + row. -/
  rows : Sparse Row
  ident : BitVec 512
  /-- DRAM rows that spare rows stand in for, those of the defect map included: channel, pseudo-channel, bank, DRAM row (R258). -/
  repaired : List (Nat × Nat × Nat × Nat)
  failed : BitVec 16
  /-- Corrections in the present patrol pass by channel (R258). -/
  passCorr : Sparse Nat
  /-- Next patrol burst by pseudo-channel number 2 x channel + pseudo (R257). -/
  patrol : Sparse Nat
  /-- Refreshes made by bank number (R256). -/
  refreshed : Sparse Nat
  /-- Bursts whose correction is to be verified by their next read, with the bit that was corrected (R350). -/
  verify : List (Nat × Nat)
  running : List Running
  /-- Latest stream to have run on a line, for the cyclic order (R265). -/
  lastStream : Sparse Nat
  /-- The same at the blot point (R302, R357). -/
  blotLast : Sparse Nat
  /-- Granules that hold content moved here which no table names yet: first, number (R364, R365). -/
  reserved : List (Nat × Nat)
  /-- Line in a stall episode (R263). -/
  stalled : List Nat
deriving DecidableEq, Repr

/-- Service, isolation and repair state of a region (R57, R359, R365, R409). -/
structure Service where
  inService : Bool
  withdrawn : Bool
  retired : Bool
  /-- iso_n is low; the clock spine is gated; the switch is open (R409, R410). -/
  isoLow : Bool
  gated : Bool
  switchOpen : Bool
  /-- The region was isolated for a short, and its rail is to be checked at the next boot (R413). -/
  shorted : Bool
  fills : List Fill
  /-- Verify reads owed: logical unit, row, bit (R350). -/
  verify : List (Nat × Nat × Nat)
  /-- Script words corrected, to be verified after the next load: logical unit, word, bit (R350). -/
  scriptVerify : List (Nat × Nat × Nat)
  /-- Logical units to be spared at the next blot point (R350, R365). -/
  planned : List Nat
  /-- Region to be withdrawn at the next blot point (R365, R419). -/
  plannedWithdraw : Bool
  /-- The region has sent its verdict contribution in this attempt (R282). -/
  contributed : Bool
  /-- The region has been restored in this abort (R357). -/
  restored : Bool
  /-- A message with nf has been consumed by the region controller in this step (R282). -/
  msgNf : Bool
  /-- Corrected flits of this step by port: the local unit, or 320 and more for other ports (R349). -/
  flits : Sparse Nat
  /-- Ports whose corrected flits call for their test at the next blot point (R349, R350). -/
  portTests : List TestTarget
deriving DecidableEq, Repr

def Region.reset : Region :=
  { p1 := [], sync := [], waiters := [], epochs := [], ifEpochs := [], epochWaits := [], nodes := [], heldIn := [],
    heldEpisode := false, combine := [], writing := [], wtag := 0, route := [], detour := none, portOff := 0, steered := [], blot := [] }

def Well.reset : Well :=
  { rows := [], ident := 0, repaired := [], failed := 0, passCorr := [], patrol := [], refreshed := [], verify := [],
    running := [], lastStream := [], blotLast := [], reserved := [], stalled := [] }

def Service.reset : Service :=
  { inService := false, withdrawn := false, retired := false, isoLow := false, gated := false, switchOpen := false, shorted := false,
    fills := [], verify := [], scriptVerify := [], planned := [], plannedWithdraw := false, contributed := false,
    restored := false, msgNf := false, flits := [], portTests := [] }

/-- The cold-reset value of page 1 register `i` (Tables ORG-5 to STP-5): row maps name their own columns, the slip
threshold is 2^20, hold_window 32, corr_threshold 16; the rest is zero. -/
def p1Reset (i : Nat) : Word :=
  if i < 80 then 0o3210 else if i = 4224 then 0o4000000 else if i = 5571 then 0o40 else if i = 14386 then 0o20 else 0

/-! ### Clusters (spec/15) -/

/-- A cluster: its ACLK count and the floors of its divider (R82, R415). -/
structure Cluster where
  /-- ACLK cycles counted up to root cycle `cycRoot`; from there one more every `div` root cycles. -/
  cycBase : Nat
  cycRoot : Nat
  div : Nat
  thermalFloor : Nat
  phaseFloor : Nat
  planDiv : Nat
  planCode : Nat
  /-- The clock is gated: it stands at `cycBase` (R407, R410). -/
  stopped : Bool
  /-- Root cycle up to which a droop stretches each period by one root cycle (R408). -/
  stretched : Nat
  /-- A divider that waits for its frame boundary (R416). -/
  newDiv : Option Nat
  /-- Root cycle of the latest step of the thermal floor (R420). -/
  floorStep : Option Nat
  /-- Root cycle of the latest reading of 90 °C or more, and of the latest step back (R420). -/
  hotAt : Option Nat
  backAt : Option Nat
  /-- Highest reading of the present hour, and of the last 500 hours, latest first (R424, R425). -/
  hourPeak : Nat
  peaks : List Nat
  slackMxa : Int
  slackSpd : Int
  /-- Slack readings of the present hour: their sum, how many, and the least (R424). -/
  slackSum : Int
  slackNum : Nat
  slackMin : Int
  /-- Phases latched off until cold reset (R406). -/
  lost : BitVec 8
deriving DecidableEq, Repr

/-- A cluster at cold reset: PWR_CLUSTER div_cur resets to 6 (Table PWR-7). -/
def Cluster.reset : Cluster :=
  { cycBase := 0, cycRoot := 0, div := 6, thermalFloor := 4, phaseFloor := 4, planDiv := 4, planCode := 0,
    stopped := false, stretched := 0, newDiv := none, floorStep := none, hotAt := none, backAt := none, hourPeak := 0, peaks := [], slackMxa := 0, slackSpd := 0, slackSum := 0,
    slackNum := 0, slackMin := 0, lost := 0 }

/-! ### Step sequencer (spec/10, spec/11, spec/13) -/

/-- The schedule state (Table STP-1). -/
structure Schedule where
  step : Word64
  jobSeed : Word64
  scaleExp : BitVec 36
  scaleMin : BitVec 9
  scaleMax : BitVec 9
  cleanCount : BitVec 24
  cleanLimit : BitVec 24
  skipRun : BitVec 12
  skipLimit : BitVec 12
  updCount : BitVec 36
  inputCursor : Word64
  jobRingPos : BitVec 36
deriving DecidableEq, Repr

def Schedule.reset : Schedule :=
  { step := 0, jobSeed := 0, scaleExp := 0, scaleMin := 0, scaleMax := 0, cleanCount := 0, cleanLimit := 0,
    skipRun := 0, skipLimit := 0, updCount := 0, inputCursor := 0, jobRingPos := 0 }

/-- A step-aborting code reported to the sequencer (R353): code, logical unit (16,383 for none), hand, pc, and the
test of Table FLT-2 that it calls for. -/
structure Cause where
  code : BitVec 12
  unit : Nat
  hand : Nat
  pc : Word
  test : Option TestTarget
deriving DecidableEq, Repr

/-- A request the sequencer keeps until its target step (R312, R371): ring, target step, host address, room. -/
structure Target where
  ring : Nat
  index : Nat
  step : Word64
  addr : BitVec 64
  room : Nat
deriving DecidableEq, Repr

/-- The step sequencer. -/
structure Sequencer where
  sched : Schedule
  /-- Phase of Table STP-2. -/
  phase : Nat
  verdict : Bool
  /-- Aborts of the present step (R358). -/
  aborts : Nat
  abortState : Nat
  /-- Codes reported and not yet acted on (R353). -/
  reported : List Cause
  /-- Errors recorded since the last blot point that wait for their test (R348, R356). -/
  tests : List TestTarget
  /-- The job faults of this attempt, and of the previous one (R358). -/
  faults : List Cause
  lastFaults : List Cause
  /-- Structures in which an error has been found while their test is due (Table FLT-7). -/
  failing : List TestTarget
  /-- The module has drained in the abort in progress (R355, R356). -/
  drained : Bool
  /-- Blocks of lost wells that are to be made again: shard, block, and whether it is the block's working weights (R364). -/
  recreate : List (Nat × Nat × Bool)
  /-- The commit has been decided and waits for the banks that its write-back reads: the checks of its reads (R293). -/
  commitDue : Option Errs
  /-- Owned shards of which a new partner makes its carbon, and the digests of their owner areas (R368). -/
  newPartners : List Nat
  ownerDigests : List (Nat × List Octet)
  /-- This node has sent ABORT_UP after its READY_UP, and the root has not decided (R339). -/
  abortSent : Bool
  /-- The abort began in the Blot phase after the commit; it ends there (R312, R371). -/
  tailAbort : Bool
  /-- k5 and k7 of the present update, once the verdict is clean (R287). -/
  consts : Option (Word × Word)
  replan : Bool
  /-- The subject of a module loss, and that a redistribute is awaited (R335, R366). -/
  lost : List Nat
  /-- Carried sync objects and the values read at the blot point (R291). -/
  carried : List (Nat × Nat × Word)
  /-- Snapshot granules held: shard and rows (R290, R292, R367). -/
  snapshots : List (Nat × List Row)
  /-- Snapshot granules received in this step (R292). -/
  snapIn : List (Nat × List Row)
  /-- Units whose script image a table set has changed since their last load (R357). -/
  scripts : List Nat
  /-- Owner blocks updated in this step, and where the scratchpad holds their new state: shard, block, unit, first row (R288). -/
  updated : List (Nat × Nat × Nat × Nat)
  /-- Snapshots sent in this step (R290). -/
  sentSnap : List Nat
  /-- Trailer granules received, and where the scratchpad holds them: shard, block, gkind, unit, first row (R292, R332). -/
  trailers : List (Nat × Nat × Nat × Nat × Nat)
  digests : List Target
  /-- Those that have been answered at this blot point (R312). -/
  digested : List Target
  checkpoints : List Target
  /-- A checkpoint transfer holds the next open (R371). -/
  transfer : Option Target
  /-- The present attempt has reported ready (R292, R339). -/
  readySent : Bool
  /-- Commit actions done up to this number; 5 while held (R293, R378). -/
  committed : Nat
  /-- The code of the stop that follows the present commit (R285, R391): 0 for STOP. -/
  stopAfter : Option Nat
  held : Bool
  running : Bool
  /-- Shards whose new carbon has not been accepted, and whether its copy has failed once (R368). -/
  carbons : List (Nat × Bool)
  /-- Regions whose well's contents have been lost since the last blot point (R364). -/
  lostWells : List Nat
  /-- Owner blocks that the write-back could not read, to be taken from the partner's carbon: shard and block (Table FLT-7). -/
  refetch : List (Nat × Nat)
  /-- A RESTORE that waits for weight granules of other modules: ring and index (R372). -/
  restoring : Option (Nat × Nat)
deriving DecidableEq, Repr

def Sequencer.reset : Sequencer :=
  { sched := Schedule.reset, phase := 0, verdict := false, aborts := 0, abortState := 0, reported := [], tests := [],
    faults := [], lastFaults := [], failing := [], drained := false, recreate := [], commitDue := none, newPartners := [],
    ownerDigests := [], abortSent := false, tailAbort := false, consts := none, replan := false, lost := [], carried := [], snapshots := [], snapIn := [], scripts := [], updated := [], sentSnap := [],
    trailers := [], digests := [], digested := [], checkpoints := [], transfer := none, readySent := false, committed := 0,
    stopAfter := none, held := false, running := false, carbons := [],
    lostWells := [], refetch := [], restoring := none }

/-! ### Links and system tables (spec/12) -/

/-- A link engine (R313-R326). -/
structure Link where
  /-- Next number to send, oldest unacknowledged, and the flits between (R318). -/
  txSeq : BitVec 12
  txAcked : BitVec 12
  buffer : List Flit
  /-- Flits that wait for a credit, the window or the link. -/
  queue : List Flit
  /-- Number expected next, and whether a retry episode is open (R319). -/
  rxNext : BitVec 12
  nakOpen : Bool
  /-- Replays of the oldest flit without acceptance (R320). -/
  replays : Nat
  /-- Credits held by link virtual channel, and of the shared pool (R322). -/
  floors : Sparse Nat
  shared : Nat
  starved : BitVec 8
  /-- Transmit lane map as LNK_LANEMAP; lanes retired or under test per direction (R324). -/
  txMap : BitVec 32
  txRetired : BitVec 9
  rxRetired : BitVec 9
  testing : List Nat
  /-- Suspect receive lanes. -/
  suspect : BitVec 9
  /-- Octets corrected in the last millisecond: physical lane, root-PLL cycle, number (R316, R324). -/
  corrected : List (Nat × Nat × Nat)
  /-- HELLO accepted by this end and by the peer (R334). -/
  helloIn : Bool
  helloOut : Bool
deriving DecidableEq, Repr

/-- A link at cold reset: full credits, the default lane map (R313, R322). -/
def Link.reset : Link :=
  { txSeq := 0, txAcked := 0, buffer := [], queue := [], rxNext := 0, nakOpen := false, replays := 0, floors := [], shared := 1536,
    starved := 0, txMap := 0x76543210, txRetired := 0, rxRetired := 0, testing := [], suspect := 0, corrected := [],
    helloIn := false, helloOut := false }

/-- A roster entry (R333). -/
structure RosterEntry where
  serial : BitVec 64
  detClass : BitVec 16
  state : Nat
deriving DecidableEq, Repr

def RosterEntry.reset : RosterEntry := { serial := 0, detClass := 0, state := 0 }

/-- A landing entry (Table LNK-6) as its four words. -/
structure Landing where
  w0 : Word
  w1 : Word
  w2 : Word
  w3 : Word
deriving DecidableEq, Repr

def Landing.reset : Landing := { w0 := 0, w1 := 0, w2 := 0, w3 := 0 }

/-- A window entry (R330). -/
structure Window where
  region : Nat
  first : Nat
  count : Nat
  writable : Bool
deriving DecidableEq, Repr

/-- A shard entry (R342). -/
structure Shard where
  owner : Nat
  partner : Nat
  valid : Bool
deriving DecidableEq, Repr

def Shard.reset : Shard := { owner := 0, partner := 0, valid := false }

/-- A tree of the system path (R336). -/
structure Tree where
  parent : Nat
  children : BitVec 24
deriving DecidableEq, Repr

/-- A remote read or write that another module asked of this one (R329): the requester and its tag, the tag of the messages
on the wafer, the region, the first well row and the number of rows, and the rows that have been read, by well row. -/
structure Served where
  src : Nat
  tag : Nat
  wtag : Nat
  region : Nat
  first : Nat
  count : Nat
  rows : List (Nat × Row)
deriving DecidableEq, Repr

/-- A weight packet granule whose write a link engine has sent to its place (R332): the tag of the write, what it is, the region that
counts it, and for a trailer the unit and the first row. -/
structure Landed where
  tag : Nat
  shard : Nat
  block : Nat
  gkind : Nat
  region : Nat
  unit : Nat
  row : Nat
deriving DecidableEq, Repr

/-- The system control block and the tables the runtime loads (R327-R342). -/
structure Sys where
  route : Sparse (BitVec 25)
  mcast : Sparse (BitVec 26)
  landing : Sparse Landing
  window : Sparse (Option Window)
  roster : Sparse RosterEntry
  pendingRoster : Option (Sparse RosterEntry)
  pendingGen : BitVec 16
  shards : Sparse Shard
  primary : Tree
  deputy : Tree
  /-- The module's own verdict bit and the children's, by link: bit and count (R338). -/
  ownBit : Option Bool
  verdicts : List (Nat × Bool × Nat)
  ownReady : Bool
  readies : List (Nat × Nat)
  /-- The root has the full ready count (R339). -/
  committed : Bool
  /-- The ttl_init in force, while the register holds one that takes effect at the next open (R6, R458). -/
  newTtl : Option (BitVec 5)
  /-- Tables of REDISTRIBUTE that wait for commit action 4 (R391, R392), with their ring and index. -/
  tables : List (Nat × Nat × List TableRec)
  /-- Remote reads that other modules asked of this one (R329). -/
  served : List Served
  /-- Granules that are being landed (R332). -/
  granules : List Landed
  /-- Requests that link engines have sent to other modules, by the tag that the flit carries (R328, R329). -/
  remote : List (Nat × Msg)
  /-- Modules whose loss has gone up from here since the step opened (R335, R340). -/
  lossUp : List Nat
deriving DecidableEq, Repr

def Sys.reset : Sys :=
  { route := [], mcast := [], landing := [], window := [], roster := [], pendingRoster := none, pendingGen := 0,
    shards := [], primary := ⟨31, 0⟩, deputy := ⟨31, 0⟩, ownBit := none, verdicts := [], ownReady := false,
    readies := [], committed := false, newTtl := none, tables := [], served := [], granules := [], remote := [], lossUp := [] }

/-! ### Host engine (spec/14) -/

/-- How far a copy has got while it waits at a bank: pieces done, nonets moved, containers with non-zero high bits, its nf, and the row
that a merge has read (R387, R388, R202); and the nonets read of the present row, which go to the host together. -/
structure Copied where
  pieces : Nat
  moved : Nat
  dirty : Nat
  nf : Bool
  held : Option (Row × Bool)
  out : List Nat
deriving DecidableEq, Repr

def Copied.none : Copied := { pieces := 0, moved := 0, dirty := 0, nf := false, held := Option.none, out := [] }

/-- A descriptor taken from a ring: its slot, its octets, and once it has completed its status, attribute and result
(R390, R393). -/
structure Taken where
  index : Nat
  octets : List Octet
  finished : Option (BitVec 12 × Bool × BitVec 64)
  copied : Copied := Copied.none
deriving DecidableEq, Repr

/-- A command ring beyond its registers (R382-R393). -/
structure Ring where
  taken : List Taken
  /-- Phase bit of the pass, next completion slot. -/
  phase : Bool
  cplSlot : Nat
  /-- irq completions since the last interrupt, and whether the timer runs (R393). -/
  irqs : Nat
  timer : Bool
deriving DecidableEq, Repr

def Ring.reset : Ring := { taken := [], phase := true, cplSlot := 0, irqs := 0, timer := false }

/-- An event ring beyond its registers (R394, R395). -/
structure EvRing where
  phase : Bool
  /-- Records dropped since the last 0x072. -/
  dropped : Nat
deriving DecidableEq, Repr

def EvRing.reset : EvRing := { phase := true, dropped := 0 }

/-- An event record on its way to the host event rings (Table HST-10). -/
structure EvRec where
  code : BitVec 12
  source : Nat
  region : Nat
  subject : Nat
  step : Word64
  hclk : Nat
  detail : BitVec 64
deriving DecidableEq, Repr

/-- The host engine. -/
structure HostEng where
  rings : Sparse Ring
  evRings : Sparse EvRing
  /-- Records raised and not yet offered to the event rings (R394). -/
  events : List EvRec
  d3 : Bool
  fnMask : Bool
  image : Option JobImage
  /-- Boot is complete: configuration requests are answered (R376). -/
  ready : Bool
  /-- Configuration words that have been written, by word address (R375). -/
  config : Sparse Reg32
  /-- Copies in flight at a reset of the function, which complete internally (R378). -/
  draining : List Taken
deriving DecidableEq, Repr

def HostEng.reset : HostEng :=
  { rings := [], evRings := [], events := [], d3 := false, fnMask := false, image := none, ready := false,
    config := [], draining := [] }

/-! ### Power (spec/15) -/

/-- Sources, interlock and module-wide limits (R399-R402, R422). -/
structure Power where
  feedA : Bool
  feedB : Bool
  service : Bool
  /-- What the interlock has connected: 0 none, 1 feeds, 2 service rail. -/
  connected : Nat
  heldOff : Bool
  /-- The power monitor's fault log (R402). -/
  faultLog : List Nat
  capFloor : Nat
  peakFloor : Nat
  /-- A margin plan that waits for the next blot point: cluster, divider, code; divider 0 retires (R425, R426). -/
  plan : Option (List (Nat × Nat × Nat))
  /-- Clusters a plan retires at the next blot point (R425). -/
  retire : List Nat
  /-- Regions to be powered under the service rail (R404). -/
  svcRegions : List Nat
deriving DecidableEq, Repr

def Power.reset : Power :=
  { feedA := false, feedB := false, service := false, connected := 0, heldOff := false, faultLog := [], capFloor := 4,
    peakFloor := 4, plan := none, retire := [], svcRegions := [] }

/-! ### Management (spec/16) -/

/-- A signed record (Table MGT-3). -/
structure FlashRec where
  kind : BitVec 16
  superseded : Bool
  seq : Nat
  payload : List Octet
  key : Nat
  sig : BitVec 512
  /-- HCLK count when it was written (R445). -/
  written : Nat
deriving DecidableEq, Repr

/-- A firmware image in flash: release, class, digest; none for an empty slot (R440). -/
structure Image where
  release : BitVec 16
  detClass : BitVec 16
  digest : BitVec 256
  octets : List Octet
deriving DecidableEq, Repr

/-- A controller's flash: boot header, images, records (Table MGT-2). -/
structure Flash where
  active : Bool
  trial : Bool
  hdrSeq : Nat
  imageA : Option Image
  imageB : Option Image
  factory : List FlashRec
  notes : List FlashRec
  retiredBlocks : Nat
  /-- The next boot goes back to the other slot (R449). -/
  revert : Bool
deriving DecidableEq, Repr

def Flash.reset : Flash :=
  { active := false, trial := false, hdrSeq := 0, imageA := none, imageB := none, factory := [], notes := [],
    retiredBlocks := 0, revert := false }

/-- ROM recovery of one controller (R438). -/
structure Recovery where
  state : Nat
  length : Nat
  octets : List Octet
  status : BitVec 16
  /-- A recovered image waits for its first boot (0x069). -/
  fresh : Bool
deriving DecidableEq, Repr

def Recovery.reset : Recovery := { state := 0, length := 0, octets := [], status := 0, fresh := false }

/-- The SPDM responder (R447). -/
structure Spdm where
  /-- How far the connection has got: 0 none, 1 version, 2 capabilities, 3 algorithms. -/
  stage : Nat
  session : Bool
  secured : Bool
  /-- Messages exchanged, hashed by later signatures, and a counter for nonces. -/
  count : Nat
  ideKeys : List (List Octet)
  ideActive : Bool
  /-- A handover has ended the connection: requests are answered RequestResynch (R434). -/
  resynch : Bool
deriving DecidableEq, Repr

def Spdm.reset : Spdm :=
  { stage := 0, session := false, secured := false, count := 0, ideKeys := [], ideActive := false, resynch := false }

/-- The management controllers. -/
structure Mgmt where
  flashA : Flash
  flashB : Flash
  recA : Recovery
  recB : Recovery
  /-- The ring's pen journal: work in progress and records not yet mirrored (R434, R443). -/
  journal : List FlashRec
  /-- The follower's previous sample of hb_count, and MGT_PEN as it last read it (R431). -/
  sample : Option (BitVec 16)
  seenPen : Reg32
  /-- HCLK cycles of operation before the module was last powered (R426). -/
  served : Nat
  spdm : Spdm
  staged : Option Image
  identity : Bool
  noteSeq : Nat
  /-- Targeted tests passed, with the HCLK count of each (R351). -/
  history : List (Nat × TestTarget)
  jobDigest : BitVec 256
deriving DecidableEq, Repr

def Mgmt.reset : Mgmt :=
  { flashA := Flash.reset, flashB := Flash.reset, recA := Recovery.reset, recB := Recovery.reset, journal := [],
    sample := none, seenPen := 0, served := 0, spdm := Spdm.reset, staged := none, identity := false, noteSeq := 0, history := [], jobDigest := 0 }

/-- The cold-reset value of the BAR0 register at a 4-byte offset (Tables HST-3, REG-5, PWR-7, LNK-8). A field whose
reset is "–" reads zero until boot loads it (log 12). -/
def barReset (off : Nat) : Reg32 :=
  if off = 0 then 0x00004816
  else if off = 0x10 then 0x000003E8
  else if 0x8000 ≤ off ∧ off < 0x8400 ∧ off % 16 = 12 then 1
  else if off = 0x1000C then 0x5DC00000
  else if 0x11000 ≤ off ∧ off < 0x12E00 ∧ off % 8 = 0 then 6
  else if 0x30000 ≤ off ∧ off < 0x30600 ∧ off % 64 = 0 then 0x00000100
  else if 0x30000 ≤ off ∧ off < 0x30600 ∧ off % 64 = 8 then 0x76543210
  else if off = 0x30808 then 0x00000010
  else 0

/-! ### The whole module -/

/-- What has left the module. -/
inductive Out where
  /-- An MSI-X message: address and data (R462). -/
  | msix (vector : Nat) (addr : BitVec 64) (data : Reg32)
  /-- Completion of a configuration request: retry status, or a value (R376). -/
  | config (retry : Bool) (value : Reg32)
  /-- Unsupported Request answer to a BAR0 access (R453). -/
  | unsupported
  /-- An on-wafer message handed to a ring agent or link engine (R45). -/
  | message (m : Msg)
  /-- A flit sent on a link. -/
  | flit (link : Nat) (f : Flit)
  /-- An SPDM response: response code and octets (R447). -/
  | spdm (code : Nat) (octets : List Octet)
  /-- The value found by a compare-and-set of MGT_PEN (R430). -/
  | pen (found : Reg32)
  /-- An MCTP recovery response (R438). -/
  | mctp (octets : List Octet)
deriving DecidableEq, Repr

/-- The state of the module. -/
structure State where
  /-- Commands that wait, first in first out. -/
  pending : List Instr
  /-- Root-PLL cycles since cold reset (R414). -/
  root : Nat
  units : Sparse Unit
  regions : Sparse Region
  wells : Sparse Well
  service : Sparse Service
  clusters : Sparse Cluster
  links : Sparse Link
  bar0 : Sparse Reg32
  seq : Sequencer
  sys : Sys
  host : HostEng
  power : Power
  mgmt : Mgmt
  /-- Messages in flight on the wafer network, oldest first. -/
  net : List Msg
  out : List Out
  hostMem : Sparse Octet
deriving DecidableEq, Repr

/-- The module at cold reset. -/
def State.reset : State :=
  { pending := [], root := 0, units := [], regions := [], wells := [], service := [], clusters := [], links := [],
    bar0 := [], seq := Sequencer.reset, sys := Sys.reset, host := HostEng.reset, power := Power.reset,
    mgmt := Mgmt.reset, net := [], out := [], hostMem := [] }

/-- Why the block stops with a fault. -/
inductive Fault where
  /-- A command names a unit, region, bank, hand, link, ring, cluster or die that the module does not have (R1, R41,
  R46). Raised by every meaning that takes such a number. Safe: no such command can reach the hardware. -/
  | noSuchStructure
deriving DecidableEq, Repr

/-- Why the block refuses a command. -/
inductive Refusal where
  /-- The row of that mnemonic has no meaning yet; raised by its arm of `exec`. Safe. -/
  | notModelled (mnemonic : String)
deriving DecidableEq, Repr

end Sys2Proof.Machine
end

