-- ==== Sys2Proof/Machine/Ops.lean ====
section
/-! DEFINITION. The named operations that the families share: access to units, regions, wells, clusters and the
register files, bit fields, the clocks, events and the stop of a unit's hands. -/

namespace Sys2Proof.Machine

/-- What a meaning answers. -/
abbrev Res := Host.Outcome State Fault Refusal

/-! ### Parts of the state -/

def State.unit (s : State) (u : Nat) : Unit := s.units.get Unit.reset u
def State.setUnit (s : State) (u : Nat) (x : Unit) : State := { s with units := s.units.set Unit.reset u x }
def State.updUnit (s : State) (u : Nat) (f : Unit → Unit) : State := s.setUnit u (f (s.unit u))

def State.region (s : State) (r : Nat) : Region := s.regions.get Region.reset r
def State.setRegion (s : State) (r : Nat) (x : Region) : State :=
  { s with regions := s.regions.set Region.reset r x }
def State.updRegion (s : State) (r : Nat) (f : Region → Region) : State := s.setRegion r (f (s.region r))

def State.well (s : State) (r : Nat) : Well := s.wells.get Well.reset r
def State.setWell (s : State) (r : Nat) (x : Well) : State := { s with wells := s.wells.set Well.reset r x }
def State.updWell (s : State) (r : Nat) (f : Well → Well) : State := s.setWell r (f (s.well r))

def State.svc (s : State) (r : Nat) : Service := s.service.get Service.reset r
def State.setSvc (s : State) (r : Nat) (x : Service) : State := { s with service := s.service.set Service.reset r x }
def State.updSvc (s : State) (r : Nat) (f : Service → Service) : State := s.setSvc r (f (s.svc r))

def State.cluster (s : State) (c : Nat) : Cluster := s.clusters.get Cluster.reset c
def State.setCluster (s : State) (c : Nat) (x : Cluster) : State :=
  { s with clusters := s.clusters.set Cluster.reset c x }
def State.updCluster (s : State) (c : Nat) (f : Cluster → Cluster) : State := s.setCluster c (f (s.cluster c))

def State.link (s : State) (l : Nat) : Link := s.links.get Link.reset l
def State.setLink (s : State) (l : Nat) (x : Link) : State := { s with links := s.links.set Link.reset l x }
def State.updLink (s : State) (l : Nat) (f : Link → Link) : State := s.setLink l (f (s.link l))

/-- Page 1 register `i` of region `r` as it is stored. -/
def State.p1 (s : State) (r i : Nat) : Word := (s.region r).p1.get (p1Reset i) i
def State.setP1 (s : State) (r i : Nat) (w : Word) : State :=
  s.updRegion r fun x => { x with p1 := x.p1.set (p1Reset i) i w }
def State.updP1 (s : State) (r i : Nat) (f : Word → Word) : State := s.setP1 r i (f (s.p1 r i))

/-- BAR0 register at byte offset `off` as it is stored. -/
def State.bar (s : State) (off : Nat) : Reg32 := s.bar0.get (barReset off) off
def State.setBar (s : State) (off : Nat) (w : Reg32) : State := { s with bar0 := s.bar0.set (barReset off) off w }
def State.updBar (s : State) (off : Nat) (f : Reg32 → Reg32) : State := s.setBar off (f (s.bar off))

/-- Sets bit `b` of page 1 register `i` of region `r`. -/
def State.seeP1 (s : State) (r i b : Nat) : State := s.updP1 r i fun w => putField w b 1 1
/-- Sets bit `b` of a BAR0 register. -/
def State.seeBar (s : State) (off b : Nat) : State := s.updBar off fun w => putField w b 1 1

def Unit.hand (x : Unit) (h : Nat) : Hand := x.hands.get Hand.reset h
def Unit.setHand (x : Unit) (h : Nat) (y : Hand) : Unit := { x with hands := x.hands.set Hand.reset h y }
def Unit.updHand (x : Unit) (h : Nat) (f : Hand → Hand) : Unit := x.setHand h (f (x.hand h))
def Unit.cell (x : Unit) (q : Nat) : Cell := x.rows.get Cell.reset q
def Unit.setCell (x : Unit) (q : Nat) (c : Cell) : Unit := { x with rows := x.rows.set Cell.reset q c }
def Unit.bank (x : Unit) (b : Nat) : Bank := x.banks.get Bank.reset b
def Unit.setBank (x : Unit) (b : Nat) (y : Bank) : Unit := { x with banks := x.banks.set Bank.reset b y }

/-- A word register; w0 reads as zero (R96). -/
def Hand.reg (h : Hand) (r : Nat) : Word := if r = 0 then 0 else h.w.get 0 r
/-- Writes a word register; writes to w0 are discarded (R96). The register is ready. -/
def Hand.setReg (h : Hand) (r : Nat) (v : Word) : Hand :=
  if r = 0 then h else { h with w := h.w.set 0 r v, ready := putField h.ready r 1 1 }
/-- Writes a word register whose value can be used from ACLK cycle `c` on (R97, R105). -/
def Hand.setLate (h : Hand) (r : Nat) (v : Word) (c : Nat) : Hand :=
  if r = 0 then h
  else { h with w := h.w.set 0 r v, ready := putField h.ready r 1 0, due := h.due.filter (fun p => p.1 != r) ++ [(r, c)] }
/-- The ready bits of the values that can be used in cycle `c` set (R97). -/
def Hand.mature (h : Hand) (c : Nat) : Hand :=
  { h with
    ready := (h.due.filter fun p => decide (p.2 ≤ c)).foldl (fun b p => putField b p.1 1 1) h.ready
    due := h.due.filter fun p => decide (c < p.2) }
/-- Clears a register's ready bit; that of w0 is always set (R97). -/
def Hand.unready (h : Hand) (r : Nat) : Hand := if r = 0 then h else { h with ready := putField h.ready r 1 0 }
/-- An address base. -/
def Hand.base (h : Hand) (r : Nat) : WAddr := h.a.get 0 r
def Hand.setBase (h : Hand) (r : Nat) (v : WAddr) : Hand := { h with a := h.a.set 0 r v }

/-! ### Numbers of structures (R41, R46) -/

def regionOf (u : Nat) : Nat := u / 320
def clusterOf (u : Nat) : Nat := u / 16

/-- The row map register of a unit: its page 1 index (R49). -/
def rowMapIndex (u : Nat) : Nat := u % 320 / 16 * 4 + u % 16 / 4

/-- The physical column that serves a logical unit; 7 for absent (R49). -/
def State.column (s : State) (u : Nat) : Nat := field (s.p1 (regionOf u) (rowMapIndex u)) (3 * (u % 4)) 3

/-- The cluster is dark: its voltage domain is off (R54, R219, PWR_CLUSTER). -/
def State.dark (s : State) (c : Nat) : Bool := field (s.bar (0x11000 + 8 * c)) 22 1 == 1

/-- No unit serves the logical unit: its row map says so, or its cluster is dark (R49, R54, R219). -/
def State.absent (s : State) (u : Nat) : Bool := s.column u == 7 || s.dark (clusterOf u)

/-- The unit's spare is being filled for this logical unit (R52). -/
def State.filling (s : State) (u : Nat) : Bool :=
  let m := s.p1 (regionOf u) (rowMapIndex u)
  field m 12 2 == 1 && field m 14 2 == u % 4

/-- The role epoch of a logical unit, in its region controller's table (R230). -/
def State.epoch (s : State) (u : Nat) : BitVec 12 := (s.region (regionOf u)).epochs.get 0 u

def scratchRows : Nat := 49152
def scratchNonets : Nat := 3145728

/-! ### Clocks (R5, R82, R394, R415) -/

/-- ACLK cycles of a cluster that have passed by root cycle `now`: a gated clock stands, and while a droop lasts each period is one root
cycle longer (R407, R408, R410). -/
def Cluster.cycles (k : Cluster) (now : Nat) : Nat :=
  if k.stopped then k.cycBase
  else
    let long := min now k.stretched
    k.cycBase + (long - k.cycRoot) / (k.div + 1) + (now - max k.cycRoot k.stretched) / k.div

/-- ACLK cycles of a cluster since cold reset. -/
def State.aclkOf (s : State) (c : Nat) : Nat := (s.cluster c).cycles s.root

/-- The cycle counter of a unit, 64 bits (R82). -/
def State.cycle (s : State) (u : Nat) : Word64 := BitVec.ofNat 64 (s.aclkOf (clusterOf u))

/-- HCLK cycles since cold reset; HCLK is the root clock divided by 72. -/
def State.hclk (s : State) : Nat := s.root / 72

/-- HCLK cycles of operation in the module's life, which field notes and the history of tests count in (R351, R413, R426, R445). -/
def State.operating (s : State) : Nat := s.mgmt.served + s.hclk

/-! ### Well and network summaries (R463-R465) -/

def welReg (r off : Nat) : Nat := 0x40000 + 0x20 * r + off
def netReg (r off : Nat) : Nat := 0x50000 + 0x20 * r + off

/-- A sum of channel fields, saturating at a width. -/
def State.chanSum (s : State) (r k lo len width : Nat) : Nat :=
  min (2 ^ width - 1) (((List.range 16).map fun c => field (s.p1 r (14352 + 2 * c + k)) lo len).sum)
/-- A channel bit is set. -/
def State.chanAny (s : State) (r k b : Nat) : Bool := (List.range 16).any fun c => field (s.p1 r (14352 + 2 * c + k)) b 1 == 1

/-- The well summary of a region in service (Table REG-6). -/
def State.welRefresh (s : State) (r : Nat) : State :=
  let id (i : Nat) : Nat := field (s.p1 r (14336 + i)) 0 32
  let reg (off v : Nat) (t : State) : State := t.setBar (welReg r off) (BitVec.ofNat 32 v)
  let trained := ((List.range 16).map fun c => field (s.p1 r (14353 + 2 * c)) 10 1 * 2 ^ c).sum
  let w := s.p1 r 14385
  let sts := trained + field w 2 1 * 2 ^ 16 + 2 ^ 17 + field w 1 1 * 2 ^ 18 + field w 0 1 * 2 ^ 19
  let seen := (s.chanAny r 0 32).toNat + 2 * (s.chanAny r 0 33).toNat + 4 * (s.chanAny r 1 12).toNat +
    8 * field (s.p1 r 14388) 20 1 + id 3 / 2 ^ 8 % 2 ^ 8 * 2 ^ 8
  reg 0 (id 0) (reg 4 (id 1) (reg 8 sts (reg 0xC (id 3 / 2 ^ 16 + s.chanSum r 1 0 10 14 * 2 ^ 16)
    (reg 0x10 (s.chanSum r 0 0 24 32) (reg 0x14 (s.chanSum r 0 24 8 16 + (s.well r).failed.toNat * 2 ^ 16)
      (reg 0x18 seen (reg 0x1C (field (s.p1 r 14387) 0 32) s)))))))

/-- The network summary of a region in service, but for its route word (Table REG-8). -/
def State.netRefresh (s : State) (r : Nat) : State :=
  let f (i lo len : Nat) : Nat := field (s.p1 r i) lo len
  let reg (off v : Nat) (t : State) : State := t.setBar (netReg r off) (BitVec.ofNat 32 v)
  reg 0 (f 5568 24 11 + f 5569 0 16 * 2 ^ 16) (reg 4 (f 5568 0 24)
    (reg 8 (f 5570 11 12 + f 5570 0 6 * 2 ^ 12 + f 5570 6 3 * 2 ^ 18 + f 5570 9 2 * 2 ^ 21 + f 5570 23 2 * 2 ^ 23)
      (reg 0xC (f 5572 0 32) (reg 0x10 (f 5573 0 23 + f 5572 32 2 * 2 ^ 23) (reg 0x14 (f 5573 23 13 + f 5571 0 8 * 2 ^ 13) s)))))

/-- A region's summaries; one that is not in service keeps its last values with in_service cleared. -/
def State.summarise (s : State) (r : Nat) : State :=
  let on := (s.svc r).inService
  let s1 := if on then (s.welRefresh r).netRefresh r else s.updBar (welReg r 8) fun w => putField w 17 1 0
  s1.updBar (0x40800 + 4 * (r / 32)) fun w => putField w (r % 32) 1 on.toNat

/-- Codes of events that a summary field records. -/
def summarised (code : Nat) : Bool :=
  [0x027, 0x028, 0x029, 0x031, 0x032, 0x033, 0x034, 0x226, 0x227, 0x228, 0x229, 0x22D, 0x306, 0x307, 0x308].contains code

/-! ### Events (R56, R394) -/

/-- Sources of an event record (Table HST-10). -/
def srcRegion : Nat := 0
def srcSequencer : Nat := 1
def srcLink : Nat := 2
def srcHost : Nat := 3
def srcManagement : Nat := 4

/-- A record forwarded to the host engine. -/
def State.forward (s : State) (e : EvRec) : State := { s with host := { s.host with events := s.host.events ++ [e] } }

/-- The record of an event raised now. -/
def State.evRec (s : State) (src code region subject detail : Nat) : EvRec :=
  { code := BitVec.ofNat 12 code, source := src, region := region, subject := subject, step := s.seq.sched.step,
    hclk := s.hclk, detail := BitVec.ofNat 64 detail }

/-- Writes a record into a region's event ring (R56, Table ORG-10). -/
def State.ringWrite (s : State) (r src code subject detail : Nat) : State :=
  let slot := field (s.p1 r 5574) 0 7
  let i := 5632 + 4 * slot
  let full := field (s.p1 r i) 29 1 == 1
  let s1 := if full then s.updP1 r 5575 fun w => bumpField w 0 16 else s
  let s2 := s1.updP1 r 5574 fun w => putField (bumpField w 7 24) 0 7 (slot + 1)
  let s3 := s2.setP1 r i (wd (code % 4096 + (subject % 16384) * 2 ^ 12 + src * 2 ^ 26 + 2 ^ 29))
  let s4 := s3.setP1 r (i + 1) (s.seq.sched.step.setWidth 36)
  let s5 := s4.setP1 r (i + 2) (wd s.hclk)
  s5.setP1 r (i + 3) (wd detail)

/-- A region controller's event: its ring, and the same record to the host engine (R56). Subject 16,383 is none, which
a host record shows as 0xFFFF. The summaries that record the code are refreshed (R465). -/
def State.raise (s : State) (r code subject detail : Nat) : State :=
  let t := (s.ringWrite r srcRegion code subject detail).forward
    (s.evRec srcRegion code r (if subject = 16383 then 0xFFFF else subject) detail)
  if summarised code then t.summarise r else t

/-- An event of the sequencer, a link engine, the host engine or a management controller (R394): no region. -/
def State.raiseFrom (s : State) (src code subject detail : Nat) : State :=
  s.forward (s.evRec src code 255 subject detail)

/-- No subject in a region's event. -/
def noSubject : Nat := 16383

/-- An event of a unit, with its register word as detail (R56). -/
def State.raiseUnit (s : State) (u code detail : Nat) : State := s.raise (regionOf u) code u detail

/-- Reports a step-aborting code to the sequencer (R353); a test of Table FLT-2 may go with it (R348). -/
def State.report (s : State) (c : Cause) : State :=
  { s with seq := { s.seq with reported := s.seq.reported ++ [c] } }

/-- The cause of an abort that no hand reports. -/
def causeOf (code unit : Nat) (test : Option TestTarget) : Cause :=
  { code := BitVec.ofNat 12 code, unit := unit, hand := 0, pc := 0, test := test }

/-! ### Stopping a unit's hands (R480) -/

/-- A parked or competing request of one of the unit's hands: port 6, or port 7 with the hand's own number, which the
remote read port carries as 8 x unit + hand. An engine's wide remote reads stay. -/
def Req.ofHandOf (q : Req) (u : Nat) : Bool :=
  (q.acc.port == 6 && q.acc.unit == u) || (q.acc.port == 7 && !q.own && q.acc.agent / 8 == u)

/-- Withdraws the requests of a unit's hands from one bank. -/
def Bank.withdraw (b : Bank) (u : Nat) : Bank :=
  { b with waiting := b.waiting.filter fun q => !q.ofHandOf u, parked := b.parked.filter fun q => !q.ofHandOf u }

/-- Changes all the banks of a unit. -/
def Unit.mapBanks (x : Unit) (f : Bank → Bank) : Unit :=
  (List.range 16).foldl (fun y b => y.setBank b (f (y.bank b))) x

/-- Makes a hand idle: its narrow access is withdrawn; posted SYNCs stand (R114, R480). -/
def Hand.stop (h : Hand) : Hand := { h with st := .idle, narrow := none, reply := none, ready := BitVec.allOnes 32, due := [] }

def Unit.stopHands (x : Unit) : Unit := (List.range 8).foldl (fun y h => y.updHand h Hand.stop) x

/-- The units of a unit's cluster. -/
def clusterMates (u : Nat) : List Nat := (List.range 16).map (u / 16 * 16 + ·)

/-- Every hand of unit `u` becomes idle, and its parked and competing requests are withdrawn wherever in the cluster
they wait (R480). -/
def State.stopHands (s : State) (u : Nat) : State :=
  (clusterMates u).foldl (fun t v => t.updUnit v fun x => x.mapBanks (·.withdraw u)) (s.updUnit u Unit.stopHands)

/-- hand_active of SCR-9 word 2: the hands that are not idle. -/
def Unit.handBits (x : Unit) : Nat :=
  (List.range 8).foldl (fun n h => n + (if (x.hand h).st = .idle then 0 else 2 ^ h)) 0

/-- A page 1 register as a read shows it: the stored word, with the hands that are active (Table SCR-9). The stored word holds
hand_halted, which a stop leaves (R480; DEDUCED, log 25). -/
def State.readP1 (s : State) (r i : Nat) : Word :=
  if 2304 ≤ i ∧ i < 3584 ∧ i % 4 = 2 then putField (s.p1 r i) 0 8 (s.unit (320 * r + (i - 2304) / 4)).handBits
  else if i = 5569 then putField (s.p1 r i) 16 1 0
  else s.p1 r i

/-- The nodes that a region's endpoint holds, with slots_used (R242, R245). -/
def State.setNodes (s : State) (r : Nat) (ns : List Node) : State :=
  (s.updRegion r fun x => { x with nodes := ns }).updP1 r 5573 fun w => putField w 23 13 ns.length

/-! ### Messages -/

/-- A message enters the wafer network behind those in flight (R222). -/
def State.send (s : State) (m : Msg) : State := { s with net := s.net ++ [m] }

/-- A message without content, from unit `u` (Table NET-4). -/
def blankMsg : Msg :=
  { dstRegion := 0, dstUnit := 0, dstKind := 0, vc := 0, type := 0, nf := false, srcRegion := 0, srcUnit := 0,
    srcKind := 0, epoch := 0, tag := 0, srcModule := 0, akind := 0, wa := 0, status := 0, words := [], body := [],
    deadline := 0, hold := 0, nonets := 0 }

/-- The number of an agent that is no unit, at a scratchpad port: its kind (Table NET-4) and its region. -/
def agentNo (kind region : Nat) : Nat := 15360 + kind + 8 * region

/-- The agent number of a message's sender at a mover port: its unit, or that of another kind of agent. -/
def msgAgent (m : Msg) : Nat := if m.srcKind = 0 then m.srcUnit else agentNo m.srcKind m.srcRegion

/-- This module's roster index (LNK_SYS_ID). -/
def State.ownIndex (s : State) : BitVec 12 := BitVec.ofNat 12 (field (s.bar 0x30800) 0 12)

/-- The epoch a unit interface stamps for logical unit `v`, from the table of the sender's cluster (R230). -/
def State.stamp (s : State) (cl v : Nat) : BitVec 12 :=
  (s.region (cl / 20)).ifEpochs.get 0 (cl % 20 * 16384 + v)

/-- The answer to a request message: to its source, with its tag, from the structure it reached (R225, R229). An answer
to a unit carries that unit's epoch, which the table of the answering structure gives; that of a unit to a region controller carries the
sending unit's (R229, R230). -/
def State.answer (s : State) (m : Msg) (vc type status : Nat) (nf : Bool) (words : List Word) (body : List Row) : Msg :=
  { blankMsg with
    dstRegion := m.srcRegion, dstUnit := m.srcUnit, dstKind := m.srcKind, vc := vc, type := type, nf := nf,
    srcRegion := m.dstRegion, srcUnit := if m.dstKind = 0 then m.dstUnit else 0, srcKind := m.dstKind,
    epoch := if m.srcKind = 1 ∧ m.dstKind = 0 then s.stamp (clusterOf m.dstUnit) m.dstUnit
      else if m.srcKind ≠ 0 then 0
      else if m.dstKind = 0 then s.stamp (clusterOf m.dstUnit) m.srcUnit
      else if m.dstKind < 3 then (s.region m.dstRegion).epochs.get 0 m.srcUnit else 0,
    tag := m.tag, srcModule := s.ownIndex, wa := m.wa, status := BitVec.ofNat 12 status, words := words,
    body := body }

/-- The answer to a read or write request: an error response, a read response or a write acknowledgement. -/
def State.answerAccess (s : State) (m : Msg) (status : Nat) (body : List Row) (nf : Bool) : Msg :=
  if status ≠ 0 then s.answer m 2 4 status false [] []
  else if m.type = 0 then s.answer m 2 2 0 nf [] body else s.answer m 2 3 0 false [] []

/-- A sync operation of unit `u` to region `r`, with its address, operand and sop (R225, R229). -/
def State.syncMsg (s : State) (u r : Nat) (wa : WAddr) (tag : BitVec 16) (operand : Word) (sop : Nat) : Msg :=
  { blankMsg with
    dstRegion := r, dstKind := 1, type := 8, srcRegion := regionOf u, srcUnit := u, wa := wa, tag := tag,
    epoch := s.stamp (clusterOf u) u, srcModule := s.ownIndex, words := [0, 0, operand, wd sop] }

/-! ### The stray queue (R231, R232) -/

/-- The head flit of a message (Table NET-4) with a reason code. -/
def headWords (m : Msg) (reason : Nat) : List Word :=
  [wd (m.dstRegion % 64 + m.dstUnit % 2 ^ 14 * 2 ^ 6 + m.dstKind % 8 * 2 ^ 20 + m.vc % 4 * 2 ^ 23 +
      m.body.length % 16 * 2 ^ 25 + m.type % 64 * 2 ^ 29 + m.nf.toNat * 2 ^ 35),
    wd (m.srcRegion % 64 + m.srcUnit % 2 ^ 14 * 2 ^ 6 + m.srcKind % 8 * 2 ^ 20 + m.epoch.toNat * 2 ^ 23),
    wd (m.tag.toNat + m.srcModule.toNat * 2 ^ 16 + reason % 4 * 2 ^ 28 + m.akind % 4 * 2 ^ 32),
    m.wa.setWidth 36,
    wd ((m.wa >>> 36).toNat + m.status.toNat * 2 ^ 12)] ++ (List.range 11).map fun j => m.words.getD j 0

/-- A message is diverted to the stray queue of region `r`. -/
def State.divert (s : State) (r : Nat) (m : Msg) (reason : Nat) : State :=
  let w := s.p1 r 5568
  let fill := field w 24 9
  if 256 ≤ fill then
    let s1 := s.updP1 r 5569 fun v => bumpField v 0 16
    if field w 34 1 = 1 then s1
    else
      let s2 := s1.seeP1 r 5568 34
      s2.raise r 0x033 noSubject (s2.p1 r 5569).toNat
  else
    let s1 := (headWords m reason).zipIdx.foldl (fun t (v, k) => t.setP1 r (10240 + 16 * fill + k) v) s
    let s2 := s1.updP1 r 5568 fun v => putField (bumpField v 0 24) 24 9 (fill + 1)
    if field w 33 1 = 1 then s2
    else
      let s3 := s2.seeP1 r 5568 33
      s3.raise r 0x032 noSubject (s3.p1 r 5568).toNat

/-- Leaves the module. -/
def State.emit (s : State) (o : Out) : State := { s with out := s.out ++ [o] }

/-- A command about a structure the module has takes its effect. -/
def guardRes (ok : Bool) (t : State) : Res := if ok then .next t else .fault .noSuchStructure

def onUnit (u : Nat) (t : State) : Res := guardRes (decide (u < 15360)) t
def onRegion (r : Nat) (t : State) : Res := guardRes (decide (r < 48)) t
def onLink (l : Nat) (t : State) : Res := guardRes (decide (l < 24)) t
def onRing (q : Nat) (t : State) : Res := guardRes (decide (q < 32)) t

end Sys2Proof.Machine
end

