-- ==== Sys2Proof/Machine/Operands.lean ====
section
/-! DEFINITION. Wafer addresses (R60-R63, Tables ORG-6 to ORG-8): their fields, their faults and their availability,
and the register indices that page 1 defines. -/

namespace Sys2Proof.Machine

/-- Spaces of Table ORG-6. -/
inductive Space where
  | scratch | well | sync | host
deriving DecidableEq, Repr

/-- WA[47:46] (Table ORG-6). -/
def spaceOf (a : WAddr) : Space :=
  match field a 46 2 with
  | 0 => .scratch
  | 1 => .well
  | 2 => .sync
  | _ => .host

/-- Fields of Table ORG-7. -/
def waUnit (a : WAddr) : Nat := field a 22 14
def waOffset (a : WAddr) : Nat := field a 0 22
def waWellRegion (a : WAddr) : Nat := field a 39 6
def waGranule (a : WAddr) : Nat := field a 12 27
def waNonet (a : WAddr) : Nat := field a 0 9
def waSyncRegion (a : WAddr) : Nat := field a 34 6
def waIndex (a : WAddr) : Nat := field a 20 14
def waPage (a : WAddr) : Nat := field a 16 4
def waWord (a : WAddr) : Nat := field a 2 2
def waSlot (a : WAddr) : Nat := field a 42 4
def waHostOffset (a : WAddr) : Nat := field a 0 42

/-- Granules of a well (R22). -/
def granules : Nat := 119304647

/-- Register indices that page 1 defines (Tables ORG-5 to STP-5). -/
def p1Defined (i : Nat) : Bool :=
  i < 84 || (1024 ≤ i && i < 4225) || (4608 ≤ i && i < 5576) || (5632 ≤ i && i < 14389) ||
    (14400 ≤ i && i < 15375)

/-- The fault codes of an address that is not valid (R60, Table ORG-8), lowest first. -/
def waInvalid (a : WAddr) : List Nat :=
  match spaceOf a with
  | .scratch =>
    (if field a 36 10 ≠ 0 then [0x121] else []) ++ (if 15360 ≤ waUnit a then [0x122] else []) ++
      (if scratchNonets ≤ waOffset a then [0x123] else [])
  | .well =>
    (if field a 45 1 ≠ 0 ∨ field a 9 3 ≠ 0 then [0x121] else []) ++ (if 48 ≤ waWellRegion a then [0x124] else []) ++
      (if granules ≤ waGranule a then [0x125] else [])
  | .sync =>
    (if field a 40 6 ≠ 0 ∨ field a 4 12 ≠ 0 ∨ field a 0 2 ≠ 0 then [0x121] else []) ++
      (if 48 ≤ waSyncRegion a then [0x124] else []) ++
      (if 2 ≤ waPage a ∨ (waPage a = 1 ∧ waWord a ≠ 0) then [0x126] else [])
  | .host => []

/-- Host translation slot `k`: its valid bit (R396). -/
def State.slotValid (s : State) (k : Nat) : Bool := field (s.bar (0x2010 + 0x20 * k)) 0 1 == 1

/-- The fault codes of a valid address whose structure is not served (R61, R63). -/
def State.waUnavailable (s : State) (a : WAddr) : List Nat :=
  match spaceOf a with
  | .scratch =>
    (if (s.svc (regionOf (waUnit a))).withdrawn then [0x128] else []) ++ (if s.absent (waUnit a) then [0x127] else [])
  | .well => if (s.svc (waWellRegion a)).withdrawn then [0x128] else []
  | .sync =>
    (if waPage a = 1 ∧ !p1Defined (waIndex a) then [0x126] else []) ++
      (if (s.svc (waSyncRegion a)).withdrawn then [0x128] else [])
  | .host => if s.slotValid (waSlot a) then [] else [0x129]

/-- The lowest of some codes; 0 when there is none (R62). -/
def lowest (l : List Nat) : Nat :=
  match l with
  | [] => 0
  | x :: xs => xs.foldl Nat.min x

/-- The code of an address fault seen when the access is made: invalid before unavailable, lowest code (R62). -/
def State.waFault (s : State) (a : WAddr) : Nat :=
  match waInvalid a with
  | [] => lowest (s.waUnavailable a)
  | l => lowest l

/-- The wafer address of an own-scratchpad offset. -/
def waScratch (u off : Nat) : WAddr := BitVec.ofNat 48 (u * 2 ^ 22 + off)
/-- The wafer address of a sync object. -/
def waSync (r obj : Nat) : WAddr := BitVec.ofNat 48 (2 ^ 47 + r * 2 ^ 34 + obj * 2 ^ 20)
/-- The wafer address of a page 1 register. -/
def waP1 (r i : Nat) : WAddr := BitVec.ofNat 48 (2 ^ 47 + r * 2 ^ 34 + i * 2 ^ 20 + 2 ^ 16)
/-- The wafer address of a well granule. -/
def waWell (r g : Nat) : WAddr := BitVec.ofNat 48 (2 ^ 46 + r * 2 ^ 39 + g * 2 ^ 12)

end Sys2Proof.Machine
end

