-- ==== Sys2Proof/Machine/Scratch.lean ====
section
/-! DEFINITION. The unit scratchpad (spec/03): tags, access kinds, parking, the deadline-first arbiter, error checks
and scrub. A request that finds its bank without an owner competes with all that are pending there, and one is granted; the others go on
competing in the next ACLK cycle, in the order of R80 and R84 (log 15). -/

namespace Sys2Proof.Machine

/-! ### Hand faults (R129) -/

/-- Page 1 index of the slip and fault words of a unit (R127). -/
def scrIdx (u k : Nat) : Nat := 2304 + u % 320 * 4 + k
/-- Page 1 index of the scratchpad counter words of a unit (R93). -/
def spdIdx (u k : Nat) : Nat := 1024 + u % 320 * 4 + k

/-- A hand fault or RAISE: the hand halts, the fault words and hand_halted record it, the code is raised and the step
aborts (R129, R345). -/
def State.handFault (s : State) (u h code : Nat) (pc : Word) : State :=
  let rg := regionOf u
  let s1 := s.updUnit u fun x => x.updHand h fun y =>
    { y with st := .halted, narrow := none, reply := none, ready := BitVec.allOnes 32, due := [] }
  let w := wd (code % 4096 + h % 8 * 2 ^ 12 + pc.toNat % 2 ^ 15 * 2 ^ 15 + 2 ^ 30)
  let s2 := s1.setP1 rg (scrIdx u 3) w
  let s3 := (s2.updP1 rg (scrIdx u 2) fun v => putField v (8 + h) 1 1).seeP1 rg (scrIdx u 2) 30
  (s3.raiseUnit u code w.toNat).report { code := BitVec.ofNat 12 code, unit := u, hand := h, pc := pc, test := none }

/-! ### Error checks (R89-R91) -/

/-- A correction on a read: count, last-correction word, event 0x022; a data or check bit owes a verify read (R350). -/
def State.eccCorrected (s : State) (u q bit : Nat) : State :=
  let rg := regionOf u
  let s1 := s.updP1 rg (spdIdx u 0) fun w => bumpField w 0 24
  let w := wd (q % 65536 + bit % 1024 * 2 ^ 16 + 2 ^ 26)
  let s2 := (s1.setP1 rg (spdIdx u 2) w).seeP1 rg (spdIdx u 3) 0
  let s3 := s2.raiseUnit u 0x022 w.toNat
  if bit = 1023 then s3 else s3.updSvc rg fun x => { x with verify := x.verify ++ [(u, q, bit)] }

/-- An uncorrectable error: count, stop of the hands, event 0x221, abort with the bank's test (R91, R345, R349). -/
def State.eccFailed (s : State) (u q : Nat) : State :=
  let rg := regionOf u
  let s1 := (s.updP1 rg (spdIdx u 1) fun w => bumpField w 0 12).seeP1 rg (spdIdx u 3) 1
  let s2 := s1.stopHands u
  (s2.raiseUnit u 0x221 (s2.p1 rg (spdIdx u 1)).toNat).report
    (causeOf 0x221 u (some { code := 1, region := rg, target := u, part := q / 3072 }))

/-! ### One access (R70, R75-R77) -/

/-- What one access to a row comes to: it must wait, or it is done with a status, data and nf. -/
inductive AccOut where
  | wait
  | done (status : Nat) (data : Row) (nf : Bool)
deriving DecidableEq, Repr

def AccKind.isRead : AccKind → Bool
  | .plainRead | .peek | .take => true
  | _ => false

def AccKind.isWrite : AccKind → Bool
  | .plainWrite | .put | .fill | .fillSeal => true
  | _ => false

/-- The row is in a state that the kind need not wait for (Table SPD-4, R77). -/
def Cell.admits (c : Cell) (k : AccKind) : Bool :=
  !c.tagged || (match k with
    | .peek | .take => c.full
    | .put | .fill | .fillSeal | .seal => !c.full
    | _ => true)

/-- The data of an access as its view shows it: the row, or one word. -/
def viewOf (wide : Bool) (j : Nat) (r : Row) : Row := if wide then r else (wordOf r j).setWidth 576

/-- The row after an access that is made (R75-R77, R111). `j` is the word of the narrow view. -/
def Cell.after (c : Cell) (k : AccKind) (wide : Bool) (j : Nat) (d : Row) (nf : Bool) : Cell :=
  let written : Cell :=
    if wide then { c with data := d, nf := nf } else { c with data := setWordOf c.data j (d.setWidth 36) }
  match k with
  | .plainRead | .peek | .test => c
  | .take => if c.tagged then { c with full := false, nf := false } else c
  | .plainWrite => written
  | .put | .fillSeal => if c.tagged then { written with full := true } else written
  | .fill => written
  | .seal => if c.tagged then { c with full := true } else c
  | .tagset => { c with tagged := d.getLsbD 1, full := d.getLsbD 0 }

/-- Marks the requests parked on row `q` as woken (R78). -/
def Unit.wakeRow (x : Unit) (q : Nat) : Unit :=
  x.setBank (q / 3072) (let b := x.bank (q / 3072)
    { b with parked := b.parked.map fun r => if r.acc.offset / 64 = q then { r with woken := true } else r })

/-- Writes a row; requests parked on it wake when its mode or state changes (R78, Table SPD-7). -/
def Unit.putCell (x : Unit) (q : Nat) (c : Cell) : Unit :=
  let o := x.cell q
  let y := x.setCell q c
  if o.tagged = c.tagged ∧ o.full = c.full then y else y.wakeRow q

/-- The access reads the row's data and checks it (R89). -/
def checksRow (k : AccKind) (wide : Bool) : Bool := k.isRead || (k.isWrite && !wide)

/-- One access to row `q` of unit `u`: waits, is rejected, fails its check, or is made (R76, R77, R90, R91). The vote over the
metadata's copies is part of every access, whatever comes of it (R73). -/
def State.access (s0 : State) (u q : Nat) (k : AccKind) (wide : Bool) (j : Nat) (d : Row) (nf : Bool) (e : Ecc) :
    State × AccOut :=
  let s := if e.ofMeta then s0.eccCorrected u q 1023 else s0
  let c := (s.unit u).cell q
  if k = .plainWrite ∧ c.tagged = true then
    (s.seeP1 (regionOf u) (spdIdx u 3) 3, .done 0x12C 0 false)
  else if !c.admits k then (s, .wait)
  else
    let made (t : State) : State × AccOut :=
      let c' := c.after k wide j d nf
      (t.updUnit u fun x => x.putCell q c',
        if k = .test ∨ k = .seal ∨ k = .tagset then
          .done 0 (BitVec.ofNat 576 (c'.full.toNat + 2 * c'.tagged.toNat)) c.nf
        else if k.isRead then .done 0 (viewOf wide j c.data) c.nf else .done 0 0 false)
    if checksRow k wide then
      match e.ofData with
      | .corrected bit => made (s.eccCorrected u q bit)
      | .uncorrectable => (s.eccFailed u q, .done 0x221 0 false)
      | _ => made s
    else made s

/-! ### Delivery -/

/-- Records the latest answer to a requester (log 10). -/
def Unit.answer (x : Unit) (p : Resp) : Unit :=
  { x with resps := x.resps.filter (fun r => !(r.port == p.port && r.agent == p.agent)) ++ [p] }

/-- The hand whose request this is: ports 6 and 7. -/
def Req.owner (r : Req) : Option (Nat × Nat) :=
  if r.own then none
  else if r.acc.port = 6 then some (r.acc.unit, r.acc.agent % 8)
  else if r.acc.port = 7 then some (r.acc.agent / 8, r.acc.agent % 8)
  else none

/-- The hand waits for this request. -/
def State.handOf (s : State) (r : Req) : Option (Nat × Nat × Narrow) :=
  match r.owner with
  | none => none
  | some (u, h) =>
    match ((s.unit u).hand h).narrow with
    | none => none
    | some n =>
      if n.unit = r.acc.unit ∧ n.offset / 64 = r.acc.offset / 64 ∧ n.kind = r.kind then some (u, h, n) else none

/-- The value an access gives its register: test result (R111), or the addressed word. -/
def Narrow.value (n : Narrow) (wide : Bool) (data : Row) (nf : Bool) : Word :=
  if n.kind = .test then (data.setWidth 36) ||| (if nf then 4 else 0)
  else if wide then wordOf data (n.offset % 64 / 4) else data.setWidth 36

/-- A hand's narrow access has been made (R97, R109), or has failed (R129, R91). -/
def State.handDone (s : State) (u h : Nat) (n : Narrow) (wide : Bool) (status : Nat) (data : Row) (nf : Bool) : State :=
  if status = 0 then
    s.updUnit u fun x => x.updHand h fun y =>
      let y1 := { y with st := .ready, narrow := none }
      if n.rd < 32 then y1.setReg n.rd (n.value wide data nf) else y1
  else if status = 0x221 ∧ n.unit = u then s
  else (s.updUnit u fun x => x.updHand h fun y => { y with pc := n.pc }).handFault u h status n.pc

/-- The inbound mover request that a request on a mover port carries out (R185). -/
def inboundOf (l : List Msg) (r : Req) : Option Msg :=
  if r.acc.port = 8 ∨ r.acc.port = 9 then
    l.find? fun m => msgAgent m = r.acc.agent ∧ waOffset m.wa = r.acc.offset ∧ (m.type = 0 ↔ r.acc.port = 8)
  else none

/-- Answers an inbound mover request whose access is done (R185, R225). -/
def State.deliverInbound (s : State) (r : Req) (status : Nat) (data : Row) (nf : Bool) : State :=
  match inboundOf (s.unit r.acc.unit).inbound r with
  | none => s
  | some m =>
    (s.updUnit r.acc.unit fun x => { x with inbound := x.inbound.erase m }).send (s.answerAccess m status [data] nf)

/-- Delivers an access to its requester. -/
def State.deliver (s : State) (r : Req) (status : Nat) (data : Row) (nf : Bool) (own : Option (Nat × Nat × Narrow)) :
    State :=
  let s1 := s.updUnit r.acc.unit fun x => x.answer
    { port := r.acc.port, agent := r.acc.agent, kind := r.kind, offset := r.acc.offset,
      status := BitVec.ofNat 12 status, data := data, nf := nf, hint := none }
  match own with
  | none => s1.deliverInbound r status data nf
  | some (u, h, n) => s1.handDone u h n r.acc.wide status data nf

/-! ### The arbiter (R82-R87) -/

/-- A request's slack when it enters arbitration (R83). -/
def slackAt (deadline : BitVec 16) (c : Nat) : Int := (deadline - BitVec.ofNat 16 c).toInt

/-- The slack now: it falls by 1 each ACLK and saturates at -65,536 (R83). -/
def Req.slackNow (r : Req) (c : Nat) : Int := max (r.slack - ((c - r.entered : Nat) : Int)) (-65536)

/-- R80 puts `p` before `q`: a read and a write of one free row. -/
def readsFirst (x : Unit) (p q : Req) : Bool :=
  p.kind.isRead && q.kind.isWrite && p.acc.offset / 64 == q.acc.offset / 64 && !(x.cell (p.acc.offset / 64)).tagged

/-- `p` is ranked ahead of `q` under R84: smaller slack, then the lower port. -/
def nearer (c : Nat) (p q : Req) : Bool :=
  decide (p.slackNow c < q.slackNow c) || (p.slackNow c == q.slackNow c && decide (p.acc.port < q.acc.port))

/-- `p` would win against `q` (R87). -/
def wins (x : Unit) (c : Nat) (p q : Req) : Bool :=
  readsFirst x p q || (!readsFirst x q p && nearer c p q)

/-- The request that a free bank grants: smallest slack among those no pending read of their free row precedes. -/
def chooseReq (x : Unit) (c : Nat) (l : List Req) : Option Req :=
  (l.filter fun q => !l.any fun p => readsFirst x p q).foldl
    (fun best q => match best with
      | none => some q
      | some b => if nearer c q b then some q else some b) none

/-- What is left of an owner's declared hold (R87). -/
def Grant.remaining (g : Grant) (c : Nat) : Nat := if g.hold = 0 then 255 else max 1 (g.hold - (c + 1 - g.granted))

/-- The region controller's scrub request: the maintenance port with agent 1 (R92). -/
def Req.isScrub (r : Req) : Bool := r.acc.port == 10 && r.acc.agent == 1

def Req.holdOr255 (r : Req) : Nat := if r.acc.hold = 0 then 255 else r.acc.hold.toNat

/-- The turn hint of a competing request: what is left of the owner's hold, and the holds of the requests ranked ahead (R87). -/
def turnHint (x : Unit) (l : List Req) (left : Nat) (c : Nat) (r : Req) : Nat :=
  min 255 ((l.filter fun p => wins x c p r).foldl (fun t p => t + p.holdOr255) left)

/-- What a bank without an owner holds against a loser in the cycle in which it grants `w` (R87). -/
def Req.leftAfter (w : Req) : Nat := if w.acc.hold = 0 then 255 else max 1 (w.acc.hold.toNat - 1)

/-- Records the hint of one competing request at its requester. -/
def Unit.hint (x : Unit) (l : List Req) (left c : Nat) (r : Req) : Unit :=
  x.answer
    { port := r.acc.port, agent := r.acc.agent, kind := r.kind, offset := r.acc.offset, status := 0, data := 0, nf := false,
      hint := some (turnHint x l left c r) }

/-- Every competing request of bank `b` that is not granted in this cycle receives its hint (R87). -/
def Unit.hintAll (x : Unit) (b left c : Nat) : Unit :=
  (x.bank b).waiting.foldl (fun y r => y.hint (x.bank b).waiting left c r) x

/-- The row is in a state in which the request must wait for its tag (R76, R78). -/
def Unit.mustWait (x : Unit) (r : Req) : Bool := !(x.cell (r.acc.offset / 64)).admits r.kind

/-- A request leaves arbitration for the parking list, where each port has one entry (R78). -/
def Bank.park (y : Bank) (r : Req) (c : Nat) : Bank :=
  { y with
    waiting := y.waiting.erase r
    parked := y.parked ++ (if r.own && y.parked.any (·.acc.port == r.acc.port) then []
      else [{ r with woken := false, parkedAt := c }]) }

/-- Parks a request; a hand that waits for it is parked (R109). -/
def State.park (s : State) (b : Nat) (r : Req) : State :=
  let t := s.updUnit r.acc.unit fun x => x.setBank b ((x.bank b).park r (s.aclkOf (clusterOf r.acc.unit)))
  match s.handOf r with
  | none => t
  | some (v, h, _) => t.updUnit v fun x => x.updHand h fun y => { y with st := .parked }

/-- The competing requests of a bank whose row has come into a state that they must wait for are parked (R78, Table SPD-7). -/
def State.settleBank (s : State) (u b : Nat) : State :=
  ((s.unit u).bank b).waiting.foldl (fun t r => if (t.unit u).mustWait r then t.park b r else t) s

/-- The grant of a request that a bank without an owner chooses. -/
def Req.grantAt (r : Req) (c : Nat) : Grant :=
  { port := r.acc.port, agent := r.acc.agent, hold := r.acc.hold.toNat, granted := c, overheld := false }

/-- The access of a granted request is made, or its request is parked, in the port's one entry of the parking list (R76, R78). The
grant is held while the port goes on presenting requests to the bank (R85); the other competing requests get their hints. -/
def State.engage (s : State) (b : Nat) (r : Req) (g : Option Grant) : State × AccOut :=
  let u := r.acc.unit
  let c := s.aclkOf (clusterOf u)
  match s.access u (r.acc.offset / 64) r.kind r.acc.wide (r.acc.offset % 64 / 4) r.acc.data r.acc.nf r.acc.ecc with
  | (t, .wait) => (t.updUnit u fun x => x.setBank b ({ x.bank b with owner := none }.park r c), .wait)
  | (t, .done status data nf) =>
    let g1 : Grant := g.getD (r.grantAt c)
    (t.updUnit u fun x =>
      let y := x.bank b
      (x.setBank b { y with
        owner := if r.acc.keep then some g1 else none
        scrubRow := if r.isScrub then (y.scrubRow + 1) % 3072 else y.scrubRow }).hintAll b (g1.remaining c) c,
      .done status data nf)

/-- A granted request of a hand, of another unit or of the region controller: its answer is delivered. -/
def State.grant (s : State) (b : Nat) (r : Req) (g : Option Grant) : State :=
  let own := s.handOf r
  match s.engage b r g with
  | (t, .wait) =>
    match own with
    | none => t
    | some (v, h, _) => t.updUnit v fun x => x.updHand h fun y => { y with st := .parked }
  | (t, .done status data nf) => t.deliver r status data nf own

/-- A bank without an owner grants the competing request `w` (R84). An engine's own holds the grant from this cycle on, and the
engine's command makes the access. -/
def State.award (s : State) (b : Nat) (w : Req) : State :=
  let u := w.acc.unit
  let c := s.aclkOf (clusterOf u)
  let s1 := s.updUnit u fun y => y.setBank b { y.bank b with waiting := (y.bank b).waiting.erase w }
  if w.own then
    s1.updUnit u fun x => (x.setBank b { x.bank b with owner := some (w.grantAt c) }).hintAll b ((w.grantAt c).remaining c) c
  else s1.grant b w none

/-- One cycle of a bank without an owner: the most urgent of the competing requests is granted (R80, R84). -/
def State.serveBank (s : State) (u b : Nat) : State :=
  if ((s.unit u).bank b).waiting = [] then s
  else
    let t := s.settleBank u b
    let x := t.unit u
    match (x.bank b).owner, chooseReq x (t.aclkOf (clusterOf u)) (x.bank b).waiting with
    | none, some w => t.award b w
    | _, _ => t

/-- A hand's request that is not granted is withdrawn and the hand backs off with hint `t` (R121). -/
def State.backOff (s : State) (v h : Nat) (n : Narrow) (t : Nat) : State :=
  s.updUnit v fun y => y.updHand h fun z => { z with st := .backOff, narrow := some { n with hint := t } }

/-- A request that loses against what holds or takes the bank: it goes on competing (R84, R87), a hand's backs off (R121). -/
def State.lose (s : State) (b : Nat) (r : Req) (left : Nat) : State :=
  let u := r.acc.unit
  let c := s.aclkOf (clusterOf u)
  let l := ((s.unit u).bank b).waiting
  let s1 := s.updUnit u fun y => y.hint l left c r
  match s.handOf r with
  | some (v, h, n) => s1.backOff v h n (turnHint (s.unit u) l left c r)
  | none => s1.updUnit u fun y => y.setBank b { y.bank b with waiting := (y.bank b).waiting ++ [r] }

/-- Presents a request at its bank (R82-R85): one whose row is not in the state that it needs is parked (R78). At a bank without an
owner it competes with all that are pending there, and the most urgent is granted; with `more`, the bank decides when the last request
of the cycle is there (log 111). -/
def State.present (s0 : State) (r : Req) : State :=
  let u := r.acc.unit
  let b := r.acc.offset / 64 / 3072
  let s := s0.settleBank u b
  let x := s.unit u
  let c := s.aclkOf (clusterOf u)
  match (x.bank b).owner with
  | some g =>
    if g.port = r.acc.port then s.grant b r (some g)
    else if x.mustWait r then s.park b r
    else s.lose b r (g.remaining c)
  | none =>
    if x.mustWait r then s.park b r
    else if r.acc.more then s.updUnit u fun y => y.setBank b { y.bank b with waiting := (y.bank b).waiting ++ [r] }
    else
      match chooseReq x c ((x.bank b).waiting ++ [r]) with
      | some w => if w = r then s.grant b r none else (s.award b w).lose b r w.leftAfter
      | none => s

/-- The fault code of an access before it reaches its bank: address and alignment, lowest first (R62, R69, R70). -/
def State.accessFault (s : State) (a : Access) : Nat :=
  lowest ((if scratchNonets ≤ a.offset then [0x123] else []) ++
    (if s.absent a.unit then [0x127] else []) ++ (if (s.svc (regionOf a.unit)).withdrawn then [0x128] else []) ++
    (if a.wide ∧ a.offset % 64 ≠ 0 then [0x12B] else []) ++ (if !a.wide ∧ a.offset % 4 ≠ 0 then [0x12A] else []))

/-- The requester's port has a request at this bank already (R78, R82: at most one; port 6 counts each hand, R112). -/
def Bank.presents (b : Bank) (port agent : Nat) : Bool :=
  (b.waiting ++ b.parked).any fun r => r.acc.port == port && (port != 6 || r.acc.agent == agent)

/-- Sets align_fault_seen of a unit when a code is one of alignment (Table SPD-8). -/
def State.noteAlign (s : State) (u code : Nat) : State :=
  if code = 0x12A ∨ code = 0x12B then s.seeP1 (regionOf u) (spdIdx u 3) 4 else s

/-- The request comes through the crossbar from another unit's hand or mover, or from an agent of Table ORG-9 at a mover port. None of
these is fill traffic, which the region controller brings through the maintenance port (R52, R360, log 57). -/
def crosses (a : Access) : Bool := a.port == 7 || ((a.port == 8 || a.port == 9) && a.agent != a.unit)

/-- The head of a request that the crossbar diverts from a unit that is being filled (R52, R231). -/
def State.strayMsg (s : State) (a : Access) : Msg :=
  let v := if a.port = 7 then a.agent / 8 else a.agent
  let w := a.port == 9
  let m : Msg := { blankMsg with
    dstRegion := regionOf a.unit, dstUnit := a.unit, vc := if w then 1 else 0, type := if w then 1 else 0
    srcModule := s.ownIndex, wa := waScratch a.unit a.offset }
  if v < 15360 then { m with srcRegion := regionOf v, srcUnit := v, epoch := s.stamp (clusterOf v) a.unit }
  else { m with srcRegion := (v - 15360) / 8, srcKind := (v - 15360) % 8 }

/-- A request to a unit that is being filled is diverted to the stray queue (R52). -/
def State.fillDiverts (s : State) (a : Access) : Bool := s.filling a.unit && crosses a

def newReq (a : Access) (k : AccKind) (c : Nat) (own : Bool) : Req :=
  { acc := a, kind := k, slack := slackAt a.deadline c, entered := c, parkedAt := 0, own := own, woken := false, waited := false }

/-- A new request: rejected with a status, diverted, or presented at its bank (R52, R62, R69, R70, R82). One whose port has a
request at the bank already stays with its requester; a hand's is presented again later (log 112). -/
def State.request (s : State) (a : Access) (k : AccKind) : State :=
  let c := s.aclkOf (clusterOf a.unit)
  let code := s.accessFault a
  let r := newReq a k c false
  if code ≠ 0 then (s.noteAlign a.unit code).deliver r code 0 false (s.handOf r)
  else if s.fillDiverts a then s.divert (regionOf a.unit) (s.strayMsg a) 1
  else if ((s.unit a.unit).bank (a.offset / 64 / 3072)).presents a.port a.agent then
    match s.handOf r with
    | some (v, h, n) => s.backOff v h n 1
    | none => s
  else s.present r

/-! ### Accesses of engines (R82, R117, R123)

An engine's command makes its accesses one after the other in its own order. Each is a request at its bank like any other: when
it cannot be made now it stays competing or parked there, and the command's row makes it when it runs again (log 18). -/

/-- The request is this engine's earlier one for the same row on the port. -/
def Req.sameAs (q : Req) (a : Access) : Bool :=
  q.own && q.acc.port == a.port && q.acc.agent == a.agent && q.acc.offset == a.offset

/-- An engine's request competes: its access is made, or the request waits at the bank. -/
def State.compete (s : State) (r : Req) : State × AccOut :=
  let u := r.acc.unit
  let b := r.acc.offset / 64 / 3072
  let c := s.aclkOf (clusterOf u)
  let s1 := (s.updUnit u fun x => x.setBank b (let y := x.bank b
    { y with waiting := y.waiting.filter (fun q => !q.sameAs r.acc), parked := y.parked.filter (fun q => !q.sameAs r.acc) })).settleBank
      u b
  let x := s1.unit u
  match (x.bank b).owner with
  | some g =>
    if g.port = r.acc.port then s1.engage b r (some g)
    else (if x.mustWait r then s1.park b r else s1.lose b r (g.remaining c), .wait)
  | none =>
    if x.mustWait r then (s1.park b r, .wait)
    else
      match chooseReq x c (r :: (x.bank b).waiting) with
      | some w => if w = r then s1.engage b r none else ((s1.award b w).lose b r w.leftAfter, .wait)
      | none => (s1, .wait)

/-- One access of an engine through its port. -/
def State.portAccess (s : State) (a : Access) (k : AccKind) : State × AccOut :=
  let bk := (s.unit a.unit).bank (a.offset / 64 / 3072)
  match bk.parked.find? (·.sameAs a) with
  | some q => if q.woken then s.compete { q with acc := a, kind := k, woken := false } else (s, .wait)
  | none =>
    let r := newReq a k (s.aclkOf (clusterOf a.unit)) true
    if s.fillDiverts a then
      ((s.divert (regionOf a.unit) (s.strayMsg a) 1).updUnit a.unit fun x => x.setBank (a.offset / 64 / 3072)
        { bk with parked := bk.parked ++ [{ r with parkedAt := r.entered }] }, .wait)
    else
      match bk.waiting.find? (·.sameAs a) with
      | some q => s.compete { q with acc := a, kind := k }
      | none => if bk.waiting.any (·.acc.port == a.port) then (s, .wait) else s.compete r

/-- A request or grant of unit `u`'s engines on one of some ports: ports 0 to 5 of the unit itself, and at any unit of the cluster
its mover's ports and the remote reads that stand for a port of `u`, which their agent 8 x u + port names (7: the mover's read). -/
def ofEngine (u v port agent : Nat) (ports : List Nat) : Bool :=
  if port = 7 then agent / 8 == u && ports.contains (if agent % 8 = 7 then 8 else agent % 8)
  else ports.contains port && (if port < 6 then v == u else (port == 8 || port == 9) && agent == u)

/-- Takes an engine's requests and grants on some ports from a bank of unit `v` (R354, R481). -/
def Bank.leave (b : Bank) (u v : Nat) (ports : List Nat) : Bank :=
  { b with
    owner := b.owner.filter fun g => !ofEngine u v g.port g.agent ports
    waiting := b.waiting.filter fun q => !(q.own && ofEngine u v q.acc.port q.acc.agent ports)
    parked := b.parked.filter fun q => !(q.own && ofEngine u v q.acc.port q.acc.agent ports) }

/-- An engine presents no request any more on some ports: its grants end, and the banks serve the others (R85). -/
def State.leavePorts (s : State) (u : Nat) (ports : List Nat) : State :=
  (clusterMates u).foldl (fun t v =>
    (List.range 16).foldl (fun t b => t.serveBank v b) (t.updUnit v fun x => x.mapBanks (·.leave u v ports))) s

/-- The competing request of a multi-row access by an agent outside the unit (Table ORG-9): deadline 4,096 ACLK ahead, a hold of
1 ACLK a row (R53). -/
def State.agentAccess (s : State) (port agent u q : Nat) (rows : Nat) (keep : Bool) (d : Row) (nf : Bool) (e : Ecc) : Access :=
  { unit := u, port := port, agent := agent, offset := 64 * q, wide := true,
    deadline := BitVec.ofNat 16 (s.aclkOf (clusterOf u) + 4096), hold := BitVec.ofNat 12 (max 1 (min 4095 rows)), keep := keep,
    more := false, data := d, nf := nf, ecc := e }

/-! ### The maintenance port (R53, R92, Table ORG-9)

An operation of the region controller on many rows asks for each of its banks in turn, as every port does, and makes its accesses to a
bank under the grant; while a bank cannot be had, the operation waits with its request there, and nothing of it is done. -/

/-- What the region controller does through a maintenance port, as the agent of its request. -/
def maintScript : Nat := 0
def maintScrub : Nat := 1
def maintVerify : Nat := 2
def maintImage : Nat := 3
def maintTest : Nat := 4
def maintSave : Nat := 5

/-- The request for `n` rows of bank `b`: whether the bank grants it now. -/
def State.winBank (s : State) (agent u b n : Nat) : State × Bool :=
  match s.portAccess (s.agentAccess 10 agent u (3072 * b) n false 0 false .clean) .test with
  | (t, .done _ _ _) => (t, true)
  | (t, .wait) => (t, false)

/-- Bank after bank: unit, bank, and rows of it. -/
def State.winBanks (s : State) (agent : Nat) : List (Nat × Nat × Nat) → State × Bool
  | [] => (s, true)
  | (u, b, n) :: l =>
    match s.winBank agent u b n with
    | (t, true) => State.winBanks t agent l
    | (t, false) => (t, false)

/-- The banks of some rows of a unit, with how many of the rows lie in each. -/
def banksOf (u : Nat) (qs : List Nat) : List (Nat × Nat × Nat) :=
  ((qs.map (· / 3072)).dedup).map fun b => (u, b, (qs.filter fun q => q / 3072 == b).length)

/-- Rows written through the maintenance port, each whole with its metadata. Requests parked on a row wake when its mode or state
changes (Table SPD-7). -/
def State.writeCells (s : State) (u : Nat) (l : List (Nat × Cell)) : State :=
  s.updUnit u fun x => l.foldl (fun y e => y.putCell e.1 e.2) x

/-! ### A unit that is lost (R63) -/

/-- The requests that stand at the banks of a unit that no unit serves any more are answered with a code, and are gone. The engines of
other units find the unit absent when their commands go on. -/
def State.dropRequests (s : State) (u code : Nat) : State :=
  (List.range 16).foldl (fun t b =>
    (((t.unit u).bank b).waiting ++ ((t.unit u).bank b).parked).foldl (fun v r =>
      if r.own then v else v.deliver r code 0 false (v.handOf r)) t) s

/-! ### Meanings -/

/-- Port `port` makes requests of kind `k` (Table SPD-5, R69, R70, R72): narrow and tag-only kinds on port 6, plain reads and peeks
on the remote read port, wide reads on 0 to 3 and 8, wide writes on 4, 5 and 9, wide kinds on the maintenance port. -/
def portMakes (port : Nat) (k : AccKind) : Bool :=
  match port with
  | 6 => k != .put
  | 7 => k == .plainRead || k == .peek
  | 4 | 5 | 9 => k == .plainWrite || k == .put
  | 10 => k.isRead || k == .plainWrite || k == .put
  | p => decide (p < 9) && k.isRead

/-- A request of a port: a port that makes no such request presents none (log 148). Port 6 has the narrow view, the others the wide one. -/
def State.portRequest (s : State) (a : Access) (k : AccKind) : Res :=
  onUnit a.unit (if portMakes a.port k then s.request { a with wide := a.port != 6 } k else s)

def execPlainRead (a : Access) (s : State) : Res := s.portRequest a .plainRead
def execPeek (a : Access) (s : State) : Res := s.portRequest a .peek
def execTake (a : Access) (s : State) : Res := s.portRequest a .take
def execPlainWrite (a : Access) (s : State) : Res := s.portRequest a .plainWrite
def execPut (a : Access) (s : State) : Res := s.portRequest a .put
def execFill (a : Access) (s : State) : Res := s.portRequest a .fill
def execFillSeal (a : Access) (s : State) : Res := s.portRequest a .fillSeal
def execTagSeal (a : Access) (s : State) : Res := s.portRequest a .seal
def execTagTest (a : Access) (s : State) : Res := s.portRequest a .test

/-- A bank's parked request that a state change has woken returns to arbitration with the slack it has counted down to
(R78, R83); an engine's own competes until its command makes it. -/
def State.wakeParked (s : State) (u b i : Nat) (e : Ecc) : State :=
  match ((s.unit u).bank b).parked[i]? with
  | none => s
  | some r =>
    if r.woken then
      let r' := { r with acc := { r.acc with ecc := e }, woken := false }
      let s1 := s.updUnit u fun x => x.setBank b { x.bank b with parked := (x.bank b).parked.eraseIdx i }
      if r.own then s1.updUnit u fun x => x.setBank b { x.bank b with waiting := (x.bank b).waiting ++ [r'] }
      else s1.present r'
    else s

def execParkedRequestWake (unit bank index : Nat) (ecc : Ecc) (s : State) : Res :=
  guardRes (decide (unit < 15360 ∧ bank < 16)) (s.wakeParked unit bank index ecc)

/-- A request has been parked for 2^20 ACLK: event 0x023, once; it stays parked (R79). -/
def State.tagWait (s : State) (u b i : Nat) : State :=
  match ((s.unit u).bank b).parked[i]? with
  | none => s
  | some r =>
    if r.waited = true ∨ s.aclkOf (clusterOf u) < r.parkedAt + 2 ^ 20 then s
    else
      let s1 := s.updUnit u fun x => x.setBank b
        { x.bank b with parked := (x.bank b).parked.set i { r with waited := true } }
      let s2 := s1.seeP1 (regionOf u) (spdIdx u 3) 5
      s2.raiseUnit u 0x023 (s2.p1 (regionOf u) (spdIdx u 3)).toNat

def execTagWaitEvent (unit bank index : Nat) (s : State) : Res :=
  guardRes (decide (unit < 15360 ∧ bank < 16)) (s.tagWait unit bank index)

/-- A grant is in the cycle after its declared hold: count, flag and event 0x021, once for the grant, which goes on (R86). The
owner unit is taken to be the unit of the bank, also for a grant of another unit's agent (DEDUCED, log 113). -/
def State.overhold (s : State) (u b : Nat) : State :=
  match ((s.unit u).bank b).owner with
  | none => s
  | some g =>
    if g.hold = 0 ∨ g.overheld = true ∨ s.aclkOf (clusterOf u) < g.granted + g.hold then s
    else
      let rg := regionOf u
      let s1 := s.updUnit u fun x => x.setBank b { x.bank b with owner := some { g with overheld := true } }
      let s2 := (s1.updP1 rg (spdIdx u 1) fun w => bumpField w 12 16).seeP1 rg (spdIdx u 3) 2
      s2.raiseUnit u 0x021 (s2.p1 rg (spdIdx u 1)).toNat

def execOverhold (unit bank : Nat) (s : State) : Res :=
  guardRes (decide (unit < 15360 ∧ bank < 16)) (s.overhold unit bank)

/-- The region controller's scrub request for the bank's next row, with deadline c + 4,096 and a hold of 1 (R92): it competes
like any port, and the scrub moves to the next row once it has been served. -/
def State.scrub (s : State) (u b : Nat) (e : Ecc) : State :=
  s.request (s.agentAccess 10 maintScrub u (b * 3072 + ((s.unit u).bank b).scrubRow) 1 false 0 false e) .plainRead

def execScrub (unit bank : Nat) (ecc : Ecc) (s : State) : Res :=
  guardRes (decide (unit < 15360 ∧ bank < 16)) (s.scrub unit bank ecc)

/-! ### Time -/

/-- An ACLK edge at a bank: without an owner it grants one of the requests that wait there (R84), and every request that still competes
gets its hint (R87). -/
def State.tickBank (s : State) (u b : Nat) : State :=
  if ((s.unit u).bank b).waiting = [] then s
  else
    match ((s.unit u).bank b).owner with
    | none => s.serveBank u b
    | some g =>
      let c := s.aclkOf (clusterOf u)
      (s.settleBank u b).updUnit u fun x => x.hintAll b (g.remaining c) c

/-- One root-PLL cycle passes; at the edges of a cluster's ACLK the banks of its units go on (log 3). -/
def State.tick (s : State) : State :=
  let t := { s with root := s.root + 1 }
  t.units.foldl (fun v (u, _) =>
    if t.aclkOf (clusterOf u) = s.aclkOf (clusterOf u) then v else (List.range 16).foldl (fun w b => w.tickBank u b) v) t

end Sys2Proof.Machine
end

