-- ==== Sys2Proof/Machine/Scribe.lean ====
section
/-! DEFINITION. The scribe core (spec/04): which hand issues, the fetch, and the meaning of every instruction. -/

namespace Sys2Proof.Machine

/-! ### Issue (R95, R97, R98, R120) -/

/-- The valid instruction at a hand's program counter. -/
def Unit.nextOp (x : Unit) (h : Nat) : Option (Op × Word) :=
  let pc := (x.hand h).pc.toNat
  if 32768 ≤ pc then none else (opOf (x.script.get 0 pc)).map fun op => (op, x.script.get 0 pc)

/-- Room in the queue of engine `eng` (R115). -/
def Unit.queueRoom (x : Unit) (eng : Nat) : Bool :=
  match eng with
  | 0 => decide (x.mxa.queue.length < 4)
  | 1 => decide (x.stroke.queue.length < 4)
  | _ => decide (x.mover.queue.length < 8)

/-- The slot or credit that the hand's next instruction needs is there (Table SCR-1, R237). -/
def Unit.resource (x : Unit) (h : Nat) (credit : Bool) : Bool :=
  match x.nextOp h with
  | some (.issue, w) => x.queueRoom (fEng w)
  | some (.sync, _) => credit && decide ((x.hand h).posted.length < 8)
  | some (.syncr, _) => credit
  | _ => true

/-- Every register that the next instruction names is ready (R97). -/
def Unit.operandsReady (x : Unit) (h : Nat) : Bool :=
  match x.nextOp h with
  | some (op, w) => (op.regs w).all fun r => (x.hand h).ready.getLsbD r
  | none => true

/-- An M-format instruction waits for the hand's outstanding access, and every instruction for that of a TWAIT (R109, R111). -/
def Unit.accessHolds (x : Unit) (h : Nat) : Bool :=
  match (x.hand h).narrow with
  | none => false
  | some n => (n.kind == .peek && n.rd == 32) || (match x.nextOp h with | some (op, _) => op.isMem | none => false)

/-- A hand's state as the latencies up to ACLK cycle `c` and the freed resources leave it (Table SCR-1). -/
def Unit.settleHand (x0 : Unit) (i : Issue) (c h : Nat) : Unit :=
  let x := x0.setHand h ((x0.hand h).mature c)
  let y := x.hand h
  match y.st with
  | .ready | .dataWait =>
    x.setHand h { y with st := if i.held.getLsbD h || !x.operandsReady h || x.accessHolds h then .dataWait else .ready }
  | .creditWait => if x.resource h i.credit then x.setHand h { y with st := .ready } else x
  | _ => x

def Unit.settle (x : Unit) (i : Issue) (c : Nat) : Unit := (List.range 8).foldl (fun y h => y.settleHand i c h) x

/-- The unit's hands in this ACLK. -/
def State.settled (s : State) (i : Issue) : State := s.updUnit i.unit fun x => x.settle i (s.aclkOf (clusterOf i.unit))

/-- The hand's next instruction can issue now. -/
def Unit.canIssue (x : Unit) (i : Issue) (h : Nat) : Bool :=
  (x.hand h).st == .ready && x.operandsReady h && x.resource h i.credit

/-- How long ago a hand issued: hands that have not issued rank highest, the lowest-numbered first (R120). -/
def Unit.age (x : Unit) (h : Nat) : Nat :=
  match x.recency.idxOf? h with
  | some k => k
  | none => 100 - h

/-- Hand `g` comes before hand `h` (R120). -/
def Unit.precedes (x : Unit) (g h : Nat) : Bool :=
  let p := (x.hand g).prio.toNat
  let q := (x.hand h).prio.toNat
  decide (q < p) || (p == q && decide (x.age h < x.age g))

/-- The core's choice in this ACLK is hand `h` (R120). -/
def Unit.chosen (x : Unit) (i : Issue) (h : Nat) : Bool :=
  x.canIssue i h && (List.range 8).all fun g => !(x.canIssue i g && x.precedes g h)

/-- What the script store's check does at a fetch: nothing, a correction counted, or a stop of the unit (R98). -/
def State.fetched (s : State) (u h : Nat) (e : Ecc) : State × Bool :=
  let rg := regionOf u
  match e.ofData with
  | .clean | .voted _ => (s, true)
  | .corrected bit =>
    let s1 := (s.updP1 rg (scrIdx u 2) fun w => bumpField w 16 12).seeP1 rg (scrIdx u 2) 29
    let s2 := s1.updSvc rg fun x => { x with scriptVerify := x.scriptVerify ++ [(u, ((s.unit u).hand h).pc.toNat, bit)] }
    (s2.raiseUnit u 0x026 (s2.readP1 rg (scrIdx u 2)).toNat, true)
  | .uncorrectable =>
    (((s.stopHands u).raiseUnit u 0x222 0).report (causeOf 0x222 u (some { code := 2, region := rg, target := u, part := 0 })),
      false)

/-- The issue of an instruction `op` by the hand that the core chooses: nothing happens unless the command names that
hand and its next instruction is an `op` (log 2). A ready hand whose resource is missing enters credit wait;
whether its address faults is judged when it issues (DESIGN CHOICE, log 114). `eff` is the instruction's effect, given the state,
the hand and the word. -/
def State.issue (s : State) (i : Issue) (op : Op) (eff : State → Hand → Word → State) : State :=
  let s0 := s.settled i
  let x := s0.unit i.unit
  match x.nextOp i.hand with
  | none => s
  | some (o, w) =>
    if o ≠ op then s
    else if (x.hand i.hand).st = .ready ∧ x.resource i.hand i.credit = false then
      s0.updUnit i.unit fun y => y.updHand i.hand fun z => { z with st := .creditWait }
    else if x.chosen i i.hand then
      match s0.fetched i.unit i.hand i.fetch with
      | (s1, false) => s1
      | (s1, true) =>
        let s2 := s1.updUnit i.unit fun y => { y with recency := i.hand :: y.recency.erase i.hand }
        eff s2 ((s2.unit i.unit).hand i.hand) w
    else s0

/-- A command of a unit's hand. -/
def onHand (i : Issue) (t : State) : Res := guardRes (decide (i.unit < 15360 ∧ i.hand < 8)) t

/-- Replaces the issuing hand. -/
def State.setHand (s : State) (i : Issue) (h : Hand) : State := s.updUnit i.unit fun x => x.setHand i.hand h

/-- The hand goes on at the next word (R100). -/
def Hand.advance (h : Hand) : Hand := { h with pc := h.pc + 1 }

/-- An instruction that writes `v` to `rd` and goes on. -/
def Hand.result (h : Hand) (rd : Nat) (v : Word) : Hand := (h.setReg rd v).advance

/-- An R-format ALU instruction (R103). -/
def State.alu (s : State) (i : Issue) (op : Op) (f : Word → Word → Word) : State :=
  s.issue i op fun s h w => s.setHand i (h.result (fA w) (f (h.reg (fB w)) (h.reg (fC w))))

/-- A multiply: the product can be used after 3 ACLK (R105). -/
def State.multiply (s : State) (i : Issue) (op : Op) (f : Word → Word → Word) : State :=
  s.issue i op fun s h w =>
    s.setHand i (h.setLate (fA w) (f (h.reg (fB w)) (h.reg (fC w))) (s.aclkOf (clusterOf i.unit) + 3)).advance

/-- An I-format instruction with its immediate. -/
def State.aluImm (s : State) (i : Issue) (op : Op) (f : Word → BitVec 20 → Word) : State :=
  s.issue i op fun s h w => s.setHand i (h.result (fA w) (f (h.reg (fB w)) (imm20 w)))

/-- A branch (Table SCR-3, B format). -/
def State.branch (s : State) (i : Issue) (op : Op) (c : Word → Word → Bool) : State :=
  s.issue i op fun s h w =>
    s.setHand i { h with pc := if c (h.reg (fA w)) (h.reg (fB w)) then h.pc + (imm20 w).signExtend 36 else h.pc + 1 }

def boolWord (b : Bool) : Word := if b then 1 else 0

/-- A 36-bit signed value saturated (Table SCR-4, ADDS and SUBS). -/
def satWord (v : Int) : Word := BitVec.ofInt 36 (max (-(2 ^ 35)) (min (2 ^ 35 - 1) v))

/-- Leading zeros of a word, counted from bit `n - 1` down. -/
def leadingZeros (w : Word) : Nat → Nat
  | 0 => 0
  | n + 1 => if w.getLsbD n then 0 else leadingZeros w n + 1

/-- Bits set in the low `n` bits. -/
def bitsSet (w : Word) : Nat → Nat
  | 0 => 0
  | n + 1 => bitsSet w n + (w.getLsbD n).toNat

/-! ### ALU functions (Table SCR-4, R105) -/

def execAdd (x : Issue) (s : State) : Res := onHand x (s.alu x .add fun a b => a + b)
def execSub (x : Issue) (s : State) : Res := onHand x (s.alu x .sub fun a b => a - b)
def execAnd (x : Issue) (s : State) : Res := onHand x (s.alu x .and fun a b => a &&& b)
def execOr (x : Issue) (s : State) : Res := onHand x (s.alu x .or fun a b => a ||| b)
def execXor (x : Issue) (s : State) : Res := onHand x (s.alu x .xor fun a b => a ^^^ b)
def execSll (x : Issue) (s : State) : Res := onHand x (s.alu x .sll fun a b => a <<< (b.toNat % 64))
def execSrl (x : Issue) (s : State) : Res := onHand x (s.alu x .srl fun a b => a >>> (b.toNat % 64))
def execSra (x : Issue) (s : State) : Res := onHand x (s.alu x .sra fun a b => a.sshiftRight (b.toNat % 64))
def execSlt (x : Issue) (s : State) : Res := onHand x (s.alu x .slt fun a b => boolWord (a.slt b))
def execSltu (x : Issue) (s : State) : Res := onHand x (s.alu x .sltu fun a b => boolWord (a.ult b))
def execMin (x : Issue) (s : State) : Res := onHand x (s.alu x .min fun a b => if b.slt a then b else a)
def execMax (x : Issue) (s : State) : Res := onHand x (s.alu x .max fun a b => if a.slt b then b else a)
def execAdds (x : Issue) (s : State) : Res := onHand x (s.alu x .adds fun a b => satWord (a.toInt + b.toInt))
def execSubs (x : Issue) (s : State) : Res := onHand x (s.alu x .subs fun a b => satWord (a.toInt - b.toInt))
def execMul (x : Issue) (s : State) : Res := onHand x (s.multiply x .mul fun a b => a * b)
def execMulh (x : Issue) (s : State) : Res :=
  onHand x (s.multiply x .mulh fun a b => BitVec.ofInt 36 (a.toInt * b.toInt / 2 ^ 36))
def execMulhu (x : Issue) (s : State) : Res :=
  onHand x (s.multiply x .mulhu fun a b => BitVec.ofNat 36 (a.toNat * b.toNat / 2 ^ 36))
def execClz (x : Issue) (s : State) : Res := onHand x (s.alu x .clz fun a _ => wd (leadingZeros a 36))
def execPopc (x : Issue) (s : State) : Res := onHand x (s.alu x .popc fun a _ => wd (bitsSet a 36))

/-! ### Immediates, branches and jumps (Table SCR-3) -/

def execAddi (x : Issue) (s : State) : Res := onHand x (s.aluImm x .addi fun a m => a + m.signExtend 36)
def execAndi (x : Issue) (s : State) : Res := onHand x (s.aluImm x .andi fun a m => a &&& m.setWidth 36)
def execOri (x : Issue) (s : State) : Res := onHand x (s.aluImm x .ori fun a m => a ||| m.setWidth 36)
def execXori (x : Issue) (s : State) : Res := onHand x (s.aluImm x .xori fun a m => a ^^^ m.setWidth 36)
def execSlli (x : Issue) (s : State) : Res := onHand x (s.aluImm x .slli fun a m => a <<< (m.toNat % 64))
def execSrli (x : Issue) (s : State) : Res := onHand x (s.aluImm x .srli fun a m => a >>> (m.toNat % 64))
def execSrai (x : Issue) (s : State) : Res := onHand x (s.aluImm x .srai fun a m => a.sshiftRight (m.toNat % 64))
def execSlti (x : Issue) (s : State) : Res := onHand x (s.aluImm x .slti fun a m => boolWord (a.slt (m.signExtend 36)))
def execSltiu (x : Issue) (s : State) : Res :=
  onHand x (s.aluImm x .sltiu fun a m => boolWord (a.ult (m.signExtend 36)))
/-- LUI: imm25 x 2^11. -/
def execLui (x : Issue) (s : State) : Res :=
  onHand x (s.issue x .lui fun s h w => s.setHand x (h.result (fA w) ((imm25 w).setWidth 36 <<< 11)))
def execBeq (x : Issue) (s : State) : Res := onHand x (s.branch x .beq fun a b => a == b)
def execBne (x : Issue) (s : State) : Res := onHand x (s.branch x .bne fun a b => a != b)
def execBlt (x : Issue) (s : State) : Res := onHand x (s.branch x .blt fun a b => a.slt b)
def execBge (x : Issue) (s : State) : Res := onHand x (s.branch x .bge fun a b => !a.slt b)
def execBltu (x : Issue) (s : State) : Res := onHand x (s.branch x .bltu fun a b => a.ult b)
def execBgeu (x : Issue) (s : State) : Res := onHand x (s.branch x .bgeu fun a b => !a.ult b)
def execJal (x : Issue) (s : State) : Res :=
  onHand x (s.issue x .jal fun s h w =>
    s.setHand x { h.setReg (fA w) (h.pc + 1) with pc := h.pc + (imm25 w).signExtend 36 })
def execJalr (x : Issue) (s : State) : Res :=
  onHand x (s.issue x .jalr fun s h w =>
    s.setHand x { h.setReg (fA w) (h.pc + 1) with pc := h.reg (fB w) + (imm20 w).signExtend 36 })

/-! ### Narrow memory and tag instructions (R107-R112) -/

/-- The address of an M-format instruction (R107). -/
def memAddr (h : Hand) (w : Word) : WAddr := h.base (fAb w) + ((off22 w).signExtend 48) * 4

/-- A kind that may reach another unit of the cluster (Table SCR-5: LD, LDP, TWAIT). -/
def AccKind.remote : AccKind → Bool
  | .plainRead | .peek => true
  | _ => false

/-- The fault of an M-format address, lowest code; 0 for none (R107, R108, R62). -/
def State.memFault (s : State) (u : Nat) (k : AccKind) (a : WAddr) : Nat :=
  let inv := waInvalid a
  lowest (inv ++ (if a.toNat % 4 ≠ 0 then [0x12A] else []) ++
    (match spaceOf a with
      | .host => [0x129]
      | .well | .sync => [0x133]
      | .scratch =>
        if inv ≠ [] ∨ waUnit a = u then []
        else if waUnit a / 16 ≠ u / 16 ∨ k.remote = false then [0x134]
        else s.waUnavailable a))

/-- A hand's deadline, clamped so that R83 can represent it (R123). -/
def clampDeadline (d : Int) (c : Nat) : BitVec 16 :=
  BitVec.ofInt 16 (min (max d ((c : Int) - 32768)) ((c : Int) + 32767))

def State.handDeadline (s : State) (u : Nat) (h : Hand) : BitVec 16 :=
  clampDeadline ((s.unit u).planBase.toNat + h.planned.toNat + h.window.toNat : Nat) (s.aclkOf (clusterOf u))

/-- The request of a hand's narrow access: its own port, or the remote read port of another unit (Table SCR-5, R110). -/
def Narrow.request (n : Narrow) (u h : Nat) (e : Ecc) : Access :=
  { unit := n.unit, port := if n.unit = u then 6 else 7, agent := if n.unit = u then h else 8 * u + h,
    offset := if n.unit = u then n.offset else n.offset / 64 * 64, wide := decide (n.unit ≠ u), deadline := n.deadline,
    hold := if n.kind.isWrite then 2 else 1, keep := false, more := false, data := n.data.setWidth 576, nf := false, ecc := e }

/-- An M-format instruction: a fault, or a narrow access of the given kind. `rd` is 32 for no result. -/
def State.memOp (s : State) (i : Issue) (op : Op) (k : AccKind) (loads : Bool) (data : Hand → Word → Word) : State :=
  s.issue i op fun s h w =>
    let a := memAddr h w
    let u := i.unit
    let code := s.memFault u k a
    if code ≠ 0 then (s.noteAlign u code).handFault u i.hand code h.pc
    else
      let n : Narrow :=
        { kind := k, unit := waUnit a, offset := waOffset a, rd := if loads then fA w else 32, data := data h w,
          deadline := s.handDeadline u h, hint := 0, pc := h.pc }
      let h1 := { h.advance with narrow := some n, st := .dataWait }
      let s1 := s.setHand i (if loads then h1.unready (fA w) else h1)
      s1.request (n.request u i.hand i.ecc) k

def execLd (x : Issue) (s : State) : Res := onHand x (s.memOp x .ld .plainRead true fun _ _ => 0)
def execLdp (x : Issue) (s : State) : Res := onHand x (s.memOp x .ldp .peek true fun _ _ => 0)
def execLdt (x : Issue) (s : State) : Res := onHand x (s.memOp x .ldt .take true fun _ _ => 0)
def execSt (x : Issue) (s : State) : Res := onHand x (s.memOp x .st .plainWrite false fun h w => h.reg (fA w))
def execStf (x : Issue) (s : State) : Res := onHand x (s.memOp x .stf .fill false fun h w => h.reg (fA w))
def execSts (x : Issue) (s : State) : Res := onHand x (s.memOp x .sts .fillSeal false fun h w => h.reg (fA w))
def execSeal (x : Issue) (s : State) : Res := onHand x (s.memOp x .seal .seal false fun _ _ => 0)
def execTst (x : Issue) (s : State) : Res := onHand x (s.memOp x .tst .test true fun _ _ => 0)
/-- TAGSET: mode from rd bit 1 and state from rd bit 0 (R111). -/
def execTagset (x : Issue) (s : State) : Res := onHand x (s.memOp x .tagset .tagset false fun _ w => wd (fA w))
def execTwait (x : Issue) (s : State) : Res := onHand x (s.memOp x .twait .peek false fun _ _ => 0)

/-! ### Address bases (Table SCR-3) -/

def execAset (x : Issue) (s : State) : Res :=
  onHand x (s.issue x .aset fun s h w =>
    s.setHand x (h.setBase (fA w) (((h.reg (fB w)).setWidth 12).setWidth 48 <<< 36 ||| (h.reg (fC w)).setWidth 48)).advance)
def execAadd (x : Issue) (s : State) : Res :=
  onHand x (s.issue x .aadd fun s h w =>
    s.setHand x (h.setBase (fA w) (h.base (fB w) + (h.reg (fC w)).signExtend 48)).advance)
def execAaddi (x : Issue) (s : State) : Res :=
  onHand x (s.issue x .aaddi fun s h w =>
    s.setHand x (h.setBase (fA w) (h.base (fB w) + (imm20 w).signExtend 48)).advance)
def execAget (x : Issue) (s : State) : Res :=
  onHand x (s.issue x .aget fun s h w =>
    let a := h.base (fB w)
    s.setHand x (h.result (fA w) (if fFn w = 0 then a.setWidth 36 else (a >>> 36).setWidth 36)))

/-! ### Sync instructions (R113, R114, R237) -/

/-- The address of a sync instruction (R113). -/
def syncAddr (h : Hand) (w : Word) : WAddr := h.base (fAb w) + ((idx12 w).signExtend 48 <<< 20)

/-- The fault of a sync instruction's address (R113); availability is judged by the region controller (R63). -/
def syncFault (a : WAddr) : Nat :=
  lowest (waInvalid a ++ (if spaceOf a = .host then [0x129] else []) ++ (if spaceOf a ≠ .sync ∨ waPage a ≠ 0 ∨ waWord a ≠ 0 then [0x137] else []))

/-- The lowest free slot of a hand (R237). -/
def Hand.freeSlot (h : Hand) : Nat := ((List.range 8).find? fun k => h.posted.all fun p => p.1 ≠ k).getD 0

/-- SYNC: one posted message; the hand goes on (R113). -/
def execSync (x : Issue) (s : State) : Res :=
  onHand x (s.issue x .sync fun s h w =>
    let a := syncAddr h w
    let code := syncFault a
    if code ≠ 0 then s.handFault x.unit x.hand code h.pc
    else
      let k := h.freeSlot
      let m := s.syncMsg x.unit (waSyncRegion a) a (BitVec.ofNat 16 (x.hand + 8 * k)) (h.reg (fRs w)) (fSop w)
      (s.setHand x { h.advance with posted := h.posted ++ [(k, h.pc)] }).send m)

/-- SYNCR: the hand waits for the reply (R113). -/
def execSyncr (x : Issue) (s : State) : Res :=
  onHand x (s.issue x .syncr fun s h w =>
    let a := syncAddr h w
    let code := syncFault a
    if code ≠ 0 then s.handFault x.unit x.hand code h.pc
    else
      let m := s.syncMsg x.unit (waSyncRegion a) a (BitVec.ofNat 16 (x.hand + 64)) (h.reg (fRs w)) (fSop w)
      (s.setHand x ({ h.advance with reply := some (fA w, h.pc), st := .replyWait }.unready (fA w))).send m)

/-- FENCE: the hand waits until all its posted SYNCs are acknowledged (R114); the last acknowledgement lets it go on. -/
def execFence (x : Issue) (s : State) : Res :=
  onHand x (s.issue x .fence fun s h _ =>
    s.setHand x (if h.posted = [] then h.advance else { h with st := .replyWait }))

/-! ### Commands, control and special registers (R115, R122-R126) -/

/-- The fault of an ISSUE's block address (R115). -/
def issueFault (u : Nat) (a : WAddr) : Nat :=
  let inv := waInvalid a
  lowest (inv ++ (if spaceOf a = .host then [0x129] else []) ++ (if spaceOf a ≠ .scratch ∨ (inv = [] ∧ waUnit a ≠ u) then [0x134] else []) ++
    (if spaceOf a = .scratch ∧ waOffset a % 64 ≠ 0 then [0x12B] else []))

/-- The sequence number that the next command of an engine gets (R115). -/
def Unit.issuedBy (x : Unit) (eng : Nat) : Word :=
  match eng with
  | 0 => x.mxa.issued
  | 1 => x.stroke.issued
  | _ => x.mover.issued

/-- Places a command in an engine's queue (R115). -/
def Unit.enqueue (x : Unit) (eng off : Nat) : Unit :=
  let q : Queued := { offset := off, seq := x.issuedBy eng }
  match eng with
  | 0 => { x with mxa := { x.mxa with queue := x.mxa.queue ++ [q], issued := x.mxa.issued + 1 } }
  | 1 => { x with stroke := { x.stroke with queue := x.stroke.queue ++ [q], issued := x.stroke.issued + 1 } }
  | _ => { x with mover := { x.mover with queue := x.mover.queue ++ [q], issued := x.mover.issued + 1 } }

def execIssue (x : Issue) (s : State) : Res :=
  onHand x (s.issue x .issue fun s h w =>
    let a := h.base (fAb w) + ((imm20 w).signExtend 48) * 64
    let code := issueFault x.unit a
    if code ≠ 0 then (s.noteAlign x.unit code).handFault x.unit x.hand code h.pc
    else
      let seq := (s.unit x.unit).issuedBy (fEng w)
      (s.setHand x (h.result (fA w) seq)).updUnit x.unit fun y => y.enqueue (fEng w) (waOffset a))

/-- HSTART: starts an idle hand; 0x136 otherwise. -/
def execHstart (x : Issue) (s : State) : Res :=
  onHand x (s.issue x .hstart fun s h w =>
    let t := fA w
    if ((s.unit x.unit).hand t).st ≠ .idle then s.handFault x.unit x.hand 0x136 h.pc
    else
      (s.setHand x h.advance).updUnit x.unit fun y =>
        { y.updHand t fun z => { z with st := .ready, pc := h.reg (fB w) } with recency := y.recency.erase t })

def execHalt (x : Issue) (s : State) : Res :=
  onHand x (s.issue x .halt fun s h _ => s.setHand x { h with st := .idle })

def execRaise (x : Issue) (s : State) : Res :=
  onHand x (s.issue x .raise fun s h w => s.handFault x.unit x.hand ((h.reg (fB w)).toNat % 4096) h.pc)

/-- The slip counters at a checkpoint or the start of an engine command, for planned offset `p` (R124). -/
def State.checkpoint (s : State) (u : Nat) (p : Word) : State :=
  let rg := regionOf u
  let lag : Int := ((s.cycle u).toNat : Int) - ((s.unit u).planBase.toNat + p.toNat : Nat)
  let old := (s.p1 rg (scrIdx u 1)).toNat
  let last := (min (max lag 0) (2 ^ 36 - 1)).toNat
  let top := (s.p1 rg 4224).toNat
  let s1 := (s.setP1 rg (scrIdx u 1) (wd last)).updP1 rg (scrIdx u 0) fun w => wd (max w.toNat last)
  if top < last ∧ old ≤ top then (s1.seeP1 rg (scrIdx u 2) 28).raiseUnit u 0x024 last else s1

def execPlan (x : Issue) (s : State) : Res :=
  onHand x (s.issue x .plan fun s h w =>
    let p := h.planned + (imm25 w).setWidth 36
    (s.setHand x { h.advance with planned := p }).checkpoint x.unit p)

def execPlanr (x : Issue) (s : State) : Res :=
  onHand x (s.issue x .planr fun s h w =>
    let p := h.reg (fB w)
    (s.setHand x { h.advance with planned := p }).checkpoint x.unit p)

/-- The special registers (Table SCR-8); none for an index that is not listed. PBASE_LO reads as it was written last, also while it
is staged (DESIGN CHOICE, log 115). -/
def State.specialReg (s : State) (u n : Nat) (h : Hand) (i : Nat) : Option Word :=
  let x := s.unit u
  match i with
  | 0 => some (wd n)
  | 1 => some (wd u)
  | 2 => some ((s.epoch u).setWidth 36)
  | 3 => some ((s.cycle u).setWidth 36)
  | 4 => some ((s.cycle u >>> 36).setWidth 36)
  | 5 => some x.pbaseLo
  | 6 => some ((x.planBase >>> 36).setWidth 36)
  | 7 => some h.planned
  | 8 => some (h.window.setWidth 36)
  | 9 => some (h.prio.setWidth 36)
  | 10 => some (s.p1 (regionOf u) (scrIdx u 1))
  | 11 => some (s.p1 (regionOf u) (scrIdx u 0))
  | 12 => some (boolWord x.nf)
  | _ => none

/-- RDSR: the value can be used after 2 ACLK (R105). -/
def execRdsr (x : Issue) (s : State) : Res :=
  onHand x (s.issue x .rdsr fun s h w =>
    match s.specialReg x.unit x.hand h (imm20 w).toNat with
    | none => s.handFault x.unit x.hand 0x138 h.pc
    | some v => s.setHand x (h.setLate (fA w) v (s.aclkOf (clusterOf x.unit) + 2)).advance)

/-- WRSR: PBASE_LO stages, PBASE_HI commits both halves (R122); the rest are the hand's own. -/
def execWrsr (x : Issue) (s : State) : Res :=
  onHand x (s.issue x .wrsr fun s h w =>
    let v := h.reg (fB w)
    match (imm20 w).toNat with
    | 5 => (s.setHand x h.advance).updUnit x.unit fun y => { y with pbaseLo := v }
    | 6 => (s.setHand x h.advance).updUnit x.unit fun y =>
        { y with planBase := ((v.setWidth 28).setWidth 64 <<< 36) ||| y.pbaseLo.setWidth 64 }
    | 7 => s.setHand x { h.advance with planned := v }
    | 8 => s.setHand x { h.advance with window := v.setWidth 12 }
    | 9 => s.setHand x { h.advance with prio := v.setWidth 2 }
    | _ => s.handFault x.unit x.hand 0x138 h.pc)

/-! ### Invalid instructions, back-off, unit control -/

/-- A fetch outside the script store (0x132, R100) or of a word that is no instruction (0x131, R104). -/
def execInvalidInstruction (x : Issue) (s : State) : Res :=
  onHand x (
    let s0 := s.settled x
    let y := s0.unit x.unit
    let h := y.hand x.hand
    if !y.chosen x x.hand then s0
    else if 32768 ≤ h.pc.toNat then s0.handFault x.unit x.hand 0x132 h.pc
    else
      match opOf (y.script.get 0 h.pc.toNat), s0.fetched x.unit x.hand x.fetch with
      | some _, _ => s
      | none, (s1, false) => s1
      | none, (s1, true) => s1.handFault x.unit x.hand 0x131 h.pc)

/-- The turn hint of a backed-off request has expired: the request is presented again, unchanged (R121). -/
def execBackOffExpiry (x : Issue) (s : State) : Res :=
  onHand x (
    let h := (s.unit x.unit).hand x.hand
    match h.st, h.narrow with
    | .backOff, some n =>
      (s.setHand x { h with st := .dataWait }).request (n.request x.unit x.hand x.ecc) n.kind
    | _, _ => s)

/-- Page 1 index of the control words of a unit (R128). -/
def ctlIdx (u k : Nat) : Nat := 3584 + u % 320 * 2 + k

def Unit.allIdle (x : Unit) : Bool := (List.range 8).all fun h => (x.hand h).st == .idle

/-- What the check finds on access `i` of a command. -/
def errAt (errs : Errs) (i : Nat) : Ecc := ((errs.find? fun e => e.1 == i).map (·.2)).getD .clean

/-- Copies script rows from `q` on, row `i` of `n` left, through the maintenance port (R99); a read that is uncorrectable ends the load
(R91). A row whose bank cannot be had waits there, and the load goes on with it the next time. -/
def State.loadScript (s : State) (u q i : Nat) (errs : Errs) : Nat → State
  | 0 => s.updUnit u fun x => { x with loadRows := 0 }
  | n + 1 =>
    let a := s.agentAccess 10 maintScript u (q + i) (n + 1) (decide (0 < n ∧ (q + i) / 3072 = (q + i + 1) / 3072)) 0 false (errAt errs i)
    match s.portAccess a .plainRead with
    | (t, .done 0 d _) =>
      let t1 := t.updUnit u fun x =>
        { x with script := (List.range 16).foldl (fun m j => m.set 0 (16 * i + j) (wordOf d j)) x.script }
      State.loadScript t1 u q (i + 1) errs n
    | (t, .done _ _ _) => t.updUnit u fun x => { x with loadRows := 0 }
    | (t, .wait) => t.updUnit u fun x => { x with loadRows := i }

/-- A unit that nothing reaches: no hardware serves it, its region is withdrawn, or its clock is gated (R50, R57, R219, R407, R410). -/
def State.silent (s : State) (u : Nat) : Bool :=
  s.absent u || (s.svc (regionOf u)).withdrawn || (s.cluster (clusterOf u)).stopped

/-- The script load of a unit: refused with 0x139 on a bad image, else the script words are copied (R99). It is ignored
unless all hands are idle, and by a unit that nothing reaches; one that waits for a bank goes on from the row that waits (log 18). -/
def State.scriptLoad (s : State) (unit : Nat) (errs : Errs) : State :=
  if !(s.unit unit).allIdle || s.silent unit then s
  else
    let w := s.p1 (regionOf unit) (ctlIdx unit 1)
    let off := field w 0 22
    let n := field w 22 12
    if off % 64 ≠ 0 ∨ n = 0 ∨ 2048 < n ∨ scratchNonets < off + 64 * n then
      (s.raiseUnit unit 0x139 w.toNat).report (causeOf 0x139 unit none)
    else
      let i := (s.unit unit).loadRows
      s.loadScript unit (off / 64) i errs (n - i)

def execScriptLoad (unit : Nat) (errs : Errs) (s : State) : Res := onUnit unit (s.scriptLoad unit errs)

/-- Go: special registers, registers, slip counters and sequence numbers reset; the mover's records and slots and the
array's entries and weight set are cleared; hand 0 starts at start_pc and no hand is shown halted any more (R126, R128,
R132, R187, R192). It is ignored unless all hands are idle, and by a unit that nothing reaches (R50, R219, R410). -/
def State.go (s : State) (unit : Nat) : State :=
  let x := s.unit unit
  if !x.allIdle || s.silent unit then s
  else
    let rg := regionOf unit
    let pc := field (s.p1 rg (ctlIdx unit 0)) 0 15
    let x1 : Unit := { x with
      hands := [], recency := [], pbaseLo := 0, planBase := 0,
      mxa := { x.mxa with issued := 0, entries := [], active := none, shadow := none },
      stroke := { x.stroke with issued := 0 },
      mover := { x.mover with issued := 0, records := [], slots := [] } }
    let s1 := s.setUnit unit (x1.setHand 0 { Hand.reset with st := .ready, pc := wd pc })
    ((s1.setP1 rg (scrIdx unit 0) 0).setP1 rg (scrIdx unit 1) 0).updP1 rg (scrIdx unit 2) fun w => putField w 8 8 0

def execGo (unit : Nat) (s : State) : Res := onUnit unit (s.go unit)

/-- UNIT_STOP: every hand becomes idle (R480). -/
def execUnitStop (unit : Nat) (s : State) : Res := onUnit unit (s.stopHands unit)

/-- Every engine of the unit discards its queue, its commands and its buffers (R354). The record table, slots, current weight set
and issue counts stay (log 43). -/
def Unit.flush (x : Unit) : Unit :=
  { x with
    mxa := { Mxa.reset with issued := x.mxa.issued, active := x.mxa.active },
    stroke := { Stroke.reset with issued := x.stroke.issued },
    mover := { Mover.reset with
      issued := x.mover.issued, records := x.mover.records, slots := x.mover.slots, tag := x.mover.tag },
    ink := [] }

/-- The mover requests of unit `u` that wait at a unit of another cluster are withdrawn (R354): the messages that ask for them, and their
requests at the mover ports there. -/
def Bank.withdrawMover (b : Bank) (u : Nat) : Bank :=
  let mine (q : Req) : Bool := !q.own && (q.acc.port == 8 || q.acc.port == 9) && q.acc.agent == u
  { b with waiting := b.waiting.filter fun q => !mine q, parked := b.parked.filter fun q => !mine q }

/-- The message comes from unit `u`. -/
def mineOf (m : Msg) (u : Nat) : Bool := m.srcKind == 0 && m.srcUnit == u

def Unit.withdrawMover (x : Unit) (u : Nat) : Unit :=
  ({ x with inbound := x.inbound.filter fun m => !mineOf m u }).mapBanks (·.withdrawMover u)

def State.withdrawMover (s : State) (u : Nat) : State :=
  (s.units.filter fun e => e.2.inbound.any (mineOf · u)).foldl (fun t e => t.updUnit e.1 fun x => x.withdrawMover u) s

/-- FLUSH: flushes the engines and withdraws their requests; those that waited behind their grants are then served. -/
def State.flushUnit (s : State) (u : Nat) : State :=
  ((s.updUnit u Unit.flush).leavePorts u [0, 1, 2, 3, 4, 5, 8, 9]).withdrawMover u

def execFlush (unit : Nat) (s : State) : Res := onUnit unit (s.flushUnit unit)

end Sys2Proof.Machine
end

