-- ==== Sys2Proof/Machine/Sha.lean ====
section
/-! DEFINITION. SHA-256 (FIPS 180-4), which R29 names for the random bits of stochastic rounding and R310 for digests,
and the rounding bits of R29. -/

namespace Sys2Proof.Sha

/-- The eight words of a hash value, and the working variables of a block, the first word first. -/
structure Vars where
  a : BitVec 32
  b : BitVec 32
  c : BitVec 32
  d : BitVec 32
  e : BitVec 32
  f : BitVec 32
  g : BitVec 32
  h : BitVec 32
deriving DecidableEq, Repr

/-- Word `i` of a number of `n` words, the most significant word first. -/
def wordAt (n v i : Nat) : BitVec 32 := BitVec.ofNat 32 (v / 2 ^ (32 * (n - 1 - i)))

def Vars.ofNat (v : Nat) : Vars :=
  ⟨wordAt 8 v 0, wordAt 8 v 1, wordAt 8 v 2, wordAt 8 v 3, wordAt 8 v 4, wordAt 8 v 5, wordAt 8 v 6, wordAt 8 v 7⟩

def Vars.words (v : Vars) : List (BitVec 32) := [v.a, v.b, v.c, v.d, v.e, v.f, v.g, v.h]

/-- The initial hash value, its words joined. -/
def start : Vars := Vars.ofNat 0x6a09e667bb67ae853c6ef372a54ff53a510e527f9b05688c1f83d9ab5be0cd19

/-- The 64 constants of the rounds, sixteen to a number. -/
def constants (i : Nat) : BitVec 32 :=
  wordAt 16 (match i / 16 with
    | 0 => 0x428a2f9871374491b5c0fbcfe9b5dba53956c25b59f111f1923f82a4ab1c5ed5d807aa9812835b01243185be550c7dc372be5d7480deb1fe9bdc06a7c19bf174
    | 1 => 0xe49b69c1efbe47860fc19dc6240ca1cc2de92c6f4a7484aa5cb0a9dc76f988da983e5152a831c66db00327c8bf597fc7c6e00bf3d5a7914706ca635114292967
    | 2 => 0x27b70a852e1b21384d2c6dfc53380d13650a7354766a0abb81c2c92e92722c85a2bfe8a1a81a664bc24b8b70c76c51a3d192e819d6990624f40e3585106aa070
    | _ => 0x19a4c1161e376c082748774c34b0bcb5391c0cb34ed8aa4a5b9cca4f682e6ff3748f82ee78a5636f84c878148cc7020890befffaa4506cebbef9a3f7c67178f2) (i % 16)

/-- Three copies of a word, rotated right by `p` and `q` and rotated or shifted by `r`. -/
def stir (x : BitVec 32) (p q r : Nat) (rot : Bool) : BitVec 32 :=
  (if rot then x.rotateRight r else x >>> r) ^^^ (x.rotateRight q ^^^ x.rotateRight p)

/-- The schedule word that follows a window of sixteen. -/
def follow (w : List (BitVec 32)) : BitVec 32 :=
  let near := stir (w.getD 14 0) 17 19 10 false
  let far := stir (w.getD 1 0) 7 18 3 false
  (w.headD 0 + w.getD 9 0) + (near + far)

/-- One round, with the sum of its constant and its schedule word. -/
def turn (v : Vars) (kw : BitVec 32) : Vars :=
  let pick := v.g ^^^ (v.e &&& (v.f ^^^ v.g))
  let vote := (v.a &&& (v.b ||| v.c)) ||| (v.b &&& v.c)
  let x := kw + v.h + pick + stir v.e 6 11 25 true
  { a := x + (vote + stir v.a 2 13 22 true), b := v.a, c := v.b, d := v.c, e := x + v.d, f := v.e, g := v.f, h := v.g }

/-- The last `n` of the 64 rounds, with the window of schedule words that the next one starts. -/
def turns : Nat → List (BitVec 32) → Vars → Vars
  | 0, _, v => v
  | n + 1, w, v => turns n (w.tail ++ [follow w]) (turn v (w.headD 0 + constants (63 - n)))

/-- The SHA-256 compression function on sixteen words, with the final addition of the input state (R29). -/
def compress (x : Vars) (m : List (BitVec 32)) : Vars :=
  let y := turns 64 m x
  ⟨x.a + y.a, x.b + y.b, x.c + y.c, x.d + y.d, x.e + y.e, x.f + y.f, x.g + y.g, x.h + y.h⟩

/-- sr_bits of R29. -/
def srBits (seed step : BitVec 64) (tensor : BitVec 32) (index : BitVec 64) : BitVec 32 :=
  let blk := index >>> 3
  let m : List (BitVec 32) :=
    [seed.extractLsb' 32 32, seed.extractLsb' 0 32, step.extractLsb' 32 32, step.extractLsb' 0 32, tensor,
     blk.extractLsb' 32 32, blk.extractLsb' 0 32, 0x53524E44] ++ List.replicate 8 0
  (compress start m).words.getD (index.toNat % 8) 0

/-- The words of a block of 64 octets, big-endian. -/
def wordsOf : List Octet → List (BitVec 32)
  | a :: b :: c :: d :: r => (a ++ b ++ c ++ d) :: wordsOf r
  | _ => []

/-- The padding of a message of n octets (FIPS 180-4). -/
def padding (n : Nat) : List Octet :=
  (0x80 : Octet) :: (List.replicate ((119 - n % 64) % 64) (0 : Octet) ++
    (List.range 8).map fun i => BitVec.ofNat 8 (8 * n / 256 ^ (7 - i)))

/-- The hash value after `n` blocks of a message. -/
def absorb : Nat → Vars → List Octet → Vars
  | 0, x, _ => x
  | n + 1, x, m => absorb n (compress x (wordsOf (m.take 64))) (m.drop 64)

/-- SHA-256 of a list of octets. -/
def sha256 (m : List Octet) : BitVec 256 :=
  let p := m ++ padding m.length
  let x := absorb (p.length / 64) start p
  BitVec.ofNat 256 (x.words.foldl (fun n w => n * 2 ^ 32 + w.toNat) 0)

/-- The 32 octets of a digest, first octet first. -/
def digestOctets (d : BitVec 256) : List Octet := (List.range 32).map fun i => d.extractLsb' (8 * (31 - i)) 8

end Sys2Proof.Sha
end

