-- ==== Sys2Proof/Machine/Engine.lean ====
section
/-! DEFINITION. What the three engines share: taking a command block, the header checks, elements of rows, and the
completion put with its notification (R115-R118, R481). -/

namespace Sys2Proof.Machine

/-- Field of word `j` of a command block. -/
def blk (b : Row) (j lo len : Nat) : Nat := field (wordOf b j) lo len

/-! ### Header (Table SCR-6, R117) -/

def cplOffset (b : Row) : Nat := blk b 2 0 22
def plannedStart (b : Row) : Word := wordOf b 1

/-- cpl_offset is no valid, wide-aligned offset of the own scratchpad (R117 step 2). -/
def headerDrops (b : Row) : Bool := decide (cplOffset b % 64 ≠ 0) || decide (scratchNonets ≤ cplOffset b)

/-- The operations of Table NET-8. -/
def sopDefined (sop : Nat) : Bool := [0, 1, 2, 3, 8, 16, 17, 18, 24, 25, 26, 27, 31].contains sop

def ntfEnabled (b : Row) : Bool := blk b 3 25 1 == 1
/-- A notification that cannot be sent (R117 step 3). -/
def ntfBad (b : Row) : Bool := ntfEnabled b && (decide (48 ≤ blk b 3 14 6) || !sopDefined (blk b 3 20 5))

/-- The header gives 0x135 (R117 step 3); `eng` counts from 0. -/
def headerBad (b : Row) (eng : Nat) : Bool :=
  blk b 0 0 4 != eng + 1 || blk b 0 4 12 != 0 || blk b 0 28 8 != 0 || blk b 2 22 14 != 0 || blk b 3 26 10 != 0 ||
    ntfBad b

/-- Bits `[35:lo]` of word `j` are not zero. -/
def above (b : Row) (j lo : Nat) : Bool := blk b j lo (36 - lo) != 0

/-- The planned start cycle P of a command (R124), and the hold that its requests declare. -/
def State.planOf (s : State) (u : Nat) (b : Row) : Int := (((s.unit u).planBase.toNat + (plannedStart b).toNat : Nat) : Int)
def cmdHold (b : Row) : BitVec 12 := BitVec.ofNat 12 (blk b 0 16 12)

/-- A completion: status, attribute and words 1 to 3 (R117, R118); `plan` is the put's planned cycle, none for a command that
executed nothing. -/
def mkCpl (b : Row) (seq : Word) (status : Nat) (nf : Bool) (w1 w2 w3 : Word) (plan : Option Int) : Cpl :=
  { status := BitVec.ofNat 12 status, nf := nf, seq := seq, w1 := w1, w2 := w2, w3 := w3, offset := cplOffset b, progress := 0,
    ntf := if ntfEnabled b && !ntfBad b then some (blk b 3 0 14, blk b 3 14 6, blk b 3 20 5) else none,
    plan := plan.map fun d => (d, cmdHold b) }

/-- How an engine makes an access: its port, the planned cycle of the request, its declared hold, and whether the port's next
access is at the same bank (R82, R85, R123). -/
structure Via where
  port : Nat
  plan : Int
  hold : BitVec 12
  keep : Bool

/-- An access of unit `u`'s engine to row `q` of unit `v`: a row of another unit is read through that unit's remote read port, or
reached through its mover ports (R53, Table SPD-5). An absent unit gives 0x127, a withdrawn region 0x128 (R63). -/
def State.engineAccess (s : State) (u v q : Nat) (k : AccKind) (p : Via) (d : Row) (nf : Bool) (e : Ecc) : State × AccOut :=
  if s.absent v then (s, .done 0x127 0 false)
  else if (s.svc (regionOf v)).withdrawn then (s, .done 0x128 0 false)
  else s.portAccess
    { unit := v, port := if v = u ∨ p.port = 9 then p.port else 7,
      agent := if p.port = 9 then u else if v = u then (if p.port = 8 then u else 0) else 8 * u + min p.port 7,
      offset := 64 * q, wide := true, deadline := clampDeadline p.plan (s.aclkOf (clusterOf v)), hold := p.hold, keep := p.keep,
      more := false, data := d, nf := nf, ecc := e } k

/-- The read latency of row `q` of unit `v` for an engine of unit `u` (Table SPD-2, R72). -/
def latency (u v q : Nat) : Int :=
  if u = v then (if q < 8 * 3072 then 2 else 3) else 10 + (((u % 16 / 4 : Nat) : Int) - ((v % 16 / 4 : Nat) : Int)).natAbs

/-- Rows `q` and `q'` of two units lie in one bank. -/
def sameBank (v q v' q' : Nat) : Bool := v == v' && q / 3072 == q' / 3072

/-- The port through which an engine reads its command blocks, "its own port" (DEDUCED, log 116). -/
def blockPort (eng : Nat) : Nat := match eng with | 0 => 0 | 1 => 2 | _ => 8

/-- What taking a command comes to. -/
inductive Take where
  /-- The read of the block waits at its bank; the command stays in the queue. -/
  | waits (s : State)
  /-- Nothing executes and nothing completes: the read failed or the header names no completion row. -/
  | dropped (s : State)
  /-- The block, and the status of its header: 0 or 0x135. -/
  | block (s : State) (b : Row) (code : Nat)

/-- Reads and checks a command block (R117): deadline the cycle in which it is taken, hold 1. -/
def State.takeBlock (s : State) (u eng : Nat) (q : Queued) (e : Ecc) : Take :=
  match s.engineAccess u u (q.offset / 64) .plainRead
      { port := blockPort eng, plan := (s.aclkOf (clusterOf u) : Int), hold := 1, keep := false } 0 false e with
  | (t, .done 0 b _) =>
    if headerDrops b then .dropped (((t.stopHands u).raiseUnit u 0x135 0).report (causeOf 0x135 u none))
    else .block t b (if headerBad b eng then 0x135 else 0)
  | (t, .done _ _ _) => .dropped t
  | (t, .wait) => .waits t

/-! ### Elements of rows (R10, R11) -/

/-- The code of element `j` of a row of a format. -/
def elemCode (fmt : Nat) (r : Row) (j : Nat) : Nat := r.toNat >>> (9 * Num.size fmt * j) % 2 ^ (9 * Num.size fmt)

/-- Rows from the codes of consecutive elements of `size` nonets. -/
def packCodes (size : Nat) (codes : List Nat) : Nat :=
  (codes.foldr (fun c acc => acc <<< (9 * size) ||| c) 0)

/-- Row `t` of a run of rows held as one number. -/
def rowAt (n t : Nat) : Row := BitVec.ofNat 576 (n >>> (576 * t))

/-- The random bits of an element (R29, R141), needed by modes 4 and 5 only. -/
def Unit.random (x : Unit) (rnd tensor index : Nat) : Nat :=
  if rnd = 4 ∨ rnd = 5 then (Sha.srBits x.seed x.step (BitVec.ofNat 32 tensor) (BitVec.ofNat 64 index)).toNat else 0

/-- Sets the unit's sticky non-finite flag (R40). -/
def State.noteNf (s : State) (u : Nat) (nf : Bool) : State := if nf then s.updUnit u fun x => { x with nf := true } else s

/-! ### Completion (R117, R118) -/

/-- Completions of an engine, and the sequence numbers of its result rows not yet written. -/
def Unit.cplsOf (x : Unit) (eng : Nat) : List Cpl :=
  match eng with | 0 => x.mxa.cpls | 1 => x.stroke.cpls | _ => x.mover.cpls
def Unit.setCpls (x : Unit) (eng : Nat) (l : List Cpl) : Unit :=
  match eng with
  | 0 => { x with mxa := { x.mxa with cpls := l } }
  | 1 => { x with stroke := { x.stroke with cpls := l } }
  | _ => { x with mover := { x.mover with cpls := l } }
def Unit.rowsOwed (x : Unit) (eng : Nat) : List Word :=
  match eng with | 0 => x.mxa.outq.map (·.seq) | 1 => x.stroke.outq.map (·.seq) | _ => []

/-- The completion row (R118). -/
def Cpl.row (c : Cpl) : Row :=
  rowOfWords [wd (c.status.toNat + c.nf.toNat * 2 ^ 12 + c.seq.toNat % 2 ^ 20 * 2 ^ 16), c.w1, c.w2, c.w3]

/-- The port of an engine's completion put (Table SPD-5). -/
def cplPort (eng : Nat) : Nat := match eng with | 0 => 4 | 1 => 5 | _ => 9

/-- The tag of an engine's notification (log 16). -/
def ntfTag (eng : Nat) : BitVec 16 := BitVec.ofNat 16 (0x8000 + eng)

/-- The planned cycle and hold of a completion put: those of its command, or the present cycle and 1 (R117). -/
def State.cplVia (s : State) (u eng : Nat) (c : Cpl) : Via :=
  let p := c.plan.getD ((s.aclkOf (clusterOf u) : Int), 1)
  { port := cplPort eng, plan := p.1, hold := p.2, keep := false }

/-- The put of the oldest completion, once its result rows are written; the put waits while the row is full. The
notification follows (R117, R147, R176). -/
def State.putCompletion (s : State) (u eng : Nat) : State :=
  let x := s.unit u
  match x.cplsOf eng with
  | [] => s
  | c :: rest =>
    if (x.rowsOwed eng).contains c.seq then s
    else
      match s.engineAccess u u (c.offset / 64) .put (s.cplVia u eng c) c.row c.nf .clean with
      | (t, .wait) => t
      | (t, .done _ _ _) =>
        let t1 := t.updUnit u fun y => y.setCpls eng rest
        match c.ntf with
        | none => t1
        | some (obj, rg, sop) => t1.send (t1.syncMsg u rg (waSync rg obj) (ntfTag eng) 1 sop)

def execCompletionPut (unit engine : Nat) (s : State) : Res :=
  guardRes (decide (unit < 15360 ∧ engine < 3)) (s.putCompletion unit engine)

/-- A parity mismatch in an engine (R152, R180, R215): hands stop, event, abort with the engine's test. -/
def State.parityStop (s : State) (u code test idx : Nat) : State :=
  let rg := regionOf u
  ((s.stopHands u).raiseUnit u code (s.p1 rg idx).toNat).report
    (causeOf code u (some { code := test, region := rg, target := u, part := 0 }))

/-- What an engine's loads come to; `idx` numbers the next access. -/
inductive Load where
  | ready (s : State) (idx : Nat)
  | wait (s : State) (idx : Nat)
  | fail (s : State) (status : Nat)

def kindOf (k : Nat) : AccKind := match k with | 0 => .plainRead | 1 => .peek | _ => .take

/-- A run of rows of a unit's scratchpad: unit, offset, rows. -/
structure Span where
  unit : Nat
  off : Nat
  rows : Nat
deriving DecidableEq, Repr

/-- The faults of a span's offset and range (R60, R69, and `past` for a range that runs past the end). -/
def State.spanFaults (s : State) (past : Nat) (p : Span) : List Nat :=
  (if scratchNonets ≤ p.off then [0x123] else []) ++ (if p.off % 64 ≠ 0 then [0x12B] else []) ++
    (if p.off < scratchNonets ∧ scratchNonets < p.off + 64 * p.rows then [past] else []) ++
    (if s.absent p.unit then [0x127] else []) ++ (if (s.svc (regionOf p.unit)).withdrawn then [0x128] else [])

/-- Two spans share a nonet. -/
def Span.meets (p q : Span) : Bool :=
  p.unit == q.unit && decide (0 < p.rows ∧ 0 < q.rows ∧ p.off < q.off + 64 * q.rows ∧ q.off < p.off + 64 * p.rows)

/-- The units of this unit's cluster by number mod 16. -/
def mate (u k : Nat) : Nat := u / 16 * 16 + k

end Sys2Proof.Machine
end

