-- ==== Sys2Proof/Machine/Mover.lean ====
section
/-! DEFINITION. The tensor mover (spec/07): allocation records, descriptors and owner tables, the command checks,
copies, gathers and scatters. A command runs element by element: rows of the own cluster are read and written through the ports
of their scratchpads, every other row is asked for and written with a message over the network (R184, R213). A command that must
wait for a bank, a tag or an answer keeps its place in `Mover.cur` and goes on from there (log 18). -/

namespace Sys2Proof.Machine

open Sys2Proof.Num

/-! ### Linear offsets (R186, Table MOV-2) -/

/-- Offset of an address in its structure. -/
def linOf (a : WAddr) : Nat :=
  match spaceOf a with
  | .scratch => waOffset a
  | .well => waGranule a * 512 + waNonet a
  | .sync => waIndex a
  | .host => waHostOffset a

/-- The structure of an address, as the address of its offset 0. -/
def structOf (a : WAddr) : WAddr :=
  match spaceOf a with
  | .scratch => BitVec.ofNat 48 (waUnit a * 2 ^ 22)
  | .well => BitVec.ofNat 48 (2 ^ 46 + waWellRegion a * 2 ^ 39)
  | .sync => BitVec.ofNat 48 (2 ^ 47 + waSyncRegion a * 2 ^ 34 + 2 ^ 16)
  | .host => BitVec.ofNat 48 (3 * 2 ^ 46 + waSlot a * 2 ^ 42)

/-- The size of a host window in nonets (R396). -/
def State.slotSize (s : State) (k : Nat) : Nat :=
  (s.bar (0x2008 + 0x20 * k)).toNat + field (s.bar (0x200C + 0x20 * k)) 0 10 * 2 ^ 32

/-- Offsets of a structure (Table MOV-2). -/
def State.linLimit (s : State) (a : WAddr) : Nat :=
  match spaceOf a with
  | .scratch => scratchNonets
  | .well => granules * 512
  | .sync => 16384
  | .host => s.slotSize (waSlot a)

/-- The row that holds an offset of a structure, and the nonet of the row. In the sync and control space a register is a
row of its own. -/
def rowOfLin (st : WAddr) (lin : Nat) : WAddr × Nat :=
  match spaceOf st with
  | .scratch => (st + BitVec.ofNat 48 (lin / 64 * 64), lin % 64)
  | .well => (st + BitVec.ofNat 48 (lin / 512 * 2 ^ 12 + lin % 512 / 64 * 64), lin % 64)
  | .sync => (st + BitVec.ofNat 48 (lin * 2 ^ 20), 0)
  | .host => (st + BitVec.ofNat 48 (lin / 64 * 64), lin % 64)

/-! ### Command words (Tables MOV-5, MOV-6) -/

def mvOp (b : Row) : Nat := blk b 4 0 4
def mvSlotA (b : Row) : Nat := blk b 4 4 6
def mvSlotB (b : Row) : Nat := blk b 4 10 6
def mvSlotC (b : Row) : Nat := blk b 4 16 6
def mvAKind (b : Row) : Nat := blk b 4 22 2
def mvPut (b : Row) : Bool := blk b 4 24 1 == 1
def mvTranspose (b : Row) : Bool := blk b 4 25 1 == 1
def mvSOp (b : Row) : Nat := blk b 4 26 2
def mvRowOffset (b : Row) : Nat := blk b 5 0 22
def mvFirst (b : Row) : Nat := blk b 6 0 6
def mvNRec (b : Row) : Nat := blk b 6 6 7

/-- The bits of word 4 that an operation does not use (Table MOV-6). -/
def mvUnused4 (op : Nat) : List (Nat × Nat) :=
  match op with
  | 1 => [(4, 32)]
  | 2 => [(10, 26)]
  | 3 => [(10, 26)]
  | 4 => [(16, 6), (26, 10)]
  | 5 => [(25, 11)]
  | _ => [(25, 1), (28, 8)]

/-- R195 is broken: a reserved operation, an unused field that is not zero, or bad record numbers. -/
def mvFieldsBad (b : Row) : Bool :=
  let op := mvOp b
  op == 0 || decide (6 < op) || (mvUnused4 op).any (fun p => blk b 4 p.1 p.2 != 0) ||
    (if op = 1 ∨ op = 2 then above b 5 22 else wordOf b 5 != 0) ||
    (if op = 1 then above b 6 13 || mvNRec b == 0 || decide (64 < mvNRec b ∨ 64 < mvFirst b + mvNRec b)
      else wordOf b 6 != 0) ||
    (List.range 9).any fun i => wordOf b (7 + i) != 0

/-! ### Descriptors (Table MOV-4, R189-R191) -/

def dBase (d : Row) : WAddr := BitVec.ofNat 48 (blk d 0 0 36 + blk d 1 0 12 * 2 ^ 36)
def dFmt (d : Row) : Nat := blk d 1 12 4
def dRank (d : Row) : Nat := blk d 1 16 3
def dPolicy (d : Row) : Nat := blk d 1 19 2
def dRecord (d : Row) : Nat := blk d 1 21 6
def dDistributed (d : Row) : Bool := blk d 1 27 1 == 1
def dSize (d : Row) (k : Nat) : Nat := blk d (2 + k) 0 24
def dStride (d : Row) (k : Nat) : Int := ((wordOf d (7 + k)).setWidth 32).toInt
def dOtOffset (d : Row) : Nat := blk d 12 0 22
def dOtEntries (d : Row) : Nat := blk d 12 22 14
def dBlkSize (d : Row) : Nat := blk d 13 0 24
/-- Dimensions within the rank. -/
def dDims (d : Row) : List Nat := List.range (min 5 (dRank d))
def dSizes (d : Row) : List Nat := (dDims d).map (dSize d)
/-- The outermost size. -/
def dOuter (d : Row) : Nat := dSize d (dRank d - 1)
def dCount (d : Row) : Nat := (dSizes d).prod
/-- Elements of one slice: the inner dimensions. -/
def dSlice (d : Row) : Nat := ((dSizes d).dropLast).prod
/-- Element size (R190). -/
def dEsz (d : Row) : Nat := if spaceOf (dBase d) = .sync then 1 else size (dFmt d)

/-- The lowest and highest element offsets of a shape with a given outermost size (R192). -/
def dSpan (d : Row) (outer : Nat) : Int × Int :=
  (dDims d).foldl (fun (lo, hi) k =>
    let n : Nat := if k + 1 = dRank d then outer else dSize d k
    let sp := ((n : Int) - 1) * dStride d k
    if sp < 0 then (lo + sp, hi) else (lo, hi + sp)) (0, 0)

/-- Reserved fields of a descriptor are zero and its format and rank are valid. -/
def dFormOk (d : Row) : Bool :=
  [0, 1, 2, 3, 4, 6].contains (dFmt d) && decide (1 ≤ dRank d ∧ dRank d ≤ 5) && !above d 1 28 &&
    (List.range 5).all (fun k => !above d (2 + k) 24 && !above d (7 + k) 32) && !above d 13 24 &&
    wordOf d 14 == 0 && wordOf d 15 == 0 &&
    (dDistributed d || (wordOf d 12 == 0 && wordOf d 13 == 0))

/-- Sizes and strides agree with the rank (0x112). -/
def dSizesOk (d : Row) : Bool :=
  (List.range 5).all (fun k => if k < dRank d then dSize d k != 0 else dSize d k == 0 && dStride d k == 0) &&
    decide (dCount d < 2 ^ 36)

/-- `dense` of R192. -/
def dDense (d : Row) : Bool :=
  let esz := dEsz d
  dStride d 0 == 1 && dSize d 0 * esz % 64 == 0 && linOf (dBase d) % 64 == 0 &&
    ((dDims d).drop 1).all (fun k =>
      let ext := dSize d 0 + (((dDims d).take k).drop 1).foldl
        (fun a j => a + (dSize d j - 1) * (dStride d j).natAbs) 0
      (dStride d k).natAbs * esz % 64 == 0 && decide (ext ≤ (dStride d k).natAbs))

/-- The form of a sync-space descriptor (R191). -/
def dSyncOk (d : Row) : Bool :=
  dRank d == 1 && dFmt d == 4 && dStride d 0 == 1 && waPage (dBase d) == 1 && waWord (dBase d) == 0

/-- First and last linear offsets (R192). -/
def dFirst (d : Row) : Int := linOf (dBase d) + dEsz d * (dSpan d (dOuter d)).1
def dLast (d : Row) : Int := linOf (dBase d) + dEsz d * (dSpan d (dOuter d)).2 + dEsz d - 1

/-- Indices of the logical element `n` in the dimensions of a shape. -/
def indicesOf (sizes : List Nat) (n : Nat) : List Nat :=
  match sizes with
  | [] => []
  | z :: zs => n % max 1 z :: indicesOf zs (n / max 1 z)

/-- The row-major position of indices. -/
def positionOf (sizes idx : List Nat) : Nat :=
  match sizes, idx with
  | z :: zs, i :: is => i + z * positionOf zs is
  | _, _ => 0

/-- Element offset of indices, counting dimensions from `k`. -/
def strideSum (d : Row) (k : Nat) (idx : List Nat) : Int :=
  match idx with
  | [] => 0
  | i :: is => i * dStride d k + strideSum d (k + 1) is

/-! ### Owner tables (R211-R213) -/

/-- An owner table entry (Table MOV-9). -/
structure OwnerEntry where
  granule : Nat
  region : Nat
  reserved : Bool
  module : Nat
  count : Nat
deriving DecidableEq, Repr

def ownerEntry (r : Row) (j : Nat) : OwnerEntry :=
  { granule := blk r (2 * j) 0 27, region := blk r (2 * j) 27 6, reserved := blk r (2 * j) 33 3 != 0,
    module := blk r (2 * j + 1) 0 12, count := blk r (2 * j + 1) 12 24 }

/-- Nonets of one block of a distributed descriptor. -/
def dBlockNonets (d : Row) : Int := dEsz d * ((dSpan d (dBlkSize d)).2 + 1)

/-- R212 holds for a descriptor and its table. -/
def ownerOk (d : Row) (t : List OwnerEntry) : Bool :=
  dBase d == BitVec.ofNat 48 (2 ^ 46) && dRecord d == 0 && (dDims d).all (fun k => decide (0 ≤ dStride d k)) &&
    dBlkSize d != 0 && dOtEntries d != 0 && dOtEntries d == (dOuter d + dBlkSize d - 1) / max 1 (dBlkSize d) &&
    dOtOffset d % 64 == 0 && decide (dOtOffset d + (dOtEntries d + 7) / 8 * 64 ≤ scratchNonets) &&
    t.all fun e => !e.reserved && decide (e.region < 48) && decide (e.granule + e.count ≤ granules) && e.count != 0 &&
      decide (dBlockNonets d ≤ e.count * 512)

/-! ### An operand: a descriptor with its record and owner table -/

structure Operand where
  desc : Row
  alloc : Option AllocRec
  owner : List OwnerEntry
deriving DecidableEq, Repr

def Operand.tagged (o : Operand) : Bool := (o.alloc.map (·.tagged)).getD false
def Operand.writable (o : Operand) : Bool := dDistributed o.desc || (o.alloc.map (·.writable)).getD false
def Operand.space (o : Operand) : Space := spaceOf (dBase o.desc)

/-- The row and nonet of the element with given indices (R190, R212). -/
def Operand.place (o : Operand) (own : Nat) (idx : List Nat) : RowKey × Nat :=
  let d := o.desc
  if dDistributed d then
    let outer := idx.getLastD 0
    let b := outer / max 1 (dBlkSize d)
    let e := o.owner.getD b ⟨0, 0, false, 0, 0⟩
    let off := dEsz d * strideSum d 0 (idx.dropLast ++ [outer - b * dBlkSize d])
    let (a, p) := rowOfLin (waWell e.region 0) (e.granule * 512 + off.toNat)
    ({ module := e.module, addr := a }, p)
  else
    let (a, p) := rowOfLin (structOf (dBase d)) (linOf (dBase d) + dEsz d * strideSum d 0 idx).toNat
    ({ module := own, addr := a }, p)

/-- The footprints of an operand: module, structure, first and last offset (R205). -/
def Operand.footprints (o : Operand) (own : Nat) : List (Nat × WAddr × Int × Int) :=
  if dDistributed o.desc then
    o.owner.map fun e => (e.module, waWell e.region 0, (e.granule : Int) * 512, ((e.granule + e.count : Nat) : Int) * 512 - 1)
  else [(own, structOf (dBase o.desc), dFirst o.desc, dLast o.desc)]

/-- Two operands overlap (R205). -/
def Operand.overlaps (a b : Operand) (own : Nat) : Bool :=
  (a.footprints own).any fun (m, st, f, l) => (b.footprints own).any fun (m', st', f', l') =>
    m == m' && st == st' && decide (f ≤ l' ∧ f' ≤ l)

/-! ### Command checks (R196, R197, R199, R205, R206) -/

/-- Formats of two operands agree (R199). -/
def fmtsOk (a b : Row) : Bool := size (dFmt a) == size (dFmt b) && (dFmt a == dFmt b || dFmt a == 6 || dFmt b == 6)

/-- The first two entries exchanged. -/
def swap01 : List Nat → List Nat
  | a :: b :: r => b :: a :: r
  | l => l

/-- The in-place transpose that R205 accepts. -/
def inPlaceOk (b dA dB : Row) : Bool :=
  mvTranspose b && dA == dB && dSize dA 0 == dSize dA 1 && decide (dSize dA 0 * size (dFmt dA) ≤ 64) &&
    ((List.range 5).drop 2).all fun k => decide (dSize dA k ≤ 1)

/-- Access kinds of a source and a destination (R197). -/
def kindsOk (b : Row) (src dst : Operand) : Bool :=
  let k := mvAKind b
  (k == 0 || (decide (k < 3) && src.space == .scratch && (k == 1 || (mvOp b == 4 && src.tagged)))) &&
    mvPut b == dst.tagged && dst.writable

/-- Codes of COPY (R196, R199). -/
def copyFaults (b : Row) (own : Nat) (src dst : Operand) : List Nat :=
  let sa := dSizes src.desc
  let sb := dSizes dst.desc
  (if (if mvTranspose b then sa.length ≥ 2 ∧ swap01 sa = sb else sa = sb) then [] else [0x163]) ++
    (if fmtsOk src.desc dst.desc then [] else [0x164]) ++
    (if src.overlaps dst own && !inPlaceOk b src.desc dst.desc then [0x165] else []) ++
    (if kindsOk b src dst then [] else [0x166]) ++
    (if dst.space = .sync then [0x169] else [])

/-- The tensor is indexed with the table's shape (R206). -/
def slicedOk (table index other : Row) : Bool :=
  dRank table == dRank other && (dSizes table).dropLast == (dSizes other).dropLast && dOuter other == dCount index

/-- The index descriptor's own codes (R206), and spaces of table, index and the third operand. s_op add, max or min is "on RAW9" when
the source's format or the table's is RAW9 (DESIGN CHOICE, log 155). -/
def indexFaults (b : Row) (index : Operand) (fmts : List Nat) : List Nat :=
  (if dRank index.desc = 1 ∧ dFmt index.desc = 4 then [] else [0x167]) ++
    (if mvOp b = 6 ∧ mvSOp b ≠ 0 ∧ 6 ∈ fmts then [0x167] else []) ++
    (if dDistributed index.desc || index.space == .sync then [0x169] else [])

def Operand.ownScratch (o : Operand) (u : Nat) : Bool := o.space == .scratch && waUnit (dBase o.desc) == u

/-- Codes of GATHER. -/
def gatherFaults (b : Row) (own u : Nat) (table index dst : Operand) : List Nat :=
  (if slicedOk table.desc index.desc dst.desc then [] else [0x163]) ++
    (if fmtsOk table.desc dst.desc then [] else [0x164]) ++
    (if dst.overlaps table own || dst.overlaps index own then [0x165] else []) ++
    (if kindsOk b table dst then [] else [0x166]) ++ indexFaults b index [] ++
    (if dst.ownScratch u && !dDistributed dst.desc && table.space != .sync then [] else [0x169])

/-- Codes of SCATTER. -/
def scatterFaults (b : Row) (own u : Nat) (src index table : Operand) : List Nat :=
  (if slicedOk table.desc index.desc src.desc then [] else [0x163]) ++
    (if fmtsOk src.desc table.desc then [] else [0x164]) ++
    (if table.overlaps src own || table.overlaps index own then [0x165] else []) ++
    (if kindsOk b src table then [] else [0x166]) ++ indexFaults b index [dFmt src.desc, dFmt table.desc] ++
    (if table.ownScratch u && !dDistributed table.desc && !dDistributed src.desc && src.space != .sync then []
      else [0x169])

/-! ### Running a command step by step -/

/-- What running a command comes to: it goes on, waits for an answer or at a bank, or ends with a status (0: completed). -/
structure MvCtx where
  s : State
  w : MoverWait
  /-- Number of the next access of the command's row. -/
  idx : Nat
  /-- Uses of the parity-checked structures in this row of the command table, and the use at which a mismatch shows (R215). -/
  uses : Nat
  parity : Option Nat

inductive MvRes where
  | go (c : MvCtx)
  | wait (c : MvCtx)
  | ends (c : MvCtx) (status : Nat)
  /-- A parity mismatch (R215). -/
  | mismatch (c : MvCtx)

def MvRes.andThen (r : MvRes) (f : MvCtx → MvRes) : MvRes :=
  match r with
  | .go c => f c
  | r => r

/-- A use of the tile buffer, the accumulate unit's rows or the descriptor and record tables: their parity is checked (R215). -/
def MvCtx.use (c : MvCtx) : MvRes :=
  if c.parity = some c.uses then .mismatch c else .go { c with uses := c.uses + 1 }

/-- A row that was read, or why there is none yet. -/
inductive MvGot where
  | got (c : MvCtx) (d : Row) (nf : Bool)
  | stop (r : MvRes)

/-! ### Rows near and far (R184) -/

/-- The row lies in a scratchpad of the unit's cluster. -/
def State.near (s : State) (u : Nat) (k : RowKey) : Bool :=
  k.module == s.ownIndex.toNat && spaceOf k.addr == .scratch && clusterOf (waUnit k.addr) == clusterOf u

/-- The ring entry region of a region (R328). -/
def ringEntry (r : Nat) : Nat :=
  let die := r / 4
  let rx := die % 4 * 2 + r % 2
  let ry := die / 4 * 2 + r % 4 / 2
  let y := if ry ≤ 2 then 0 else 5
  (y / 2 * 4 + rx / 2) * 4 + y % 2 * 2 + rx % 2

/-- The destination of a request for a row: region, unit, kind and role epoch; a row of another module goes to the link
engines through the ring entry (R229, R328), a host row to the ring agents (R45). -/
def State.route (s : State) (u : Nat) (k : RowKey) : Nat × Nat × Nat × BitVec 12 :=
  let e := ringEntry (regionOf u)
  if k.module ≠ s.ownIndex.toNat then (e, 31, 4, 0)
  else
    match spaceOf k.addr with
    | .scratch => (regionOf (waUnit k.addr), waUnit k.addr, 0, s.stamp (clusterOf u) (waUnit k.addr))
    | .well => (waWellRegion k.addr, 0, 2, 0)
    | .sync => (waSyncRegion k.addr, 0, 1, s.stamp (clusterOf u) u)
    | .host => (e, 0, 3, 0)

/-- A mover's request for a row (Table NET-4), with its deadline and hold (R185); one to the host window names the first nonet and
the number of nonets (log 126). A write carries the nf of its sources (R40, R201). -/
def State.mvMsg (s : State) (u type akind : Nat) (k : RowKey) (lo n : Nat) (nf : Bool) (body : List Row) (plan : Int)
    (hold : BitVec 12) : Msg :=
  let (r, d, kind, ep) := s.route u k
  { blankMsg with
    dstRegion := r, dstUnit := d, dstKind := kind, vc := 1, type := type, nf := nf, srcRegion := regionOf u,
    srcUnit := u, epoch := ep, tag := BitVec.ofNat 16 (s.unit u).mover.tag, srcModule := s.ownIndex,
    akind := if kind = 0 then akind else 0, wa := if kind = 3 then k.addr + BitVec.ofNat 48 lo else k.addr,
    words := if kind = 4 then [wd k.module] else [], body := body,
    deadline := clampDeadline plan (s.aclkOf (clusterOf u)), hold := hold, nonets := if kind = 3 then n else 0 }

/-- L of a read (R214). -/
def State.mvLatency (s : State) (u : Nat) (k : RowKey) : Int :=
  if s.near u k then latency u (waUnit k.addr) (waOffset k.addr / 64)
  else if k.module ≠ s.ownIndex.toNat then 4096
  else
    match spaceOf k.addr with
    | .scratch | .sync => 64
    | .well => 192
    | .host => 4096

/-- The planned arrival of the command's next access (R214). -/
def MvCtx.plan (c : MvCtx) (u : Nat) : Int := c.s.planOf u c.w.block + c.w.made

/-- The port's next access is at the bank of this row (R85). -/
def State.mvKeep (s : State) (u : Nat) (k : RowKey) (next : Option RowKey) : Bool :=
  next.any fun n => s.near u n && sameBank (waUnit k.addr) (waOffset k.addr / 64) (waUnit n.addr) (waOffset n.addr / 64)

/-- The command's first data access: the cycle and the slip check (R198, R214), which are those of the cycle in which the access is
first presented, also where the bank makes it later (DESIGN CHOICE, log 155). -/
def MvCtx.start (c : MvCtx) (u : Nat) : MvCtx :=
  if c.w.started then c
  else { c with
    s := c.s.checkpoint u (plannedStart c.w.block)
    w := { c.w with started := true, firstCycle := (c.s.cycle u).setWidth 36 } }

/-- An access has been made. -/
def MvCtx.next (c : MvCtx) (s : State) : MvCtx := { c with s := s, w := { c.w with made := c.w.made + 1 }, idx := c.idx + 1 }

/-- Sends a request over the network under a fresh tag. -/
def MvCtx.post (c : MvCtx) (u : Nat) (m : Msg) : MvCtx :=
  c.next ((c.s.send m).updUnit u fun x => { x with mover := { x.mover with tag := (x.mover.tag + 1) % 65536 } })

/-- Reads a row: one of the cluster through its scratchpad's port, another by a request, one of which is under way at a time
(DESIGN CHOICE, log 127). `lo` and `hi` bound the nonets needed, `next` is the row the port reads next. Only scratchpad rows have nf
(R201). -/
def mvGet (c : MvCtx) (u : Nat) (errs : Errs) (kind : Nat) (k : RowKey) (lo hi : Nat) (next : Option RowKey) : MvGot :=
  let s := c.s
  let plan := c.plan u - s.mvLatency u k
  if s.near u k then
    match s.engineAccess u (waUnit k.addr) (waOffset k.addr / 64) (kindOf kind)
        { port := 8, plan := plan, hold := cmdHold c.w.block, keep := s.mvKeep u k next } 0 false (errAt errs c.idx) with
    | (t, .wait) => .stop (.wait { c with s := t })
    | (t, .done 0 d nf) => .got (c.next t) d nf
    | (t, .done st _ _) => .stop (.ends (c.next t) st)
  else
    match c.w.ask, c.w.ans with
    | none, _ =>
      let d := c.post u (s.mvMsg u 0 kind k lo (hi - lo) false [] plan (cmdHold c.w.block))
      .stop (.wait { d with w := { d.w with ask := some ((s.unit u).mover.tag, k) } })
    | some _, none => .stop (.wait c)
    | some _, some (st, d, nf) =>
      let c1 := { c with w := { c.w with ask := none, ans := none } }
      if st ≠ 0 then .stop (.ends c1 st)
      else .got c1 (if spaceOf k.addr = .host then d <<< (9 * lo) else d) (nf && spaceOf k.addr == .scratch)

/-- Writes a row, or the nonets `lo` to `hi` of a host row; its elements count when the write is done. -/
def mvPutRow (c : MvCtx) (u : Nat) (put : Bool) (k : RowKey) (lo hi : Nat) (d : Row) (nf : Bool) (elems : Nat)
    (next : Option RowKey) : MvRes :=
  let s := c.s
  if s.near u k then
    match s.engineAccess u (waUnit k.addr) (waOffset k.addr / 64) (if put then .put else .plainWrite)
        { port := 9, plan := c.plan u, hold := cmdHold c.w.block, keep := s.mvKeep u k next } d nf .clean with
    | (t, .wait) => .wait { c with s := t }
    | (t, .done 0 _ _) => let c1 := c.next t; .go { c1 with w := { c1.w with elems := c1.w.elems + elems } }
    | (t, .done st _ _) => .ends (c.next t) st
  else
    let host := spaceOf k.addr == .host
    let m := s.mvMsg u 1 0 k lo (hi - lo) nf [if host then d >>> (9 * lo) else d] (c.plan u) (cmdHold c.w.block)
    let c1 := c.post u m
    .go { c1 with w := { c1.w with acks := c1.w.acks ++ [((s.unit u).mover.tag, elems, none)] } }

/-! ### Elements and runs (R200-R204) -/

/-- A place: a row and a nonet of it. -/
abbrev Place := RowKey × Nat

/-- A step of a command on one element. -/
inductive MvOp where
  /-- Into the tile buffer, at a line and a nonet of it; `first` opens a tile. -/
  | load (src : Place) (line col : Nat) (first : Bool)
  /-- From the tile buffer to its destination; `first` opens a column, `live` is false where a logically later element has been
  written to the same place, so that this one only counts (R200). -/
  | store (dst : Place) (line col : Nat) (first live : Bool)
  /-- From source to destination; no source writes zero nonets (R207). -/
  | move (dst : Place) (src : Option Place)
  /-- An update of a table element (R208). -/
  | apply (table src : Place)
deriving DecidableEq, Repr

def MvOp.source : MvOp → Option Place
  | .load p _ _ _ => some p
  | .store _ _ _ _ _ => none
  | .move _ p => p
  | .apply _ p => some p
def MvOp.dest : MvOp → Option Place
  | .load _ _ _ _ => none
  | .store p _ _ _ _ => some p
  | .move p _ => some p
  | .apply _ _ => none

/-- The row that the steps ahead read after row `k`, if they read it before the run that fills row `run` is written: then the read
port goes on presenting requests (R85). -/
def nextSource (k : RowKey) (run : Option RowKey) : List MvOp → Option RowKey
  | [] => none
  | o :: l =>
    let written := match o, run with
      | .store _ _ _ true _, some _ => true
      | .apply _ _, _ => true
      | o, some r => match o.dest with | some (k, _) => k != r | none => false
      | _, none => false
    if written then none
    else
      match o.source with
      | some p => if p.1 = k then nextSource k ((o.dest.map Prod.fst).orElse fun _ => run) l else some p.1
      | none => nextSource k ((o.dest.map Prod.fst).orElse fun _ => run) l

/-- The nonets of row `k` that a run of steps reads, and after it the places that later steps read while they stay in the row. -/
def sourceExtent (esz : Nat) (k : RowKey) (l : List MvOp) (later : List Place) : Nat × Nat :=
  let run := l.takeWhile fun o => o.source.all fun p => p.1 = k
  let rest := if run.length = l.length then later.takeWhile fun p => p.1 = k else []
  (run.filterMap MvOp.source ++ rest).foldl (fun (a, b) p => (min a p.2, max b (p.2 + esz))) (64, 0)

/-- The bits of an element of `esz` nonets at nonet `pos`. -/
def elemMask (esz pos : Nat) : Row := BitVec.ofNat 576 ((2 ^ (9 * esz) - 1) * 2 ^ (9 * pos))

/-- An element of a row, and a row with an element put into it. -/
def elemOf (esz : Nat) (r : Row) (pos : Nat) : Nat := r.toNat / 2 ^ (9 * pos) % 2 ^ (9 * esz)
def withElem (esz : Nat) (r : Row) (pos v : Nat) : Row := (r &&& ~~~(elemMask esz pos)) ||| BitVec.ofNat 576 (v * 2 ^ (9 * pos))

/-- What the steps of a command have in common: put, the kind of source reads, element size and format, s_op, whether the
table is tagged, and the check outcomes of the reads. -/
structure MvParams where
  put : Bool
  kind : Nat
  esz : Nat
  fmt : Nat
  sop : Nat
  tagged : Bool
  errs : Errs
  /-- What the slices after the present one read, where a source row is held over slices (R208, R209). -/
  later : List Place

/-- Row `k` becomes the source row held; a scratchpad row's nf joins the completion's (R198). -/
def mvSource (c : MvCtx) (u : Nat) (p : MvParams) (fresh : Bool) (k : RowKey) (ahead : List MvOp) : MvRes :=
  match c.w.src with
  | some (k', _) => if k' = k ∧ fresh = false then .go c else read
  | none => read
where
  read : MvRes :=
    let (lo, hi) := if spaceOf k.addr = .host then sourceExtent p.esz k ahead p.later else (0, 64)
    match mvGet (c.start u) u p.errs (if spaceOf k.addr = .scratch then p.kind else 0) k lo hi (nextSource k (c.w.run.map (·.dst)) ahead) with
    | .stop r => r
    | .got d row nf => .go { d with w := { d.w with src := some (k, row, nf), nf := d.w.nf || nf } }

/-- The destination row after row `r`, if the write port goes on presenting requests meanwhile: its next access is for the same bank, and
no read of that bank must come first, neither of a source row that is not held nor of the row itself for a merge (R85, R202). -/
def State.nextDest (s : State) (u : Nat) (r : RowKey) (held : Option RowKey) (esz : Nat) (ahead : List MvOp) : Option RowKey :=
  let l := ahead.dropWhile fun o => o.dest.any fun p => p.1 = r
  match l.head?.bind MvOp.dest with
  | none => none
  | some (k, _) =>
    let run := l.takeWhile fun o => o.dest.any fun p => p.1 = k
    let mask := run.foldl (fun (m : Row) o => match o.dest with | some (_, p) => m ||| elemMask esz p | none => m) 0
    if mask = BitVec.allOnes 576 ∧ s.mvKeep u r (some k) = true ∧
        run.all (fun o => o.source.all fun p => held == some p.1 || !s.mvKeep u r (some p.1)) = true then some k
    else none

/-- Writes the open run: a whole row at once; part of a row as a merge (R202, R253), part of a host row as it is (log 126). -/
def mvFlush (c : MvCtx) (u : Nat) (p : MvParams) (ahead : List MvOp) : MvRes :=
  match c.w.run with
  | none => .go c
  | some r =>
    let close (c : MvCtx) : MvRes := .go { c with w := { c.w with run := none, merge := none } }
    let esz := p.esz
    let next := c.s.nextDest u r.dst (c.w.src.map (·.1)) esz ahead
    if spaceOf r.dst.addr = .host then
      (mvPutRow (c.start u) u p.put r.dst r.pos (r.pos + esz * r.elems) r.data r.nf r.elems none).andThen close
    else if r.mask = BitVec.allOnes 576 then
      (mvPutRow (c.start u) u p.put r.dst 0 64 r.data r.nf r.elems next).andThen close
    else
      let merged : MvRes :=
        match c.w.merge with
        | some _ => .go c
        | none =>
          match mvGet (c.start u) u p.errs 0 r.dst 0 64 none with
          | .stop x => x
          | .got d old nf => .go { d with w := { d.w with merge := some (old, nf) } }
      merged.andThen fun d =>
        let (old, nf) := d.w.merge.getD (0, false)
        (mvPutRow d u p.put r.dst 0 64 ((old &&& ~~~r.mask) ||| (r.data &&& r.mask)) (r.nf || nf) r.elems next).andThen close

/-- An element joins the open run, which is written first if it lies in another row, if the element opens a column, or if a host
row would have a gap (R203, log 126). Each column of a tile is a destination run of its own, also where two consecutive columns lie in
one destination row (R204; DESIGN CHOICE, log 155). -/
def mvFill (c : MvCtx) (u : Nat) (p : MvParams) (ahead : List MvOp) (dst : Place) (fresh : Bool) (live : Bool)
    (f : MvCtx → MvRes) (v : MvCtx → Nat × Bool) : MvRes :=
  let ends : Bool := match c.w.run with
    | none => false
    | some r => r.dst != dst.1 || (fresh && decide (0 < r.elems)) ||
        (spaceOf r.dst.addr == .host && r.pos + p.esz * r.elems != dst.2)
  ((if ends then mvFlush c u p ahead else MvRes.go c).andThen f).andThen fun d =>
    let (x, nf) := v d
    if live then
      let r := d.w.run.getD { dst := dst.1, pos := dst.2, mask := 0, data := 0, nf := false, elems := 0 }
      .go { d with w := { d.w with run := some { r with
        mask := r.mask ||| elemMask p.esz dst.2, data := withElem p.esz r.data dst.2 x, nf := r.nf || nf, elems := r.elems + 1 } } }
    else .go { d with w := { d.w with elems := d.w.elems + 1 } }

/-! ### SCATTER's accumulate unit (R208, R209) -/

/-- One element combined by s_op: the new code and whether the accumulate unit flags it (R208). -/
def scatterElem (fmt sop tv sv : Nat) : Nat × Bool :=
  if sop = 0 then (sv, false)
  else if fmt = 4 then
    let a := BitVec.ofNat 36 tv
    let c := BitVec.ofNat 36 sv
    ((if sop = 1 then a + c
      else if sop = 2 then (if a.toInt < c.toInt then c else a) else (if c.toInt < a.toInt then c else a)).toNat, false)
  else
    let a := decode fmt tv
    let c := decode fmt sv
    let v := if sop = 1 then sum a c else if sop = 2 then vmax a c else vmin a c
    let code := (encode fmt 0 0 v).1
    (code, a.nonFinite || c.nonFinite || (decode fmt code).nonFinite)

/-- The nf that a held row is written with: the sources' when they supplied all of it, else with its previous one (R201). -/
def HeldRow.outNf (h : HeldRow) : Bool :=
  if h.covered = BitVec.allOnes 576 then h.coveredNf != 0 else h.nf || h.coveredNf != 0

/-- Writes back the least recently used row; `more`: the next row follows at once. -/
def mvBack (c : MvCtx) (u : Nat) (p : MvParams) (more : Bool) : MvRes :=
  match c.w.table with
  | [] => .go c
  | h :: l =>
    (c.use.andThen fun c1 =>
        mvPutRow c1 u p.tagged h.key 0 64 h.data h.outNf 0 (if more then l.head?.map (·.key) else none)).andThen fun d =>
      .go { d with w := { d.w with table := l } }

/-- Writes back every row held. -/
def mvBackAll (c : MvCtx) (u : Nat) (p : MvParams) : Nat → MvRes
  | 0 => .go c
  | n + 1 => (mvBack c u p true).andThen fun d => mvBackAll d u p n

/-- Row `k` of the table is held, as the most recently used: the unit holds 16 rows and reads a row that it lacks, with a take where
the table is tagged. Only s_op add, max and min count its nf (R198). The row evicted is the least recently used (log 128). -/
def mvHold (c : MvCtx) (u : Nat) (p : MvParams) (k : RowKey) : MvRes :=
  match c.w.table.find? fun h => h.key = k with
  | some h => .go { c with w := { c.w with table := c.w.table.filter (fun g => g.key ≠ k) ++ [h] } }
  | none =>
    (if 16 ≤ c.w.table.length then mvBack c u p false else MvRes.go c).andThen fun d =>
      match mvGet (d.start u) u p.errs (if p.tagged then 2 else 0) k 0 64 none with
      | .stop r => r
      | .got e row nf =>
        let n := decide (p.sop ≠ 0) && nf
        .go { e with
          s := e.s.noteNf u n
          w := { e.w with nf := e.w.nf || n, table := e.w.table ++ [{ key := k, data := row, nf := nf, covered := 0, coveredNf := 0 }] } }

/-- An update of one element of the row used last. -/
def mvUpdate (c : MvCtx) (u : Nat) (p : MvParams) (pos spos : Nat) : MvRes :=
  match c.w.table.getLast?, c.w.src with
  | some h, some (_, row, snf) =>
    let (v, flag) := scatterElem p.fmt p.sop (elemOf p.esz h.data pos) (elemOf p.esz row spos)
    let m := elemMask p.esz pos
    let h1 : HeldRow :=
      if p.sop = 0 then { h with
        data := withElem p.esz h.data pos v, covered := h.covered ||| m, coveredNf := if snf then h.coveredNf ||| m else h.coveredNf &&& ~~~m }
      else { h with data := withElem p.esz h.data pos v, nf := h.nf || snf || flag }
    .go { c with
      s := c.s.noteNf u (decide (p.sop ≠ 0) && (snf || flag))
      w := { c.w with nf := c.w.nf || flag, table := c.w.table.dropLast ++ [h1] } }
  | _, _ => .go c

/-! ### Steps -/

/-- The element that the source row held supplies. -/
def heldElem (esz : Nat) (src : Option Place) (c : MvCtx) : Nat × Bool :=
  match src, c.w.src with
  | some (_, pos), some (_, row, nf) => (elemOf esz row pos, nf)
  | _, _ => (0, false)

/-- One step; `ahead` begins with it. -/
def mvStep (c : MvCtx) (u : Nat) (p : MvParams) (ahead : List MvOp) : MvOp → MvRes
  | .load (k, pos) line col first =>
    (mvSource c u p first k ahead).andThen fun d =>
      let (v, nf) := heldElem p.esz (some (k, pos)) d
      let (row, m) := d.w.tile.getD line (0, 0)
      let t := if d.w.tile.length ≤ line then d.w.tile ++ List.replicate (line + 1 - d.w.tile.length) (0, 0) else d.w.tile
      let bits := elemMask p.esz col
      .go { d with w := { d.w with
        tile := t.set line (withElem p.esz row col v, if nf then m ||| bits else m &&& ~~~bits) } }
  | .store dst line col first live =>
    mvFill c u p ahead dst first live .go fun d =>
      let (row, m) := d.w.tile.getD line (0, 0)
      (elemOf p.esz row col, m &&& elemMask p.esz col != 0)
  | .move dst src =>
    mvFill c u p ahead dst false true
      (fun d => match src with
        | some (k, _) => mvSource d u p false k ahead
        | none => .go d)
      (heldElem p.esz src)
  | .apply (k, pos) (sk, spos) =>
    ((mvSource c u p false sk ahead).andThen fun d => mvHold d u p k).andThen fun d => mvUpdate d u p pos spos

/-- Steps in order, each a use of the buffers that parity covers; `pos` counts those done. -/
def mvSteps (c : MvCtx) (u : Nat) (p : MvParams) : List MvOp → MvRes
  | [] => .go c
  | o :: l => (c.use.andThen fun c1 => mvStep c1 u p (o :: l) o).andThen fun d => mvSteps { d with w := { d.w with pos := d.w.pos + 1 } } u p l

/-- The steps of COPY without transpose: the elements in logical order of the destination (R200). -/
def copySteps (own : Nat) (src dst : Operand) : List MvOp :=
  let zs := dSizes dst.desc
  (List.range (dCount dst.desc)).map fun n =>
    let i := indicesOf zs n
    .move (dst.place own i) (some (src.place own i))

/-- The tiles of a transposing copy in order: the plane's number and the ranges of dimensions 1 and 0 (R204). -/
def tilesOf (e : Nat) (zs : List Nat) : List (Nat × List Nat × List Nat) :=
  let s0 := zs.getD 0 1
  let s1 := zs.getD 1 1
  (List.range (zs.prod / max 1 (s0 * s1))).flatMap fun pl =>
    (List.range ((s1 + e - 1) / e)).flatMap fun t1 =>
      (List.range ((s0 + e - 1) / e)).map fun t0 =>
        (pl, (List.range (min e (s1 - t1 * e))).map (t1 * e + ·), (List.range (min e (s0 - t0 * e))).map (t0 * e + ·))

/-- The steps of a transposing copy: each tile is read along the source and written column by column (R204). -/
def transposeSteps (own : Nat) (src dst : Operand) : List MvOp :=
  let zs := dSizes dst.desc
  let s0 := zs.getD 0 1
  let s1 := zs.getD 1 1
  let esz := dEsz dst.desc
  let e := 64 / max 1 esz
  let at0 (pl i0 i1 : Nat) : Nat := pl * s0 * s1 + i1 * s0 + i0
  let tiles := tilesOf e zs
  let writes : List (Place × Nat) := tiles.flatMap fun (pl, l1, l0) => l1.flatMap fun i1 => l0.map fun i0 =>
    (dst.place own (indicesOf zs (at0 pl i0 i1)), at0 pl i0 i1)
  (tiles.foldl (fun (acc, done) (pl, l1, l0) =>
    let loads : List MvOp := l0.zipIdx.flatMap fun (i0, a) => l1.zipIdx.map fun (i1, b) =>
      .load (src.place own (swap01 (indicesOf zs (at0 pl i0 i1)))) a (esz * b) (a == 0 && b == 0)
    let stores : List MvOp := l1.zipIdx.flatMap fun (i1, b) => l0.zipIdx.map fun (i0, a) =>
      let n := at0 pl i0 i1
      let p := dst.place own (indicesOf zs n)
      let late := decide (e < s0) && ((writes.take done).any fun (q, m) => q == p && decide (n < m))
      .store p a (esz * b) (a == 0) (!late)
    (acc ++ loads ++ stores, done + l1.length * l0.length)) (([] : List MvOp), 0)).1

/-! ### Indices (R206, R207, R210) -/

/-- The policy of an index tensor applied to a value: what it selects (none: the command stops; `some none`: skipped), and whether
the index met the policy. -/
def pickIndex (policy n : Nat) (v : Int) : Option (Option Nat) × Bool :=
  if 0 ≤ v ∧ v < n then (some (some v.toNat), false)
  else
    match policy with
    | 0 => (none, false)
    | 1 => (some (some (if v < 0 then 0 else n - 1)), true)
    | 2 => (some (some (v % n).toNat), true)
    | _ => (some none, true)

/-- The steps of one slice of GATHER or one update of SCATTER: slice `j` of the one operand against slice `i` of the table. -/
def sliceSteps (own : Nat) (scatter : Bool) (table other : Operand) (j : Nat) (i : Option Nat) : List MvOp :=
  let zs := (dSizes table.desc).dropLast
  (List.range (dSlice table.desc)).filterMap fun e =>
    let inner := indicesOf zs e
    match scatter, i with
    | false, none => some (.move (other.place own (inner ++ [j])) none)
    | false, some i => some (.move (other.place own (inner ++ [j])) (some (table.place own (inner ++ [i]))))
    | true, none => none
    | true, some i => some (.apply (table.place own (inner ++ [i])) (other.place own (inner ++ [j])))

/-- Page 1 index of the mover word (R216). -/
def mvIdx (u : Nat) : Nat := 5248 + u % 320

/-- An index that met its policy counts in the mover word (R207, R216). -/
def State.mvPolicy (s : State) (u : Nat) : State := s.updP1 (regionOf u) (mvIdx u) fun w => putField (bumpField w 0 16) 27 1 1

/-- The next index is read and its policy applied; the source row of a GATHER counts for one index only, and an index row is read
once, with the nonets of all indices that it holds in turn (R209, R210). -/
def mvPick (c : MvCtx) (u own n : Nat) (p : MvParams) (ix : Operand) (scatter : Bool) : MvRes :=
  let (k, pos) := ix.place own [c.w.index]
  let later := ((List.range (dSize ix.desc 0 - c.w.index)).map fun i => ix.place own [c.w.index + i]).takeWhile fun q => q.1 = k
  let (lo, hi) := if spaceOf k.addr = .host then later.foldl (fun (a, b) q => (min a q.2, max b (q.2 + 4))) (pos, pos + 4) else (0, 64)
  let read : MvGot := mvGet (c.start u) u p.errs 0 k lo hi none
  let row : MvGot :=
    match c.w.ixRow with
    | some (k', r) => if k' = k then .got c r false else read
    | none => read
  match row with
  | .stop r => r
  | .got d r _ =>
    let w := { d.w with ixRow := some (k, r), pos := 0, src := if scatter then d.w.src else none }
    match pickIndex (dPolicy ix.desc) n (BitVec.ofNat 36 (elemOf 4 r pos)).toInt with
    | (none, _) => .go { d with w := { w with stop := true } }
    | (some x, met) =>
      .go { d with
        s := if met then d.s.mvPolicy u else d.s
        w := { w with pick := some x, met := w.met + met.toNat } }

/-- Indices in order until they are done or one stops the command; `n` is the table's outermost size (R207). -/
def mvIndices (c : MvCtx) (u own n : Nat) (p : MvParams) (ix table other : Operand) (scatter : Bool) : Nat → MvRes
  | 0 => .go c
  | fuel + 1 =>
    if c.w.stop ∨ dSize ix.desc 0 ≤ c.w.index then .go c
    else
      (match c.w.pick with
        | some _ => MvRes.go c
        | none => mvPick c u own n p ix scatter).andThen fun d =>
          match d.w.pick with
          | none => .go d
          | some x =>
            let slices := fun (j : Nat) => (List.range (dSlice other.desc)).map fun e =>
              other.place own (indicesOf (dSizes other.desc).dropLast e ++ [j])
            let later := if scatter then
              (List.range (dSize ix.desc 0 - (d.w.index + 1))).flatMap fun i => slices (d.w.index + 1 + i) else []
            (mvSteps d u { p with later := later } ((sliceSteps own scatter table other d.w.index x).drop d.w.pos)).andThen fun e =>
              mvIndices { e with w := { e.w with
                index := e.w.index + 1, pick := none, pos := 0
                elems := if scatter && x.isSome then e.w.elems + 1 else e.w.elems } } u own n p ix table other scatter fuel

/-! ### Completion (R198, R481) -/

/-- The completion of a command that ran; a put that follows its accesses is planned as the next of them (R214). That of a command that
its checks reject once they have read rows is planned in the same way, with the command's hold (DESIGN CHOICE, log 155). -/
def State.mvCpl (s : State) (u : Nat) (w : MoverWait) (status : Nat) : Cpl :=
  mkCpl w.block w.seq status w.nf (wd (min w.elems (2 ^ 36 - 1))) (wd (min w.met (2 ^ 24 - 1))) w.firstCycle
    (if status = 0 ∨ w.made ≠ 0 then some (s.planOf u w.block + w.made) else none)

/-- The command in progress completes: its requests leave their banks, and 0x168 is recorded (R216). -/
def State.mvFinish (s : State) (u : Nat) (w : MoverWait) (status : Nat) : State :=
  let t := (s.updUnit u fun x => { x with mover := { x.mover with
    cur := none, cpls := x.mover.cpls ++ [s.mvCpl u w status] } }).leavePorts u [8, 9]
  let t1 := if w.checked then t else t.noteAlign u status
  if status = 0x168 then t1.seeP1 (regionOf u) (mvIdx u) 29 else t1

/-- Settles the oldest writes that have their answers: elements count, and the first failure is the command's status. -/
def MoverWait.drain (w : MoverWait) : List (Nat × Nat × Option Nat) → MoverWait × Option Nat
  | [] => ({ w with acks := [] }, w.ended)
  | (_, n, some st) :: l =>
    if st ≠ 0 then ({ w with acks := l }, some st) else MoverWait.drain { w with elems := w.elems + n } l
  | l => ({ w with acks := l }, none)

/-- The command in progress completes if it has ended and every write before its end is settled, or one of them failed. -/
def State.mvSettle (s : State) (u : Nat) (w : MoverWait) : State :=
  match w.drain w.acks with
  | (v, some st) => s.mvFinish u v st
  | (v, none) => s.updUnit u fun x => { x with mover := { x.mover with cur := some v } }

/-- A parity mismatch: the command ends with its counts so far (R215). -/
def State.mvParity (s : State) (u : Nat) (w : MoverWait) : State :=
  let i := mvIdx u
  let t := s.updP1 (regionOf u) i fun v => putField (putField (bumpField v 16 10) 26 1 1) 28 1 1
  (t.mvFinish u w 0x225).parityStop u 0x225 5 i

/-- What running the command came to, in the state. -/
def MvRes.commit (r : MvRes) (u : Nat) : State :=
  match r with
  | .go c => c.s.mvSettle u { c.w with ended := some 0 }
  | .wait c => c.s.mvSettle u c.w
  | .ends c st => c.s.mvSettle u { c.w with ended := some st, ask := none, ans := none }
  | .mismatch c => c.s.mvParity u c.w

/-! ### COPY, GATHER, SCATTER (R196, R213) -/

/-- Reads rows of the own scratchpad by number, those before the first `w.rows.length` having been read; `data` when the first of
them is the command's first data access. -/
def mvRows (c : MvCtx) (u : Nat) (errs : Errs) (data : Bool) : List Nat → MvRes
  | [] => .go c
  | q :: qs =>
    let k : RowKey := { module := c.s.ownIndex.toNat, addr := waScratch u (64 * q) }
    match mvGet (if data then c.start u else c) u errs 0 k 0 64 (qs.head?.map fun n => { k with addr := waScratch u (64 * n) }) with
    | .stop r => r
    | .got d row _ => mvRows { d with w := { d.w with rows := d.w.rows ++ [row] } } u errs data qs

/-- The rows of a descriptor's owner table; none for one that is not distributed, or whose rows do not lie in the own scratchpad. -/
def ownerRows (d : Row) : List Nat :=
  let n := (dOtEntries d + 7) / 8
  if dDistributed d && dOtOffset d % 64 == 0 && decide (dOtOffset d + n * 64 ≤ scratchNonets) then
    (List.range n).map fun i => dOtOffset d / 64 + i
  else []

/-- The entries of an owner table whose rows have been read. -/
def ownerEntries (d : Row) (rows : List Row) : List OwnerEntry :=
  if rows = [] then [] else (List.range (dOtEntries d)).map fun j => ownerEntry (rows.getD (j / 8) 0) (j % 8)

/-- The descriptor of a slot with its record. -/
def Unit.operand (x : Unit) (slot : Nat) : Option Operand :=
  (x.mover.slots.get none slot).map fun d =>
    { desc := d, alloc := if dDistributed d then none else x.mover.records.get none (dRecord d), owner := [] }

/-- The slots that an operation names. -/
def mvSlots (b : Row) : List Nat := if mvOp b = 4 then [mvSlotA b, mvSlotB b] else [mvSlotA b, mvSlotB b, mvSlotC b]

/-- Gives each operand that is there its owner table from the rows read. -/
def resolve : List (Option Operand) → List Row → List (Option Operand)
  | [], _ => []
  | none :: l, rows => none :: resolve l rows
  | some o :: l, rows =>
    let n := (ownerRows o.desc).length
    some { o with owner := ownerEntries o.desc (rows.take n) } :: resolve l (rows.drop n)

/-- The codes of the checks (R196, R217): those of empty slots, of owner tables, and of the operation. -/
def mvFaults (b : Row) (own u : Nat) (l : List (Option Operand)) : List Nat :=
  (if l.any Option.isNone then [0x162] else []) ++
    (if l.any (fun o => o.any fun o => dDistributed o.desc && !ownerOk o.desc o.owner) then [0x117] else []) ++
    (match l with
      | [some a, some o] => copyFaults b own a o
      | [some a, some o, some c] => if mvOp b = 5 then gatherFaults b own u a o c else scatterFaults b own u a o c
      | _ => [])

/-- The data accesses of a command that has passed its checks. -/
def mvData (c : MvCtx) (u own : Nat) (b : Row) (errs : Errs) (l : List (Option Operand)) : MvRes :=
  let params (dst : Operand) : MvParams :=
    { put := mvPut b, kind := mvAKind b, esz := dEsz dst.desc, fmt := dFmt dst.desc, sop := mvSOp b, tagged := dst.tagged,
      errs := errs, later := [] }
  match l with
  | [some a, some o] =>
    let p := params o
    (mvSteps c u p ((if mvTranspose b then transposeSteps own a o else copySteps own a o).drop c.w.pos)).andThen fun d =>
      mvFlush d u p []
  | [some a, some ix, some o] =>
    let p := params o
    let n := dSize ix.desc 0
    let done : MvRes :=
      if mvOp b = 5 then (mvIndices c u own (dOuter a.desc) p ix a o false (n + 1)).andThen fun d => mvFlush d u p []
      else (mvIndices c u own (dOuter o.desc) p ix o a true (n + 1)).andThen fun d => mvBackAll d u p 16
    done.andThen fun d => if d.w.stop then .ends d 0x168 else .go d
  | _ => .go c

/-- Owner tables are read afresh, the command is checked, and its data accesses follow. -/
def mvMain (c : MvCtx) (u : Nat) (errs : Errs) : MvRes :=
  let b := c.w.block
  let own := c.s.ownIndex.toNat
  let ops := (mvSlots b).map (c.s.unit u).operand
  let need := ops.flatMap fun o => (o.map fun o => ownerRows o.desc).getD []
  (if c.w.checked then MvRes.go c else mvRows c u errs false (need.drop c.w.rows.length)).andThen fun d =>
    let l := resolve ops d.w.rows
    let status := if d.w.checked then 0 else lowest (mvFaults b own u l)
    if status ≠ 0 then .ends d status
    else mvData { d with w := { d.w with checked := true } } u own b errs l

/-! ### RECORDS, REGISTER, RELEASE (R187, R188, R192-R194) -/

/-- The own-scratchpad rows of a command: their address faults. -/
def mvRowFaults (off rows : Nat) : List Nat :=
  (if off % 64 ≠ 0 then [0x12B] else []) ++ (if scratchNonets < off + 64 * rows then [0x123] else [])

/-- Record `j` of a row. -/
def recBase (r : Row) (j : Nat) : WAddr := BitVec.ofNat 48 (blk r (4 * j) 0 36 + blk r (4 * j + 1) 0 12 * 2 ^ 36)

/-- R188 accepts a record; an empty record needs only its reserved fields. -/
def State.recOk (s : State) (u : Nat) (r : Row) (j : Nat) : Bool :=
  let a := recBase r j
  let len := blk r (4 * j + 2) 0 36
  let tagged := blk r (4 * j + 1) 12 1 == 1
  let writable := blk r (4 * j + 1) 13 1 == 1
  if blk r (4 * j + 1) 14 1 = 0 then true
  else
    (waInvalid a).isEmpty && (spaceOf a != .host || s.slotValid (waSlot a)) && len != 0 &&
      decide (linOf a + len ≤ s.linLimit a) &&
      (spaceOf a != .sync || (!writable && waPage a == 1)) &&
      (!tagged || (spaceOf a == .scratch && waUnit a == u && linOf a % 64 == 0 && len % 64 == 0))

/-- The record as it is held. -/
def recOf (r : Row) (j : Nat) : Option AllocRec :=
  if blk r (4 * j + 1) 14 1 = 0 then none
  else some { base := recBase r j, tagged := blk r (4 * j + 1) 12 1 == 1, writable := blk r (4 * j + 1) 13 1 == 1,
              length := blk r (4 * j + 2) 0 36 }

/-- Reserved fields of a record are zero (Table MOV-3). -/
def recReservedOk (r : Row) (j : Nat) : Bool := !above r (4 * j + 1) 15 && wordOf r (4 * j + 3) == 0

/-- A record is named by a registered descriptor (R188, R194). -/
def Unit.recInUse (x : Unit) (i : Nat) : Bool :=
  (List.range 64).any fun k =>
    match x.mover.slots.get none k with
    | some d => !dDistributed d && dRecord d == i
    | none => false

/-- Loads records; those that fail are left out. -/
def State.loadRecords (s : State) (u first : Nat) (rows : List Row) (ok : List Nat) : State :=
  s.updUnit u fun x => { x with mover := { x.mover with
    records := ok.foldl (fun m i => m.set none (first + i) (recOf (rows.getD (i / 4) 0) (i % 4))) x.mover.records } }

/-- RECORDS: its rows are read, and the records that pass are loaded unless one of them is in use (R187, R188). -/
def mvRecords (c : MvCtx) (u : Nat) (errs : Errs) : MvRes :=
  let b := c.w.block
  let n := mvNRec b
  let need := (List.range ((n + 3) / 4)).map fun i => mvRowOffset b / 64 + i
  (mvRows c u errs true (need.drop c.w.rows.length)).andThen fun d =>
    let rs := d.w.rows
    let idx := List.range n
    let inUse := idx.any fun i => (d.s.unit u).recInUse (mvFirst b + i)
    let form := idx.filter fun i => recReservedOk (rs.getD (i / 4) 0) (i % 4)
    let ok := form.filter fun i => d.s.recOk u (rs.getD (i / 4) 0) (i % 4)
    let status := lowest ((if form.length < n then [0x111] else []) ++ (if ok.length < n then [0x114] else []) ++
      (if inUse then [0x118] else []))
    if inUse then .ends d status
    else .ends { d with s := d.s.loadRecords u (mvFirst b) rs ok, w := { d.w with elems := ok.length } } status

/-- The codes of registration (R192). -/
def State.registerFaults (s : State) (x : Unit) (d : Row) (slot : Nat) (owner : List OwnerEntry) : List Nat :=
  let occupied := if (x.mover.slots.get none slot).isSome then [0x118] else []
  let form := if dFormOk d then [] else [0x111]
  let sizes := if dSizesOk d then [] else [0x112]
  occupied ++ form ++ sizes ++
    (if dDistributed d then (if ownerOk d owner then [] else [0x117])
    else
      let a := dBase d
      let addr := match waInvalid a with
        | [] => s.waUnavailable a
        | l => l
      addr ++ (if dEsz d = 0 ∨ linOf a % max 1 (dEsz d) = 0 then [] else [0x113]) ++
        (match x.mover.records.get none (dRecord d) with
          | none => [0x114]
          | some r =>
            (if structOf a ≠ structOf r.base ∨ spaceOf a ≠ spaceOf r.base ∨ dFirst d < linOf r.base ∨
                (linOf r.base + r.length : Nat) - 1 < dLast d then [0x115] else []) ++
              (if r.tagged && !dDense d then [0x116] else [])) ++
        (if spaceOf a = .sync ∧ !dSyncOk d then [0x119] else []))

/-- The rows that a dense descriptor touches, in element order (R192, R193). -/
def dRows (d : Row) : List Nat :=
  let per := 64 / max 1 (dEsz d)
  ((List.range (dCount d / max 1 per)).map fun n =>
    ((linOf (dBase d) + dEsz d * strideSum d 0 (indicesOf (dSizes d) (n * per))).toNat) / 64).dedup

/-- Makes rows tagged and empty, one tag-only access each through the mover write port (R193). -/
def mvTagRows (c : MvCtx) (u : Nat) : List Nat → MvRes
  | [] => .go c
  | q :: qs =>
    match c.s.engineAccess u u q .tagset
        { port := 9, plan := c.plan u, hold := cmdHold c.w.block, keep := qs.head?.any fun n => sameBank u q u n } 2 false .clean with
    | (t, .wait) => .wait { c with s := t }
    | (t, .done 0 _ _) =>
      let d := c.next t
      mvTagRows { d with w := { d.w with elems := d.w.elems + 1 } } u qs
    | (t, .done st _ _) => .ends (c.next t) st

/-- REGISTER: the descriptor row and its owner table are read and checked, the slot is filled and the rows of a tagged record are
tagged (R192, R193). -/
def mvRegister (c : MvCtx) (u : Nat) (errs : Errs) : MvRes :=
  let b := c.w.block
  let first : MvRes := if c.w.rows = [] then mvRows c u errs true [mvRowOffset b / 64] else .go c
  first.andThen fun d0 =>
    let d := d0.w.rows.getD 0 0
    (if d0.w.checked then MvRes.go d0 else mvRows d0 u errs true ((ownerRows d).drop (d0.w.rows.length - 1))).andThen fun d1 =>
      let x := d1.s.unit u
      let slot := mvSlotA b
      let status := if d1.w.checked then 0 else lowest (d1.s.registerFaults x d slot (ownerEntries d (d1.w.rows.drop 1)))
      if status ≠ 0 then .ends d1 status
      else
        let tagged := !dDistributed d && ((x.mover.records.get none (dRecord d)).map (·.tagged)).getD false
        let c2 : MvCtx := if d1.w.checked then d1 else
          { d1 with
            s := d1.s.updUnit u fun y => { y with mover := { y.mover with slots := y.mover.slots.set none slot (some d) } }
            w := { d1.w with checked := true } }
        mvTagRows c2 u ((if tagged then dRows d else []).drop c2.w.elems)

/-- RELEASE: the slot is emptied, also one that was empty (DESIGN CHOICE, log 129); the cycle of its completion and the slip check
are those of its taking, for want of a data access (DESIGN CHOICE, log 130). -/
def mvRelease (c : MvCtx) (u : Nat) : MvRes :=
  let d := c.start u
  .go { d with s := d.s.updUnit u fun x => { x with mover := { x.mover with
    slots := x.mover.slots.set none (mvSlotA d.w.block) none } } }

/-! ### Running and taking commands (R115-R117, R185) -/

/-- Carries the command in progress as far as it goes, from a use of its tables on. -/
def mvRun (c : MvCtx) (u : Nat) (errs : Errs) : MvRes :=
  c.use.andThen fun d =>
    match mvOp d.w.block with
    | 1 => mvRecords d u errs
    | 2 => mvRegister d u errs
    | 3 => mvRelease d u
    | _ => mvMain d u errs

/-- The operations that a row of the command table stands for; the COPY row takes the reserved ones (log 17). -/
def mvRowTakes (row op : Nat) : Bool := op == row || (row == 4 && (op == 0 || decide (6 < op)))

/-- A command as it is taken. Word 3 of the completion of one that is rejected before any data access is 0 (R198; DESIGN CHOICE,
log 155). -/
def blankWait (b : Row) (seq : Word) : MoverWait :=
  { block := b, seq := seq, made := 0, started := false, firstCycle := 0, rows := [], checked := false, index := 0, pick := none,
    stop := false, pos := 0, ixRow := none, src := none, tile := [], run := none, merge := none, table := [], elems := 0, met := 0,
    nf := false, ask := none, ans := none, acks := [], ended := none }

/-- Runs a command that is in progress. -/
def State.mvGo (s : State) (u : Nat) (w : MoverWait) (errs : Errs) (idx : Nat) (parity : Option Nat) : State :=
  (mvRun { s := s, w := w, idx := idx, uses := 0, parity := parity } u errs).commit u

/-- The lowest code of those that forbid a command's accesses, 0 for none: its fields, and for RECORDS and REGISTER the offset of its
rows. Of a command so rejected, what its rows would have shown is not looked at, but a slot that is occupied or a record in use counts
among its codes (R195, R217). -/
def Unit.mvEarly (x : Unit) (b : Row) : Nat :=
  let own := (if mvFieldsBad b then [0x161] else []) ++
    (match mvOp b with
      | 1 => mvRowFaults (mvRowOffset b) ((mvNRec b + 3) / 4)
      | 2 => mvRowFaults (mvRowOffset b) 1
      | _ => [])
  let used := match mvOp b with
    | 1 => (List.range (min 64 (mvNRec b))).any fun i => x.recInUse (mvFirst b + i)
    | 2 => (x.mover.slots.get none (mvSlotA b)).isSome
    | _ => false
  if own = [] then 0 else lowest (own ++ (if used then [0x118] else []))

/-- A row of the command table: takes the oldest command if it is of the row's operation, or goes on with it. -/
def State.mvCommand (s : State) (u row : Nat) (errs : Errs) (parity : Option Nat) : State :=
  let m := (s.unit u).mover
  match m.cur with
  | some w =>
    if mvRowTakes row (mvOp w.block) && w.ended.isNone then s.mvGo u w errs 0 parity else s
  | none =>
    match m.queue with
    | [] => s
    | q :: rest =>
      if !m.cpls.isEmpty ||
          (decide (errAt errs 0 ≠ .uncorrectable) && !mvRowTakes row (mvOp ((s.unit u).cell (q.offset / 64)).data)) then s
      else
        let pop (t : State) : State := t.updUnit u fun y => { y with mover := { y.mover with queue := rest } }
        match s.takeBlock u 2 q (errAt errs 0) with
        | .waits t => t
        | .dropped t => pop t
        | .block t0 b code =>
          let t := pop t0
          let w := blankWait b q.seq
          let early := if code ≠ 0 then code else (t.unit u).mvEarly b
          if early ≠ 0 then t.mvFinish u w early
          else (t.updUnit u fun x => { x with mover := { x.mover with cur := some w } }).mvGo u w errs 1 parity

def execRecords (unit : Nat) (checks : TableChecks) (s : State) : Res :=
  onUnit unit (s.mvCommand unit 1 checks.rows checks.parity)
def execRegister (unit : Nat) (checks : TableChecks) (s : State) : Res :=
  onUnit unit (s.mvCommand unit 2 checks.rows checks.parity)
def execRelease (unit : Nat) (checks : TableChecks) (s : State) : Res :=
  onUnit unit (s.mvCommand unit 3 checks.rows checks.parity)
def execCopy (unit : Nat) (errs : Errs) (parity : Option Nat) (s : State) : Res := onUnit unit (s.mvCommand unit 4 errs parity)
def execGather (unit : Nat) (errs : Errs) (parity : Option Nat) (s : State) : Res := onUnit unit (s.mvCommand unit 5 errs parity)
def execScatter (unit : Nat) (errs : Errs) (parity : Option Nat) (s : State) : Res := onUnit unit (s.mvCommand unit 6 errs parity)

/-! ### Requests of other units (R53, R185, R231, R252) -/

/-- The fault of a request whose address does not name the unit it reached, lowest code first (R62, R69). -/
def State.inboundFault (s : State) (m : Msg) : Nat :=
  let n := if m.type = 0 then 1 else m.body.length
  let inv := waInvalid m.wa
  lowest (inv ++ (if inv = [] then s.waUnavailable m.wa else []) ++
    (if spaceOf m.wa ≠ .scratch ∨ waUnit m.wa ≠ m.dstUnit then [0x12D] else []) ++
    (if waOffset m.wa % 64 ≠ 0 then [0x12B] else []) ++
    (if waOffset m.wa < scratchNonets ∧ scratchNonets < waOffset m.wa + 64 * n then [0x123] else []))

/-- A message that cannot be served yet stays at the interface that it reached. -/
def State.holdMsg (s : State) (m : Msg) : State := { s with net := m :: s.net }

/-- The deadline and the hold with which a request stands at a mover port: those of the mover that sent it (R185); for any other
source 4,096 ACLK ahead and 1 ACLK a row (R53). -/
def State.portTerms (s : State) (m : Msg) : BitVec 16 × BitVec 12 :=
  if m.srcKind = 0 then (m.deadline, m.hold)
  else (BitVec.ofNat 16 (s.aclkOf (clusterOf m.dstUnit) + 4096), BitVec.ofNat 12 (max 1 m.body.length))

/-- The kind of access that a request makes. -/
def inboundKind (m : Msg) : AccKind := if m.type = 0 then kindOf m.akind else if m.akind = 1 then .put else .plainWrite

/-- The rows of a write of several rows from row `i` on, each an access of its own through the mover write port: one that must wait
stands at its bank, or is parked there, and the message keeps the number of rows written (R76, R78). -/
def State.inboundRows (s : State) (u : Nat) (m : Msg) : Nat → List Row → State
  | _, [] => s.send (s.answerAccess m 0 [] false)
  | i, r :: rs =>
    let q := waOffset m.wa / 64 + i
    let a : Access :=
      { unit := u, port := 9, agent := msgAgent m, offset := 64 * q, wide := true, deadline := (s.portTerms m).1,
        hold := (s.portTerms m).2, keep := !rs.isEmpty && sameBank u q u (q + 1), more := false, data := r, nf := m.nf, ecc := .clean }
    match s.portAccess a (inboundKind m) with
    | (t, .done 0 _ _) => State.inboundRows t u m (i + 1) rs
    | (t, .done st _ _) => t.send (t.answerAccess m st [] false)
    | (t, .wait) => t.holdMsg { m with done := i }

/-- A reduction endpoint or a mover port is told that a request breaks an alignment rule, which the unit's counters record (R93). -/
def State.inboundRejected (s : State) (m : Msg) (code : Nat) : State :=
  (s.noteAlign m.dstUnit code).send (s.answerAccess m code [] false)

/-- A mover port takes a request: it is answered with its fault, or presented at its bank with its own kind, deadline and hold
(R185). One that cannot be presented yet stays where it is. -/
def State.inboundRequest (s : State) (m : Msg) (e : Ecc) : State :=
  let u := m.dstUnit
  let code := s.inboundFault m
  let port := if m.type = 0 then 8 else 9
  if code ≠ 0 then s.inboundRejected m code
  else if m.type = 1 ∧ m.body.length ≠ 1 then s.inboundRows u m m.done (m.body.drop m.done)
  else if ((s.unit u).bank (waOffset m.wa / 64 / 3072)).presents port (msgAgent m) then s.holdMsg m
  else
    (s.updUnit u fun x => { x with inbound := x.inbound ++ [m] }).request
      { unit := u, port := port, agent := msgAgent m, offset := waOffset m.wa, wide := true, deadline := (s.portTerms m).1,
        hold := (s.portTerms m).2, keep := false, more := false, data := m.body.headD 0, nf := m.nf, ecc := e } (inboundKind m)

end Sys2Proof.Machine
end

