-- ==== Sys2Proof/Machine/Sync.lean ====
section
/-! DEFINITION. Sync objects (R233-R237): the faults of an operation, its effect on the record, and the release of the
operations that wait. -/

namespace Sys2Proof

/-! ### Fields of a sync message (R225, R237) -/

def Msg.word (m : Msg) (j : Nat) : Word := m.words.getD (j - 5) 0
def Msg.operand (m : Msg) : Word := m.word 7
def Msg.sop (m : Msg) : Nat := Machine.field (m.word 8) 0 5
/-- The operation waits for a reply: a hand's SYNCR. -/
def Msg.isSyncr (m : Msg) : Bool := m.srcKind == 0 && m.tag.toNat < 128 && m.tag.getLsbD 6
/-- A link engine or a ring agent sent it. -/
def Msg.fromRing (m : Msg) : Bool := m.srcKind == 3 || m.srcKind == 4

end Sys2Proof

namespace Sys2Proof.Machine

/-! ### The record (Table NET-7) -/

def SyncObj.type (o : SyncObj) : Nat := field o.w1 0 3
def SyncObj.target (o : SyncObj) : Nat := field o.w1 3 24
def SyncObj.linkMode (o : SyncObj) : Bool := field o.w1 27 1 == 1
def SyncObj.arrivals (o : SyncObj) : Nat := field o.w0 0 24
def SyncObj.generation (o : SyncObj) : Nat := field o.w0 24 12
def SyncObj.verdict (o : SyncObj) : Nat := field o.w0 0 1
def SyncObj.decided (o : SyncObj) : Bool := field o.w0 1 1 == 1
def SyncObj.sent (o : SyncObj) : Bool := field o.w0 2 1 == 1
def SyncObj.received (o : SyncObj) : Nat := field o.w2 0 24

/-- The operation counts (word 3). -/
def SyncObj.counted (o : SyncObj) : SyncObj := { o with w3 := bumpField o.w3 0 36 }

def State.syncObj (s : State) (r o : Nat) : SyncObj := (s.region r).sync.get SyncObj.reset o
def State.setSyncObj (s : State) (r o : Nat) (x : SyncObj) : State :=
  s.updRegion r fun y => { y with sync := y.sync.set SyncObj.reset o x }

/-! ### Messages (R225, R234, R237) -/

/-- A sync reply, or the acknowledgement of a posted operation. -/
def State.syncAnswer (s : State) (m : Msg) (status : Nat) (value : Word) : State :=
  if m.isSyncr then s.send (s.answer m 0 9 status false [0, 0, value] [])
  else s.send (s.answer m 0 10 status false [] [])

/-! ### Faults (R237, R246) -/

/-- The operations that a type defines (Table NET-8); REARM and INIT apart. -/
def sopForType (ty sop : Nat) : Bool :=
  sop == 31 || (decide (1 ≤ ty ∧ ty ≤ 4) && sop == 0) || (ty == 1 && [1, 2, 3].contains sop) || (ty == 2 && sop == 8) ||
    (ty == 3 && [2, 16, 17, 18].contains sop) || (ty == 4 && [24, 25, 26, 27].contains sop)

/-- An operation that would wait. -/
def SyncObj.waits (o : SyncObj) (m : Msg) : Bool :=
  match m.sop with
  | 3 => decide (o.w0.toInt < m.operand.toInt)
  | 8 => decide (o.arrivals + 1 ≠ o.target)
  | 18 => o.w0 &&& m.operand == 0
  | 24 => !o.decided && !(decide (o.received + 1 = o.target) && !o.linkMode)
  | 25 => !o.decided
  | _ => false

/-- All the waiting operations of a region are in use (R237). -/
def State.waitersFull (s : State) (r : Nat) : Bool := decide (8192 ≤ (s.region r).waiters.length)

/-- The status of a sync operation at region `r`; 0 when it applies. -/
def State.syncOpFault (s : State) (r : Nat) (m : Msg) : Nat :=
  let a := m.wa
  let inv := waInvalid a
  let addr := inv ++ (if inv = [] then s.waUnavailable a else []) ++
    (if spaceOf a ≠ .sync ∨ waSyncRegion a ≠ r then [0x12D] else []) ++
    (if spaceOf a ≠ .sync ∨ waPage a ≠ 0 ∨ waWord a ≠ 0 then [0x137] else [])
  let o := s.syncObj r (waIndex a)
  let sop := m.sop
  let op :=
    if o.type = 0 ∧ sop ≠ 31 then [0x302]
    else
      (if !sopForType o.type sop || (sop == 31 && decide (4 < field m.operand 0 3)) ||
          ([3, 18, 25].contains sop && !m.isSyncr) then [0x301] else []) ++
        (if m.isSyncr && o.waits m && s.waitersFull r then [0x303] else []) ++
        (if sop = 26 ∧ !m.fromRing then [0x304] else []) ++
        (if sop = 31 ∧ (s.region r).waiters.any (fun w => w.object == waIndex a) then [0x305] else [])
  lowest (if addr = [] then op else addr)

/-! ### Waiting operations (R234, R236) -/

/-- The waiting operation's condition holds: the value of its reply. -/
def SyncObj.releases (o : SyncObj) (w : Waiter) : Option Word :=
  match w.sop with
  | 3 => if w.operand.toInt ≤ o.w0.toInt then some o.w0 else none
  | 18 => if o.w0 &&& w.operand = 0 then none else some o.w0
  | 24 => if o.decided then some o.w0 else none
  | 25 => if o.decided then some o.w0 else none
  | _ => none

/-- Word 2 shows how many operations wait for the object. -/
def State.countWaiters (s : State) (r o : Nat) : State :=
  let n := ((s.region r).waiters.filter fun w => w.object == o).length
  let x := s.syncObj r o
  s.setSyncObj r o { x with w2 := putField x.w2 24 12 (min n 4095) }

/-- Releases waiting operations of an object, in the order they arrived: those that `f` gives a reply value. -/
def State.releaseBy (s : State) (r o : Nat) (f : Waiter → Option Word) : State :=
  let ws := (s.region r).waiters
  let go := ws.filter fun w => w.object == o && (f w).isSome
  let s1 := s.updRegion r fun x => { x with waiters := ws.filter fun w => !(w.object == o && (f w).isSome) }
  (go.foldl (fun t w => t.syncAnswer w.msg 0 ((f w).getD 0)) s1).countWaiters r o

/-- Releases the operations whose condition now holds. -/
def State.release (s : State) (r o : Nat) : State :=
  let x := s.syncObj r o
  s.releaseBy r o x.releases

/-- Holds an operation (R237). -/
def State.holdWaiter (s : State) (r o : Nat) (m : Msg) : State :=
  (s.updRegion r fun x => { x with waiters := x.waiters ++ [{ object := o, sop := m.sop, operand := m.operand, msg := m }] }).countWaiters
    r o

/-- Answers an operation with a value. -/
def State.syncDone (s : State) (m : Msg) (v : Word) : State := s.syncAnswer m 0 v

/-! ### Effects (Table NET-8, R235) -/

/-- READ, ADD, SET, OR, CLEAR: word 0 changes, and the previous value answers. -/
def State.syncValue (s : State) (r : Nat) (m : Msg) (f : Word → Word) : State :=
  let o := waIndex m.wa
  let x := s.syncObj r o
  ((s.setSyncObj r o { x.counted with w0 := f x.w0 }).syncDone m x.w0).release r o

/-- WAIT_GE, WAIT_ANY, AWAIT: answered at once, or held. -/
def State.syncWait (s : State) (r : Nat) (m : Msg) : State :=
  let o := waIndex m.wa
  let x := s.syncObj r o
  let s1 := s.setSyncObj r o x.counted
  if x.waits m then s1.holdWaiter r o m else s1.syncDone m x.w0

/-- ARRIVE: the last arrival starts a new generation and releases every waiter; its own reply goes first (DESIGN CHOICE, log 161). -/
def State.syncArrive (s : State) (r : Nat) (m : Msg) : State :=
  let o := waIndex m.wa
  let x := s.syncObj r o
  if x.arrivals + 1 = x.target then
    let g := (x.generation + 1) % 4096
    let s1 := s.setSyncObj r o { x.counted with w0 := wd (g * 2 ^ 24) }
    (s1.syncDone m (wd g)).releaseBy r o fun _ => some (wd g)
  else
    let s1 := s.setSyncObj r o { x.counted with w0 := putField x.w0 0 24 (x.arrivals + 1) }
    if m.isSyncr then s1.holdWaiter r o m else s1.syncDone m 0

/-- CONTRIBUTE, and the decision of R235; the deciding one's own reply goes before those of the waiters (DESIGN CHOICE, log 161). The second result is the bit that goes to the system path; the third says
that the object had decided before (R284). -/
def State.syncContribute (s : State) (r : Nat) (m : Msg) : State × Option Bool × Bool :=
  let o := waIndex m.wa
  let x := s.syncObj r o
  let v := max x.verdict (field m.operand 0 1)
  let n := min (x.received + 1) (2 ^ 24 - 1)
  let y : SyncObj := { x.counted with w0 := putField x.w0 0 1 v, w2 := putField x.w2 0 24 n }
  if x.decided then ((s.setSyncObj r o y).syncDone m y.w0, none, true)
  else if x.received < x.target ∧ n = x.target then
    if x.linkMode then
      let s1 := s.setSyncObj r o { y with w0 := putField y.w0 2 1 1 }
      (if m.isSyncr then s1.holdWaiter r o m else s1.syncDone m 0, some (v == 1), false)
    else
      let z : SyncObj := { y with w0 := putField y.w0 1 1 1 }
      (((s.setSyncObj r o z).syncDone m z.w0).release r o, none, false)
  else
    let s1 := s.setSyncObj r o y
    (if m.isSyncr then s1.holdWaiter r o m else s1.syncDone m 0, none, false)

/-- DECIDE: the verdict of the system. -/
def State.syncDecide (s : State) (r : Nat) (m : Msg) : State :=
  let o := waIndex m.wa
  let x := s.syncObj r o
  let z : SyncObj := { x.counted with w0 := putField (putField x.w0 0 1 (field m.operand 0 1)) 1 1 1 }
  ((s.setSyncObj r o z).syncDone m z.w0).release r o

/-- REARM. -/
def State.syncRearm (s : State) (r : Nat) (m : Msg) : State :=
  let o := waIndex m.wa
  let x := s.syncObj r o
  let t := field m.operand 0 24
  let z : SyncObj := { x.counted with
    w0 := 0, w1 := if t = 0 then x.w1 else putField x.w1 3 24 t, w2 := putField x.w2 0 24 0 }
  (s.setSyncObj r o z).syncDone m x.w0

/-- INIT. -/
def State.syncInit (s : State) (r : Nat) (m : Msg) : State :=
  let o := waIndex m.wa
  let x := s.syncObj r o
  let z : SyncObj := { w0 := 0, w1 := wd (m.operand.toNat % 2 ^ 28), w2 := 0, w3 := 0 }
  (s.setSyncObj r o z).syncDone m x.w0

/-! ### Objects changed by the region controller itself (R274, R281, R283) -/

/-- Sets an object's word 0 and releases the operations whose condition then holds. -/
def State.putSync (s : State) (r o : Nat) (f : SyncObj → SyncObj) : State :=
  (s.setSyncObj r o (f (s.syncObj r o))).release r o

/-- Sync objects of the sequencer (R274). -/
def objGradDone : Nat := 16380
def objStepFlag : Nat := 16381
def objVerdict : Nat := 16383

/-- ORs bits into the step flag of a region. -/
def State.stepFlag (s : State) (r : Nat) (bits : Word) : State :=
  s.putSync r objStepFlag fun o => { o.counted with w0 := o.w0 ||| bits }

end Sys2Proof.Machine
end

