-- ==== Sys2Proof/Machine/Tables.lean ====
section
/-! DEFINITION. The tables that the job image and table sets load: ink-line and stream entries with their checks
(R260, R265, R270), and the records of a table set (R392). -/

namespace Sys2Proof.Machine

/-! ### Ink-line and stream entries (Tables WEL-7, WEL-8) -/

def lineIndex (l k : Nat) : Nat := 14400 + 8 * l + k
def streamIndex (t k : Nat) : Nat := 15040 + 4 * t + k
def streamStatus (t : Nat) : Nat := 15296 + t

def State.lineN (s : State) (r l : Nat) : Nat := field (s.p1 r (lineIndex l 0)) 0 5
def State.lineOk (s : State) (r l : Nat) : Bool := decide (l < 80) && field (s.p1 r (lineIndex l 0)) 5 1 == 1
def State.lineBusy (s : State) (r l : Nat) : Bool := field (s.p1 r (lineIndex l 5)) 0 1 == 1
/-- The unit at position `p` of a line. -/
def State.linePos (s : State) (r l p : Nat) : Nat := 320 * r + field (s.p1 r (lineIndex l (1 + p / 4))) (p % 4 * 9) 9

/-- Unit numbers (mod 320) that the words of a line entry name. -/
def lineUnits (ws : List Word) : List Nat :=
  (List.range (min 16 (field (ws.getD 0 0) 0 5))).map fun p => field (ws.getD (1 + p / 4) 0) (p % 4 * 9) 9

/-- The words of a line entry keep R260; `l` is its number. -/
def State.lineEntryOk (s : State) (r l : Nat) (ws : List Word) : Bool :=
  let w0 := ws.getD 0 0
  let us := lineUnits ws
  field w0 6 30 == 0 &&
    (field w0 5 1 == 0 ||
      (decide (1 ≤ field w0 0 5 ∧ field w0 0 5 ≤ 16) && us.all (fun u => decide (u < 320)) && decide us.Nodup &&
        (List.range 80).all fun k => k == l || !s.lineOk r k ||
          (List.range (s.lineN r k)).all fun p => !us.contains (s.linePos r k p - 320 * r)))

/-- Writes a line entry, or refuses it with event 0x172 (R260). Words 5 to 7 are the controller's own. -/
def State.writeLine (s : State) (r l : Nat) (ws : List Word) : State :=
  if s.lineBusy r l || !s.lineEntryOk r l ws then s.raise r 0x172 noSubject (ws.getD 0 0).toNat
  else (List.range 5).foldl (fun t k => t.setP1 r (lineIndex l k) (ws.getD k 0)) s

/-- Fields of a stream entry. -/
def stBase (ws : List Word) (buf : Bool) : Nat := field (ws.getD (if buf then 1 else 0) 0) 0 27
def stLine (ws : List Word) : Nat := field (ws.getD 0 0) 27 7
def stRows (ws : List Word) : Nat := if field (ws.getD 1 0) 27 1 = 1 then 32 else 64
def stBcast (ws : List Word) : Bool := field (ws.getD 1 0) 28 1 == 1
def stInUse (ws : List Word) : Bool := field (ws.getD 1 0) 29 1 == 1
def stInc (ws : List Word) : Nat := field (ws.getD 1 0) 30 6
def stTiles (ws : List Word) : Nat := field (ws.getD 2 0) 0 20
def stTrigger (ws : List Word) : Nat := field (ws.getD 2 0) 20 14
def stThreshold (ws : List Word) : Word := ws.getD 3 0

/-- The words of a stream entry keep R265 and R270. -/
def State.streamEntryOk (s : State) (r : Nat) (ws : List Word) : Bool :=
  let last (b : Bool) : Nat := stBase ws b + stTiles ws * stRows ws / 8
  field (ws.getD 0 0) 34 2 == 0 && field (ws.getD 2 0) 34 2 == 0 &&
    (!stInUse ws ||
      (decide (1 ≤ stTiles ws) && s.lineOk r (stLine ws) &&
        (stBcast ws || stTiles ws % max 1 (s.lineN r (stLine ws)) == 0) &&
        decide (last false ≤ granules ∧ last true ≤ granules) && (s.syncObj r (stTrigger ws)).type == 1))

/-- Writes a stream entry and arms it, or refuses it with event 0x171 (R265, R270). -/
def State.writeStream (s : State) (r t : Nat) (ws : List Word) : State :=
  if !s.streamEntryOk r ws then s.raise r 0x171 noSubject (ws.getD 0 0).toNat
  else
    ((List.range 4).foldl (fun v k => v.setP1 r (streamIndex t k) (ws.getD k 0)) s).setP1 r (streamStatus t)
      (if stInUse ws then 1 else 0)

/-- The words of a stream entry as they are stored. -/
def State.streamWords (s : State) (r t : Nat) : List Word := (List.range 4).map fun k => s.p1 r (streamIndex t k)

/-! ### Table sets (R392) -/

/-- Payload words per entry of a kind, and how many entries the table has. Roster entries are two 64-bit words; the
word layouts that the spec does not give are the model's (log 14). -/
def tableShape (kind : Nat) : Option (Nat × Nat) :=
  match kind with
  | 1 => some (2, 4096)
  | 2 => some (1, 4096)
  | 3 => some (1, 4096)
  | 4 => some (4, 32768)
  | 5 => some (2, 256)
  | 6 => some (1, 4096)
  | 7 => some (1, 3)
  | 8 => some (8, 512)
  | 9 => some (16, 320 * 49152)
  | 10 => some (4, 64)
  | 11 => some (8, 80)
  | 12 => some (16, 320 * 49152)
  | 13 => some (1, 3)
  | _ => none

/-- Kinds that concern one region. -/
def tableRegional (kind : Nat) : Bool := decide (8 ≤ kind ∧ kind ≤ 13)

/-- A region parameter is in its range (R392). -/
def paramOk (i : Nat) (v : BitVec 64) : Bool :=
  match i with
  | 0 => decide (v.toNat ≤ 255)
  | 1 => true
  | _ => decide (1 ≤ v.toNat ∧ v.toNat ≤ 65535)

/-- A record is well formed; otherwise the whole set fails with 0x70F. -/
def tableRecOk (t : TableRec) : Bool :=
  match tableShape t.kind with
  | none => false
  | some (n, size) =>
    decide (t.first + t.count ≤ size) && t.words.length == n * t.count &&
      (t.kind == 1 || t.words.all fun w => decide (w.toNat < 2 ^ 36)) &&
      (if tableRegional t.kind then decide (t.region < 48) || (t.kind == 13 && t.region == 255) else t.region == 255) &&
      (t.kind != 13 || (t.words.zipIdx.all fun (w, i) => paramOk (t.first + i) w))

/-- Words of entry `i` of a record. -/
def tableEntry (t : TableRec) (n i : Nat) : List Word := ((t.words.drop (n * i)).take n).map (·.setWidth 36)

/-- Regions in service. -/
def State.regionsUp (s : State) : List Nat := (List.range 48).filter fun r => (s.svc r).inService

/-- Sets one region parameter. -/
def State.setParam (s : State) (r i : Nat) (v : Word) : State :=
  match i with
  | 0 => s.updP1 r 5571 fun w => putField w 0 8 v.toNat
  | 1 => s.setP1 r 4224 v
  | _ => s.updP1 r 14386 fun w => putField w 0 16 v.toNat

/-- A window entry from its two words (log 14): region and first granule, then count and writable. -/
def windowOf (ws : List Word) : Option Window :=
  let w1 := ws.getD 1 0
  if field w1 0 27 = 0 then none
  else some { region := field (ws.getD 0 0) 27 6, first := field (ws.getD 0 0) 0 27, count := field w1 0 27,
              writable := field w1 27 1 == 1 }

def treeOf (w : Word) : Tree := { parent := field w 0 5, children := BitVec.ofNat 24 (field w 5 24) }

/-- Bits of word `j` of a reduction plan entry that Table NET-9 gives a field; the others read as zero (R7). -/
def planBits (j : Nat) : Nat :=
  match j with
  | 0 | 4 | 6 => 36
  | 5 => 18
  | _ => 24

/-- Applies entry `i` of a record other than a roster's. -/
def State.applyEntry (s : State) (t : TableRec) (n i : Nat) : State :=
  let ws := tableEntry t n i
  let k := t.first + i
  let w := ws.getD 0 0
  let y := s.sys
  match t.kind with
  | 2 => { s with sys := { y with route := y.route.set 0 k (w.setWidth 25) } }
  | 3 => { s with sys := { y with mcast := y.mcast.set 0 k (w.setWidth 26) } }
  | 4 =>
    let e : Landing := { w0 := w, w1 := ws.getD 1 0, w2 := ws.getD 2 0, w3 := ws.getD 3 0 }
    { s with sys := { y with landing := y.landing.set Landing.reset k e } }
  | 5 => { s with sys := { y with window := y.window.set none k (windowOf ws) } }
  | 6 =>
    let e : Shard := { owner := field w 0 12, partner := field w 12 12, valid := field w 24 1 == 1 }
    { s with sys := { y with shards := y.shards.set Shard.reset k e } }
  | 7 =>
    if k = 0 then { s with sys := { y with primary := treeOf w } }
    else if k = 1 then { s with sys := { y with deputy := treeOf w } }
    else s.updBar 0x30804 fun v => putField (putField v 0 12 (field w 0 12)) 12 12 (field w 12 12)
  | 8 => (List.range 8).foldl (fun v j => v.setP1 t.region (6144 + 8 * k + j) (wd (field (ws.getD j 0) 0 (planBits j)))) s
  | 10 => s.writeStream t.region k ws
  | 11 => s.writeLine t.region k ws
  | 13 =>
    if t.region = 255 then s.regionsUp.foldl (fun v r => v.setParam r k w) s else s.setParam t.region k w
  | _ =>
    -- kinds 9 and 12: rows of the units' scratchpads
    s.updUnit (320 * t.region + k / 49152) fun x =>
      x.putCell (k % 49152) { x.cell (k % 49152) with data := rowOfWords ws, nf := false }

/-- A roster entry from its two 64-bit words (R333). -/
def rosterOf (a b : BitVec 64) : RosterEntry :=
  { serial := a, detClass := b.setWidth 16, state := field b 16 8 }

/-- A roster record changes the pending roster, whose generation is the next one (R333, log 14). -/
def State.loadRoster (s : State) (t : TableRec) : State :=
  let base := s.sys.pendingRoster.getD s.sys.roster
  let new := (List.range t.count).foldl (fun m i =>
    m.set RosterEntry.reset (t.first + i) (rosterOf (t.words.getD (2 * i) 0) (t.words.getD (2 * i + 1) 0))) base
  { s with sys := { s.sys with
      pendingRoster := some new, pendingGen := BitVec.ofNat 16 (field (s.bar 0x30800) 12 16 + 1) } }

/-- Applies the records of a table set. -/
def State.applyTables (s : State) (l : List TableRec) : State :=
  l.foldl (fun v t =>
    match tableShape t.kind with
    | none => v
    | some (n, _) =>
      if t.kind = 1 then v.loadRoster t else (List.range t.count).foldl (fun x i => x.applyEntry t n i) v) s

/-- The module's own serial number (MGT_SERIAL). -/
def State.ownSerial (s : State) : BitVec 64 :=
  (s.bar 0x20018).setWidth 64 <<< 32 ||| (s.bar 0x20014).setWidth 64

/-- Roster members. -/
def State.members (s : State) : Nat := (s.sys.roster.filter fun e => e.2.state == 2).length

end Sys2Proof.Machine
end

