-- ==== Sys2Proof/Machine/LinkTx.lean ====
section
/-! DEFINITION. The sending side of the Apnen links (spec/12): headers, retry buffer, window and credits, routing over
the system, and the flits of the system control path. -/

namespace Sys2Proof.Machine

/-! ### Headers (Tables LNK-3, LNK-4, LNK-7) -/

def hf (f : Flit) (lo len : Nat) : Nat := field f.header lo len
def fType (f : Flit) : Nat := hf f 0 4
def fNf (f : Flit) : Bool := hf f 4 1 == 1
def fLvc (f : Flit) : Nat := hf f 5 3
def fSeq (f : Flit) : Nat := hf f 8 12
def fDst (f : Flit) : Nat := hf f 33 12
def fSrc (f : Flit) : Nat := hf f 45 12
def fTtl (f : Flit) : Nat := hf f 57 5

/-- A header: type, nf, link virtual channel, destination, source, ttl and the kind fields from bit 80 on. -/
def mkHeader (ftype : Nat) (nf : Bool) (lvc dst src ttl kind : Nat) : BitVec 224 :=
  BitVec.ofNat 224 (ftype % 16 + nf.toNat * 2 ^ 4 + lvc % 8 * 2 ^ 5 + dst % 4096 * 2 ^ 33 + src % 4096 * 2 ^ 45 +
    ttl % 32 * 2 ^ 57 + kind * 2 ^ 80)

def mkFlit (h : BitVec 224) (payload : List Row) : Flit := { header := h, payload := payload, errors := [] }

/-! ### Registers (Table LNK-8) -/

def lnkReg (l off : Nat) : Nat := 0x30000 + 0x40 * l + off
/-- LNK_STS state: 0 down, 1 training, 2 fenced, 3 up, 4 paused, 5 out of service. -/
def State.lnkState (s : State) (l : Nat) : Nat := field (s.bar (lnkReg l 4)) 0 3
def State.setLnkState (s : State) (l v : Nat) : State := s.updBar (lnkReg l 4) fun w => putField w 0 3 v
def State.lnkGroup (s : State) (l : Nat) : Nat := field (s.bar (lnkReg l 0)) 2 3
def State.lnkDateline (s : State) (l : Nat) : Nat := field (s.bar (lnkReg l 0)) 5 1
def State.lnkPeer (s : State) (l : Nat) : Nat := field (s.bar (lnkReg l 4)) 13 12
/-- ttl_init in force: a value written while the job runs takes effect at the next open (R6, R458). -/
def State.ttlInit (s : State) : Nat := (s.sys.newTtl.map (·.toNat)).getD (field (s.bar 0x30808) 0 5)
def State.attempt (s : State) : Nat := field (s.bar 0x30808) 8 8
def State.generation (s : State) : Nat := field (s.bar 0x30800) 12 16

/-- An event of link engine `l`, with the register word that records it. -/
def State.raiseLink (s : State) (l code off : Nat) : State := s.raiseFrom srcLink code l (s.bar (lnkReg l off)).toNat

/-! ### Sending (R318, R322) -/

/-- A sequenced flit may be sent on a link now: state, window and credits, and no replay in progress, which ends with the next
acknowledgement (DESIGN CHOICE, log 142). A fenced link carries only HELLO and
HELLO_ACK (R334). -/
def State.sendable (s : State) (l : Nat) (f : Flit) : Bool :=
  let k := s.link l
  let hello := fType f == 8 && (hf f 80 4 == 7 || hf f 80 4 == 8)
  (s.lnkState l == 3 || (s.lnkState l == 2 && hello)) && decide (k.buffer.length < 2048) &&
    decide (k.replays = 0) && (decide (0 < k.floors.get 64 (fLvc f)) || decide (0 < k.shared))

/-- Takes a credit: a floor credit first (R227, R322). -/
def Link.takeCredit (k : Link) (lvc : Nat) : Link :=
  let n := k.floors.get 64 lvc
  if 0 < n then { k with floors := k.floors.set 64 lvc (n - 1) } else { k with shared := k.shared - 1 }

/-- Credits that return (R322). -/
def Link.giveCredits (k : Link) (lvc n : Nat) : Link :=
  let have0 := k.floors.get 64 lvc
  let toFloor := min n (64 - have0)
  { k with floors := k.floors.set 64 lvc (have0 + toFloor), shared := min 1536 (k.shared + (n - toFloor)) }

/-- A flit with its sequence number and the acknowledgement of the reverse direction. -/
def Link.stamp (k : Link) (f : Flit) : Flit :=
  { f with header := putField (putField f.header 8 12 k.txSeq.toNat) 20 12 (k.rxNext - 1).toNat }

/-- Sends what can be sent, oldest first within a link virtual channel. -/
def State.linkPump (s : State) (l : Nat) : Nat → State
  | 0 => s
  | n + 1 =>
    let k := s.link l
    match k.queue.findIdx? fun f => s.sendable l f with
    | none => s
    | some i =>
      match k.queue[i]? with
      | none => s
      | some f =>
        let g := k.stamp f
        let k1 := (k.takeCredit (fLvc f))
        let k2 := { k1 with queue := k1.queue.eraseIdx i, buffer := k1.buffer ++ [g], txSeq := k1.txSeq + 1,
                            starved := putField k1.starved (fLvc f) 1 0 }
        State.linkPump ((s.setLink l k2).emit (.flit l g)) l n

def State.linkPumpAll (s : State) (l : Nat) : State := s.linkPump l (s.link l).queue.length

/-- Queues a sequenced flit on a link; a link that is down or out of service takes none. -/
def State.linkSend (s : State) (l : Nat) (f : Flit) : State :=
  if s.lnkState l = 2 ∨ s.lnkState l = 3 ∨ s.lnkState l = 4 then
    (s.updLink l fun k => { k with queue := k.queue ++ [f] }).linkPumpAll l
  else s

/-- Sends an unsequenced flit: IDLE or MNT (R318, R319). -/
def State.linkRaw (s : State) (l : Nat) (h : BitVec 224) : State :=
  s.emit (.flit l (mkFlit (putField h 20 12 ((s.link l).rxNext - 1).toNat) []))

/-! ### Routing (R323, R327) -/

/-- The k-th set bit of a mask, counted from bit 0. -/
def nthBit (mask : Nat) (k : Nat) : Option Nat := ((List.range 24).filter fun i => mask.testBit i)[k]?

/-- The link toward a module: none when there is no route (R327). -/
def State.routeLink (s : State) (src dst : Nat) : Option Nat :=
  let e := s.sys.route.get 0 dst
  let mask := field e 0 24
  let n := ((List.range 24).filter fun i => mask.testBit i).length
  if field e 24 1 = 1 ∧ 0 < n then nthBit mask ((src + dst) % n) else none

/-- A flit that has no route is dropped, with event 0x402; the step aborts. -/
def State.noRoute (s : State) (dst : Nat) : State :=
  ((s.seeBar 0x3080C 4).raiseFrom srcLink 0x402 dst (s.bar 0x3080C).toNat).report (causeOf 0x402 16383 none)

/-- Sends a flit on a link; `d0` is its dateline bit before the crossing (R323). -/
def State.linkOut (s : State) (l : Nat) (f : Flit) (d0 : Nat) : State :=
  s.linkSend l { f with header := putField f.header 5 3 (fLvc f / 2 * 2 + if s.lnkDateline l = 1 then 1 else d0) }

/-- Sends a flit toward its destination module. `dateline` is its dateline bit as it leaves. -/
def State.linkRoute (s : State) (f : Flit) : State :=
  match s.routeLink (fSrc f) (fDst f) with
  | none => s.noRoute (fDst f)
  | some l => s.linkOut l f (fLvc f % 2)

/-- A flit that enters the links from the wafer (R323, R327). -/
def State.linkInject (s : State) (ftype cls : Nat) (nf : Bool) (dst kind : Nat) (payload : List Row) : State :=
  s.linkRoute (mkFlit (mkHeader ftype nf (2 * cls) dst s.ownIndex.toNat s.ttlInit kind) payload)

/-- MNT flits go out on a live link (Table LNK-4). -/
def State.sendMnt (s : State) (l op lane : Nat) (pass : Bool) (m : BitVec 32) : State :=
  s.linkRaw l (mkHeader 9 false 0 (s.lnkPeer l) s.ownIndex.toNat 0
    (op + lane % 16 * 2 ^ 4 + pass.toNat * 2 ^ 8 + m.toNat * 2 ^ 9))

/-- The edge region of a link (Table ORG-4). -/
def linkRegion (l : Nat) : Nat :=
  ([0, 1, 4, 5, 8, 9, 12, 13, 15, 29, 31, 45, 47, 46, 43, 42, 39, 38, 35, 34, 32, 18, 16, 2] : List Nat).getD l 0

/-! ### System control flits (R336) -/

def State.onDeputy (s : State) : Bool := field (s.bar 0x30804) 24 1 == 1
def State.tree (s : State) : Tree := if s.onDeputy then s.sys.deputy else s.sys.primary
def State.isRoot (s : State) : Bool := s.tree.parent == 31
def State.childLinks (s : State) : List Nat := (List.range 24).filter fun i => s.tree.children.toNat.testBit i

/-- Kind fields of a SYS flit (Table LNK-7). -/
def State.sysKind (s : State) (cmd : Nat) (bit : Bool) (subject count : Nat) : Nat :=
  cmd + s.seq.sched.step.toNat % 2 ^ 36 * 2 ^ 4 + s.attempt * 2 ^ 40 + s.generation * 2 ^ 48 + bit.toNat * 2 ^ 64 +
    subject % 4096 * 2 ^ 65 + count % 8192 * 2 ^ 77 + s.onDeputy.toNat * 2 ^ 90

def State.sendSys (s : State) (l cmd : Nat) (bit : Bool) (subject count : Nat) : State :=
  s.linkOut l (mkFlit (mkHeader 8 false 0 (s.lnkPeer l) s.ownIndex.toNat s.ttlInit (s.sysKind cmd bit subject count)) []) 0

def State.sysDown (s : State) (cmd : Nat) (bit : Bool) (subject : Nat) : State :=
  s.childLinks.foldl (fun t l => t.sendSys l cmd bit subject 0) s

def State.sysUp (s : State) (cmd : Nat) (bit : Bool) (subject count : Nat) : State :=
  if s.isRoot then s else s.sendSys s.tree.parent cmd bit subject count

/-- The deputy tree comes into use, with event 0x048 (R340). -/
def State.switchDeputy (s : State) : State :=
  if s.onDeputy then s else (s.seeBar 0x30804 24).raiseFrom srcLink 0x048 0xFFFF (s.bar 0x30804).toNat

/-- A link leaves service: its buffers are discarded, event 0x401, and the step aborts (R326). -/
def State.linkDown (s : State) (l : Nat) : State :=
  let s1 := (s.setLnkState l 5).updLink l fun k => { k with buffer := [], queue := [], testing := [], nakOpen := false }
  ((s1.seeBar (lnkReg l 0xC) 4).raiseLink l 0x401 0xC).report (causeOf 0x401 16383 none)

/-! ### Roster (R306, R333, R334) -/

/-- A roster as this module takes it: a module whose determinism class is not its own is not admitted (R306). -/
def State.admitPeers (s : State) (r : Sparse RosterEntry) : Sparse RosterEntry :=
  r.map fun (i, e) => (i, if e.state = 2 ∧ e.detClass.toNat ≠ field (s.bar 4) 0 16 then { e with state := 1 } else e)

/-- The sender is a roster member. -/
def State.isMember (s : State) (m : Nat) : Bool := (s.sys.roster.get RosterEntry.reset m).state == 2

/-- This module is a member (LNK_SYS member). -/
def State.ownMember (s : State) : Bool := field (s.bar 0x30800) 28 1 == 1

/-- The link joins two members that have accepted each other's HELLO: it is not fenced (R334). -/
def State.joined (s : State) (l : Nat) : Bool :=
  (s.link l).helloIn && (s.link l).helloOut && s.isMember (s.lnkPeer l) && s.ownMember

/-- A fenced link comes up once both HELLOs are accepted and both ends are members. -/
def State.linkUp (s : State) (l : Nat) : State :=
  if s.lnkState l = 2 ∧ s.joined l = true then (s.setLnkState l 3).linkPumpAll l else s

/-- The links to new members, or of a module that has itself become one, leave the fenced state. -/
def State.raiseFences (s : State) : State := (List.range 24).foldl State.linkUp s

/-- The pending roster takes effect: generation, own index and membership; the links of a module that becomes a member
leave the fenced state, with event 0x046 (R333, R334). -/
def State.takeRoster (s : State) : State :=
  match s.sys.pendingRoster with
  | none => s
  | some pending =>
    let old := s.sys.roster
    let new := s.admitPeers pending
    let own := ((new.find? fun e => e.2.serial == s.ownSerial && e.2.state != 0).map (·.1)).getD (field (s.bar 0x30800) 0 12)
    let mine := new.get RosterEntry.reset own
    let s1 := { s with sys := { s.sys with roster := new, pendingRoster := none } }
    let s2 := s1.setBar 0x30800
      (BitVec.ofNat 32 (own + s.sys.pendingGen.toNat * 2 ^ 12 + (if mine.state = 2 then 2 ^ 28 else 0)))
    let joined := (new.filter fun e => e.2.state == 2 && (old.get RosterEntry.reset e.1).state != 2).map (·.1)
    joined.foldl (fun t i => if i = own ∨ old = [] then t else t.raiseFrom srcLink 0x046 i i) s2.raiseFences

end Sys2Proof.Machine
end

