-- ==== Sys2Proof/Machine/Rings.lean ====
section
/-! DEFINITION. What several families need of the host engine (spec/14): host memory, ring registers, descriptors in
flight and their completion, HST_STATUS; and the octet order of rows. -/

namespace Sys2Proof.Machine

/-! ### Octets -/

/-- A number of octets, least significant first. -/
def leNat : List Octet → Nat
  | [] => 0
  | o :: os => o.toNat + 256 * leNat os

def leOctets (n v : Nat) : List Octet := (List.range n).map fun i => BitVec.ofNat 8 (v / 256 ^ i)

/-- The 72 octets of a well row: bit k of the row is bit k mod 8 of octet k div 8 (R19, R22). -/
def rowOctets (r : Row) : List Octet := (List.range 72).map fun i => r.extractLsb' (8 * i) 8

/-! ### Host memory (log 5) -/

def State.hostRead (s : State) (a n : Nat) : List Octet := (List.range n).map fun i => s.hostMem.get 0 ((a + i) % 2 ^ 64)

def State.hostWrite (s : State) (a : Nat) (os : List Octet) : State :=
  { s with hostMem := (os.zipIdx.foldl (fun (m : Sparse Octet) (o, i) => m.set 0 ((a + i) % 2 ^ 64) o) s.hostMem) }

/-! ### Command rings (Table HST-4) -/

def ringReg (q off : Nat) : Nat := 0x1000 + 0x40 * q + off
def State.ring (s : State) (q : Nat) : Ring := s.host.rings.get Ring.reset q
def State.setRing (s : State) (q : Nat) (r : Ring) : State :=
  { s with host := { s.host with rings := s.host.rings.set Ring.reset q r } }
def State.updRing (s : State) (q : Nat) (f : Ring → Ring) : State := s.setRing q (f (s.ring q))

def State.ringEnabled (s : State) (q : Nat) : Bool := field (s.bar (ringReg q 0x10)) 0 1 == 1
def State.ringJob (s : State) (q : Nat) : Bool := field (s.bar (ringReg q 0x10)) 1 1 == 1
def State.ringLog2 (s : State) (q : Nat) : Nat := field (s.bar (ringReg q 0x10)) 2 5
def State.ringSize (s : State) (q : Nat) : Nat := 2 ^ s.ringLog2 q
def State.ringHead (s : State) (q : Nat) : Nat := field (s.bar (ringReg q 0x18)) 0 16
/-- 0 disabled, 1 running, 2 paused for abort, 3 stopped by error. -/
def State.ringState (s : State) (q : Nat) : Nat := field (s.bar (ringReg q 0x18)) 16 2
def State.setRingState (s : State) (q v : Nat) : State := s.updBar (ringReg q 0x18) fun w => putField w 16 2 v

/-- A ring stops with an error (R383, R384): state 3, the status, ring_err_seen. -/
def State.ringStop (s : State) (q code : Nat) : State :=
  ((s.updBar (ringReg q 0x18) fun w => putField (putField w 16 2 3) 18 12 code).seeBar 0x14 0)

def State.copyRings (s : State) : List Nat := (List.range 32).filter fun q => !s.ringJob q
def State.jobRings (s : State) : List Nat := (List.range 32).filter fun q => s.ringJob q

/-- The job ring's consumer position (R391). -/
def State.jobRingPos (s : State) : Nat :=
  match s.jobRings.filter s.ringEnabled with
  | [] => s.seq.sched.jobRingPos.toNat
  | q :: _ => s.ringHead q

/-! ### Descriptors in flight (Tables HST-5 to HST-7) -/

def dOctet (os : List Octet) (i : Nat) : Nat := (os.getD i 0).toNat
/-- A field of a descriptor: octets `lo` to `lo + n - 1`. -/
def dField (os : List Octet) (lo n : Nat) : Nat := leNat ((List.range n).map fun i => os.getD (lo + i) 0)
def dOp (os : List Octet) : Nat := dOctet os 0

/-- Completes the descriptor of a slot, if it is in flight. -/
def State.finish (s : State) (q index status : Nat) (nf : Bool) (result : Nat) : State :=
  s.updRing q fun r => { r with taken := r.taken.map fun t =>
    if t.index = index ∧ t.finished.isNone then
      { t with finished := some (BitVec.ofNat 12 status, nf, BitVec.ofNat 64 result) }
    else t }

/-- Descriptors of a ring that are in flight and not complete. -/
def State.inFlight (s : State) (q : Nat) : List Taken := (s.ring q).taken.filter fun t => t.finished.isNone

/-- Completes every descriptor in flight on some rings as a function of the descriptor. -/
def State.finishAll (s : State) (qs : List Nat) (f : Taken → Option (Nat × Nat)) : State :=
  qs.foldl (fun t q => (t.inFlight q).foldl (fun v d =>
    match f d with
    | some (status, result) => v.finish q d.index status false result
    | none => v) t) s

/-! ### HST_STATUS -/

def State.setStatus (s : State) (lo len v : Nat) : State := s.updBar 8 fun w => putField w lo len v

end Sys2Proof.Machine
end

