-- ==== Sys2Proof/Machine/Repair.lean ====
section
/-! DEFINITION. The fault paths (spec/13): field notes, sequencer events, the stop of a job, targeted self-tests, unit
retirement and spare fill, dark clusters and region withdrawal. -/

namespace Sys2Proof.Machine

/-! ### Field notes (R445) -/

/-- A field note that the holder is to write: subkind and content. -/
def State.note (s : State) (sub : Nat) (items : List Nat) : State :=
  let rec1 : FlashRec :=
    { kind := 0x10, superseded := false, seq := 0, payload := leOctets 2 sub ++ items.flatMap (leOctets 4), key := 1,
      sig := 0, written := s.operating }
  { s with mgmt := { s.mgmt with journal := s.mgmt.journal ++ [rec1] } }

/-- The field notes that the module holds: those in the flashes, and those of the pen journal (R443, R444). -/
def State.fieldNotes (s : State) : List FlashRec :=
  (s.mgmt.flashA.notes ++ s.mgmt.flashB.notes ++ s.mgmt.journal).filter fun n => n.kind == 0x10

/-- What the field notes of a subkind say, in items of 4 octets; one that both flashes hold counts once. -/
def State.noted (s : State) (sub : Nat) : List (List Nat) :=
  ((s.fieldNotes.filter fun n => leNat (n.payload.take 2) == sub).map fun n =>
    (List.range ((n.payload.length - 2) / 4)).map fun i => leNat ((n.payload.drop (2 + 4 * i)).take 4)).eraseDups

/-- The physical position number of a logical unit's site (R48). -/
def State.position (s : State) (u : Nat) : Nat :=
  u / 320 * 400 + u % 320 / 16 * 20 + u % 16 / 4 * 5 + s.column u

/-! ### Sequencer events and phases (Tables STP-2, STP-5, R301) -/

/-- An event of the sequencer: the rings of the regions in service and the host event rings. -/
def State.raiseSeq (s : State) (code detail : Nat) : State :=
  (s.regionsUp.foldl (fun t r => t.ringWrite r srcSequencer code noSubject detail) s).raiseFrom srcSequencer code 0xFFFF detail

/-- Records a 0x8 status in the schedule words of a region. -/
def State.schedCode (s : State) (r code : Nat) : State := s.setP1 r 15374 (wd (code % 4096 + 2 ^ 12 + 2 ^ 13))

/-- A schedule fault at a region: recorded, raised, and the step aborts (Table STP-6). -/
def State.schedFault (s : State) (r code : Nat) : State :=
  let t := s.schedCode r code
  (t.raise r code noSubject (t.p1 r 15374).toNat).report (causeOf code 16383 none)

/-- Changes each region in service. -/
def State.forRegions (s : State) (f : State → Nat → State) : State := s.regionsUp.foldl f s

/-- The sequencer enters a phase. -/
def State.setPhase (s : State) (p : Nat) : State :=
  ({ s with seq := { s.seq with phase := p } }.setStatus 1 3 p).forRegions fun t r =>
    t.updP1 r 15367 fun w => putField w 0 3 p

/-- The abort state of Table FLT-3, in the sequencer and the fault words. -/
def State.setAbortState (s : State) (k : Nat) : State :=
  ({ s with seq := { s.seq with abortState := k } }).forRegions fun t r => t.updP1 r 80 fun w => putField w 0 3 k

/-- Copy rings paused for an abort run again (R389). -/
def State.resumeRings (s : State) : State :=
  s.copyRings.foldl (fun t q => if t.ringState q = 2 then t.setRingState q 1 else t) s

/-- The job stops with a code (R391): HST_STATUS, the event, the job descriptors in flight, whose table sets are dropped, and the copies
that an abort has found in flight (R389). -/
def State.jobStop (s : State) (code : Nat) : State :=
  let last := s.seq.sched.step.toNat - 1
  let s0 := if s.seq.phase = 7 then s.finishAll s.copyRings fun _ => some (0x707, 0) else s
  let s1 := s0.finishAll s.jobRings fun t => if dOp t.octets = 0x12 then some (code, last) else some (0x708, 0)
  let s2 := ((s1.setStatus 6 12 code).setStatus 18 1 1).setStatus 5 1 0
  let s3 := if 0x800 ≤ code then s2.forRegions fun t r => t.schedCode r code else s2
  let s4 := s3.raiseFrom srcSequencer code 0xFFFF (s3.bar 8).toNat
  let s5 : State := { s4 with
    seq := { s4.seq with
      running := false, held := false, stopAfter := none, reported := [], tests := [], transfer := none, digests := [],
      checkpoints := [], abortSent := false, tailAbort := false, consts := none, lostWells := [], refetch := [],
      commitDue := none, recreate := [] }
    sys := { s4.sys with tables := [] } }
  (s5.resumeRings.setAbortState 0).setPhase 0

/-! ### Role epochs and row maps (R51, R230, R359) -/

/-- The update of a unit's epoch, as its region controller sends it to the 48 region controllers and to the interfaces of the 960 clusters;
Table NET-4 has no kind for an interface, and the message names the cluster's first unit (DESIGN CHOICE, log 133). -/
def State.epochMsgs (s : State) (u : Nat) (e : BitVec 12) : List Msg :=
  let m : Msg := { blankMsg with
    type := 11, srcRegion := regionOf u, srcKind := 1, srcModule := s.ownIndex, words := [0, 0, wd (u + e.toNat * 2 ^ 14)] }
  ((List.range 48).map fun r => { m with dstRegion := r, dstKind := 1 }) ++
    (List.range 960).map fun c => { m with dstRegion := c / 20, dstUnit := 16 * c }

/-- The region controller increments a unit's role epoch in its own table and sends the update to every table; the row map changes once
all have acknowledged it. -/
def State.epochChange (s : State) (u column : Nat) (spare : Option (Nat × Nat)) : State :=
  let t := s.updRegion (regionOf u) fun x => { x with
    epochs := x.epochs.upd 0 u (· + 1)
    epochWaits := x.epochWaits ++ [{ unit := u, rowMap := rowMapIndex u, column := column, spare := spare }] }
  { t with net := t.net ++ t.epochMsgs u (t.epoch u) }

/-- Units of cluster `c` that a row map serves (R54). -/
def State.servedIn (s : State) (c : Nat) : Nat := ((List.range 16).filter fun k => !s.absent (16 * c + k)).length

/-- A replan is needed for a region (R362). -/
def State.replanFor (s : State) (r : Nat) : State :=
  let t := { s with seq := { s.seq with replan := true } }
  t.updP1 r 80 fun w => putField w 15 1 1

/-- The step has committed and the tail of its Blot phase goes on: planned work is done there, and aborts no step (R350, R365). -/
def State.inTail (s : State) : Bool := s.seq.phase == 6 && decide (5 ≤ s.seq.committed)

/-- A structural loss calls for an abort while a job runs and is not aborting already (Table FLT-1, Table FLT-7). -/
def State.structural (s : State) (code : Nat) : State :=
  if s.seq.running ∧ s.seq.phase ≠ 7 then s.report (causeOf code 16383 none) else s

/-- The cluster's ACLK is gated where it stands (R407, R410). -/
def State.gateClock (s : State) (c : Nat) : State :=
  s.updCluster c fun k => { k with cycBase := s.aclkOf c, cycRoot := s.root, stopped := true }

/-- A cluster is dark: its clock is gated, event 0x22C (R54, R407). `c` counts clusters of the module. `planned`: no abort is called
for. -/
def State.darkEvent (s : State) (c : Nat) (planned : Bool) : State :=
  let r := c / 20
  let t := (((s.gateClock c).seeP1 r 83 4).replanFor r).updBar (0x11000 + 8 * c) fun w => putField w 22 1 1
  let t1 := t.raise r 0x22C (c % 20) (t.p1 r 83).toNat
  if planned then t1 else t1.structural 0x22C

/-- A row is exhausted: event 0x22B, and the cluster is reduced or dark (R50, R54, Table FLT-4). Planned sparing comes to it in the tail of
the Blot phase. -/
def State.rowExhausted (s : State) (u : Nat) : State :=
  let r := regionOf u
  let t := (s.seeP1 r 83 3).replanFor r
  let t1 := t.raise r 0x22B u (t.p1 r 83).toNat
  let t2 := if s.inTail then t1 else t1.structural 0x22B
  if t2.servedIn (clusterOf u) = 0 then t2.darkEvent (clusterOf u) s.inTail else t2

/-- No hardware serves the unit any more, or another position is to: what stands at its banks is answered with a code, and what it held is
gone (R63). -/
def State.vacate (s : State) (u code : Nat) : State := (s.dropRequests u code).setUnit u Unit.reset

/-- A fill begins: the spare stands in for the unit, with nothing of the unit's content. -/
def State.startFill (s : State) (u : Nat) : State :=
  let r := regionOf u
  let f : Fill := { rowMap := rowMapIndex u, lc := u % 4, stage := .waking, failedOnce := false }
  ((s.vacate u 0x127).updSvc r fun x => { x with fills := x.fills ++ [f] }).updP1 r 80 fun w => bumpField w 8 7

/-- A fill leaves the list of those in progress. -/
def State.endFill (s : State) (r rowMap : Nat) : State :=
  (s.updSvc r fun x => { x with fills := x.fills.filter fun f => f.rowMap != rowMap }).updP1 r 80 fun w =>
    putField w 8 7 (field w 8 7 - 1)

/-- The spare is in service: script store loaded, event 0x02B (Table FLT-4). -/
def State.spareInService (s : State) (u : Nat) : State :=
  let r := regionOf u
  let t := ((s.endFill r (rowMapIndex u)).updP1 r 82 fun w => bumpField w 24 12).scriptLoad u []
  t.raise r 0x02B u (t.p1 r (rowMapIndex u)).toNat

/-- A row map change whose epoch every table has acknowledged. The rows of a dark cluster change with it, which was recorded
when it went dark. -/
def State.applyWait (s : State) (w : EpochWait) : State :=
  let r := regionOf w.unit
  let m1 := putField (s.p1 r w.rowMap) (3 * (w.unit % 4)) 3 w.column
  let m2 := match w.spare with
    | some (st, fl) => putField (putField m1 12 2 st) 14 2 fl
    | none => m1
  let t := s.setP1 r w.rowMap m2
  if w.column = 7 then (if s.dark (clusterOf w.unit) then t else (t.vacate w.unit 0x127).rowExhausted w.unit)
  else
    match w.spare with
    | some (1, _) => t.startFill w.unit
    | some (2, _) => t.spareInService w.unit
    | _ => t

/-- The logical unit that a fill serves. -/
def fillUnit (r : Nat) (f : Fill) : Nat := 320 * r + f.rowMap / 4 * 16 + f.rowMap % 4 * 4 + f.lc

/-- A spare fill fails: event 0x22E; the spare is failed and the unit absent (Table FLT-4). -/
def State.failFill (s : State) (r rowMap : Nat) : State :=
  match (s.svc r).fills.find? fun f => f.rowMap == rowMap with
  | none => s
  | some f =>
    let u := fillUnit r f
    let t := (s.endFill r rowMap).seeP1 r 83 2
    (t.raise r 0x22E u (t.p1 r 83).toNat).epochChange u 7 (some (3, f.lc))

/-- The spare_state and fill_lc of a row, a change that waits included. -/
def State.spareState (s : State) (u : Nat) : Nat × Nat :=
  let r := regionOf u
  let m := s.p1 r (rowMapIndex u)
  (((s.region r).epochWaits.filter fun w => w.rowMap == rowMapIndex u).filterMap (·.spare)).getLastD
    (field m 12 2, field m 14 2)

/-- A lasting fault retires the unit's physical position (R50, R359, Tables FLT-4, FLT-7). -/
def State.retireUnit (s : State) (u cause : Nat) : State :=
  let r := regionOf u
  let s1 := s.note 1 [1, s.position u, cause]
  let (st, fl) := s.spareState u
  if s.absent u ∨ (s.region r).epochWaits.any (fun w => w.unit == u && w.column != 4) then s
  else if st = 0 then s1.epochChange u 4 (some (1, u % 4))
  else if st = 1 ∧ fl = u % 4 then s1.failFill r (rowMapIndex u)
  else if s.column u = 4 then s1.epochChange u 7 (some (3, fl))
  else s1.epochChange u 7 (if st = 1 then none else some (3, fl))

/-- A unit of a dark cluster stops, with all it holds; its row map is to show it absent once every epoch table knows (R51, R219,
R230). A fill of the row has failed. -/
def State.darkenUnit (s : State) (u : Nat) : State :=
  let (st, fl) := s.spareState u
  let t := (s.vacate u 0x127).updRegion (regionOf u) fun x => { x with
    epochWaits := x.epochWaits.filter fun w => w.unit != u }
  if s.column u = 7 then t else t.epochChange u 7 (if st = 1 then some (3, fl) else none)

/-- A cluster goes dark: its crossbar and units stop, its router goes on, its fills are abandoned (R54, R219, Table FLT-7). `planned`: no
abort is called for. -/
def State.darkenCluster (s : State) (c : Nat) (planned : Bool) : State :=
  let r := c / 20
  let fills := (s.svc r).fills.filter fun f => f.rowMap / 4 == c % 20
  let s1 := fills.foldl (fun t f => t.endFill r f.rowMap) s
  ((List.range 16).foldl (fun t k => t.darkenUnit (16 * c + k)) s1).darkEvent c planned

/-- Planned sparing of all rows of a cluster (R425): its spares lie in the cluster too, so every unit of it comes to be absent, and with the
last one the cluster is dark. -/
def State.retireCluster (s : State) (c : Nat) : State :=
  (List.range 16).foldl (fun t k =>
    if t.column (16 * c + k) = 7 then t else t.epochChange (16 * c + k) 7 (some (3, (t.spareState (16 * c + k)).2))) s

/-! ### Withdrawal of a region (R57, R362-R364) -/

/-- Shards that the module owns, and whose carbon it keeps. -/
def State.ownShard (s : State) (k : Nat) : Bool :=
  let e := s.sys.shards.get Shard.reset k
  e.valid && e.owner == s.ownIndex.toNat
def State.carbonShard (s : State) (k : Nat) : Bool :=
  let e := s.sys.shards.get Shard.reset k
  e.valid && e.partner == s.ownIndex.toNat

/-- A module has left the system (R335). -/
def State.gone (s : State) (m : Nat) : Bool :=
  s.seq.lost.contains m || (s.sys.roster.get RosterEntry.reset m).state == 3

/-- What the well of region `r` held cannot be made again: of an owner part the partner is lost, of a carbon part the owner
(R364, Table FLT-5). -/
def State.sourceLost (s : State) (r : Nat) : Bool :=
  ((s.host.image.map (·.areas)).getD []).any fun (k, _, _, rg, _) =>
    let e := s.sys.shards.get Shard.reset k
    rg == r && ((s.ownShard k && s.gone e.partner) || (s.carbonShard k && s.gone e.owner))

/-- The ranges of granules of region `r` that tables and areas name, or that hold content moved there (R364, R365). -/
def State.usedRanges (s : State) (r : Nat) : List (Nat × Nat) :=
  let areas := ((s.host.image.map (·.areas)).getD []).filterMap fun (_, _, n, rg, g) => if rg = r then some (g, 12 * n) else none
  let weights := (s.sys.landing.filter fun (_, e) => field e.w1 24 1 == 0 && field e.w1 25 6 == r).flatMap fun (_, e) =>
    [(field e.w2 0 27, field e.w1 0 24), (field e.w3 0 27, field e.w1 0 24)]
  let images := ((s.host.image.map (·.units)).getD []).filterMap fun g =>
    if regionOf g.unit = r then some (g.place, (g.rows.length + 7) / 8) else none
  areas ++ weights ++ images ++ (s.well r).reserved

/-- The first granule past all that is in use. -/
def State.freeFrom (s : State) (r : Nat) : Nat := (s.usedRanges r).foldl (fun m (g, n) => max m (g + n)) 0

/-- A free place in a surviving well for `n` granules of region `r`: which one the spec does not say (Config.newPlace, log 66). -/
def State.newPlace (s : State) (r g n : Nat) : Nat × Nat :=
  let up := (s.regionsUp.filter (· != r)).filter fun k => decide (s.freeFrom k + n ≤ granules)
  let (a, b) := Config.newPlace r g
  let k := up.getD (a % max 1 up.length) r
  (k, s.freeFrom k + b % (granules - s.freeFrom k - n + 1))

/-- Takes a place for `n` granules of region `r` from granule `g` on. -/
def State.takePlace (s : State) (r g n : Nat) : State × (Nat × Nat) :=
  let p := s.newPlace r g n
  (s.updWell p.1 fun x => { x with reserved := x.reserved ++ [(p.2, n)] }, p)

/-- The owner and carbon areas of region `r` get places in surviving wells, and the image's areas follow (R364, R365). The list tells, for
each part that moves, its shard, first block, blocks, and its granules before and after. -/
def State.moveAreas (s : State) (r : Nat) : State × List (Nat × Nat × Nat × Nat × (Nat × Nat)) :=
  let (t, areas, moved) := ((s.host.image.map (·.areas)).getD []).foldl (fun (v, l, m) (sh, first, n, rg, g) =>
    if rg = r then
      let (w, p) := v.takePlace r g (12 * n)
      (w, l ++ [(sh, first, n, p.1, p.2)], m ++ [(sh, first, n, g, p)])
    else (v, l ++ [(sh, first, n, rg, g)], m)) (s, [], [])
  ({ t with host := { t.host with image := t.host.image.map fun g => { g with areas := areas } } }, moved)

/-- The current working weights that lie in region `r`: shard, first block, blocks, and the first granule in the buffer that cur_buf
selects (Table LNK-6, R268). -/
def State.weightsIn (s : State) (r : Nat) : List (Nat × Nat × Nat × Nat) :=
  (s.sys.landing.filter fun (_, e) => field e.w1 24 1 == 0 && field e.w1 25 6 == r).map fun (_, e) =>
    (field e.w0 0 12, field e.w0 12 24, field e.w1 0 24,
      if field (s.p1 r 14385) 0 1 = 0 then field e.w2 0 27 else field e.w3 0 27)

/-- The content of region `r`'s well is lost. What is committed is to be made again in surviving wells: owner and carbon blocks, and the
current working weights (R364, Table FLT-5). -/
def State.loseWell (s : State) (r : Nat) : State :=
  let s1 := s.updWell r fun x => { x with rows := [], running := [], stalled := [] }
  if s.seq.running then
    let (s2, parts) := s1.moveAreas r
    let blocks := parts.flatMap fun (k, first, n, _, _) => (List.range n).map fun i => (k, first + i, false)
    let weights := (s1.weightsIn r).flatMap fun (k, first, n, _) => (List.range n).map fun i => (k, first + i, true)
    { s2 with seq := { s2.seq with
      lostWells := s2.seq.lostWells ++ [r], recreate := s2.seq.recreate ++ blocks ++ weights } }
  else s1

/-- A region leaves the job: event 0x22D; a wafer replan; stop 0x809 when fewer regions than stages survive, 0x80A when a source of the
lost content is itself lost. `loses`:
the well's contents are lost with it. `planned`: no abort is called for. -/
def State.withdraw (s : State) (r : Nat) (loses planned : Bool) : State :=
  if (s.svc r).withdrawn then s
  else
    let s1 := s.updP1 r 80 fun w => putField (putField w 8 7 0) 15 1 1
    let s2 := s1.raise r 0x22D noSubject (s1.p1 r 80).toNat
    let s3 := s2.updSvc r fun x => { x with
      inService := false, withdrawn := true, fills := [], verify := [], scriptVerify := [], planned := [], portTests := [],
      plannedWithdraw := false }
    let s4 := (s3.setNodes r []).updRegion r fun x => { x with epochWaits := [], heldIn := [], combine := [], writing := [] }
    let s4a := (s4.units.filter fun e => regionOf e.1 == r).foldl (fun t e => t.vacate e.1 0x128) s4
    let s5 := if loses then s4a.loseWell r else s4a
    if s5.seq.running then
      let s6 : State := { s5 with seq := { s5.seq with replan := true, tests := s5.seq.tests.filter fun t => t.region != r } }
      if s6.regionsUp.length < (s6.host.image.map (·.stages)).getD 0 then s6.jobStop 0x809
      else if loses ∧ s.sourceLost r = true then s6.jobStop 0x80A
      else if planned then s6 else s6.structural 0x22D
    else s5

/-! ### Targeted self-tests (R348-R352) -/

/-- The structure's name in the history and in field notes: unit structures by physical position (R48, R351). Test 11 has part 0 for a
row of a unit and 1 for a burst of a well. -/
def State.historyKey (s : State) (t : TestTarget) : TestTarget :=
  if t.code ≤ 6 ∨ t.code = 10 ∨ (t.code = 11 ∧ t.part = 0) then { t with target := s.position t.target } else t

/-- HCLK cycles in 1,000 operating hours. -/
def hours1000 : Nat := 360000000000000

/-- The structure's test has passed three times within 1,000 operating hours (R351). -/
def State.passedThrice (s : State) (t : TestTarget) : Bool :=
  decide (3 ≤ (s.mgmt.history.filter fun (h, k) => k == s.historyKey t && decide (s.operating < h + hours1000)).length)

/-- The latest test of a region (word 81). -/
def State.testWord (s : State) (t : TestTarget) (pass : Bool) : State :=
  s.setP1 t.region 81 (wd (t.code % 16 + t.target % 2 ^ 14 * 2 ^ 4 + pass.toNat * 2 ^ 18 + 2 ^ 19))

/-- A test's result: counted, raised and noted (R348, Table FLT-9). -/
def State.recordTest (s : State) (t : TestTarget) (pass : Bool) : State :=
  let r := t.region
  let s1 := s.testWord t pass
  let detail := (s1.p1 r 81).toNat
  let s2 :=
    if pass then
      let k := s1.historyKey t
      let v := ((s1.updP1 r 82 fun w => bumpField w 0 12).seeP1 r 83 0).raise r 0x025 t.target detail
      { v with mgmt := { v.mgmt with history := v.mgmt.history ++ [(v.operating, k)] } }
    else ((s1.updP1 r 82 fun w => bumpField w 12 12).seeP1 r 83 1).raise r 0x22A t.target detail
  s2.note 2 [t.code, t.region, (s2.historyKey t).target, pass.toNat]

/-- A wide row as a test leaves it. -/
def testCell (root u q : Nat) : Cell :=
  let v := Config.testRow root u q
  { data := v.extractLsb' 0 576, tagged := v.getLsbD 576, full := v.getLsbD 577, nf := v.getLsbD 578 }

/-- A wafer-mesh link leaves service; the routers are to go round it (R44). -/
def State.meshLinkOut (s : State) (r p : Nat) : State :=
  (s.updRegion r fun x => { x with portOff := putField x.portOff p 1 1 }).seeBar (netReg r 0x18) (4 + p)

/-- `n` wires of group `g` of a wafer-mesh link have failed: one is steered onto the group's spare, more take the link out of service
(R44, Table ORG-3). -/
def State.steer (s : State) (r p g n : Nat) : State :=
  if n = 0 then s
  else if 1 < n ∨ (s.region r).steered.contains (p, g) = true then s.meshLinkOut r p
  else (s.updRegion r fun x => { x with steered := x.steered ++ [(p, g)] }).updBar (netReg r 0x18) fun w => bumpField w 8 8

/-- The same for wires that have just been found; the result is noted. -/
def State.steerGroup (s : State) (r p g n : Nat) : State :=
  if n = 0 then s
  else (s.note 3 [r, p, g, n, (decide (1 < n) || (s.region r).steered.contains (p, g)).toNat]).steer r p g n

/-- Ports of test 7: 0 to 19 the cluster port of that cluster, 20 to 23 the wafer-mesh links north, east, south and west,
others region-mesh links, gateway ports and controller memory. `wires` lists the groups of a mesh link with failed wires, and how many;
a link that fails without one leaves service. -/
def State.lastingPort (s : State) (r port : Nat) (wires : List (Nat × Nat)) : State :=
  if port < 20 then s.darkenCluster (20 * r + port) s.inTail
  else if port < 24 then
    if wires.all fun k => k.2 == 0 then s.meshLinkOut r (port - 20)
    else wires.foldl (fun t (g, n) => t.steerGroup r (port - 20) g n) s
  else s.withdraw r false s.inTail

/-- A lasting fault retires or remaps the structure (Table FLT-2). -/
def State.lasting (s : State) (t : TestTarget) (wires : List (Nat × Nat)) : State :=
  if t.code ≤ 6 then s.retireUnit t.target (0x220 + t.code)
  else if t.code = 7 then s.lastingPort t.region t.target wires else s

end Sys2Proof.Machine
end

