-- ==== Sys2Proof/Machine/Clocks.lean ====
section
/-! DEFINITION. Clock dividers and the margin plan in force (R406, R415, R416, R426), which several families change. -/

namespace Sys2Proof.Machine

def pwrCluster (c : Nat) : Nat := 0x11000 + 8 * c
def pwrRegion (r : Nat) : Nat := 0x10100 + 4 * r
def pwrErr : Nat := 0x10010

/-- The region is marked T2 (PWR_REGION t2_pending). -/
def State.t2Pending (s : State) (r : Nat) : Bool := field (s.bar (pwrRegion r)) 3 1 == 1

/-- The module runs from the service rail (R404). -/
def State.onService (s : State) : Bool := s.power.connected == 2

/-- div_cur of a cluster: the largest of its floors (R415); 6 under the service rail (R404). -/
def State.divTarget (s : State) (c : Nat) : Nat :=
  let k := s.cluster c
  if s.onService then 6
  else
    max (max (max k.planDiv k.phaseFloor) (max k.thermalFloor (if s.t2Pending (c / 20) then 6 else 4)))
      (max s.power.capFloor s.power.peakFloor)

/-- A cluster's divider is to follow its floors at the next frame boundary (R416). -/
def State.reDivide (s : State) (c : Nat) : State :=
  let d := s.divTarget c
  s.updCluster c fun k => { k with newDiv := if d = k.div then none else some d }

/-- A cluster's ACLK count goes on from here with what `f` makes of its clock. -/
def State.rebase (s : State) (c : Nat) (f : Cluster → Cluster) : State :=
  s.updCluster c fun k => f { k with cycBase := s.aclkOf c, cycRoot := s.root }

/-- The clusters of a region, and of the module. -/
def regionClusters (r : Nat) : List Nat := (List.range 20).map (20 * r + ·)
def State.reDivideAll (s : State) : State := (List.range 960).foldl State.reDivide s

/-- The frame boundary: the divider takes effect, and a lower voltage follows a slow-down (R415, R416). -/
def State.dividerChange (s : State) (c : Nat) : State :=
  let k := s.cluster c
  match k.newDiv with
  | none => s
  | some d =>
    let s1 := s.rebase c fun k => { k with div := d, newDiv := none }
    s1.updBar (pwrCluster c) fun w => putField (putField w 0 3 d) 16 6 (if s.onService then 10 else k.planCode)

/-- A cluster takes its plan: divider floor and voltage code; a higher voltage is set first (R416, R426). -/
def State.planCluster (s : State) (c div code : Nat) : State :=
  let s1 := s.updCluster c fun k => { k with planDiv := div, planCode := code }
  let s2 := s1.updBar (pwrCluster c) fun w =>
    let w1 := putField w 3 3 div
    if s.onService then w1 else if field w 16 6 ≤ code ∨ s1.divTarget c = (s1.cluster c).div then putField w1 16 6 code else w1
  s2.reDivide c

/-! ### A cluster comes on (R404-R407) -/

/-- The settings that a note of a margin plan has for a cluster: its sequence number first, then 4 octets a cluster. -/
def planIn (os : List Octet) (c : Nat) : Option (Nat × Nat) :=
  ((List.range ((os.length - 6) / 4)).map fun i => os.drop (6 + 4 * i)).findSome? fun e =>
    if leNat (e.take 2) = c then some (leNat ((e.drop 2).take 1), leNat ((e.drop 3).take 1)) else none

/-- The latest plan in the field notes (R406). -/
def State.notedPlan (s : State) (c : Nat) : Option (Nat × Nat) :=
  let plans := (s.fieldNotes.map (·.payload)).filter fun os => leNat (os.take 2) == 8
  let seq (os : List Octet) : Nat := leNat ((os.drop 2).take 4)
  let newest := (plans.map seq).max?.getD 0
  (plans.filter fun os => seq os == newest).findSome? fun os => planIn os c

/-- Phases of a cluster that are off: latched, or recorded as lost (R406). -/
def State.lostPhases (s : State) (c : Nat) : BitVec 8 :=
  (s.noted 4).foldl (fun m e => if e.head? = some c then putField m (e.getD 1 8) 1 1 else m) (s.cluster c).lost

/-- A cluster comes on with a plan and working phases: floors, divider, voltage and clock (R404, R406, R407, R415). -/
def State.powerCluster (s : State) (c div code : Nat) (phases : BitVec 8) : State :=
  let plan := min 6 (max 4 div)
  let v := min 60 code
  let ok := phases &&& ~~~s.lostPhases c
  let lost := ((List.range 8).filter fun p => !ok.getLsbD p).length
  let s1 := s.rebase c fun k => { k with
    planDiv := plan, planCode := v, phaseFloor := if lost = 3 then 6 else 4, thermalFloor := 4, newDiv := none,
    stopped := decide (4 ≤ lost) }
  let d := s1.divTarget c
  let s2 := s1.updCluster c fun k => { k with div := d }
  s2.setBar (pwrCluster c) (BitVec.ofNat 32 (d + plan * 8 + ok.toNat * 2 ^ 8 + (if s1.onService then 10 else v) * 2 ^ 16 +
    if 4 ≤ lost then 2 ^ 22 else 0))

/-- The pending margin plan is applied to every cluster outside a region that is being withdrawn; the rows of the clusters that it retires
are spared (R423, R425, R426). -/
def State.applyPlan (s : State) : State :=
  match s.power.plan with
  | none => s
  | some l =>
    let s1 := l.foldl (fun t (c, div, code) => if div = 0 ∨ t.t2Pending (c / 20) = true then t else t.planCluster c div code) s
    let s2 := s1.power.retire.foldl (fun t c => if (t.svc (c / 20)).inService then t.retireCluster c else t) s1
    { s2 with power := { s2.power with plan := none, retire := [] } }.setBar 0x1001C
      (putField (putField (s2.bar 0x1001C) 1 1 0) 18 14 (field (s2.bar 0x1001C) 18 14 + 1))

end Sys2Proof.Machine
end

