-- ==== Sys2Proof/Machine/Gateway.lean ====
section
/-! DEFINITION. Access to a well through its gateway (spec/09, R249-R253), to page 1 registers, and to the host window
(R396), as several requesters make it. -/

namespace Sys2Proof.Machine

/-! ### Well errors (R250, R251, R258) -/

def chanIdx (c k : Nat) : Nat := 14352 + 2 * c + k
/-- The channel of a burst (R248). -/
def burstChannel (b : Nat) : Nat := b % 16

/-- The targeted scrub of a channel starts (R258). -/
def State.startScrub (s : State) (r c : Nat) : State := s.seeP1 r (chanIdx c 1) 11

/-- The record of the latest ECC event of a well. -/
def State.lastErr (s : State) (r b : Nat) (uncorr : Bool) : State :=
  s.setP1 r 14384 (wd (b % 2 ^ 30 + uncorr.toNat * 2 ^ 30 + 2 ^ 31))

/-- A correction in burst `b` is counted and raised (R250). -/
def State.wellFixed (s : State) (r b : Nat) : State :=
  let c := burstChannel b
  let s1 := ((s.updP1 r (chanIdx c 0) fun w => bumpField w 0 24).seeP1 r (chanIdx c 0) 32).lastErr r b false
  (s1.raise r 0x027 c (s1.p1 r 14384).toNat).updWell r fun x => { x with passCorr := x.passCorr.upd 0 c (· + 1) }

/-- A well burst has a lasting correctable fault: event 0x02A, and the targeted scrub of its channel starts (R350). -/
def State.lastingBurst (s : State) (r b : Nat) : State :=
  let c := burstChannel b
  let t := ((s.testWord { code := 11, region := r, target := c, part := 1 } false).updP1 r 82 fun w =>
    bumpField w 12 12).seeP1 r 83 1
  ((t.raise r 0x02A c (t.p1 r 81).toNat).note 2 [11, r, c, 0]).startScrub r c

/-- A corrected codeword: its next read verifies it; a correction that the verifying read repeats is a lasting correctable fault and
starts the targeted scrub, as do the corrections of one patrol pass that reach the threshold (R250, R258, R350). -/
def State.wellCorrected (s : State) (r b bit : Nat) : State :=
  let c := burstChannel b
  let s2 := s.wellFixed r b
  let n := (s2.well r).passCorr.get 0 c
  let again := (s2.well r).verify.contains (b, bit)
  let s3 := s2.updWell r fun x => { x with
    verify := (x.verify.filter fun v => v.1 != b || v.2 / 72 != bit / 72) ++ [(b, bit)] }
  let s4 := if again then s3.lastingBurst r b else s3
  if field (s4.p1 r 14386) 0 16 ≤ n then s4.startScrub r c else s4

/-- An uncorrectable codeword is counted and raised (R251). -/
def State.wellLost (s : State) (r b : Nat) : State :=
  let c := burstChannel b
  let s1 := ((s.updP1 r (chanIdx c 0) fun w => bumpField w 24 8).seeP1 r (chanIdx c 0) 33).lastErr r b true
  s1.raise r 0x227 c (s1.p1 r 14384).toNat

/-- An uncorrectable codeword of a read: the targeted scrub starts and the step aborts (R251). -/
def State.wellFailed (s : State) (r b : Nat) : State :=
  let c := burstChannel b
  ((s.wellLost r b).startScrub r c).report
    (causeOf 0x227 16383 (some { code := 8, region := r, target := c, part := 0 }))

/-- The verifying read of a burst finds the codeword of an earlier correction clean: it was transient, but for a fourth error (R348, R350,
R351). -/
def State.wellVerified (s : State) (r b : Nat) (clean : Nat → Bool) : State :=
  if (s.well r).verify.any fun v => v.1 == b && clean v.2 then
    let t := s.updWell r fun x => { x with verify := x.verify.filter fun v => !(v.1 == b && clean v.2) }
    let k : TestTarget := { code := 11, region := r, target := burstChannel b, part := 1 }
    if t.passedThrice k then t.lastingBurst r b else t.recordTest k true
  else s

/-- What one codeword of a burst shows to a read (R249-R251): whether it could be read. `k` numbers the burst's codewords. -/
def State.wellWord (s : State) (r b k : Nat) (e : Ecc) : State × Bool :=
  match e.ofData with
  | .corrected bit => (s.wellCorrected r b (72 * k + bit % 72), true)
  | .uncorrectable => (s.wellFailed r b, false)
  | _ => (s, true)

/-- A read of burst `b`, of which `es` tells the eight codewords (R249). -/
def State.wellBurst (s : State) (r b : Nat) (es : List Ecc) : State × Bool :=
  let clean (bit : Nat) : Bool := (es.getD (bit / 72) .clean).ofData == .clean
  let s1 := s.wellVerified r b clean
  es.zipIdx.foldl (fun (t, ok) (e, k) => let (v, fine) := t.wellWord r b k e; (v, ok && fine)) (s1, true)

/-- A read of some bursts: every codeword of every burst is checked (R249). The codewords count through the bursts, eight to each,
from `i` on. -/
def State.wellCheck (s : State) (r : Nat) (bs : List Nat) (errs : Errs) (i : Nat) : State × Bool :=
  bs.zipIdx.foldl (fun (t, ok) (b, n) =>
    let (v, fine) := t.wellBurst r b ((List.range 8).map fun k => errAt errs (i + 8 * n + k)); (v, ok && fine)) (s, true)

/-- The two bursts that hold well row `q` (R248, R249). -/
def rowBursts (q : Nat) : List Nat := [q / 8 * 9 + q % 8, q / 8 * 9 + q % 8 + 1]

/-- A read of well row `q` (8 to a granule): status 0x227 when a codeword of its two bursts is uncorrectable (R249). -/
def State.wellRead (s : State) (r q : Nat) (errs : Errs) (i : Nat) : State × Nat × Row :=
  match s.wellCheck r (rowBursts q) errs i with
  | (t, true) => (t, 0, (t.well r).rows.get 0 q)
  | (t, false) => (t, 0x227, 0)

/-- Reads of well rows one after the other, 16 codewords to each, up to one that fails. -/
def State.wellReads (s : State) (r : Nat) (errs : Errs) : Nat → List Nat → State × Nat × List Row
  | _, [] => (s, 0, [])
  | i, q :: qs =>
    match s.wellRead r q errs i with
    | (t, 0, d) => let (v, code, ds) := State.wellReads t r errs (i + 16) qs; (v, code, d :: ds)
    | (t, code, _) => (t, code, [])

/-- A write of whole well rows from row `q` on (R249). -/
def State.wellWrite (s : State) (r q : Nat) (rows : List Row) : State :=
  s.updWell r fun x => { x with rows := rows.zipIdx.foldl (fun m (d, i) => m.set 0 (q + i) d) x.rows }

/-- The fault of a request at the gateway of region `r` for `n` rows (R60, R62, R252). -/
def State.gatewayFault (s : State) (r : Nat) (a : WAddr) (n : Nat) : Nat :=
  let inv := waInvalid a
  lowest (inv ++ (if inv = [] then s.waUnavailable a else []) ++
    (if spaceOf a ≠ .well ∨ waWellRegion a ≠ r then [0x12D]
     else if waNonet a % 64 ≠ 0 ∨ 8 < waNonet a / 64 + n then [0x174] else []))

/-! ### Page 1 registers -/

/-- The word at a sync and control address: a word of a sync object, or a register. -/
def State.readSync (s : State) (a : WAddr) : Word :=
  let r := waSyncRegion a
  if waPage a = 1 then s.readP1 r (waIndex a)
  else
    let o := s.syncObj r (waIndex a)
    match waWord a with
    | 0 => o.w0
    | 1 => o.w1
    | 2 => o.w2
    | _ => o.w3

/-! ### Host window (R396) -/

def slotReg (k off : Nat) : Nat := 0x2000 + 0x20 * k + off
def State.slotBase (s : State) (k : Nat) : Nat :=
  field (s.bar (slotReg k 0)) 12 20 * 2 ^ 12 + (s.bar (slotReg k 4)).toNat * 2 ^ 32
def State.slotWide (s : State) (k : Nat) : Bool := field (s.bar (slotReg k 0x10)) 1 1 == 1
def State.slotWritable (s : State) (k : Nat) : Bool := field (s.bar (slotReg k 0x10)) 2 1 == 1

/-- Nonets of host memory from nonet `o` of an object at `base`: packed (R19) or widened (R21). -/
def State.hostNonets (s : State) (base : Nat) (wide : Bool) (o n : Nat) : List Nat :=
  (List.range n).map fun i =>
    if wide then leNat (s.hostRead (base + 2 * (o + i)) 2) % 512
    else leNat (s.hostRead (base + 9 * (o + i) / 8) 2) / 2 ^ (9 * (o + i) % 8) % 512

/-- Writes nonets into a packed or widened object; unused high bits of the last octet of a packed write are zero (R20). -/
def State.hostPutNonets (s : State) (base : Nat) (wide : Bool) (o : Nat) (ns : List Nat) : State :=
  if wide then s.hostWrite (base + 2 * o) (ns.flatMap (leOctets 2))
  else
    let v := ns.zipIdx.foldl (fun acc (x, i) => acc + x * 2 ^ (9 * i)) 0
    s.hostWrite (base + 9 * o / 8) (leOctets ((9 * ns.length + 7) / 8) v)

/-- A wide row from nonets, and its nonets. -/
def rowOfNonets (ns : List Nat) : Row := BitVec.ofNat 576 (ns.zipIdx.foldl (fun acc (x, i) => acc + x * 2 ^ (9 * i)) 0)
def nonetsOf (r : Row) : List Nat := (List.range 64).map fun i => field r (9 * i) 9

/-- The fault of an access of `n` nonets through a slot (R396). -/
def State.windowFault (s : State) (a : WAddr) (n : Nat) (write : Bool) : Nat :=
  let k := waSlot a
  let o := waHostOffset a
  lowest ((if s.slotValid k then [] else [0x129]) ++
    (if s.slotValid k && (decide (s.slotSize k < o + n) || (write && !s.slotWritable k) ||
      (write && !s.slotWide k && decide (o % 8 ≠ 0 ∨ n % 8 ≠ 0))) then [0x70A] else []))

/-- The nonets that a request to the host window names: what it carries beside its head, or whole rows (log 126). -/
def windowNonets (m : Msg) : Nat := if m.nonets ≠ 0 then m.nonets else 64 * (if m.type = 0 then 1 else m.body.length)

/-- `n` nonets from an address of the window, from nonet 0 of a row on. -/
def State.windowRead (s : State) (a : WAddr) (n : Nat) : Row :=
  rowOfNonets (s.hostNonets (s.slotBase (waSlot a)) (s.slotWide (waSlot a)) (waHostOffset a) (min 64 n))

def State.windowWrite (s : State) (a : WAddr) (n : Nat) (rows : List Row) : State :=
  s.hostPutNonets (s.slotBase (waSlot a)) (s.slotWide (waSlot a)) (waHostOffset a) ((rows.flatMap nonetsOf).take n)

end Sys2Proof.Machine
end

