-- ==== Sys2Proof/Machine/Routes.lean ====
section
/-! DEFINITION. Routes over the wafer mesh (R221, R410-R412): dimension order, the detour tables, the ports that are off,
and the tables that firmware recomputes before the job resumes. -/

namespace Sys2Proof.Machine

/-! ### Routes (R221, R411, R412) -/

/-- Grid position of a region (R41). -/
def gridX (r : Nat) : Nat := r / 4 % 4 * 2 + r % 2
def gridY (r : Nat) : Nat := r / 4 / 4 * 2 + r % 4 / 2
def regionAt (x y : Nat) : Nat := (y / 2 * 4 + x / 2) * 4 + y % 2 * 2 + x % 2

/-- The neighbour behind a port: north, east, south, west. -/
def neighbour (r port : Nat) : Nat :=
  match port with
  | 0 => regionAt (gridX r) (gridY r - 1)
  | 1 => regionAt (gridX r + 1) (gridY r)
  | 2 => regionAt (gridX r) (gridY r + 1)
  | _ => regionAt (gridX r - 1) (gridY r)

/-- Dimension order: along rx first, then along ry; 4 at the destination (R221). -/
def dimOrder (r dst : Nat) : BitVec 3 :=
  if gridX r < gridX dst then 1 else if gridX dst < gridX r then 3
  else if gridY r < gridY dst then 2 else if gridY dst < gridY r then 0 else 4

/-- The mesh has a link behind a port of a region router, and it is not one of those that are out. -/
def hopOk (off : Nat → Nat → Bool) (r p : Nat) : Bool :=
  (match p with
    | 0 => decide (0 < gridY r)
    | 1 => decide (gridX r < 7)
    | 2 => decide (gridY r < 5)
    | _ => decide (0 < gridX r)) && !off r p

/-- The regions from which `dst` is reached without a westward hop, with the number of hops: the ends of west-first routes. -/
def levels (off : Nat → Nat → Bool) (dst : Nat) : Nat → List (Nat × Nat)
  | 0 => [(dst, 0)]
  | n + 1 =>
    let l := levels off dst n
    l ++ (((List.range 48).filter fun r => !l.any (·.1 == r) &&
      [0, 1, 2].any fun p => hopOk off r p && l.any (·.1 == neighbour r p)).map fun r => (r, n + 1))

/-- The ports of `r` that lead on without a westward hop. -/
def onward (off : Nat → Nat → Bool) (l : List (Nat × Nat)) (r n : Nat) : List Nat :=
  [0, 1, 2].filter fun p => hopOk off r p && l.any fun x => x.1 == neighbour r p && decide (x.2 < n)

/-- Westward hops alone lead from `r` to where the rest of a west-first route begins. -/
def westward (off : Nat → Nat → Bool) (l : List (Nat × Nat)) (r : Nat) : Nat → Bool
  | 0 => false
  | n + 1 => hopOk off r 3 && (l.any (·.1 == neighbour r 3) || westward off l (neighbour r 3) n)

/-- An entry of a route table under the west-first turn rule (R221): the port of dimension order where that leads on, else one that
firmware chooses (the spec does not say which; `key` names the links that are out), else west, else unreachable. `west`: the route
may begin westward here. -/
def routeEntry (off : Nat → Nat → Bool) (west : Bool) (key r dst : Nat) : BitVec 3 :=
  if r = dst then 4
  else
    let l := levels off dst 47
    match l.find? (·.1 == r) with
    | some (_, n) =>
      let ps := onward off l r n
      if ps.contains (dimOrder r dst).toNat then dimOrder r dst
      else BitVec.ofNat 3 (ps.getD ((Config.rerouted key r dst).toNat % max 1 ps.length) 7)
    | none => if west && westward off l r 8 then 3 else 7

/-- A port at either end of a link of region `d`. -/
def around (d : Nat) (r p : Nat) : Bool := r == d || neighbour r p == d

/-- The table entry of a router for a destination: the normal table, or the detour table in use. -/
def State.routePort (s : State) (r dst : Nat) : Nat :=
  let x := s.region r
  match x.detour with
  | none => (x.route.get (dimOrder r dst) dst).toNat
  | some d => (x.route.get (routeEntry (around d) (dimOrder r dst == 3) (d + 1) r dst) (64 * (d + 1) + dst)).toNat

/-- A wafer-mesh link is out of service: the port is off at one of its ends. -/
def State.linkOff (s : State) (r p : Nat) : Bool :=
  (s.region r).portOff.getLsbD p || (s.region (neighbour r p)).portOff.getLsbD ((p + 2) % 4)

/-- A message from region `r` reaches region `dst`. -/
def State.reaches (s : State) (r dst : Nat) : Nat → Bool
  | 0 => false
  | n + 1 =>
    let p := s.routePort r dst
    if p = 4 ∨ p = 5 then r == dst
    else if p < 4 then
      if s.linkOff r p then false else State.reaches s (neighbour r p) dst n
    else false

/-- The message is answered with 0x128 on its way (R57, R221, R412). -/
def State.unreachable (s : State) (m : Msg) : Bool :=
  decide (m.dstRegion < 48 ∧ m.srcRegion < 48) &&
    ((s.svc m.dstRegion).withdrawn || !s.reaches m.srcRegion m.dstRegion 64)

/-! ### New tables (R221, R411) -/

/-- The ports that are off, as one number. -/
def State.offKey (s : State) : Nat :=
  (List.range 48).foldl (fun n r => n + (s.region r).portOff.toNat * 16 ^ r) 0

/-- The tables of region router `r` for the links that are left: the normal one, and one for the loss of each neighbour. Only what
differs from the tables of a whole wafer is kept. -/
def State.newTables (s : State) (r : Nat) : Sparse (BitVec 3) :=
  (List.range 48).foldl (fun m dst =>
    let n := routeEntry s.linkOff true (64 * s.offKey) r dst
    ([0, 1, 2, 3].filter fun p => hopOk (fun _ _ => false) r p).foldl (fun v p =>
      let d := neighbour r p
      v.set (routeEntry (around d) (dimOrder r dst == 3) (d + 1) r dst) (64 * (d + 1) + dst)
        (routeEntry (fun a q => s.linkOff a q || around d a q) (n == 3) (64 * s.offKey + d + 1) r dst)) (m.set (dimOrder r dst) dst n)) []

/-- A router is on a detour table, or a port that is off calls for other tables than those in use. -/
def State.routesChanged (s : State) : Bool :=
  s.regions.any (fun (_, x) => x.detour.isSome) ||
    (s.regions.any (fun (_, x) => x.portOff != 0 || !x.route.isEmpty) && (List.range 48).any fun r => (s.region r).route != s.newTables r)

/-- Firmware recomputes every route table and detour table (R221, R411). route_gen advances (R464). -/
def State.recomputeRoutes (s : State) : State :=
  if !s.routesChanged then s
  else
    (List.range 48).foldl (fun t r => t.updRegion r fun x => { x with route := s.newTables r, detour := none })
      (s.updBar 0x50800 fun w => putField (putField w 0 16 (field w 0 16 + 1)) 16 1 0)

/-! ### Paths (R220, R479) -/

/-- A place that a message passes. -/
inductive Site where
  | unitPort (unit : Nat)
  | crossbar (cluster : Nat)
  | router (cluster : Nat)
  | gateway (region : Nat)
  | controller (region : Nat)
  | regionRouter (region : Nat)
  | ring (region : Nat)
deriving DecidableEq, Repr

/-- Cluster routers of region `r` from row `a` to row `b` of column `cc`, `a` included (R42). -/
def columnPath (r cc a b : Nat) : List Site :=
  if a ≤ b then (List.range (b + 1 - a)).map fun i => .router (20 * r + (a + i) * 5 + cc)
  else (List.range (a + 1 - b)).map fun i => .router (20 * r + (a - i) * 5 + cc)

/-- Cluster routers along row `cr`, from column `a` to the one before column `b`. -/
def rowPath (r cr a b : Nat) : List Site :=
  if a ≤ b then (List.range (b - a)).map fun i => .router (20 * r + cr * 5 + a + i)
  else (List.range (a - b)).map fun i => .router (20 * r + cr * 5 + a - i)

/-- From one end of a message to the region router, which is not included: south to cluster row 3 and the gateway (R220, R479). -/
def climb (kind unit r : Nat) : List Site :=
  match kind with
  | 0 =>
    let c := clusterOf unit
    [.unitPort unit, .crossbar c] ++ columnPath r (c % 5) (c % 20 / 5) 3 ++ [.gateway r]
  | 1 => [.controller r, .gateway r]
  | 2 => [.gateway r]
  | _ => [.ring r]

/-- The region routers that a message passes from region `r` to region `dst`, as far as its route leads. -/
def State.trunk (s : State) (r dst : Nat) : Nat → List Site
  | 0 => []
  | n + 1 =>
    let p := s.routePort r dst
    .regionRouter r :: (if p < 4 ∧ s.linkOff r p = false then State.trunk s (neighbour r p) dst n else [])

/-- The path of a message: between clusters of one region along the cluster row and then the column; otherwise by the gateways, and
by the region routers where it leaves the region or begins or ends at the ring (R220, R221, R479). -/
def State.path (s : State) (m : Msg) : List Site :=
  let up := climb m.srcKind m.srcUnit m.srcRegion
  let down := (climb m.dstKind m.dstUnit m.dstRegion).reverse
  if m.srcRegion ≠ m.dstRegion ∨ 3 ≤ m.srcKind ∨ 3 ≤ m.dstKind then up ++ s.trunk m.srcRegion m.dstRegion 48 ++ down
  else if m.srcKind = 0 ∧ m.dstKind = 0 then
    let a := clusterOf m.srcUnit
    let b := clusterOf m.dstUnit
    if a = b then [.unitPort m.srcUnit, .crossbar a, .unitPort m.dstUnit]
    else
      [.unitPort m.srcUnit, .crossbar a] ++ rowPath m.srcRegion (a % 20 / 5) (a % 5) (b % 5) ++
        columnPath m.srcRegion (b % 5) (a % 20 / 5) (b % 20 / 5) ++ [.crossbar b, .unitPort m.dstUnit]
  else up ++ down.drop 1

/-- What a message passes whose route leads nowhere. -/
def State.partPath (s : State) (m : Msg) : List Site :=
  climb m.srcKind m.srcUnit m.srcRegion ++ s.trunk m.srcRegion m.dstRegion 48

/-- The port of a region router that faces a neighbour. -/
def facing (r n : Nat) : Nat := ([0, 1, 2, 3].find? fun p => neighbour r p == n).getD 0

/-- The side of a cluster router that faces another one of its region: north, east, south, west. -/
def sideOf (c d : Nat) : Nat := if d + 5 = c then 0 else if d = c + 1 then 1 else if d = c + 5 then 2 else 3

/-- A port of test 7. -/
def routerPort (r p : Nat) : TestTarget := { code := 7, region := r, target := p, part := 0 }

/-- The receiving port between two places, as the test of Table FLT-2 names it; every port has a number of its own. Test 7 counts the
cluster ports from 0, the wafer-mesh ports from 20, four ports of each cluster router from 24, and from 104 the ports of the gateway, the
region router, the region controller and the ring agent (DESIGN CHOICE, log 55). -/
def receivingPort (a b : Site) : TestTarget :=
  match b, a with
  | .unitPort u, _ => { code := 6, region := regionOf u, target := u, part := 0 }
  | .crossbar _, .unitPort u => { code := 6, region := regionOf u, target := u, part := 0 }
  | .crossbar c, _ => routerPort (c / 20) (c % 20)
  | .router c, .crossbar _ => routerPort (c / 20) (c % 20)
  | .router c, .router d => routerPort (c / 20) (24 + c % 20 * 4 + sideOf c d)
  | .router c, _ => routerPort (c / 20) (24 + c % 20 * 4 + 2)
  | .regionRouter r, .regionRouter n => routerPort r (20 + facing r n)
  | .gateway r, .router c => routerPort r (104 + c % 5)
  | .gateway r, .controller _ => routerPort r 109
  | .gateway r, _ => routerPort r 110
  | .regionRouter r, .ring _ => routerPort r 112
  | .regionRouter r, _ => routerPort r 111
  | .controller r, _ => routerPort r 113
  | .ring r, _ => routerPort r 114

/-- The receiving ports along a path. -/
def portsOf : List Site → List TestTarget
  | a :: b :: l => receivingPort a b :: portsOf (b :: l)
  | _ => []

/-- The receiving port at which a message comes to a place of its path. -/
def portAt (x : Site) : List Site → Option TestTarget
  | a :: b :: l => if b = x then some (receivingPort a b) else portAt x (b :: l)
  | _ => none

end Sys2Proof.Machine
end

