-- ==== Sys2Proof/Machine/Seq.lean ====
section
/-! DEFINITION. The step sequencer (spec/10) and the abort (spec/13): phases, open, gathers, commit and its actions, the
tail of the Blot phase, abort, drain, restore. The rows of the command table call these operations. -/

namespace Sys2Proof.Machine

def State.updSeq (s : State) (f : Sequencer → Sequencer) : State := { s with seq := f s.seq }
def State.updSys (s : State) (f : Sys → Sys) : State := { s with sys := f s.sys }

/-- The verdict region (R274). -/
def State.verdictRegion (s : State) : Nat := (s.host.image.map (·.verdictRegion)).getD 0

/-! ### Schedule state (R272, R285, Table STP-5) -/

/-- Writes the copies of the schedule state. -/
def State.copySchedule (s : State) : State :=
  let c := s.seq.sched
  s.forRegions fun t r =>
    let t1 := (t.setP1 r 15360 (c.step.setWidth 36)).setP1 r 15361 ((c.step >>> 36).setWidth 36)
    let t2 := (t1.setP1 r 15362 (c.jobSeed.setWidth 36)).setP1 r 15363 ((c.jobSeed >>> 36).setWidth 36)
    let t3 := (t2.setP1 r 15364 c.scaleExp).setP1 r 15365 (wd (c.cleanCount.toNat + c.skipRun.toNat * 2 ^ 24))
    t3.setP1 r 15366 c.updCount

/-- A count that stays at its largest value (R300). -/
def satSucc {n : Nat} (b : BitVec n) : BitVec n := if b = BitVec.allOnes n then b else b + 1

/-- The schedule state that a blot point produces (R285); `nf` is the verdict. -/
def Schedule.next (c : Schedule) (nf : Bool) : Schedule :=
  let c1 := { c with step := c.step + 1 }
  if nf then
    { c1 with scaleExp := BitVec.ofInt 36 (max (c.scaleExp.toInt - 1) c.scaleMin.toInt), cleanCount := 0,
              skipRun := satSucc c.skipRun }
  else
    let c2 := { c1 with updCount := satSucc c.updCount, skipRun := 0, cleanCount := satSucc c.cleanCount }
    if c2.cleanCount = c.cleanLimit then
      { c2 with scaleExp := BitVec.ofInt 36 (min (c.scaleExp.toInt + 1) c.scaleMax.toInt), cleanCount := 0 }
    else c2

/-- The commit's update: the loss scale event, and the stop that skip_limit asks for (R285). -/
def State.updateSchedule (s : State) : State :=
  let old := s.seq.sched
  let new := { old.next s.seq.verdict with jobRingPos := BitVec.ofNat 36 s.jobRingPos }
  let s1 := (s.updSeq fun q => { q with sched := new }).copySchedule
  let s2 := if s.seq.verdict = false ∧ new.scaleExp ≠ old.scaleExp then s1.raiseSeq 0x083 new.scaleExp.toNat else s1
  if new.skipLimit ≠ 0 ∧ new.skipRun = new.skipLimit then s2.updSeq fun q => { q with stopAfter := some 0x802 } else s2

/-! ### Sync objects of a job (R233, R274, R291, R357) -/

/-- The objects of a region at their job-image values, with the sequencer's own; word 0 of a carried object is its value
at the blot point. Words 2 and 3 of a record that the image loads are 0 (DESIGN CHOICE, log 162). -/
def State.imageSync (s : State) (r : Nat) : Sparse SyncObj :=
  let recs := (s.host.image.map (·.sync)).getD []
  let m0 : Sparse SyncObj := recs.foldl (fun m (rg, o, a, b) =>
    if rg = r then m.set SyncObj.reset o { w0 := a, w1 := b, w2 := 0, w3 := 0 } else m) []
  let m1 := m0.set SyncObj.reset objStepFlag { SyncObj.reset with w1 := 3 }
  let m2 := if r = s.verdictRegion then m1.set SyncObj.reset objVerdict { SyncObj.reset with w1 := wd (4 + 2 ^ 27) } else m1
  s.seq.carried.foldl (fun m (o, rg, v) =>
    if rg = r then m.set SyncObj.reset o { m.get SyncObj.reset o with w0 := v } else m) m2

/-! ### Open (R281, R291) -/

/-- Served logical units of a region. -/
def State.served (s : State) (r : Nat) : Nat := ((List.range 320).filter fun k => !s.absent (320 * r + k)).length

/-- The open actions of one region (R281): unit flags, grad_done, the step flag, rounding inputs, the counts. The other
sync objects of the job are at their job-image values (R291). -/
def State.openRegion (s : State) (r : Nat) : State :=
  let c := s.seq.sched
  let s1 := (List.range 320).foldl (fun t k =>
    t.updUnit (320 * r + k) fun x => { x with nf := false, seed := c.jobSeed, step := c.step }) s
  let gd : SyncObj := { w0 := 0, w1 := wd (2 + s1.served r * 2 ^ 3), w2 := 0, w3 := 0 }
  let s2 := s1.updRegion r fun x => { x with sync := (s1.imageSync r).set SyncObj.reset objGradDone gd }
  let v := s2.syncObj r objVerdict
  let armed : SyncObj := { w0 := 0, w1 := putField v.w1 3 24 s2.regionsUp.length, w2 := 0, w3 := bumpField v.w3 0 36 }
  let s3 := if r = s2.verdictRegion then s2.setSyncObj r objVerdict armed else s2
  let s4 := s3.setSyncObj r objStepFlag { s3.syncObj r objStepFlag with w0 := 1, w3 := 2 }
  let s5 := ((s4.region r).waiters.map (·.object)).dedup.foldl (fun t o => (t.release r o).countWaiters r o) s4
  let s6 := (((s5.setP1 r 15369 0).setP1 r 15371 0).setP1 r 15373 0).updP1 r 15367 fun w => putField w 3 2 0
  s6.updSvc r fun x => { x with contributed := false, restored := false, msgNf := false, flits := [] }

/-- The step's open: phase 1; the pause of copy rings and the abort state end; ttl_init takes its new value
(R273, R389, R458). `fresh`: after a commit, attempt returns to 0 (R337). The job faults of this attempt are kept for a re-run (R358). -/
def State.toOpen (s : State) (fresh : Bool) : State :=
  let s1 := s.updSeq fun q => { q with
    verdict := false, readySent := false, tests := [], lost := [], lostWells := [], committed := 0, abortSent := false,
    tailAbort := false, consts := none, lastFaults := q.faults, faults := [], failing := [], drained := false,
    digested := [] }
  let s2 := s1.updSys fun y => { y with
    ownBit := none, verdicts := [], ownReady := false, readies := [], committed := false, newTtl := none, lossUp := [] }
  let s4 := if fresh then s2.updBar 0x30808 fun w => putField w 8 8 0 else s2
  let s5 := (s4.setStatus 5 1 0).resumeRings
  -- a T2 that the Blot phase met takes effect at the following blot point (R421)
  let s6 := s5.recomputeRoutes.forRegions fun t r =>
    if t.t2Pending r then t.updSvc r fun x => { x with plannedWithdraw := true } else t
  (s6.setAbortState 0).setPhase 1

/-! ### Gathers (R338, R339) -/

/-- DECIDE, as link engine 0 sends it from its edge region to the module verdict object (R283, Table ORG-4). -/
def State.decideMsg (s : State) (bit : Bool) : Msg :=
  let v := s.verdictRegion
  { blankMsg with
    dstRegion := v, dstKind := 1, type := 8, srcRegion := linkRegion 0, srcKind := 4, srcModule := s.ownIndex,
    wa := waSync v objVerdict, words := [0, 0, if bit then 1 else 0, 26] }

/-- Sends the gathered verdict once it is whole (R338). -/
def State.gatherVerdict (s : State) : State :=
  match s.sys.ownBit with
  | none => s
  | some own =>
    let vs := s.sys.verdicts
    if s.childLinks.all fun l => vs.any fun v => v.1 == l then
      let bit := own || vs.any fun v => v.2.1
      let n := 1 + (vs.map fun v => v.2.2).sum
      let s1 := s.updSys fun y => { y with ownBit := none, verdicts := [] }
      if s.isRoot then
        if n = s.members then (s1.sysDown 1 bit 0).send (s1.decideMsg bit)
        else
          let s2 := s1.forRegions fun t r => t.schedCode r 0x801
          (s2.raiseSeq 0x801 (s2.p1 s2.verdictRegion 15374).toNat).report (causeOf 0x801 16383 none)
      else s1.sysUp 0 bit 0 n
    else s

/-! ### Commit (R293) -/

/-- Where an owner or carbon block lies: region and first granule of its 12. -/
def State.blockPlace (s : State) (shard block : Nat) : Option (Nat × Nat) :=
  (((s.host.image.map (·.areas)).getD []).find? fun (sh, first, n, _, _) =>
    sh == shard && decide (first ≤ block ∧ block < first + n)).map fun (_, first, _, rg, g) => (rg, g + 12 * (block - first))

/-- Writes well rows from granule `g` on. -/
def State.writeWell (s : State) (r g : Nat) (rows : List Row) : State :=
  s.updWell r fun x => { x with rows := rows.zipIdx.foldl (fun m (d, i) => m.set 0 (8 * g + i) d) x.rows }

/-- Rows read one after the other from a scratchpad, with the OR of their nf; none when a row cannot be read. -/
def State.readRows (s : State) (u : Nat) (errs : Errs) : Nat → List Nat → State × Option (List Row × Bool)
  | _, [] => (s, some ([], false))
  | i, q :: qs =>
    match s.access u q .plainRead true 0 0 false (errAt errs i) with
    | (t, .done 0 d nf) =>
      let (v, rest) := State.readRows t u errs (i + 1) qs
      (v, rest.map fun (ds, nfs) => (d :: ds, nf || nfs))
    | (t, _) => (t, none)

/-- Copies `n` rows of a scratchpad from row `q` on to well granule `g` of region `r`; false when a row cannot be read, and then the
well is unchanged. -/
def State.saveRows (s : State) (errs : Errs) (i u q n r g : Nat) : State × Bool :=
  match s.readRows u errs i ((List.range n).map (q + ·)) with
  | (t, some (rows, _)) => (t.writeWell r g rows, true)
  | (t, none) => (t, false)

/-- Writes the updated owner blocks back, `i` counting the rows read; the blocks that could not be read come back. -/
def State.saveMasters (s : State) (errs : Errs) : Nat → List (Nat × Nat × Nat × Nat) → State × List (Nat × Nat)
  | _, [] => (s, [])
  | i, (sh, b, u, q) :: l =>
    match s.blockPlace sh b with
    | none => State.saveMasters s errs (i + 96) l
    | some (r, g) =>
      let (t, ok) := s.saveRows errs i u (q + 8) 96 r g
      let (v, bad) := State.saveMasters t errs (i + 96) l
      (v, if ok then bad else (sh, b) :: bad)

/-- Writes the trailer granules back; the shards of those that could not be read come back. -/
def State.saveTrailers (s : State) (errs : Errs) : Nat → List (Nat × Nat × Nat × Nat × Nat) → State × List Nat
  | _, [] => (s, [])
  | i, (sh, b, k, u, q) :: l =>
    match s.blockPlace sh b with
    | none => State.saveTrailers s errs (i + 8) l
    | some (r, g) =>
      let (t, ok) := s.saveRows errs i u q 8 r (g + k - 1)
      let (v, bad) := State.saveTrailers t errs (i + 8) l
      (v, if ok then bad else sh :: bad)

/-- The banks that the write-back reads, with the rows of it in each. -/
def State.writeBackBanks (s : State) : List (Nat × Nat × Nat) :=
  let rows := (s.seq.updated.map fun (_, _, u, q) => (u, q + 8, 96)) ++ s.seq.trailers.map fun (_, _, _, u, q) => (u, q, 8)
  rows.flatMap fun (u, q, n) => banksOf u ((List.range n).map (q + ·))

/-- Commit action 2: the master state and the carbons that the scratchpads hold are written to the wells (R288, R292). A master block
with an uncorrectable row is to be taken from the partner (Table FLT-7); a shard with an unreadable trailer is copied again, as a new
carbon is (DESIGN CHOICE, log 139). -/
def State.writeBack (s : State) (errs : Errs) : State :=
  let (s1, bad) := s.saveMasters errs 0 s.seq.updated
  let (s2, stale) := s1.saveTrailers errs (96 * s.seq.updated.length) s.seq.trailers
  s2.updSeq fun q => { q with
    refetch := bad
    carbons := q.carbons ++ (stale.dedup.filter fun k => !q.carbons.any fun c => c.1 == k).map fun k => (k, false) }

/-- Words 0 to 11 of a snapshot granule: the schedule state after a step with that verdict (Table STP-3). -/
def Schedule.words (c : Schedule) (verdict : Bool) : List Word :=
  let lo (w : Word64) : Word := w.setWidth 36
  let hi (w : Word64) : Word := (w >>> 36).setWidth 36
  [lo c.step, hi c.step, lo c.jobSeed, hi c.jobSeed, c.scaleExp, wd (c.cleanCount.toNat + c.skipRun.toNat * 2 ^ 24), c.updCount,
    wd (c.cleanLimit.toNat + c.skipLimit.toNat * 2 ^ 24), wd (c.scaleMin.toNat + c.scaleMax.toNat * 2 ^ 9),
    wd (verdict.toNat * 3), lo c.inputCursor, hi c.inputCursor]

/-- The words of a snapshot granule held for a shard disagree with the module's own schedule state (R367). -/
def State.snapshotStale (s : State) (k : Nat) : Bool :=
  match s.seq.snapshots.find? fun x => x.1 == k with
  | none => false
  | some (_, rows) =>
    (List.range 12).map (wordOf (rows.getD 0 0)) != s.seq.sched.words (s.seq.sched.skipRun != 0)

def State.partnerOf (s : State) (k : Nat) : Nat := (s.sys.shards.get Shard.reset k).partner

/-- A table set takes effect: its records and the pending roster; scripts that changed are to be loaded again; a promoted
shard's snapshot is compared (R367), and the digests that this blot point has answered are formed over it again (R312); a carbon that is new
here is to be copied and accepted, and of a shard that has a new partner the owner forms its own digest (R368). -/
def State.loadSet (s : State) (l : List TableRec) : State :=
  let t := (s.applyTables l).takeRoster
  let keys := t.sys.shards.map (·.1)
  let scripts := (l.filter fun r => r.kind == 12).flatMap fun r =>
    (List.range r.count).map fun i => 320 * r.region + (r.first + i) / 49152
  let fresh := keys.filter fun k => t.carbonShard k && !s.carbonShard k && !s.ownShard k
  let renewed := keys.filter fun k => t.ownShard k && (s.sys.shards.get Shard.reset k).valid && s.partnerOf k != t.partnerOf k
  let promoted := keys.any fun k => t.ownShard k && s.carbonShard k && !s.ownShard k
  let t1 := t.updSeq fun q => { q with
    newPartners := (q.newPartners ++ renewed).dedup
    digests := if promoted then q.digests ++ q.digested else q.digests
    digested := if promoted then [] else q.digested
    scripts := (q.scripts ++ scripts).dedup
    carbons := (q.carbons.filter fun c => t.carbonShard c.1) ++ fresh.map fun k => (k, false) }
  match keys.find? fun k => t.ownShard k && s.carbonShard k && !s.ownShard k && t.snapshotStale k with
  | none => t1
  | some k => (t1.raiseSeq 0x22F k).jobStop 0x80D

/-- Commit action 4: roster admissions and table sets; REDISTRIBUTE completes with the records applied (R391). -/
def State.applySets (s : State) : State :=
  let s1 := s.sys.tables.foldl (fun t (q, i, l) => (t.loadSet l).finish q i 0 false l.length) s
  (s1.updSys fun y => { y with tables := [] }).takeRoster

/-- Reads the carried objects, and keeps the stream tables and the turn of each line, at the blot point (R291, R302, R357). -/
def State.keepBlot (s : State) : State :=
  let s1 := s.updSeq fun q => { q with carried := q.carried.map fun (o, r, _) => (o, r, (s.syncObj r o).w0) }
  s1.forRegions fun t r => (t.updRegion r fun x => { x with
    blot := x.p1.filter fun e => decide (15040 ≤ e.1 ∧ e.1 < 15360) }).updWell r fun x => { x with blotLast := x.lastStream }

/-- Requests due at the blot point of the step that has just committed. -/
def State.dueDigests (s : State) : List Target := s.seq.digests.filter fun t => t.step + 1 == s.seq.sched.step
def State.dueCheckpoints (s : State) : List Target := s.seq.checkpoints.filter fun t => t.step + 1 == s.seq.sched.step

/-- Fills and row map changes are in progress. -/
def State.repairing (s : State) : Bool :=
  s.regionsUp.any fun r => !(s.svc r).fills.isEmpty || !(s.region r).epochWaits.isEmpty

/-- Nothing of VC1 to VC3 is in flight, and every link has an empty transmit queue and no unacknowledged flit of ftype 1 to 7 (R355). -/
def State.drained (s : State) : Bool :=
  s.net.all (fun m => m.vc == 0) &&
    (List.range 24).all fun l => (s.link l).queue.isEmpty &&
      (s.link l).buffer.all fun f => fType f == 0 || decide (8 ≤ fType f)

/-- Copies `n` granules of region `r` from granule `g` on to their new place, with every codeword checked (R249): false when a row cannot
be read. `i` numbers the codewords. -/
def State.copyGranules (s : State) (r i g n : Nat) (p : Nat × Nat) : State × Bool :=
  match s.wellReads r (Config.blotChecks s.root) i ((List.range (8 * n)).map (8 * g + ·)) with
  | (t, 0, rows) => (t.writeWell p.1 p.2 rows, true)
  | (t, _, _) => (t, false)

/-- Ranges of granules of region `r` with their new places, one after the other. -/
def State.copyRanges (s : State) (r : Nat) : Nat → List (Nat × Nat × (Nat × Nat)) → State × Bool
  | _, [] => (s, true)
  | i, (g, n, p) :: l =>
    match s.copyGranules r i g n p with
    | (t, true) => State.copyRanges t r (i + 128 * n) l
    | (t, false) => (t, false)

/-- Places for the current working weights of region `r`: their granules before and after. -/
def State.placeWeights (s : State) (r : Nat) : State × List (Nat × Nat × (Nat × Nat)) :=
  (s.weightsIn r).foldl (fun (t, l) (_, _, n, g) =>
    let (v, p) := t.takePlace r g n
    (v, l ++ [(g, n, p)])) (s, [])

/-- What a planned withdrawal copies first: the region's current working weights, owner part and carbon part (R365). False when a row of
them cannot be read. -/
def State.moveOut (s : State) (r : Nat) : State × Bool :=
  if s.regionsUp.all (· == r) then (s, true)
  else
    let (s1, weights) := s.placeWeights r
    match s1.copyRanges r 0 weights with
    | (s2, false) => (s2, false)
    | (s2, true) =>
      let (s3, parts) := s2.moveAreas r
      match s3.copyRanges r (128 * (weights.map (·.2.1)).sum) (parts.map fun (_, _, n, g, p) => (g, 12 * n, p)) with
      | (s4, true) => (s4, true)
      -- the content is then taken from elsewhere, and the areas are moved with it
      | (s4, false) => ({ s4 with host := s.host }, false)

/-- Planned repairs of the Blot phase: margin plan, sparing, withdrawal (R365, R426). -/
def State.planRepairs (s : State) : State :=
  let s1 := s.applyPlan
  s1.forRegions fun t r =>
    let us := (t.svc r).planned
    let t0 := t.updSeq fun q => { q with tests := q.tests ++ (t.svc r).portTests }
    let t1 := us.foldl (fun v u => v.retireUnit u 0x02A) (t0.updSvc r fun x => { x with planned := [], portTests := [] })
    if (t1.svc r).plannedWithdraw then
      let t2 := match t1.moveOut r with
        | (v, true) => v.withdraw r false true
        -- an error in the region under repair: the unplanned path (R365)
        | (v, false) => v.withdraw r true false
      t2.updBar (pwrRegion r) fun w => putField (putField w 0 3 7) 3 1 0
    else t1

/-- Planned work waits. -/
def State.plannedDue (s : State) : Bool :=
  s.power.plan.isSome || s.regionsUp.any fun r =>
    !(s.svc r).planned.isEmpty || !(s.svc r).portTests.isEmpty || (s.svc r).plannedWithdraw

/-- What follows commit action 5 (R293, R312, R365, R371, R378): digests, checkpoints, planned repairs, then the stop, the
hold or the next open, which a replan holds up too (R363, R364). Called again whenever something it waits for has ended. -/
def State.blotTail (s : State) : State :=
  if s.seq.phase ≠ 6 ∨ s.seq.committed < 5 ∨ s.seq.running = false then s
  else if !s.seq.refetch.isEmpty then
    -- the partner's copy of such a block is lost too
    if s.seq.refetch.any fun x => s.gone (s.partnerOf x.1) then s.jobStop 0x80A else s
  else if !s.dueDigests.isEmpty then s
  else if s.seq.transfer.isSome then s
  else
    match s.dueCheckpoints with
    | c :: _ => s.updSeq fun q => { q with transfer := some c }
    | [] =>
      let s1 := if s.plannedDue then (if s.drained then s.planRepairs else s) else s
      if s1.plannedDue || s1.repairing || !s1.seq.tests.isEmpty || !s1.seq.running then s1
      else
        match s1.seq.stopAfter with
        | some code => s1.jobStop code
        | none =>
          if s1.seq.held then s1.setStatus 5 1 1
          else if s1.seq.replan || !s1.seq.recreate.isEmpty then s1
          else s1.toOpen (!s1.seq.tailAbort)

/-- Commit actions 1 to 5 (R293), and what follows them. `errs`: check outcomes of the rows that the write-back reads. -/
def State.commitActions (s : State) (errs : Errs) : State :=
  let skipped := s.seq.verdict
  let s1 := if skipped then s else s.forRegions fun t r => t.updP1 r 14385 fun w => putField w 0 1 (1 - field w 0 1)
  let s2 := (s1.writeBack errs).updateSchedule.applySets
  let s3 := s2.forRegions fun t r => t.stepFlag r 8
  let s4 := s3.raiseSeq 0x081 s3.seq.phase
  let s5 := if skipped then s4.raiseSeq 0x082 s4.seq.phase else s4
  let s6 := s5.updSeq fun q => { q with
    updated := [], trailers := [], sentSnap := [], snapshots := q.snapIn, snapIn := [], aborts := 0, faults := [],
    lastFaults := [], committed := 5, readySent := false, abortSent := false }
  let s7 := s6.forRegions fun t r => t.updP1 r 80 fun w => putField w 3 5 0
  s7.keepBlot.blotTail

/-- The commit: the write-back has to win the banks it reads (R53, R84), and is tried again at the next idle step. -/
def State.commit (s : State) (errs : Errs) : State :=
  match s.winBanks maintSave s.writeBackBanks with
  | (t, true) => (t.updSeq fun q => { q with commitDue := none }).commitActions errs
  | (t, false) => t.updSeq fun q => { q with commitDue := some errs }

/-- A commit that waits for banks is tried again. -/
def State.commitRetry (s : State) : State :=
  match s.seq.commitDue with
  | none => s
  | some errs => s.commit errs

/-- COMMIT_DOWN reaches the sequencer: the commit, or in phase Abort the re-open of the step (R339, R356). An abort that met the Blot
phase after the commit goes back to what was still to do there (R312, R371). -/
def State.committed (s : State) (errs : Errs) : State :=
  if s.seq.phase = 7 then
    if s.seq.abortState ≠ 7 then s
    else if s.seq.tailAbort then
      (((s.updSeq fun q => { q with committed := 5, readySent := false, abortSent := false }).setAbortState 0).setPhase 6).blotTail
    else s.toOpen false
  else if s.seq.phase = 6 ∧ s.seq.readySent then s.commit errs
  else s

/-- Sends the gathered ready report once it is whole (R339). -/
def State.gatherReady (s : State) (errs : Errs) : State :=
  let rs := s.sys.readies
  if s.sys.ownReady && s.childLinks.all fun l => rs.any fun v => v.1 == l then
    let n := 1 + (rs.map (·.2)).sum
    if s.isRoot then
      if n = s.members then
        ((s.updSys fun y => { y with ownReady := false, readies := [], committed := true }).sysDown 3 false 0).committed errs
      else s
    else (s.updSys fun y => { y with ownReady := false, readies := [] }).sysUp 2 false 0 n
  else s

/-- The module reports ready. -/
def State.reportReady (s : State) (errs : Errs) : State :=
  ((s.updSeq fun q => { q with readySent := true }).updSys fun y => { y with ownReady := true }).gatherReady errs

/-! ### Abort (R295, R353-R358) -/

/-- A job fault (Table FLT-1): it names a unit and calls for no test. -/
def Cause.jobFault (c : Cause) : Bool := decide (c.unit < 15360) && c.test.isNone

/-- The units that the codes reported concern are stopped and flushed (R353, R354). -/
def State.stopCauses (s : State) : State :=
  s.seq.reported.foldl (fun t c => if c.unit < 15360 then (t.stopHands c.unit).flushUnit c.unit else t) s

/-- The job faults of the attempt that repeat those of the attempt before, and the number of aborts, end the job (R358). -/
def State.limitCodes (s : State) : List Nat :=
  (if s.seq.faults.any fun c => s.seq.lastFaults.contains c then [0x808] else []) ++ (if 8 ≤ s.seq.aborts then [0x80B] else [])

/-- The root and the deputy root are both lost, of two modules (R340). -/
def State.rootsLost (s : State) : Bool :=
  let l := s.sys.lossUp ++ s.seq.lost
  let root := field (s.bar 0x30804) 0 12
  let deputy := field (s.bar 0x30804) 12 12
  l.contains root && l.contains deputy && root != deputy

/-- Losses that cannot be recovered from: a shard of which owner and partner are lost, or the owner while its new carbon is not accepted;
the source of a lost well's content; root and deputy (R340, R342, R364, Table FLT-7). -/
def State.lossCodes (s : State) : List Nat :=
  let l := s.seq.lost
  (if s.sys.shards.any (fun x => x.2.valid && l.contains x.2.owner && l.contains x.2.partner) ||
      s.seq.carbons.any (fun c => l.contains (s.sys.shards.get Shard.reset c.1).owner) then [0x40A] else []) ++
    (if s.seq.lostWells.any s.sourceLost then [0x80A] else []) ++
    (if s.rootsLost then [0x40B] else [])

/-- The job stops with the lowest of some codes (R374). -/
def State.stopLowest (s : State) (codes : List Nat) : State := if codes = [] then s else s.jobStop (lowest codes)

/-- Stops and flushes every unit (R353, R354). -/
def State.stopAll (s : State) : State :=
  (s.units.map (·.1)).foldl (fun t u => (t.stopHands u).flushUnit u) s

/-- Stops streams and frees what routers and endpoints hold (R266, R355). -/
def State.stopRegions (s : State) : State :=
  (List.range 48).foldl (fun t r =>
    let t0 := ((List.range 80).filter (t.lineBusy r)).foldl (fun v l => v.updP1 r (lineIndex l 5) fun w => putField w 0 1 0) t
    let t1 := (t0.well r).running.foldl (fun v k => v.updP1 r (streamStatus k.stream) fun w => putField w 0 2 0) t0
    let t2 := if (t1.well r).running = [] ∧ (t1.well r).stalled = [] then t1
      else t1.updWell r fun x => { x with running := [], stalled := [] }
    let x := t2.region r
    if x.nodes = [] ∧ x.heldIn = [] ∧ x.combine = [] ∧ x.writing = [] then t2
    else (t2.setNodes r []).updRegion r fun x => { x with heldIn := [], heldEpisode := false, combine := [], writing := [] }) s

/-- Ink rows of every unit are discarded (R266). -/
def State.clearInk (s : State) : State :=
  (s.units.map (·.1)).foldl (fun t u => t.updUnit u fun x => { x with ink := [], inkIn := [], inkStalled := false }) s

/-- The stage of Table FLT-3 that the module has come to: the latest that something is in and that has not completed. -/
def State.abortStage (s : State) : Nat :=
  if s.seq.replan || !s.seq.recreate.isEmpty then 5
  else if s.repairing then 4
  else if !s.seq.tests.isEmpty || !s.seq.reported.isEmpty then 3
  else if !s.seq.drained then 2
  else if s.regionsUp.all fun r => (s.svc r).restored then 7 else 6

/-- The same for one region, of what concerns it; where nothing does, the module's (R356; DESIGN CHOICE, log 157). -/
def State.regionStage (s : State) (r : Nat) : Nat :=
  if field (s.p1 r 80) 15 1 = 1 ∨ (s.seq.replan = true ∧ s.seq.lost ≠ []) then 5
  else if !(s.svc r).fills.isEmpty || !(s.region r).epochWaits.isEmpty then 4
  else if s.seq.tests.any fun t => t.region == r then 3
  else if !s.seq.drained then 2
  else s.seq.abortState

/-- The abort states are shown (R356). -/
def State.showAbort (s : State) : State :=
  let t := s.updSeq fun q => { q with abortState := s.abortStage }
  t.forRegions fun v r => v.updP1 r 80 fun w => putField w 0 3 (t.regionStage r)

/-- The abort goes on: its state is shown, and once everything is restored the module reports ready (Table FLT-3). -/
def State.abortNext (s : State) : State :=
  if s.seq.phase ≠ 7 then s
  else
    let s1 := s.showAbort
    if s1.seq.abortState = 7 ∧ s1.seq.readySent = false then s1.reportReady [] else s1

/-- Phase Abort begins (R353): everything stops, what R288 and R292 hold is discarded, and 0x084 is raised. -/
def State.beginAbort (s : State) : State :=
  let s1 := s.stopAll.stopRegions.clearInk
  let causes := s1.seq.reported
  let s2 := s1.updSeq fun q => { q with
    reported := [], tests := q.tests ++ causes.filterMap (·.test), updated := [], trailers := [], sentSnap := [],
    snapIn := [], aborts := q.aborts + 1, verdict := false, readySent := false, committed := 0, abortSent := false,
    tailAbort := q.phase == 6 && decide (5 ≤ q.committed), consts := none, transfer := none, drained := false,
    faults := q.faults ++ causes.filter Cause.jobFault }
  let s3 := s2.updSys fun y => { y with
    ownBit := none, verdicts := [], ownReady := false, readies := [], served := [], granules := [], remote := [] }
  let s4 := s3.forRegions fun t r =>
    (t.updP1 r 80 fun w => bumpField w 3 5).updSvc r fun x => { x with contributed := false, restored := false }
  let s5 := s4.copyRings.foldl (fun t q => if t.ringState q = 1 then t.setRingState q 2 else t) s4
  ((s5.setPhase 7).raiseSeq 0x084 s5.seq.aborts).showAbort

/-- Phase Abort is entered, and the limits of R358 are tested. -/
def State.enterAbort (s : State) : State :=
  let t := s.beginAbort
  t.stopLowest t.limitCodes

/-- An error of a spare that is being filled fails its fill (Table FLT-7). -/
def State.failSpares (s : State) (causes : List Cause) : State :=
  causes.foldl (fun t c =>
    if c.unit < 15360 ∧ (t.svc (regionOf c.unit)).fills.any (fun f => fillUnit (regionOf c.unit) f == c.unit) = true then
      t.failFill (regionOf c.unit) (rowMapIndex c.unit)
    else t) s

/-- The codes reported meanwhile join the abort in progress: they add tests, or fail a test that is due, and the module is to report ready
again (R370). -/
def State.joinAbort (s : State) : State :=
  let causes := s.seq.reported
  let due := causes.filterMap (·.test)
  (s.updSeq fun q => { q with
    tests := q.tests ++ due.filter (fun t => !q.tests.contains t), failing := q.failing ++ due.filter q.tests.contains,
    faults := q.faults ++ causes.filter Cause.jobFault, reported := [], readySent := false, abortSent := false }).failSpares causes

/-- A subject of ABORT_DOWN is marked removed; the deputy tree comes into use where it was the root (R335, R340). -/
def State.markRemoved (s : State) (m : Nat) : State :=
  let s1 := (s.seeBar 0x3080C 0).raiseFrom srcLink 0x407 m (s.bar 0x3080C ||| 1).toNat
  let e := s1.sys.roster.get RosterEntry.reset m
  let s2 := s1.updSys fun y => { y with roster := y.roster.set RosterEntry.reset m { e with state := 3 } }
  let s3 := s2.updSeq fun q => { q with lost := q.lost ++ [m], replan := true }
  if m = field (s3.bar 0x30804) 0 12 then s3.switchDeputy else s3

/-- ABORT_DOWN at this module: forwarded, the step aborted, the attempt advanced; a subject is marked removed (R335,
R337, R340). Of the codes that then stop the job the lowest counts (R374). -/
def State.abortDown (s : State) (subject : Option Nat) : State :=
  let s0 := s.sysDown 5 false (subject.getD 4095)
  let s1 := if s0.seq.running ∧ s0.seq.phase ≠ 7 then s0.stopCauses.beginAbort else s0
  let s2 := s1.updSys fun y => { y with ownBit := none, verdicts := [], ownReady := false, readies := [] }
  let s3 := s2.updBar 0x30808 fun w => putField w 8 8 (field w 8 8 + 1)
  let s4 := if s3.seq.phase = 7 then s3.stopCauses.joinAbort else s3
  let s5 := match subject with
    | none => s4
    | some m => s4.markRemoved m
  if s5.seq.running then (s5.stopLowest (s5.limitCodes ++ s5.lossCodes)).abortNext else s5

/-- The loss of a module is on its way up; where it is the root's the deputy tree comes into use first (R340). -/
def State.lossSeen (s : State) (m : Nat) : State :=
  let t := s.updSys fun y => { y with lossUp := y.lossUp ++ [m] }
  if m = field (t.bar 0x30804) 0 12 then t.switchDeputy else t

/-- ABORT_UP or LOSS_UP goes to the root at once; the root answers with ABORT_DOWN unless the full ready count has come first
(R339). -/
def State.upToRoot (s : State) (subject : Option Nat) : State :=
  if s.isRoot then
    if s.sys.committed then
      let t := (s.seeBar 0x3080C 1).updBar 0x30810 fun w => bumpField w 0 16
      t.raiseFrom srcLink 0x047 0xFFFF (t.bar 0x30810).toNat
    else s.abortDown subject
  else s.sysUp (if subject.isSome then 6 else 4) false (subject.getD 4095) 0

/-- ABORT_UP, or LOSS_UP with its subject; with root and deputy both lost the job stops (R339, R340). -/
def State.abortUp (s : State) (subject : Option Nat) : State :=
  let t := match subject with
    | some m => s.lossSeen m
    | none => s
  if t.rootsLost && t.seq.running then t.jobStop 0x40B else t.upToRoot subject

/-- SEQUENCER_ABORT: a reported code starts the abort, or joins the one in progress (R353, Table FLT-7). A module that has sent its
READY_UP keeps its state and sends ABORT_UP: the root decides (R339). After the commit the code waits for the next step. In every case the
units concerned are stopped and flushed. -/
def State.sequencerAbort (s : State) : State :=
  let t := s.stopCauses
  if t.seq.reported = [] ∨ t.seq.running = false then t.updSeq fun q => { q with reported := [] }
  else if t.seq.phase = 6 ∧ 5 ≤ t.seq.committed then t
  else if t.seq.readySent then
    if t.seq.abortSent then t else (t.updSeq fun q => { q with abortSent := true }).abortUp none
  else if t.seq.phase = 7 then
    let v := t.joinAbort
    (v.stopLowest v.limitCodes).abortNext
  else t.enterAbort.abortUp none

/-- The module has drained (R355): copies in flight complete with 0x707 (R389). -/
def State.drainComplete (s : State) : State :=
  if s.seq.phase = 7 ∧ s.seq.drained = false ∧ s.drained = true then
    let t := s.finishAll s.copyRings fun _ => some (0x707, 0)
    (({ t with host := { t.host with draining := [] } }).updSeq fun q => { q with drained := true }).abortNext
  else s

/-- Units of a region that the row maps serve. -/
def State.jobUnits (s : State) (r : Nat) : List Nat :=
  ((List.range 320).map (320 * r + ·)).filter fun u => !s.absent u

/-- Go for the units of a region, the scripts that changed loaded first (R99, R357). -/
def State.goRegion (s : State) (r : Nat) : State :=
  let us := s.seq.scripts.filter fun u => regionOf u == r
  let s1 := us.foldl (fun t u => t.scriptLoad u []) s
  let s2 := s1.updSeq fun q => { q with scripts := q.scripts.filter fun u => regionOf u != r }
  (s2.jobUnits r).foldl State.go s2

/-- The blot-point state of a region: sync objects, stream tables, idle lines and the turn of each (R302, R357). -/
def State.blotRegion (s : State) (r : Nat) : State :=
  let s1 := s.updRegion r fun x => { x with sync := s.imageSync r, waiters := [] }
  let b := (s1.region r).blot
  let s2 := (List.range 320).foldl (fun t i => t.setP1 r (15040 + i) (b.get 0 (15040 + i))) s1
  ((List.range 80).foldl (fun t l => t.updP1 r (lineIndex l 5) fun w => putField w 0 1 0) s2).updWell r fun x => { x with
    running := [], stalled := [], lastStream := x.blotLast }

/-- Restoring of one region (R357). -/
def State.restoreRegion (s : State) (r : Nat) : State :=
  if s.seq.phase = 7 ∧ s.seq.abortState = 6 ∧ (s.svc r).inService = true ∧ (s.svc r).restored = false then
    (((s.blotRegion r).goRegion r).updSvc r fun x => { x with restored := true }).abortNext
  else s

/-! ### Decision and hold (R283, R287, R294) -/

/-- The schedule table of the job image: k5 and k7 per update (R287). -/
def State.scheduleTable (s : State) : List (Word × Word) := (s.host.image.map (·.schedule)).getD []

/-- The step flags and the verdict's copies show the decision (R283). -/
def State.showDecision (s : State) (bit : Bool) : State :=
  s.forRegions fun t r =>
    (t.stepFlag r (if bit then 6 else 2)).updP1 r 15367 fun w => putField w 3 1 bit.toNat

/-- The decision reaches the sequencer in phase Verdict: the constants of the update are taken, or the job stops before any block is
updated (R287); then the step flags are set, and the next phase begins. -/
def State.decided (s : State) (bit : Bool) : State :=
  if s.seq.running = false ∨ s.seq.phase ≠ 3 then s
  else if bit then ((s.updSeq fun q => { q with verdict := true }).showDecision true).setPhase 6
  else
    match s.scheduleTable[s.seq.sched.updCount.toNat]? with
    | none => s.jobStop 0x805
    | some k => ((s.updSeq fun q => { q with verdict := false, consts := some k }).showDecision false).setPhase 4

end Sys2Proof.Machine
end

