-- ==== Sys2Proof/Machine/Image.lean ====
section
/-! DEFINITION. Resident images (R352, R360): their load stage, out of a well and through the maintenance port, and the targeted self-tests,
after which an image is loaded again. -/

namespace Sys2Proof.Machine

/-- The resident image of a unit. -/
def State.imageOf (s : State) (u : Nat) : Option UnitImage :=
  s.host.image.bind fun g => g.units.find? fun x => x.unit == u

/-- The well rows of an image, whole granules (R360). -/
def imageRows (g : UnitImage) : List Nat := (List.range (8 * ((g.rows.length + 7) / 8))).map (8 * g.place + ·)

/-- The scratchpad rows of an image from its well rows; their metadata come with the job image. -/
def imageCells (g : UnitImage) (ds : List Row) : List (Nat × Cell) :=
  g.rows.zipIdx.map fun ((q, _, tg, fl, nf), k) => (q, { data := ds.getD k 0, tagged := tg, full := fl, nf := nf })

/-- The control words of a unit as its image gives them (R128). -/
def State.imageControl (s : State) (g : UnitImage) : State :=
  let rg := regionOf g.unit
  (s.setP1 rg (ctlIdx g.unit 0) (g.startPc.setWidth 36)).setP1 rg (ctlIdx g.unit 1)
    (wd (g.imageOffset % 2 ^ 22 + g.imageRows % 2 ^ 12 * 2 ^ 22))

/-- The banks that the rows of a unit's image lie in. -/
def State.imageBanks (s : State) (u : Nat) : List (Nat × Nat × Nat) :=
  match s.imageOf u with
  | none => []
  | some g => banksOf u (g.rows.map (·.1))

/-- The load stage, its banks won: the image is read from the well, hashed and written, and its digest is compared. False: it does not
agree, or a row could not be read. `i` numbers the codewords read. -/
def State.loadStage (s : State) (u : Nat) (errs : Errs) (i : Nat) : State × Bool :=
  match s.imageOf u with
  | none => (s, true)
  | some g =>
    match s.wellReads (regionOf u) errs i (imageRows g) with
    | (t, 0, ds) =>
      ((t.writeCells u (imageCells g ds)).imageControl g, Sha.digestOctets (Sha.sha256 (ds.flatMap rowOctets)) == g.digest)
    | (t, _, _) => (t, false)

/-- A second mismatch: event 0x22E, and the job stops with 0x80D (R360). -/
def State.imageLost (s : State) (u : Nat) : State :=
  let t := s.seeP1 (regionOf u) 83 2
  (t.raise (regionOf u) 0x22E u (t.p1 (regionOf u) 83).toNat).jobStop 0x80D

/-- The load stage with its one repetition (R352, R360). -/
def State.reload (s : State) (u : Nat) (errs : Errs) : State :=
  match s.loadStage u errs 0 with
  | (t, true) => t
  | (t, false) =>
    match t.loadStage u errs (16 * ((s.imageOf u).map fun g => (imageRows g).length).getD 0) with
    | (v, true) => v
    | (v, false) => v.imageLost u

/-! ### Targeted self-tests (R348-R352) -/

/-- What test 1 or 10 leaves in rows, and what test 2 or 10 leaves in the script store (R352). -/
def State.testRows (s : State) (u q n : Nat) : State :=
  s.writeCells u ((List.range n).map fun i => (q + i, testCell s.root u (q + i)))
def State.testWords (s : State) (u : Nat) : State :=
  s.updUnit u fun x => { x with script := (List.range 32768).foldl (fun m i => m.set 0 i (Config.testWord s.root u i)) x.script }

/-- The banks that a passed test and the load of the image after it need. -/
def State.testBanks (s : State) (t : TestTarget) : List (Nat × Nat × Nat) :=
  (if t.code = 1 then [(t.target, t.part, 3072)] else []) ++
    (if t.code = 1 ∨ t.code = 2 ∨ t.code = 5 then (s.imageBanks t.target).filter fun b => t.code != 1 || b.2.1 != t.part else [])

/-- After a test that overwrote it, the unit's resident image is loaded again (R352). -/
def State.afterTest (s : State) (t : TestTarget) (errs : Errs) : State :=
  match t.code with
  | 1 => (s.testRows t.target (t.part * 3072) 3072).reload t.target errs
  | 2 =>
    let v := (s.testWords t.target).reload t.target errs
    { v with seq := { v.seq with scripts := v.seq.scripts ++ [t.target] } }
  | 5 => s.reload t.target errs
  | _ => s

/-- A targeted self-test of codes 1 to 7 ends: an error found meanwhile is part of its result (Table FLT-7), and a fourth error is lasting
whatever it says (R351). A passed test that has overwritten its structure ends only when the banks for the load are won. -/
def State.testResult (s : State) (t : TestTarget) (x : TestResult) : State :=
  let bad := !x.pass || s.passedThrice t || s.seq.failing.contains t
  let fin (v : State) : State :=
    (v.updSeq fun q => { q with tests := q.tests.erase t, failing := q.failing.filter (· != t) }).recordTest t (!bad)
  if bad then (fin s).lasting t x.wires
  else
    match s.winBanks maintTest (s.testBanks t) with
    | (v, true) => (fin v).afterTest t x.errs
    | (v, false) => v

end Sys2Proof.Machine
end

