-- ==== Sys2Proof/Machine/Net.lean ====
section
/-! DEFINITION. The wafer network (spec/08): routes, the arrival of a message, the stray queue, role epochs, requests and
their answers, sync operations and events. A command that names a message is about the oldest message in flight of its
source, destination and virtual channel (R222); where none is in flight, the message comes from an agent of the module
that the model does not step (log 19). -/

namespace Sys2Proof.Machine

/-! ### The stray queue (R231, R232) -/

/-- Removes the oldest entry (R232). -/
def State.strayPop (s : State) (r : Nat) : State :=
  let n := field (s.p1 r 5568) 24 9
  if n = 0 then s
  else
    let s1 := (List.range (16 * (n - 1))).foldl (fun t i => t.setP1 r (10240 + i) (s.p1 r (10256 + i))) s
    let s2 := (List.range 16).foldl (fun t k => t.setP1 r (10240 + 16 * (n - 1) + k) 0) s1
    s2.updP1 r 5568 fun v => putField v 24 9 (n - 1)

def execStrayPop (region : Nat) (s : State) : Res := onRegion region (s.strayPop region)

/-- Types of Table NET-5. -/
def typeDefined (t : Nat) : Bool := [0, 1, 2, 3, 4, 8, 9, 10, 11, 12, 13, 16, 20].contains t

/-- Why a message is diverted, if it is (R52, R225, R229, R231). A unit that is being filled accepts what fills it, which goes through its
maintenance port, and of messages the unit control of its own region controller (DEDUCED, log 57). That a defined type has come on
another virtual channel than Table NET-5 gives it is no reason (DESIGN CHOICE, log 158). -/
def State.strayReason (s : State) (m : Msg) : Option Nat :=
  if !typeDefined m.type then some 3
  else if m.dstKind = 0 then
    let own := m.srcRegion == regionOf m.dstUnit && m.srcKind == 1 && m.type == 13
    if s.filling m.dstUnit && !own then some 1
    else if m.srcKind ≠ 3 ∧ m.srcKind ≠ 4 ∧ m.epoch ≠ s.stamp (clusterOf m.dstUnit) m.dstUnit then some 0
    else none
  else if m.dstKind = 1 ∧ m.srcKind = 0 ∧ m.epoch ≠ (s.region m.dstRegion).epochs.get 0 m.srcUnit then some 2
  else none

/-! ### Arrival (R222, R223, R355) -/

def sameFlow (a b : Msg) : Bool :=
  a.srcRegion == b.srcRegion && a.srcUnit == b.srcUnit && a.srcKind == b.srcKind && a.srcModule == b.srcModule &&
    a.dstRegion == b.dstRegion && a.dstUnit == b.dstUnit && a.dstKind == b.dstKind && a.vc == b.vc

/-- The message is the next of its flow. -/
def State.isNext (s : State) (m : Msg) : Bool :=
  match s.net.find? (sameFlow m) with
  | some o => o == m
  | none => true

/-- Discarded while the sequencer is in phase Abort (R355). -/
def State.abortDrops (s : State) (m : Msg) : Bool :=
  s.seq.phase == 7 && ((m.vc != 0 && decide (m.dstKind < 3)) || (m.vc == 0 && m.dstKind == 1 && m.srcKind != 3))

/-- A receiving port corrected a flit, or could not (R223): counted and raised in the region of the port. A sideband bit that was
voted counts as a corrected flit. The sixteenth correction at one port in a step calls for its test at the next blot point (R349,
R350). -/
def State.flitCheck (s : State) (test : TestTarget) (e : Ecc) : State :=
  let r := test.region
  let corrected : State :=
    let t := (s.updP1 r 5572 fun w => bumpField w 0 24).seeP1 r 5572 32
    let port := if test.code = 6 then test.target % 320 else 320 + test.target
    let n := (t.svc r).flits.get 0 port + 1
    let t1 := t.updSvc r fun x => { x with
      flits := x.flits.set 0 port n, portTests := if n = 16 then x.portTests ++ [test] else x.portTests }
    t1.raise r 0x034 noSubject (t1.p1 r 5572).toNat
  match e.ofData with
  | .uncorrectable =>
    let t := (s.updP1 r 5572 fun w => bumpField w 24 8).seeP1 r 5572 33
    (t.raise r 0x226 noSubject (t.p1 r 5572).toNat).report (causeOf 0x226 16383 (some test))
  | .corrected _ => corrected
  | _ => if e.ofMeta then corrected else s

/-- A port checks the flits of a message that come to it: whether the message goes on (R223). -/
def State.portCheck (s : State) (test : TestTarget) : List Ecc → State × Bool
  | [] => (s, true)
  | e :: es =>
    let t := s.flitCheck test e
    if e.ofData = .uncorrectable then (t, false) else State.portCheck t test es

/-- Flits of a message. -/
def flitsOf (m : Msg) : Nat := 1 + m.body.length

/-- Port after port, each checks every flit: flit `f` at the port number `i` is number 9 x i + f of the checks. -/
def State.portChecks (s : State) (m : Msg) (errs : Errs) : Nat → List TestTarget → State × Bool
  | _, [] => (s, true)
  | i, p :: ps =>
    match s.portCheck p ((List.range (flitsOf m)).map fun f => errAt errs (9 * i + f)) with
    | (t, true) => State.portChecks t m errs (i + 1) ps
    | (t, false) => (t, false)

/-- A message whose route leads nowhere comes back as an error response, a sync operation as its acknowledgement, with 0x128
(R221): it is made where the route ends, so it has no way back that the loss could bar. One that is itself an error response or an
acknowledgement ends there (DESIGN CHOICE, log 132). -/
def State.answerUnreachable (s : State) (m : Msg) : State :=
  if m.type = 4 ∨ m.type = 10 then s
  else if m.type = 8 then s.send { s.answer m 0 10 0x128 false [] [] with srcRegion := m.srcRegion }
  else s.send { s.answer m 2 4 0x128 false [] [] with srcRegion := m.srcRegion }

/-- A region controller remembers for the verdict that a message it consumes had nf (R282). -/
def State.controllerSees (s : State) (m : Msg) : State :=
  if m.dstKind = 1 ∧ m.nf = true then s.updSvc m.dstRegion fun x => { x with msgNf := true } else s

/-- A message arrives, checked at every receiving port of its path: `s` when it is not the next of its flow or must stay where it is
(`k` answers none). -/
def State.arrive (s : State) (m : Msg) (flits : Errs) (k : State → Option State) : State :=
  if !s.isNext m then s
  else
    let t := { s with net := s.net.erase m }
    let lost := t.unreachable m
    match t.portChecks m flits 0 (portsOf (if lost then t.partPath m else t.path m)) with
      | (t1, false) => t1
      | (t1, true) =>
        if lost then t1.answerUnreachable m
        else if t1.abortDrops m then t1
        else
          match t1.strayReason m with
          | some reason => t1.divert m.dstRegion m reason
          | none => (k (t1.controllerSees m)).getD s

/-- A message whose regions and unit the module has. -/
def msgOk (m : Msg) : Bool :=
  decide (m.dstRegion < 48 ∧ m.srcRegion < 48) && (m.dstKind != 0 || (decide (m.dstUnit < 15360) && regionOf m.dstUnit == m.dstRegion))

def onMsg (m : Msg) (t : State) : Res := guardRes (msgOk m) t

/-! ### Unit control and ink rows -/

/-- Unit control (Table NET-5): word 9 is applied first, then start_pc, stop, flush, load and go of word 8. -/
def State.unitControl (s : State) (m : Msg) : State :=
  let u := m.dstUnit
  let rg := regionOf u
  let w := m.word 8
  let s1 := (s.setP1 rg (ctlIdx u 1) (wd (field (m.word 9) 0 34))).setP1 rg (ctlIdx u 0) (wd (field w 0 15))
  let s2 := if field w 18 1 = 1 then s1.stopHands u else s1
  let s3 := if field w 19 1 = 1 then s2.flushUnit u else s2
  let s4 := if field w 16 1 = 1 then s3.scriptLoad u [] else s3
  if field w 17 1 = 1 then s4.go u else s4

/-- An ink-line row message: onto the unit's ink input (R261). -/
def inkOf (m : Msg) : InkRow :=
  { data := m.body.headD 0, row := m.tag.toNat % 64, pos := m.tag.toNat / 64 % 16, bcast := m.tag.getLsbD 10,
    last := m.tag.getLsbD 11, wa := m.wa }

/-- A row comes to a unit's ink input. -/
def State.inkPush (s : State) (u : Nat) (k : InkRow) : State :=
  s.updUnit u fun x => { x with
    inkIn := x.inkIn ++ [k], inkSince := if x.inkIn.isEmpty then s.aclkOf (clusterOf u) else x.inkSince }

/-- A row comes to a unit's ink input. -/
def State.inkArrive (s : State) (m : Msg) : State := s.inkPush m.dstUnit (inkOf m)

/-! ### Requests (R225, R252, R328, R396) -/

/-- Kind fields of WRD, WRS, WWR, WAK and WER (Table LNK-4), from bit 80. -/
def wellKind (tag region granule first rows status : Nat) : Nat :=
  tag % 2 ^ 16 + region % 64 * 2 ^ 16 + granule % 2 ^ 27 * 2 ^ 22 + first % 8 * 2 ^ 49 + rows % 16 * 2 ^ 52 +
    status % 4096 * 2 ^ 56

/-- Rows placed at their granule positions. -/
def granuleRows (first : Nat) (rows : List Row) : List Row :=
  (List.range 8).map fun i => if first ≤ i then rows.getD (i - first) 0 else 0

/-- The lowest tag that no remote request of this module uses. -/
def State.freeTag (s : State) : Nat :=
  ((List.range (s.sys.remote.length + 1)).find? fun t => s.sys.remote.all fun p => p.1 != t).getD 0

/-- A request for another module enters the links with its nf (R40, R213, R328). -/
def State.remoteRequest (s : State) (m : Msg) : State :=
  let dst := field (m.word 5) 0 12
  if dst = s.ownIndex.toNat then s.noRoute dst
  else
    let t := s.freeTag
    let n := if m.type = 0 then 1 else m.body.length
    let first := waNonet m.wa / 64
    let kind := wellKind t (waWellRegion m.wa) (waGranule m.wa) first n 0
    (s.updSys fun y => { y with remote := y.remote ++ [(t, m)] }).linkInject (if m.type = 0 then 1 else 3) 1 m.nf dst
      kind (if m.type = 0 then [] else granuleRows first m.body)

/-- A read or write request at the structure it names; none when it must wait (log 18). -/
def State.serveRequest (s : State) (m : Msg) (errs : Errs) : Option State :=
  match m.dstKind with
  | 0 => some (s.inboundRequest m (errAt errs 0))
  | 1 =>
    let inv := waInvalid m.wa
    let code := lowest (inv ++ (if inv = [] then s.waUnavailable m.wa else []) ++
      (if spaceOf m.wa ≠ .sync ∨ waSyncRegion m.wa ≠ m.dstRegion then [0x12D] else []) ++
      (if m.type = 1 ∧ spaceOf m.wa = .sync then [0x126] else []))
    some (s.send (s.answerAccess m code [(s.readSync m.wa).setWidth 576] false))
  | 2 =>
    let r := m.dstRegion
    let code := s.gatewayFault r m.wa (if m.type = 0 then 1 else m.body.length)
    let q := 8 * waGranule m.wa + waNonet m.wa / 64
    if code ≠ 0 then some (s.send (s.answerAccess m code [] false))
    else if m.type = 0 then
      let (t, st, d) := s.wellRead r q errs 0
      some (t.send (t.answerAccess m st [d] false))
    else
      let t := s.wellWrite r q m.body
      some (t.send (t.answerAccess m 0 [] false))
  | 3 =>
    let n := windowNonets m
    let fault := s.windowFault m.wa n (m.type == 1)
    -- a read of host memory that fails gives no data (R377)
    let code := if fault = 0 ∧ m.type = 0 ∧ (errAt errs 0).ofData = .uncorrectable then 0x703 else fault
    let t := if code = 0 ∧ m.type = 1 then s.windowWrite m.wa n m.body else s
    some (t.send (t.answerAccess m code [s.windowRead m.wa n] false))
  | _ => some (s.remoteRequest m)

/-- Messages that have no row of their own: unit control and ink-line rows; the reserved types are diverted. -/
def readRowTakes (m : Msg) : Bool := m.type == 0 || m.type == 13 || m.type == 20 || !typeDefined m.type

def execReadRequest (m : Msg) (flits : Errs) (errs : Errs) (s : State) : Res :=
  onMsg m (if readRowTakes m then
    s.arrive m flits fun t =>
      match m.type with
      | 13 => some (if m.dstKind = 0 then t.unitControl m else t)
      | 20 => some (if m.dstKind = 0 then t.inkArrive m else t)
      | _ => t.serveRequest m errs
  else s)

def execWriteRequest (m : Msg) (flits : Errs) (errs : Errs) (s : State) : Res :=
  onMsg m (if m.type = 1 then s.arrive m flits fun t => t.serveRequest m errs else s)

/-- A request of another unit's mover, with the deadline and the hold that it carries (R185). -/
def execMoverInboundRequest (x : Arrival) (hold : BitVec 12) (deadline : BitVec 16) (ecc : Ecc) (s : State) : Res :=
  let k := { x.msg with hold := hold, deadline := deadline }
  onMsg k (if (k.type = 0 ∨ k.type = 1) ∧ k.dstKind = 0 then
    s.arrive k x.flits fun t => some (t.inboundRequest k ecc)
  else s)

/-! ### Answers (R213, R225, R329, R481) -/

/-- The answer to the read that the mover's command waits for, with its status: the command goes on with it when its row runs again. -/
def State.moverAnswer (s : State) (u tag status : Nat) (d : Row) (nf : Bool) : State :=
  match (s.unit u).mover.cur with
  | none => s
  | some w =>
    if w.ans.isNone && w.ask.any (fun p => p.1 == tag) then
      s.updUnit u fun x => { x with mover := { x.mover with cur := some { w with ans := some (status, d, nf) } } }
    else s

/-- The answer to a write of the mover's command. -/
def State.moverAcked (s : State) (u tag status : Nat) : State :=
  match (s.unit u).mover.cur with
  | none => s
  | some w =>
    if w.acks.any fun p => p.1 == tag && p.2.2.isNone then
      let w1 := { w with acks := w.acks.map fun p => if p.1 = tag ∧ p.2.2.isNone then (p.1, p.2.1, some status) else p }
      s.mvSettle u w1
    else s

/-- An error response answers a write of the mover's command, or the read that it waits for. -/
def State.moverError (s : State) (u tag status : Nat) : State :=
  match (s.unit u).mover.cur with
  | none => s
  | some w =>
    if w.acks.any fun p => p.1 == tag && p.2.2.isNone then s.moverAcked u tag status else s.moverAnswer u tag status 0 false

/-- Sends the answer to a remote request over the links (R329): WRS, WAK or WER; the request is then done. -/
def State.answerServed (s : State) (v : Served) (ftype status : Nat) (rows : List Row) : State :=
  (s.updSys fun y => { y with served := y.served.erase v }).linkInject ftype 2 false v.src
    (wellKind v.tag v.region (v.first / 8) (v.first % 8) v.count status) rows

/-- The remote request that an answer at a link engine belongs to. -/
def State.servedFor (s : State) (m : Msg) : Option Served := s.sys.served.find? fun v => v.wtag == m.tag.toNat

end Sys2Proof.Machine
end

