-- ==== Sys2Proof/Machine/Reduce.lean ====
section
/-! DEFINITION. Ductus reduction (R238-R244): the sibling rule, combine buffers, the endpoint and its plan. -/

namespace Sys2Proof.Machine

open Sys2Proof.Num

/-! ### Contributions (R238-R240) -/

def rdTensor (m : Msg) : Nat := field (m.word 5) 0 32
def rdOp (m : Msg) : Nat := field (m.word 5) 32 3
def rdBlock (m : Msg) : Nat := field (m.word 6) 0 24
def rdLo (m : Msg) : Nat := field (m.word 7) 0 24
def rdHi (m : Msg) : Nat := field (m.word 8) 0 24
def rdC (m : Msg) : Nat := field (m.word 9) 0 24
/-- Every reserved field of head words 5 to 15 is zero. -/
def rdReservedOk (m : Msg) : Bool :=
  field (m.word 5) 35 1 == 0 && [6, 7, 8, 9].all (fun j => field (m.word j) 24 12 == 0) &&
    [10, 11, 12, 13, 14, 15].all fun j => m.word j == 0
/-- `[lo, hi]` is a canonical node of the tree over `c` contributors (R239). -/
def nodeOk (lo hi c : Nat) : Bool :=
  !(decide (hi < lo) || decide (c ≤ hi)) &&
    (List.range 25).any fun l => lo % 2 ^ l == 0 && hi == min (lo + 2 ^ l - 1) (c - 1)

/-- `a` and `b` are the children of one node (R240). -/
def siblings (a b : Msg) : Bool :=
  let s := rdHi a - rdLo a + 1
  decide (rdLo a ≤ rdHi a) && decide (rdLo a < rdLo b) && (List.range 25).contains (Nat.log2 s) && s == 2 ^ Nat.log2 s && rdLo a % (2 * s) == 0 && rdLo b == rdHi a + 1 &&
    rdHi b == min (rdLo a + 2 * s - 1) (rdC a - 1)

/-- Two contributions that may be combined, the lower one first. -/
def mayCombine (a b : Msg) : Bool :=
  rdTensor a == rdTensor b && rdBlock a == rdBlock b && rdOp a == rdOp b && rdC a == rdC b &&
    a.body.length == b.body.length && a.dstRegion == b.dstRegion && a.dstKind == b.dstKind &&
    decide (1 ≤ rdOp a ∧ rdOp a ≤ 4) && siblings a b

/-- One element: the exact sum rounded by RNE, or the maximum (R37, R240). -/
def combineElem (op a b : Nat) : Nat :=
  let fmt := if op = 2 then n18 else n36
  let x := decode fmt a
  let y := decode fmt b
  (encode fmt 0 0 (if op = 4 then vmax x y else sum x y)).1

/-- One row of the combination, `a` on the left. -/
def combineRow (op : Nat) (a b : Row) : Row :=
  if op = 3 then a ||| b
  else
    let fmt := if op = 2 then n18 else n36
    BitVec.ofNat 576 (packCodes (size fmt) ((List.range (perRow fmt)).map fun j =>
      combineElem op (elemCode fmt a j) (elemCode fmt b j)))

/-- An element of a block is NaN or infinite; the flag nonets of an OR are no values. -/
def rowNonFinite (op : Nat) (d : Row) : Bool :=
  let fmt := if op = 2 then n18 else n36
  (op == 1 || op == 2 || op == 4) && (List.range (perRow fmt)).any fun j => (decode fmt (elemCode fmt d j)).nonFinite

/-- The nf of a contribution: its own bit, and any value of its block that is not finite (R40, R282; DEDUCED, log 159). -/
def contributionNf (m : Msg) : Msg := { m with nf := m.nf || m.body.any (rowNonFinite (rdOp m)) }

/-- The combination of `a` and its sibling `b`, `a` the lower. -/
def combine (a b : Msg) : Msg :=
  contributionNf { a with
    nf := a.nf || b.nf, words := (List.range 11).map fun j => if j = 3 then putField (a.word 8) 0 24 (rdHi b) else a.word (5 + j),
    body := List.zipWith (combineRow (rdOp a)) a.body b.body }

/-- A sibling among held contributions, and the combination with it. -/
def findSibling (m : Msg) : List Node → Option (Node × Msg)
  | [] => none
  | n :: ns =>
    if mayCombine n.msg m then some (n, combine n.msg m)
    else if mayCombine m n.msg then some (n, combine m n.msg)
    else findSibling m ns

/-- Combines an arrival with held contributions until none is its sibling: what stays held, and the result. -/
def absorb : Nat → List Node → Msg → List Node × Msg
  | 0, ns, m => (ns, m)
  | k + 1, ns, m =>
    match findSibling m ns with
    | none => (ns, m)
    | some (n, c) => absorb k (ns.erase n) c

/-! ### Routers (R241) -/

/-- A contribution on its way at the combine buffer `place` of region `r` (0 to 19 a cluster router, 20 the region router), which
lies on its path (R220): checked at the port by which it comes, combined, held or sent on. -/
def State.routerContribution (s : State) (r place : Nat) (m : Msg) (flits : Errs) : State :=
  match portAt (if place < 20 then .router (20 * r + place) else .regionRouter r) (s.path m) with
  | none => s
  | some port =>
    if !s.isNext m || s.unreachable m then s
    else
      match { s with net := s.net.erase m }.portChecks m flits 0 [port] with
      | (t, false) => t
      | (t, true) =>
        if t.seq.phase = 7 then t
        else
          let held := (t.region r).combine
          let here := held.filter fun n => n.place == place
          let (rest, c) := absorb here.length here m
          let used := (rest.map fun n => flitsOf n.msg).sum
          let keep := held.filter fun n => n.place != place || rest.contains n
          if field (t.p1 r 5571) 0 8 = 0 ∨ 32 < used + flitsOf c then
            (t.updRegion r fun x => { x with combine := keep }).send c
          else t.updRegion r fun x => { x with combine := keep ++ [{ place := place, entry := 0, msg := c }] }

/-- A hold window ends: the contribution is forwarded. -/
def State.windowEnd (s : State) (r place i : Nat) : State :=
  match ((s.region r).combine.filter fun n => n.place == place)[i]? with
  | none => s
  | some n => (s.updRegion r fun x => { x with combine := x.combine.erase n }).send n.msg

/-! ### The plan (Table NET-9) -/

def State.planWord (s : State) (r e k : Nat) : Word := s.p1 r (6144 + 8 * e + k)
def State.planRows (s : State) (r e : Nat) : Nat := field (s.planWord r e 5) 12 4
def State.planForward (s : State) (r e : Nat) : Bool := field (s.planWord r e 5) 16 1 == 1
def State.planLo (s : State) (r e : Nat) : Nat := field (s.planWord r e 2) 0 24
def State.planHi (s : State) (r e : Nat) : Nat := field (s.planWord r e 3) 0 24
def State.planC (s : State) (r e : Nat) : Nat := field (s.planWord r e 1) 0 24
def waOf (lo hi : Word) : WAddr := BitVec.ofNat 48 (lo.toNat + field hi 0 12 * 2 ^ 36)

/-- The valid entries of a contribution's tensor, and those of them whose range contains its own. -/
def State.planOwn (s : State) (r : Nat) (m : Msg) : List Nat :=
  (List.range 512).filter fun e => field (s.planWord r e 0) 35 1 == 1 && field (s.planWord r e 0) 0 32 == rdTensor m
def State.planHits (s : State) (r : Nat) (m : Msg) : List Nat :=
  (s.planOwn r m).filter fun e => decide (s.planLo r e ≤ rdLo m ∧ rdHi m ≤ s.planHi r e)

/-- The entry that an arrival uses (R242 step 1). -/
def State.planEntry (s : State) (r : Nat) (m : Msg) : Option Nat :=
  match s.planHits r m with
  | [e] => some e
  | _ => none

/-- The code of a lookup that fails (R242 step 1). -/
def State.lookupFaults (s : State) (r : Nat) (m : Msg) : List Nat :=
  if s.planOwn r m = [] then [0x308]
  else
    match s.planHits r m with
    | [] => [0x306]
    | [_] => []
    | _ => [0x307]

/-- The fields of an arrival that do not agree with its entry (R242 step 3). -/
def State.entryFaults (s : State) (r e : Nat) (m : Msg) : List Nat :=
  if rdC m ≠ s.planC r e ∨ rdOp m ≠ field (s.planWord r e 0) 32 3 ∨ m.body.length ≠ s.planRows r e ∨
      (!s.planForward r e ∧ (s.planLo r e ≠ 0 ∨ s.planHi r e ≠ s.planC r e - 1)) then [0x307]
  else []

def sameBlock (a b : Msg) : Bool := rdTensor a == rdTensor b && rdBlock a == rdBlock b

/-- The fields of an arrival that do not agree with a node held of its block, whichever entry holds it (R242 step 3). -/
def State.heldFaults (s : State) (r : Nat) (m : Msg) : List Nat :=
  if (s.region r).nodes.any fun n => sameBlock n.msg m &&
      (rdC n.msg != rdC m || rdOp n.msg != rdOp m || n.msg.body.length != m.body.length) then [0x307] else []

/-- The checks of an arrival: the lowest code that applies, 0 for none (R242 steps 1 to 3, R246). -/
def State.planCheck (s : State) (r : Nat) (m : Msg) : Nat :=
  lowest (s.lookupFaults r m ++ (if nodeOk (rdLo m) (rdHi m) (rdC m) then [] else [0x306]) ++
    (if (s.region r).nodes.any fun n => sameBlock n.msg m && decide (rdLo n.msg ≤ rdHi m ∧ rdLo m ≤ rdHi n.msg) then [0x306] else []) ++
    (if decide (1 ≤ rdOp m ∧ rdOp m ≤ 4) && rdReservedOk m then [] else [0x307]) ++
    (match s.planEntry r m with
      | some e => s.entryFaults r e m
      | none => []) ++ s.heldFaults r m)

/-! ### The endpoint (R242, R243) -/

/-- The nodes of a block that one entry holds, or any entry. -/
def Node.ofBlock (n : Node) (entry : Option Nat) (m : Msg) : Bool := sameBlock n.msg m && entry.all (· == n.entry)

/-- A reduction error: recorded, raised, the step aborts and the block's slots are freed. An error that concerns no entry records a
value that the spec does not give. -/
def State.reduceError (s : State) (r : Nat) (m : Msg) (code : Nat) (entry : Option Nat) : State :=
  let s1 := s.setNodes r ((s.region r).nodes.filter fun n => !n.ofBlock entry m)
  let e := entry.getD (field (Config.unstated 1 s.root) 0 9)
  let s2 := s1.updP1 r 5573 fun w => putField (putField (putField w 0 12 code) 12 9 e) 21 2 3
  (s2.raise r code noSubject (s2.p1 r 5573).toNat).report (causeOf code 16383 none)

/-- The fault of writing the row at a linear offset of the destination's structure, 0 for none, judged at the write (R62, R242). -/
def State.blockFault (s : State) (dest : WAddr) (lin : Nat) : Nat :=
  let (a, pos) := rowOfLin (structOf dest) lin
  if s.linLimit dest < lin + 64 then (if spaceOf dest = .scratch then 0x123 else 0x125)
  else if spaceOf dest = .scratch then lowest ([s.waFault a].filter (· != 0) ++ (if pos ≠ 0 then [0x12B] else []))
  else lowest ([s.gatewayFault (waWellRegion a) a 1].filter (· != 0) ++ (if pos ≠ 0 then [0x174] else []))

/-- The endpoint's write of one row: a request to the unit's mover write port or to another region's gateway (Table ORG-9, R252). -/
def State.blockMsg (s : State) (r : Nat) (a : WAddr) (put nf : Bool) (tag : Nat) (d : Row) : Msg :=
  let own : Msg := { blankMsg with
    vc := 1, type := 1, nf := nf, srcRegion := r, srcKind := 2, tag := BitVec.ofNat 16 tag, srcModule := s.ownIndex, wa := a, body := [d] }
  if spaceOf a = .scratch then
    { own with
      dstRegion := regionOf (waUnit a), dstUnit := waUnit a, epoch := (s.region r).epochs.get 0 (waUnit a)
      akind := if put then 1 else 0 }
  else { own with dstRegion := waWellRegion a, dstKind := 2 }

/-- Writes the rows of a block from a linear offset on: those of the region's own well at once, others by requests, whose tags
are answered. -/
def State.blockRows (s : State) (r : Nat) (dest : WAddr) (put nf : Bool) : Nat → List Row → State × Nat × List Nat
  | _, [] => (s, 0, [])
  | lin, d :: ds =>
    let code := s.blockFault dest lin
    let a := (rowOfLin (structOf dest) lin).1
    if code ≠ 0 then (s, code, [])
    else if spaceOf dest = .well ∧ waWellRegion a = r then
      State.blockRows (s.wellWrite r (8 * waGranule a + waNonet a / 64) [d]) r dest put nf (lin + 64) ds
    else
      let tag := (s.region r).wtag
      let t := (s.updRegion r fun x => { x with wtag := (tag + 1) % 65536 }).send (s.blockMsg r a put nf tag d)
      let (v, st, tags) := State.blockRows t r dest put nf (lin + 64) ds
      (v, st, tag :: tags)

/-- A written block counts (R242, R282, R292). -/
def State.blockCounted (s : State) (r : Nat) (nf : Bool) : State :=
  let s1 := s.updP1 r 15369 fun w => bumpField w 0 24
  let s2 := if nf then s1.updP1 r 15367 fun w => putField w 4 1 1 else s1
  if field (s2.p1 r 15368) 0 24 < field (s2.p1 r 15369) 0 24 then s2.schedFault r 0x803 else s2

/-- Write mode: the root's rows go to block `b` of the destination. The block counts once every row has been written. -/
def State.writeBlock (s : State) (r e : Nat) (m : Msg) : State :=
  let dest := waOf (s.planWord r e 4) (s.planWord r e 5)
  let inv := lowest (waInvalid dest ++ (if spaceOf dest ≠ .scratch ∧ spaceOf dest ≠ .well then [0x307] else []))
  if inv ≠ 0 then s.reduceError r m inv (some e)
  else
    match s.blockRows r dest (field (s.planWord r e 5) 17 1 == 1) m.nf (linOf dest + 64 * s.planRows r e * rdBlock m) m.body with
    | (t, 0, []) => t.blockCounted r m.nf
    | (t, 0, tags) => t.updRegion r fun x => { x with writing := x.writing ++ [{ entry := e, msg := m, tags := tags }] }
    | (t, st, _) => (if spaceOf dest = .scratch then t.noteAlign (waUnit dest) st else t).reduceError r m st (some e)

/-- The answer to a write of the endpoint: the last one counts the block, a failed one is a reduction error. -/
def State.blockAnswer (s : State) (r tag status : Nat) : State :=
  match (s.region r).writing.find? fun w => w.tags.contains tag with
  | none => s
  | some w =>
    let others := (s.region r).writing.erase w
    let left := w.tags.erase tag
    if status ≠ 0 then (s.updRegion r fun x => { x with writing := others }).reduceError r w.msg status (some w.entry)
    else if left = [] then (s.updRegion r fun x => { x with writing := others }).blockCounted r w.msg.nf
    else s.updRegion r fun x => { x with writing := others ++ [{ w with tags := left }] }

/-- Forward mode: a node goes on to the next endpoint (R242, R328, R341). -/
def State.forwardNode (s : State) (r e : Nat) (m : Msg) : State :=
  let dest := waOf (s.planWord r e 6) (s.planWord r e 7)
  let mod := field (s.planWord r e 7) 12 12
  let own := mod == s.ownIndex.toNat
  s.send { m with
    srcRegion := r, srcUnit := 0, srcKind := 2, srcModule := s.ownIndex, epoch := 0, tag := 0, wa := dest,
    dstRegion := if own then waWellRegion dest else ringEntry r, dstUnit := if own then 0 else 31,
    dstKind := if own then 2 else 4, words := (List.range 5).map (fun j => m.word (5 + j)) ++ (if own then [] else [wd mod]) }

/-- Nodes sorted by their first contributor. -/
def insertNode (n : Node) : List Node → List Node
  | [] => [n]
  | k :: ks => if rdLo n.msg ≤ rdLo k.msg then n :: k :: ks else k :: insertNode n ks

/-- The block is complete: written or forwarded, and its slots freed, before its writes are acknowledged (DESIGN CHOICE, log 160). -/
def State.finishBlock (s : State) (r e : Nat) (mine : List Node) (m : Msg) : State :=
  let t := s.setNodes r ((s.region r).nodes.filter fun n => !n.ofBlock (some e) m)
  if s.planForward r e then (mine.foldr insertNode []).foldl (fun v n => v.forwardNode r e n.msg) t
  else
    match mine with
    | [n] => t.writeBlock r e n.msg
    | _ => t

/-- An arrival at the endpoint of region `r` (R242, R243). A sibling that another entry of the tensor holds stays there (DESIGN CHOICE,
log 160). -/
def State.endpointArrival (s : State) (r : Nat) (m0 : Msg) : State :=
  let m := contributionNf m0
  let code := s.planCheck r m
  if code ≠ 0 then s.reduceError r m code (s.planEntry r m)
  else
    match s.planEntry r m with
    | none => s
    | some e =>
      let all := (s.region r).nodes
      let held := all.filter fun n => n.ofBlock (some e) m
      let (rest, c) := absorb held.length held m
      if rest.length = held.length ∧ 4096 ≤ all.length then
        let t := s.updRegion r fun x => { x with heldIn := x.heldIn ++ [m], heldEpisode := true }
        if (s.region r).heldEpisode then t else t.raise r 0x035 noSubject (t.p1 r 5573).toNat
      else
        let mine := rest ++ [{ place := 21, entry := e, msg := c }]
        let t := s.setNodes r (all.filter (fun n => !n.ofBlock (some e) m) ++ mine)
        let n := (mine.map fun k => rdHi k.msg + 1 - rdLo k.msg).sum
        if n = s.planHi r e + 1 - s.planLo r e then t.finishBlock r e mine c else t

/-- Arrivals that were held for want of slots, once slots are free (R243), and not before (DESIGN CHOICE, log 160). -/
def State.retryHeld (s : State) (r : Nat) : Nat → State
  | 0 => s
  | k + 1 =>
    match (s.region r).heldIn with
    | [] => s.updRegion r fun x => { x with heldEpisode := false }
    | m :: ms =>
      if 4096 ≤ (s.region r).nodes.length then s
      else
        State.retryHeld ((s.updRegion r fun x => { x with heldIn := ms }).endpointArrival r m) r k

/-- A contribution for another module leaves over the links (R328, R341). -/
def State.redInject (s : State) (m : Msg) : State :=
  let kind := rdTensor m + rdOp m * 2 ^ 32 + rdBlock m * 2 ^ 35 + rdLo m * 2 ^ 59 + rdHi m * 2 ^ 83 + rdC m * 2 ^ 107 +
    m.body.length % 16 * 2 ^ 131 + waWellRegion m.wa * 2 ^ 135
  s.linkInject 6 3 m.nf (field (m.word 10) 0 12) kind ((List.range 8).map fun i => m.body.getD i 0)

/-- A contribution at its endpoint, or at the link engines. -/
def State.endpointContribution (s : State) (m : Msg) : State :=
  if m.dstKind = 4 then
    (if field (m.word 10) 0 12 = s.ownIndex.toNat then s.noRoute s.ownIndex.toNat else s.redInject m)
  else if m.dstKind = 2 then
    let t := s.endpointArrival m.dstRegion m
    if (t.region m.dstRegion).heldIn = [] then t else t.retryHeld m.dstRegion ((t.region m.dstRegion).heldIn.length + 1)
  else s

/-! ### Meanings -/

/-- A unit's contribution that is not in flight is sent now: its body is the rows of the unit's scratchpad from the row on that its tag
names, with the OR of their nf (R280, R298; DESIGN CHOICE, log 149). -/
def State.contribution (s : State) (m : Msg) : Msg :=
  if m.srcKind ≠ 0 ∨ s.net.contains m = true then m
  else
    let cells := (List.range m.body.length).map fun i => (s.unit m.srcUnit).cell (m.tag.toNat + i)
    { m with nf := cells.any (·.nf), body := cells.map (·.data) }

/-- A contribution at a router of its path or at its end; `flits` are the checks of the receiving ports (R223). -/
def execReductionContribution (place : RedPlace) (msg : Msg) (flits : Errs) (s : State) : Res :=
  let m := s.contribution msg
  if m.type ≠ 16 then onMsg m s
  else
    match place with
    | .clusterRouter c => guardRes (msgOk m && decide (c < 960)) (s.routerContribution (c / 20) (c % 20) m flits)
    | .regionRouter r => guardRes (msgOk m && decide (r < 48)) (s.routerContribution r 20 m flits)
    | .endpoint => onMsg m (s.arrive m flits fun t => some (t.endpointContribution m))

def execHoldWindowEnd (region : Nat) (place : RedPlace) (index : Nat) (s : State) : Res :=
  match place with
  | .clusterRouter c => guardRes (decide (region < 48 ∧ c < 960)) (s.windowEnd (c / 20) (c % 20) index)
  | .regionRouter r => guardRes (decide (region < 48 ∧ r < 48)) (s.windowEnd r 20 index)
  | .endpoint => onRegion region s

/-- A stream has starved for 65,536 NCLK: event 0x031, once for the episode (R228). -/
def State.dryNib (s : State) (r place port vc : Nat) : State :=
  let t := s.updP1 r 5570 fun w =>
    bumpField (putField (putField w 0 11 (place % 64 + port % 8 * 2 ^ 6 + vc % 4 * 2 ^ 9)) 23 2 3) 11 12
  t.raise r 0x031 noSubject (t.p1 r 5570).toNat

def execDryNib (region place port vc : Nat) (s : State) : Res :=
  guardRes (decide (region < 48 ∧ place < 43 ∧ port < 8 ∧ vc < 4)) (s.dryNib region place port vc)

end Sys2Proof.Machine
end

