-- ==== Sys2Proof/Machine/Landing.lean ====
section
/-! DEFINITION. The landing of weight packet granules (R331, R332) and what follows a landed granule: its count (R292), the end of a
restore (R372). Rows go to a gateway or to a mover write port as the write requests of a link engine; a granule counts when its
write has been acknowledged. -/

namespace Sys2Proof.Machine

/-! ### Landing entries (Table LNK-6) -/

def Landing.shard (e : Landing) : Nat := field e.w0 0 12
def Landing.first (e : Landing) : Nat := field e.w0 12 24
def Landing.count (e : Landing) : Nat := field e.w1 0 24
def Landing.kind (e : Landing) : Nat := field e.w1 24 1
def Landing.region (e : Landing) : Nat := field e.w1 25 6

/-- The landing entry of a kind that covers a block. -/
def State.landing (s : State) (kind shard block : Nat) : Option Landing :=
  (s.sys.landing.find? fun (_, e) => e.kind == kind && e.shard == shard &&
    decide (e.first ≤ block ∧ block < e.first + e.count)).map (·.2)

/-- The first granule of a weight entry's buffer `buf`. -/
def Landing.base (e : Landing) (buf : Nat) : Nat := if buf = 0 then field e.w2 0 27 else field e.w3 0 27

/-- cur_buf of a region (R268). -/
def State.curBuf (s : State) (r : Nat) : Nat := field (s.p1 r 14385) 0 1

/-- Where a granule of a carbon entry lies in a scratchpad. -/
def Landing.carbonAt (e : Landing) (block gkind : Nat) : WAddr :=
  BitVec.ofNat 48 (e.w2.toNat + field e.w3 0 12 * 2 ^ 36 + ((block - e.first) * 12 + gkind - 1) * 512)

/-! ### Writes of link engines -/

/-- A message of link engine `l` for a source module (R329). -/
def engineMsg (l : Nat) (src : BitVec 12) (nf : Bool) : Msg :=
  { blankMsg with srcRegion := linkRegion l, srcUnit := l, srcKind := 4, srcModule := src, nf := nf }

/-- The lowest tag that no request of a link engine on the wafer uses. -/
def State.freeWafer (s : State) : Nat :=
  let used := s.sys.served.map (·.wtag) ++ s.sys.granules.map (·.tag)
  ((List.range (used.length + 1)).find? fun t => !used.contains t).getD 0

/-- A granule is on its way to its place. -/
def State.landSend (s : State) (g : Landed) (m : Msg) : State :=
  (s.updSys fun y => { y with granules := y.granules ++ [g] }).send { m with type := 1, vc := 1, tag := BitVec.ofNat 16 g.tag }

/-! ### Landing (R332) -/

/-- A granule is dropped: event 0x408, and the step aborts. -/
def State.landingDrop (s : State) : State :=
  let t := s.seeBar 0x3080C 2
  (t.raiseFrom srcLink 0x408 0xFFFF (t.bar 0x3080C).toNat).report (causeOf 0x408 16383 none)

/-- A granule count of a region moves; past the expected value it is a schedule fault (R292). -/
def State.granuleCount (s : State) (r expected done : Nat) : State :=
  let t := s.updP1 r done fun w => bumpField w 0 27
  if field (t.p1 r expected) 0 27 < field (t.p1 r done) 0 27 then t.schedFault r 0x803 else t

/-- A delivered granule that module `src` sent, of the current step is landed by its kind: weights through the gateway of the entry's region, trailers at
the mover write port of the entry's unit, snapshots at the sequencer. `l` is the link engine; a module's own granules come from
engine 0 (DESIGN CHOICE, log 138). -/
def State.wgtLand (s : State) (l src : Nat) (nf : Bool) (shard block gkind step : Nat) (rows : List Row) : State :=
  let m := { engineMsg l (BitVec.ofNat 12 src) nf with body := rows }
  if step ≠ s.seq.sched.step.toNat % 65536 then s.landingDrop
  else if gkind = 13 then s.updSeq fun q => { q with snapIn := q.snapIn ++ [(shard, rows)] }
  else if gkind = 0 then
    match s.landing 0 shard block with
    | none => s.landingDrop
    | some e =>
      if 48 ≤ e.region then s.landingDrop else
      let g := e.base (1 - s.curBuf e.region) + (block - e.first)
      s.landSend { tag := s.freeWafer, shard := shard, block := block, gkind := 0, region := e.region, unit := 0, row := 0 }
        { m with dstRegion := e.region, dstKind := 2, wa := waWell e.region g }
  else
    match s.landing 1 shard block with
    | none => s.landingDrop
    | some e =>
      let wa := e.carbonAt block gkind
      if s.waFault wa ≠ 0 ∨ spaceOf wa ≠ .scratch then s.landingDrop
      else
        s.landSend { tag := s.freeWafer, shard := shard, block := block, gkind := gkind, region := e.region, unit := waUnit wa,
                     row := waOffset wa / 64 }
          { m with dstRegion := regionOf (waUnit wa), dstUnit := waUnit wa, wa := wa }

/-- A restore completes when every weight granule has landed: cur_buf flips (R372). -/
def State.restoreTail (s : State) : State :=
  match s.seq.restoring with
  | none => s
  | some (q, i) =>
    if s.regionsUp.all fun r => field (s.p1 r 15370) 0 27 == field (s.p1 r 15371) 0 27 then
      let s1 := s.forRegions fun t r => (t.updP1 r 14385 fun w => putField w 0 1 (1 - field w 0 1)).setP1 r 15371 0
      (s1.updSeq fun x => { x with restoring := none }).finish q i 0 false s.seq.sched.step.toNat
    else s

/-- The write of a granule has been answered: it counts, and a trailer granule is held until the blot point (R292). A place that
rejects it is an event of the link engine, and the step aborts. -/
def State.landAnswer (s : State) (m : Msg) (status : Nat) : State :=
  match s.sys.granules.find? fun g => g.tag == m.tag.toNat with
  | none => s
  | some g =>
    let t := s.updSys fun y => { y with granules := y.granules.erase g }
    if status ≠ 0 then
      (t.raiseFrom srcLink status (if g.gkind = 0 then 0xFFFF else g.unit) 0).report (causeOf status 16383 none)
    else if g.gkind = 0 then (t.granuleCount g.region 15370 15371).restoreTail
    else (t.updSeq fun q => { q with trailers := q.trailers ++ [(g.shard, g.block, g.gkind, g.unit, g.row)] }).granuleCount
      g.region 15372 15373

/-! ### Weight granules on the links (R289, R331) -/

/-- The kind fields of a WGT flit (Table LNK-4), from bit 80. -/
def State.wgtKind (s : State) (shard block gkind : Nat) (mcast : Bool) : Nat :=
  shard % 4096 + block % 2 ^ 24 * 2 ^ 12 + gkind % 16 * 2 ^ 36 + s.seq.sched.step.toNat % 65536 * 2 ^ 40 + mcast.toNat * 2 ^ 56

/-- A multicast granule at a module: landed if its entry says deliver, copied onto each link of out_mask (R331). It came on link `l`;
`d0` gives the dateline bit by link. -/
def State.wgtMulticast (s : State) (l : Nat) (f : Flit) (shard block step : Nat) (d0 : Nat → Nat) : State :=
  let e := s.sys.mcast.get 0 shard
  if field e 25 1 = 0 then s.landingDrop
  else
    let t := if field e 24 1 = 1 then s.wgtLand l (fSrc f) (fNf f) shard block 0 step f.payload else s
    ((List.range 24).filter fun k => e.toNat.testBit k).foldl (fun v k => v.linkOut k f (d0 k)) t

end Sys2Proof.Machine
end

