-- ==== Sys2Proof/Machine/Mxa.lean ====
section
/-! DEFINITION. The matrix array (spec/05): command checks, weight and accumulator loads, the sums of a row as it
enters, the exit, the fill gate and parity. -/

namespace Sys2Proof.Machine

open Sys2Proof.Num

/-! ### Command words (Table MXA-3) -/

def mxMode (b : Row) : Nat := blk b 4 0 4
def mxFmtA (b : Row) : Nat := blk b 4 4 4
def mxFmtW (b : Row) : Nat := blk b 4 8 4
def mxFmtOut (b : Row) : Nat := blk b 4 12 4
def mxRnd (b : Row) : Nat := blk b 4 16 3
def mxAccIn (b : Row) : Nat := blk b 4 19 2
def mxAccOut (b : Row) : Nat := blk b 4 21 2
def mxWMode (b : Row) : Nat := blk b 4 23 2
def mxGate (b : Row) : Bool := blk b 4 25 1 == 1
def mxM (b : Row) : Nat := blk b 8 0 10
def mxBase (b : Row) : Nat := blk b 8 10 9
def mxLoadCount (b : Row) : Nat := blk b 10 0 32

/-- The N18 family (Table MXA-1). -/
def mxN18 (b : Row) : Bool := mxFmtA b == 2
/-- Columns, and K per pass. -/
def mxK (b : Row) : Nat := if mxN18 b then 32 else 64
/-- ACC108 rows per entry (R140). -/
def mxRAcc (b : Row) : Nat := if mxN18 b then 7 else 13

/-- Wide rows per result row (R140). -/
def mxROut (b : Row) : Nat :=
  match mxFmtOut b, mxN18 b with
  | 5, _ => mxRAcc b
  | 3, false | 4, false => 4
  | 3, true | 4, true => 2
  | 2, false => 2
  | _, _ => 1

/-- The entry kind of a mode (Table MXA-2). -/
def mxKind (b : Row) : Kind :=
  match mxMode b with
  | 1 => .min
  | 2 => .max
  | 5 | 6 => .exact
  | _ => if mxN18 b then .window else .exact

/-! ### Checks (R135, R139, R142) -/

/-- The mode permits the formats (Table MXA-2). -/
def mxFormats (b : Row) : Bool :=
  let n9 := decide (mxFmtA b < 2 ∧ mxFmtW b < 2)
  let n18 := decide (mxFmtA b = 2 ∧ mxFmtW b = 2)
  let out (l : List Nat) : Bool := mxAccOut b == 0 || l.contains (mxFmtOut b)
  match mxMode b with
  | 0 | 3 | 4 => (n9 && out [0, 1, 2, 3, 4, 5]) || (n18 && out [2, 3, 4])
  | 1 | 2 => n18 && out [2, 3]
  | 5 | 6 => (n9 || n18) && out [0, 1, 2, 3, 4, 5]
  | _ => false

/-- Reserved values, unlisted combinations and unused fields that are not zero: 0x141 (R135, R139). The value 3 of acc_in, acc_out,
w_mode, a_kind, w_kind and acc_kind is taken as a reserved combination (DEDUCED, log 117). -/
def mxIllegal (b : Row) : Bool :=
  !mxFormats b || decide (6 ≤ mxRnd b) || mxAccIn b == 3 || mxAccOut b == 3 || mxWMode b == 3 || blk b 5 26 2 == 3 ||
    blk b 6 26 2 == 3 || blk b 9 22 2 == 3 ||
    (mxWMode b != 1 && wordOf b 6 != 0) || (mxAccOut b == 0 && (wordOf b 7 != 0 || mxFmtOut b != 0)) ||
    (mxAccIn b != 2 && (wordOf b 9 != 0 || wordOf b 10 != 0)) || (!mxGate b && wordOf b 11 != 0) ||
    (mxRnd b != 4 && mxRnd b != 5 && [12, 13, 14, 15].any fun j => wordOf b j != 0) ||
    (mxAccOut b == 1 && mxFmtOut b == 5) || (mxAccOut b == 2 && mxFmtOut b != 5)

/-- A reserved field of words 4 to 15 is not zero: 0x135 (R139, R117). -/
def mxReserved (b : Row) : Bool :=
  above b 4 26 || above b 5 28 || above b 6 28 || above b 7 23 || above b 8 19 || above b 9 24 || above b 10 32 ||
    above b 11 16 || above b 12 32 || above b 14 28

def mxASpan (b : Row) (u : Nat) : Span := { unit := mate u (blk b 5 22 4), off := blk b 5 0 22, rows := mxM b }
def mxWSpan (b : Row) (u : Nat) : Span := { unit := mate u (blk b 6 22 4), off := blk b 6 0 22, rows := mxK b }
def mxAccSpan (b : Row) (u : Nat) : Span := { unit := u, off := blk b 9 0 22, rows := mxRAcc b * mxM b }
def mxOutSpan (b : Row) (u : Nat) : Span := { unit := u, off := blk b 7 0 22, rows := mxROut b * mxM b }

/-- The kind, start and count of entry `e` once the rows that the command in progress still admits have entered
(R142). -/
def Mxa.projected (m : Mxa) (e : Nat) : Entry :=
  let old := m.entries.get Entry.reset e
  match m.cur with
  | none => old
  | some c =>
    if mxBase c.block + c.entered ≤ e ∧ e < mxBase c.block + mxM c.block then
      let k := mxK c.block
      { old with kind := mxKind c.block, started := true, count :=
          match mxAccIn c.block with
          | 0 => k
          | 2 => mxLoadCount c.block + k
          | _ => old.count + k }
    else old

/-- The statuses that a command's checks give (R142). -/
def State.mxFaults (s : State) (u : Nat) (b : Row) : List Nat :=
  let x := (s.unit u).mxa
  let es := (List.range (mxM b)).map fun i => x.projected (mxBase b + i)
  let spans := [mxASpan b u] ++ (if mxWMode b = 1 then [mxWSpan b u] else []) ++
    (if mxAccIn b = 2 then [mxAccSpan b u] else [])
  let m := mxM b
  let fits := decide (1 ≤ m ∧ m ≤ 512 ∧ mxBase b + m ≤ 512)
  (if mxReserved b then [0x135] else []) ++ (if mxIllegal b then [0x141] else []) ++
    (spans.flatMap (s.spanFaults 0x142)) ++ (if mxAccOut b ≠ 0 then s.spanFaults 0x142 (mxOutSpan b u) else []) ++
    (if fits then [] else [0x143]) ++
    (if (mxAccIn b = 1 ∧ fits ∧ es.any fun e => !(e.started && e.kind == mxKind b)) ∨
        (mxAccIn b = 2 ∧ mxKind b ≠ .exact) then [0x144] else []) ++
    (if mxWMode b = 0 ∧ !(x.active.any fun w => w.n18 == mxN18 b && w.fmt == mxFmtW b) then [0x145] else []) ++
    (if (mxAccIn b = 2 ∧ 2 ^ 32 < mxLoadCount b + mxK b) ∨
        (mxAccIn b = 1 ∧ fits ∧ es.any fun e => decide (2 ^ 32 < e.count + mxK b)) then [0x146] else []) ++
    (if mxAccOut b ≠ 0 ∧ (spans ++ [({ unit := u, off := cplOffset b, rows := 1 } : Span)]).any (mxOutSpan b u).meets
      then [0x147] else []) ++
    (if mxGate b ∧ (mxAccIn b ≠ 0 ∨ mxAccOut b = 0 ∨ blk b 5 26 2 = 0 ∨ blk b 11 0 16 = 0) then [0x148] else [])

/-! ### Ink line of a unit (Table WEL-7) -/

/-- Index of word `k` of line entry `l`. -/
def lineIdx (l k : Nat) : Nat := 14400 + 8 * l + k
def State.lineValid (s : State) (r l : Nat) : Bool := field (s.p1 r (lineIdx l 0)) 5 1 == 1
def State.lineLen (s : State) (r l : Nat) : Nat := field (s.p1 r (lineIdx l 0)) 0 5
/-- The logical unit at a position of a line. -/
def State.lineUnit (s : State) (r l pos : Nat) : Nat := 320 * r + field (s.p1 r (lineIdx l (1 + pos / 4))) (9 * (pos % 4)) 9
/-- The valid line that a unit belongs to, and its position there. -/
def State.lineOf (s : State) (u : Nat) : Option (Nat × Nat) :=
  let r := regionOf u
  ((List.range 80).filter (s.lineValid r)).findSome? fun l =>
    ((List.range (s.lineLen r l)).find? fun p => s.lineUnit r l p == u).map fun p => (l, p)

/-! ### Taking a command (R142, R147) -/

/-- Puts a completion behind the others. -/
def State.mxComplete (s : State) (u : Nat) (c : Cpl) : State :=
  s.updUnit u fun x => { x with mxa := { x.mxa with cpls := x.mxa.cpls ++ [c] } }

/-- The command in progress has ended: the next one follows, or completes at once if it was rejected (R147) or a load of its
weights has failed (R481). Words 1 to 3 are 0 for a rejected command; where a load has failed, word 2 is 1 for an ungated command
and words 1 and 3 are 0 (DESIGN CHOICE, log 118). `plan` gives the planned cycle of a completion put (R148). -/
def Mxa.promote (plan : Row → Int) (m : Mxa) : Mxa :=
  match m.nxt with
  | some c =>
    if c.code = 0 then { m with cur := some c, nxt := none }
    else { m with cur := none, nxt := none, cpls := m.cpls ++
      [mkCpl c.block c.seq c.code false 0 (if c.rejected then 0 else wd c.passes) 0
        (if c.rejected then none else some (plan c.block))] }
  | none => { m with cur := none }

/-- The array can take a command (R147). -/
def Mxa.canTake (m : Mxa) : Bool :=
  m.nxt.isNone && decide (m.cpls.length < 4) &&
    (match m.cur with
      | none => true
      | some c => decide (0 < c.entered))

/-- The row of the opcode table that a mode belongs to: reserved modes go with MAC (log 17). -/
def mxRow (mode : Nat) : Nat := if mode < 7 then mode else 0

/-- The array takes the oldest command of its queue, if it is one of mode `mode` (R142, R147). -/
def State.mxTake (s : State) (u mode : Nat) (e : Ecc) : State :=
  let x := s.unit u
  match x.mxa.queue with
  | [] => s
  | q :: rest =>
    if !x.mxa.canTake || (decide (e ≠ .uncorrectable) && mxRow (mxMode (x.cell (q.offset / 64)).data) != mode) then s
    else
      let pop (t : State) : State := t.updUnit u fun y => { y with mxa := { y.mxa with queue := rest } }
      match s.takeBlock u 0 q e with
      | .waits t => t
      | .dropped t => pop t
      | .block t0 b code =>
        let t := pop t0
        let ink := if mxWMode b = 2 ∧ (t.lineOf u).isNone then [0x175] else []
        let status := if code ≠ 0 then code else lowest (t.mxFaults u b ++ ink)
        if status ≠ 0 ∧ (t.unit u).mxa.cur.isNone then
          (t.noteAlign u status).mxComplete u (mkCpl b q.seq status false 0 0 0 none)
        else
          let c : MxaCmd :=
            { block := b, code := status, rejected := status != 0, seq := q.seq, entered := 0, takenAt := s.aclkOf (clusterOf u), firstCycle := 0, passes := if mxGate b then 0 else 1, passLeft := 0,
              nf := false, loaded := 0, accBuf := [], accNf := false }
          (t.noteAlign u status).updUnit u fun y =>
            { y with mxa := if y.mxa.cur.isNone then { y.mxa with cur := some c } else { y.mxa with nxt := some c } }

def execMac (unit : Nat) (block : Ecc) (s : State) : Res := onUnit unit (s.mxTake unit 0 block)
def execMinPlus (unit : Nat) (block : Ecc) (s : State) : Res := onUnit unit (s.mxTake unit 1 block)
def execMaxPlus (unit : Nat) (block : Ecc) (s : State) : Res := onUnit unit (s.mxTake unit 2 block)
def execL1 (unit : Nat) (block : Ecc) (s : State) : Res := onUnit unit (s.mxTake unit 3 block)
def execSquaredDifference (unit : Nat) (block : Ecc) (s : State) : Res := onUnit unit (s.mxTake unit 4 block)
def execCompareCountLess (unit : Nat) (block : Ecc) (s : State) : Res := onUnit unit (s.mxTake unit 5 block)
def execCompareCountLessOrEqual (unit : Nat) (block : Ecc) (s : State) : Res := onUnit unit (s.mxTake unit 6 block)

/-! ### Arithmetic of a row (R135-R138, R149) -/

/-- A cell term (Table MXA-2), exact. -/
def mxTerm (mode : Nat) (a w : Val) : Val :=
  match mode with
  | 0 => prod a w
  | 1 | 2 => sum a w
  | 3 => abs (sum a (neg w))
  | 4 => let d := sum a (neg w); prod d d
  | 5 => ofInt (if lt a w then 1 else 0)
  | _ => ofInt (if le a w then 1 else 0)

/-- Adds a term to an accumulator of a kind. -/
def mxAdd (k : Kind) (acc : Acc) (t : Val) : Acc :=
  match k with
  | .exact => acc.addExact t
  | .window => acc.addWindow t
  | .min => acc.addMinMax false t
  | .max => acc.addMinMax true t

/-- The terms of a column enter in ascending cell row (R137). -/
def mxColumn (mode : Nat) (k : Kind) (acc : Acc) : List Val → List Val → Acc
  | a :: as, w :: ws => mxColumn mode k (mxAdd k acc (mxTerm mode a w)) as ws
  | _, _ => acc

/-- A row's elements as values. -/
def rowVals (fmt n : Nat) (r : Row) : List Val := (List.range n).map fun j => decode fmt (elemCode fmt r j)

/-- The sums set the non-finite flag (R39): a non-finite operand; in min-plus and max-plus only a NaN operand or
term. -/
def mxFlag (mode : Nat) (as : List Val) (ws : List (List Val)) : Bool :=
  if mode = 1 ∨ mode = 2 then
    as.any Val.isNan || ws.any (·.any Val.isNan) ||
      (as.zip ws).any fun p => p.2.any fun w => (sum p.1 w).isNan
  else as.any Val.nonFinite || ws.any (·.any Val.nonFinite)

/-- Accumulator `n` of an entry (R132). -/
def Entry.col (e : Entry) (n : Nat) : Acc := e.acc.getD n (Acc.start e.kind)

/-- An entry started for a kind (R132, R138). -/
def Entry.begin (k : Kind) : Entry :=
  { kind := k, count := 0, started := true, acc := List.replicate 64 (Acc.start k) }

/-- The entry after an activation row has been summed into it. -/
def Entry.take (e : Entry) (mode cols : Nat) (as : List Val) (ws : List (List Val)) : Entry :=
  { e with
    count := e.count + as.length
    acc := (List.range 64).map fun n =>
      if n < cols then mxColumn mode e.kind (e.col n) as (ws.map fun w => w.getD n .nan) else e.col n }

/-- Accumulators of an entry as ACC108 rows (R140, R38). -/
def accRows (cols : Nat) (e : Entry) : List Row :=
  (List.range ((cols + 4) / 5)).map fun j =>
    let accs := (List.range 5).map fun t => if 5 * j + t < cols then e.col (5 * j + t) else ⟨0, 0⟩
    let bits := packCodes 12 (accs.map fun a => a.bits.toNat)
    let sides := accs.foldr (fun a acc => acc * 8 + a.side.toNat) 0
    BitVec.ofNat 576 (bits + sides * 2 ^ 540)

/-- An entry loaded from ACC108 rows (R149). -/
def accLoad (cols count : Nat) (rows : List Row) : Entry :=
  { kind := .exact, count := count, started := true,
    acc := (List.range 64).map fun n =>
      if n < cols then
        let r := rows.getD (n / 5) 0
        { bits := r.extractLsb' (108 * (n % 5)) 108, side := r.extractLsb' (540 + 3 * (n % 5)) 3 }
      else Acc.start .exact }

/-- The result rows of an entry and the flag of the exit (R140, R141, R149). `i` is the result row. -/
def mxResult (x : Unit) (b : Row) (e : Entry) (i : Nat) : List Row × Bool :=
  let cols := mxK b
  if mxAccOut b = 2 then (accRows cols e, (List.range cols).any fun n => (e.col n).side != 0)
  else
    let fmt := mxFmtOut b
    let base := blk b 13 0 36 + blk b 14 0 28 * 2 ^ 36 + i * (wordOf b 15).toNat
    let outs := (List.range cols).map fun n =>
      (e.col n).exit e.kind fmt (mxRnd b) (x.random (mxRnd b) (blk b 12 0 32) (base + n))
    let big := packCodes (size fmt) (outs.map (·.1))
    ((List.range (mxROut b)).map fun t => rowAt big t, outs.any (·.2))

/-! ### Deadlines (R148) -/

/-- The intake pace r (R145). -/
def mxPace (b : Row) : Nat := if mxAccOut b = 0 then 1 else mxROut b

/-- The planned cycles of activation row `i`, ACC108 row `k`, weight row `j`, of the result rows of activation row `i`, and of the
completion put. -/
def State.mxPlanA (s : State) (u : Nat) (b : Row) (i : Nat) : Int := s.planOf u b + (mxPace b * i : Nat)
def State.mxPlanAcc (s : State) (u : Nat) (b : Row) (k : Nat) : Int := s.planOf u b - (mxM b * mxRAcc b : Nat) + k
def State.mxPlanW (s : State) (u : Nat) (b : Row) (j : Nat) : Int := s.planOf u b - 64 + j
def State.mxPlanOut (s : State) (u : Nat) (b : Row) (i : Nat) : Int := s.mxPlanA u b i + 136
/-- One cycle after the last result deadline. A command with acc_out = 0 has no result deadline; its completion takes the cycle that
the same formula gives for its last activation row at r = 1 (DESIGN CHOICE, log 156). -/
def State.mxPlanCpl (s : State) (u : Nat) (b : Row) : Int := s.mxPlanOut u b (mxM b - 1) + 1

/-! ### Row entry (R144-R149, R152, R481) -/

/-- Ends a matrix array command with a status (R481): its requests and queued rows are dropped and the next command follows. A
shadow set that loads belongs to the command whose row 0 has not entered. Before row 0 word 3 is 0, and word 2 is 1 for an ungated
command (DESIGN CHOICE, log 118). -/
def State.mxFail (s : State) (u : Nat) (c : MxaCmd) (status : Nat) : State :=
  (s.updUnit u fun x => { x with inkStalled := x.inkStalled && c.entered != 0, mxa := Mxa.promote (s.mxPlanCpl u) { x.mxa with
    shadow := if c.entered = 0 then none else x.mxa.shadow
    outq := x.mxa.outq.filter fun r => r.seq ≠ c.seq,
    cpls := x.mxa.cpls ++
      [mkCpl c.block c.seq status c.nf (wd c.entered) (wd c.passes) c.firstCycle (some (s.mxPlanCpl u c.block))] } }).leavePorts u
    (if c.entered = 0 then [0, 1, 4] else [0, 4])

/-- Loads the rest of a weight set from the scratchpad into the shadow, through the weight load port (R134, R144, R146). `idx` numbers
the accesses of the command's row. -/
def State.mxWeights (s : State) (u : Nat) (b : Row) (errs : Errs) (idx : Nat) : Nat → Load
  | 0 => .ready s idx
  | fuel + 1 =>
    let sh : WSet := (s.unit u).mxa.shadow.getD { rows := [], n18 := mxN18 b, fmt := mxFmtW b, nf := false }
    let n := sh.rows.length
    if mxK b ≤ n then .ready s idx
    else
      let v := (mxWSpan b u).unit
      let q := blk b 6 0 22 / 64 + n
      match s.engineAccess u v q (kindOf (blk b 6 26 2))
          { port := 1, plan := s.mxPlanW u b n - latency u v q, hold := cmdHold b,
            keep := decide (n + 1 < mxK b) && sameBank v q v (q + 1) } 0 false (errAt errs idx) with
      | (t, .wait) => .wait t (idx + 1)
      | (t, .done 0 d nf) =>
        State.mxWeights (t.updUnit u fun x => { x with mxa := { x.mxa with
          shadow := some { sh with rows := sh.rows ++ [d], nf := sh.nf || nf } } }) u b errs (idx + 1) fuel
      | (t, .done st _ _) => .fail t st

/-- Ink rows that go on into a set, from its row `j` on: each carries the number of its place, and the last alone the mark. -/
def inkFits (n : Nat) (rows : List InkRow) (j : Nat) : Bool :=
  rows.zipIdx.all fun (r, i) => r.row == j + i && r.last == (j + i + 1 == n)

/-- Rows of the ink buffer move into the shadow as they are there (R146); the R-th of them settles whether the set is one tile of the
command's family (R264). -/
def State.mxInk (s : State) (u : Nat) (b : Row) (idx : Nat) : Load :=
  let x := s.unit u
  let n := mxK b
  let sh : WSet := x.mxa.shadow.getD { rows := [], n18 := mxN18 b, fmt := mxFmtW b, nf := false }
  if n ≤ sh.rows.length then .ready s idx
  else
    let rows := x.ink.take (n - sh.rows.length)
    let set : WSet := { sh with rows := sh.rows ++ rows.map (·.data), bad := sh.bad || !inkFits n rows sh.rows.length }
    let t := s.setUnit u { x with ink := x.ink.drop rows.length, inkStalled := x.inkStalled && decide (set.rows.length < n)
                                  mxa := { x.mxa with shadow := some set } }
    if set.rows.length < n then .wait t idx else if set.bad then .fail t 0x176 else .ready t idx

/-- Changes the command in progress. -/
def State.mxCur (s : State) (u : Nat) (f : MxaCmd → MxaCmd) : State :=
  s.updUnit u fun x => { x with mxa := { x.mxa with cur := x.mxa.cur.map f } }

/-- Activation row `i` is at the bank of row `q`, so the activation input port goes on presenting (R85). -/
def mxNextA (b : Row) (u v q i : Nat) : Bool := sameBank v q (mxASpan b u).unit (blk b 5 0 22 / 64 + i)

/-- Loads the rest of the ACC108 rows of a command, through the activation input port (R144, R145, R149). -/
def State.mxAccs (s : State) (u : Nat) (b : Row) (errs : Errs) (idx : Nat) : Nat → Load
  | 0 => .ready s idx
  | fuel + 1 =>
    match (s.unit u).mxa.cur with
    | none => .ready s idx
    | some c =>
      if mxRAcc b * mxM b ≤ c.loaded then .ready s idx
      else
        let q := blk b 9 0 22 / 64 + c.loaded
        match s.engineAccess u u q (kindOf (blk b 9 22 2))
            { port := 0, plan := s.mxPlanAcc u b c.loaded - latency u u q, hold := cmdHold b,
              keep := if c.loaded + 1 < mxRAcc b * mxM b then sameBank u q u (q + 1) else mxNextA b u u q 0 } 0 false
            (errAt errs idx) with
        | (t, .wait) => .wait t (idx + 1)
        | (t, .done 0 d nf) =>
          let buf := c.accBuf ++ [d]
          let whole := buf.length == mxRAcc b
          let put (m : Sparse Entry) : Sparse Entry :=
            m.set Entry.reset (mxBase b + c.loaded / mxRAcc b) (accLoad (mxK b) (mxLoadCount b) buf)
          let t1 := if whole then t.updUnit u fun x => { x with mxa := { x.mxa with entries := put x.mxa.entries } } else t
          State.mxAccs (t1.mxCur u fun y =>
            { y with loaded := y.loaded + 1, accBuf := if whole then [] else buf, accNf := y.accNf || nf }) u b errs
            (idx + 1) fuel
        | (t, .done st _ _) => .fail t st

/-- The weight set and the ACC108 rows of a command whose row 0 has not entered (R145, bound 1). The reads of the three ports are
made, and numbered, weights first, then ACC108 rows, then activation row 0 (DESIGN CHOICE, log 119). -/
def State.mxPrepare (s : State) (u : Nat) (c : MxaCmd) (errs : Errs) : Load :=
  let b := c.block
  if c.entered ≠ 0 then .ready s 0
  else
    let have0 : Load :=
      match mxWMode b with
      | 1 => s.mxWeights u b errs 0 65
      | 2 => s.mxInk u b 0
      | _ => .ready s 0
    match have0 with
    | .ready t i => if mxAccIn b = 2 then t.mxAccs u b errs i (mxRAcc b * mxM b + 1) else .ready t i
    | l => l

/-- Row 0 enters: the shadow swaps into the active set, the slip check is made (R146, R148). -/
def State.mxFirst (s : State) (u : Nat) (c : MxaCmd) : State :=
  let s1 := s.updUnit u fun x =>
    { x with mxa := if mxWMode c.block = 0 then x.mxa else { x.mxa with active := x.mxa.shadow, shadow := none } }
  (s1.mxCur u fun y => { y with firstCycle := (s.cycle u).setWidth 36 }).checkpoint u (plannedStart c.block)

/-- A parity mismatch: the column is recorded and the command ends with 0x223 (R152, R153). -/
def State.mxParity (s : State) (u : Nat) (c : MxaCmd) (col : Nat) : State :=
  let rg := regionOf u
  let i := 4608 + u % 320
  let s1 := s.updP1 rg i fun w => putField (putField (putField (bumpField w 0 16) 16 6 col) 22 1 1) 23 1 1
  (s1.mxFail u c 0x223).parityStop u 0x223 3 i

/-- An activation row has been read: it enters, is summed, and its result is queued (R145, R147, R149). -/
def State.mxAdmit (s : State) (u : Nat) (c : MxaCmd) (d : Row) (nf : Bool) (parity : Option Nat) : State :=
  let b := c.block
  let i := c.entered
  let s1 := if i = 0 then s.mxFirst u c else s
  let s2 := s1.mxCur u fun y => { y with entered := i + 1, passLeft := y.passLeft - 1 }
  let x := s2.unit u
  match x.mxa.cur, parity with
  | some c2, some col => s2.mxParity u c2 col
  | none, _ => s2
  | some c2, none =>
    let set := x.mxa.active.getD { rows := [], n18 := false, fmt := 0, nf := false }
    let n := mxK b
    let as := rowVals (mxFmtA b) n d
    let ws := set.rows.map (rowVals set.fmt n)
    let e0 := if mxAccIn b = 0 then Entry.begin (mxKind b) else x.mxa.entries.get Entry.reset (mxBase b + i)
    let e := e0.take (mxMode b) n as ws
    let loadedNf := mxAccIn b == 2 && (List.range n).any fun j => (e0.col j).side != 0
    let (rows, outNf) := if mxAccOut b = 0 then ([], false) else mxResult x b e i
    let rowNf := nf || set.nf || c2.accNf || loadedNf || mxFlag (mxMode b) as ws || outNf
    let outs := rows.zipIdx.map fun (r, t) =>
      ({ seq := c2.seq, offset := blk b 7 0 22 + 64 * (mxROut b * i + t), put := blk b 7 22 1 == 1, data := r, nf := rowNf,
         elems := 0, plan := s.mxPlanOut u b i, hold := cmdHold b, ready := s.aclkOf (clusterOf u) + 128 } : OutRow)
    let c3 := { c2 with nf := c2.nf || rowNf }
    let ended := i + 1 == mxM b
    let m := { x.mxa with entries := x.mxa.entries.set Entry.reset (mxBase b + i) e, outq := x.mxa.outq ++ outs }
    let m2 := if ended then
        Mxa.promote (s.mxPlanCpl u) { m with
          cpls := m.cpls ++ [mkCpl b c3.seq 0 c3.nf (wd (i + 1)) (wd c3.passes) c3.firstCycle (some (s.mxPlanCpl u b))] }
      else { m with cur := some c3 }
    (s2.setUnit u { x with mxa := m2 }).noteNf u rowNf

/-- The output queue is full: eight rows are ready and not written (R147). -/
def Unit.mxFull (x : Unit) (c : Nat) : Bool := decide (8 ≤ (x.mxa.outq.filter fun r => decide (r.ready ≤ c)).length)

/-- The next activation row enters, once the loads before it are complete, its data is there, the output queue has room and, for a
gated command, a pass is running (R145, R147, R150). While there is no room the activation port presents no request, so its grant
ends (R85). The second part counts the accesses made. -/
def State.mxEnter (s : State) (u : Nat) (errs : Errs) (parity : Option Nat) : State × Nat :=
  match (s.unit u).mxa.cur with
  | none => (s, 0)
  | some c =>
    let b := c.block
    match s.mxPrepare u c errs with
    | .wait t i => (t, i)
    | .fail t st => (t.mxFail u c st, 0)
    | .ready t i =>
      if mxAccOut b ≠ 0 ∧ (t.unit u).mxFull (t.aclkOf (clusterOf u)) = true then (t.leavePorts u [0], i)
      else if mxGate b ∧ c.passLeft = 0 then (t, i)
      else
        let v := (mxASpan b u).unit
        let q := blk b 5 0 22 / 64 + c.entered
        let more := decide (c.entered + 1 < mxM b) && (!mxGate b || decide (1 < c.passLeft))
        match t.engineAccess u v q (kindOf (blk b 5 26 2))
            { port := 0, plan := t.mxPlanA u b c.entered - latency u v q, hold := cmdHold b,
              keep := more && mxNextA b u v q (c.entered + 1) } 0 false (errAt errs i) with
        | (t1, .wait) => (t1, i + 1)
        | (t1, .done 0 d nf) =>
          match (t1.unit u).mxa.cur with
          | none => (t1, i + 1)
          | some c1 => (t1.mxAdmit u c1 d nf parity, i + 1)
        | (t1, .done st _ _) => (t1.mxFail u c st, i + 1)

/-- The weight set of the next command loads while the rows of the command before it enter (R146, R147). A failing read makes that
command one that completes with the status when its turn comes (R481). -/
def State.mxAhead (s : State) (u : Nat) (errs : Errs) (idx : Nat) : State :=
  match (s.unit u).mxa.cur, (s.unit u).mxa.nxt with
  | some c, some n =>
    if c.entered = 0 ∨ n.code ≠ 0 then s
    else
      let got : Load :=
        match mxWMode n.block with
        | 1 => s.mxWeights u n.block errs idx 65
        | 2 => s.mxInk u n.block idx
        | _ => .ready s idx
      match got with
      | .ready t _ => t
      | .wait t _ => t
      | .fail t st =>
        (t.updUnit u fun x => { x with mxa := { x.mxa with shadow := none, nxt := some { n with code := st } } }).leavePorts u [1]
  | _, _ => s

/-- One cycle of the array's inputs. -/
def State.mxInputs (s : State) (u : Nat) (errs : Errs) (parity : Option Nat) : State :=
  let (t, i) := s.mxEnter u errs parity
  t.mxAhead u errs i

def execMxaRowEntry (unit : Nat) (errs : Errs) (parity : Option Nat) (s : State) : Res :=
  onUnit unit (s.mxInputs unit errs parity)

/-- A result write has failed: the command ends with the status, or its waiting completion takes it (R481). -/
def State.mxWriteFailed (s : State) (u : Nat) (seq : Word) (status : Nat) : State :=
  let m := (s.unit u).mxa
  let fix (c : Cpl) : Cpl := if c.seq = seq then { c with status := BitVec.ofNat 12 status } else c
  match m.cur with
  | some c =>
    if c.seq = seq then s.mxFail u c status
    else s.updUnit u fun x => { x with mxa := { m with cpls := m.cpls.map fix, outq := m.outq.filter fun r => r.seq ≠ seq } }
  | none =>
    s.updUnit u fun x => { x with mxa := { m with cpls := m.cpls.map fix, outq := m.outq.filter fun r => r.seq ≠ seq } }

/-- A completion put is due, and not parked, ahead of result rows of later commands (R147). -/
def Unit.mxPutFirst (x : Unit) (seq : Word) : Bool :=
  match x.mxa.cpls with
  | [] => false
  | c :: _ =>
    c.seq != seq && !(x.mxa.outq.any (·.seq == c.seq)) &&
      !((x.bank (c.offset / 64 / 3072)).parked.any fun q => q.own && q.acc.port == 4 && q.acc.offset == c.offset && !q.woken)

/-- The oldest result row is written through the result output port; a put waits while its row is full (R147). The command comes when
that row is ready, so it stands for the end of the row's 128 ACLK; the output queue is the first eight of the rows that are ready by
then, and the further rows of a wide result follow as those are written (DEDUCED, log 120). -/
def State.mxWrite (s : State) (u : Nat) : State :=
  match (s.unit u).mxa.outq with
  | [] => s
  | r :: rest =>
    if (s.unit u).mxPutFirst r.seq then s
    else
      let q := r.offset / 64
      match s.engineAccess u u q (if r.put then .put else .plainWrite)
          { port := 4, plan := r.plan, hold := r.hold, keep := rest.head?.any fun n => sameBank u q u (n.offset / 64) } r.data r.nf .clean with
      | (t, .wait) => t
      | (t, .done 0 _ _) => t.updUnit u fun x => { x with mxa := { x.mxa with outq := rest } }
      | (t, .done st _ _) => t.mxWriteFailed u r.seq st

def execMxaResultWrite (unit : Nat) (s : State) : Res := onUnit unit (s.mxWrite unit)

/-! ### Fill gate (R150) -/

/-- Rows full from row `q` on, at most `n`; a free row counts as full (R77, R150). -/
def Unit.fullRun (x : Unit) (q : Nat) : Nat → Nat
  | 0 => 0
  | n + 1 => if (x.cell q).admits .peek then Unit.fullRun x (q + 1) n + 1 else 0

/-- A gated command starts a pass over the run of full rows: all of the next 64 or of those that remain are full, or
the first is and gate_wait has passed (R150). -/
def State.fillGate (s : State) (u : Nat) (waited : Bool) : State :=
  match (s.unit u).mxa.cur with
  | none => s
  | some c =>
    let b := c.block
    let n := min 64 (mxM b - c.entered)
    let run := (s.unit (mxASpan b u).unit).fullRun (blk b 5 0 22 / 64 + c.entered) n
    if mxGate b ∧ c.passLeft = 0 ∧ 0 < run ∧ (run = n ∨ waited) then
      s.mxCur u fun y => { y with passLeft := run, passes := y.passes + 1 }
    else s

def execFillGatePass (unit : Nat) (waited : Bool) (s : State) : Res := onUnit unit (s.fillGate unit waited)

end Sys2Proof.Machine
end

