-- ==== Sys2Proof/Machine/Answers.lean ====
section
/-! DEFINITION. Answers to requests and sync operations (R213, R225, R237, R329), epoch updates (R51, R230), event records,
and the sync operations as messages (Table NET-8). -/

namespace Sys2Proof.Machine

/-! ### Read responses, acknowledgements, errors -/

/-- A row read for another module has arrived at a link engine: the last one sends WRS (R329). -/
def State.servedRow (s : State) (m : Msg) : State :=
  match s.servedFor m with
  | none => s
  | some v =>
    let q := 8 * waGranule m.wa + waNonet m.wa / 64
    let w := { v with rows := (v.rows.filter fun p => p.1 != q) ++ [(q, m.body.headD 0)] }
    let t := s.updSys fun y => { y with served := y.served.map fun k => if k = v then w else k }
    if w.rows.length < w.count then t
    else t.answerServed w 2 0 ((List.range 8).map fun i => ((w.rows.find? fun p => p.1 == w.first / 8 * 8 + i).map (·.2)).getD 0)

def execReadResponse (m : Msg) (flits : Errs) (s : State) : Res :=
  onMsg m (if m.type = 2 then
    s.arrive m flits fun t => some (
      if m.dstKind = 0 then t.moverAnswer m.dstUnit m.tag.toNat 0 (m.body.headD 0) m.nf
      else if m.dstKind = 4 then t.servedRow m else t)
  else s)

def execWriteAcknowledgement (m : Msg) (flits : Errs) (s : State) : Res :=
  onMsg m (if m.type = 3 then
    s.arrive m flits fun t => some (
      if m.dstKind = 0 then t.moverAcked m.dstUnit m.tag.toNat 0
      else if m.dstKind = 2 then t.blockAnswer m.dstRegion m.tag.toNat 0
      else
        match t.servedFor m with
        | some v => t.answerServed v 4 0 []
        | none => if m.dstKind = 4 then t.landAnswer m 0 else t)
  else s)

def execErrorResponse (m : Msg) (flits : Errs) (s : State) : Res :=
  onMsg m (if m.type = 4 then
    s.arrive m flits fun t => some (
      if m.dstKind = 0 then t.moverError m.dstUnit m.tag.toNat m.status.toNat
      else if m.dstKind = 2 then t.blockAnswer m.dstRegion m.tag.toNat m.status.toNat
      else
        match t.servedFor m with
        | some v => t.answerServed v 5 m.status.toNat []
        | none => if m.dstKind = 4 then t.landAnswer m m.status.toNat else t)
  else s)

/-! ### Replies and acknowledgements of sync operations (R113, R114, R237) -/

/-- A hand faults for an operation it sent earlier: the program counter is that operation's (R129, R237). -/
def State.syncFaulted (s : State) (u h code : Nat) (pc : Word) : State :=
  (s.updUnit u fun x => x.updHand h fun y => { y with pc := pc }).handFault u h code pc

/-- The reply of a SYNCR at its hand. -/
def State.syncReply (s : State) (m : Msg) : State :=
  let u := m.dstUnit
  let h := m.tag.toNat % 8
  match ((s.unit u).hand h).reply with
  | none => s
  | some (rd, pc) =>
    if m.status ≠ 0 then s.syncFaulted u h m.status.toNat pc
    else s.updUnit u fun x => x.updHand h fun y => { (y.setReg rd m.operand) with st := .ready, reply := none }

/-- The acknowledgement of a posted SYNC at its hand; a hand that FENCE holds goes on after the last one. -/
def State.syncAcked (s : State) (m : Msg) : State :=
  let u := m.dstUnit
  let h := m.tag.toNat % 8
  let k := m.tag.toNat / 8 % 8
  match ((s.unit u).hand h).posted.find? fun p => p.1 == k with
  | none => s
  | some (_, pc) =>
    let t := s.updUnit u fun x => x.updHand h fun y =>
      let z := { y with posted := y.posted.filter fun p => p.1 != k }
      if z.st = .replyWait ∧ z.reply = none ∧ z.posted = [] then { z with st := .ready, pc := z.pc + 1 } else z
    if m.status ≠ 0 then t.syncFaulted u h m.status.toNat pc else t

/-- A fault status that comes back to an engine (R117), a region controller, a link engine or a ring agent (R237). -/
def State.agentFaulted (s : State) (m : Msg) : State :=
  let code := m.status.toNat
  match m.dstKind with
  | 0 => (s.raiseUnit m.dstUnit code 0).stopHands m.dstUnit
  | 1 => (s.raise m.dstRegion code noSubject 0).report (causeOf code 16383 none)
  | 4 => (s.raiseFrom srcLink code 0xFFFF 0).report (causeOf code 16383 none)
  | _ => (s.raiseFrom srcHost code 0xFFFF 0).report (causeOf code 16383 none)

def execSyncReply (m : Msg) (flits : Errs) (s : State) : Res :=
  onMsg m (if m.type = 9 ∧ m.dstKind = 0 then s.arrive m flits fun t => some (t.syncReply m) else s)

/-- An acknowledgement may also answer a SYNCR whose route led nowhere (R221). -/
def execSyncAcknowledgement (m : Msg) (flits : Errs) (s : State) : Res :=
  onMsg m (if m.type = 10 then
    s.arrive m flits fun t => some (
      if m.dstKind = 0 ∧ m.tag.toNat < 128 then (if m.tag.getLsbD 6 then t.syncReply m else t.syncAcked m)
      else if m.status ≠ 0 then t.agentFaulted m else t)
  else s)

/-! ### Role epochs (R51, R230) -/

/-- A role epoch update at one of the 1,008 tables: 0 to 47 the region controllers, then the cluster interfaces. -/
def State.epochUpdate (s : State) (table : Nat) (m : Msg) : State :=
  let u := field (m.word 7) 0 14
  let e : BitVec 12 := BitVec.ofNat 12 (field (m.word 7) 14 12)
  if (s.region (regionOf u)).epochWaits.any (fun w => w.unit == u) ∧ e = s.epoch u then
    if table < 48 then
      let t := if m.nf then s.updSvc table fun x => { x with msgNf := true } else s
      t.updRegion table fun x => { x with epochs := x.epochs.set 0 u e }
    else s.updRegion ((table - 48) / 20) fun x => { x with ifEpochs := x.ifEpochs.set 0 ((table - 48) % 20 * 16384 + u) e }
  else s

/-- An update that a port of its path could not read is lost (R223). -/
def execEpochUpdate (table : Nat) (x : Arrival) (s : State) : Res :=
  let m := x.msg
  guardRes (msgOk m && decide (table < 1008 ∧ field (m.word 7) 0 14 < 15360)) (if m.type = 11 then
    let s1 := { s with net := s.net.erase m }
    match s1.portChecks m x.flits 0 (portsOf (s1.path m)) with
    | (t, true) => t.epochUpdate table m
    | (t, false) => t
  else s)

/-- Every table holds the unit's epoch (R51, R230). -/
def State.epochEverywhere (s : State) (u : Nat) : Bool :=
  (List.range 48).all fun r =>
    (s.region r).epochs.get 0 u == s.epoch u &&
      (List.range 20).all fun c => (s.region r).ifEpochs.get 0 (c * 16384 + u) == s.epoch u

/-- The ink line that the unit is on is busy: the row map of its units does not change (R266). -/
def State.onBusyLine (s : State) (u : Nat) : Bool :=
  match s.lineOf u with
  | none => false
  | some (l, _) => s.lineBusy (regionOf u) l

/-- The row map changes that waited for a unit's epoch, and for an idle ink line. -/
def State.epochAcked (s : State) (u : Nat) : State :=
  let r := regionOf u
  let ws := (s.region r).epochWaits.filter fun w => w.unit == u
  if ws = [] ∨ s.epochEverywhere u = false ∨ s.onBusyLine u = true then s
  else
    let s1 := s.updRegion r fun x => { x with epochWaits := x.epochWaits.filter fun w => w.unit != u }
    (ws.foldl State.applyWait s1).abortNext.blotTail

def execEpochUpdateAcknowledged (unit : Nat) (s : State) : Res := onUnit unit (s.epochAcked unit)

/-! ### Event records (R56, R225) -/

/-- Codes whose class aborts the step (Table FLT-1): uncorrectable data, logic parity, structural, link and schedule. -/
def abortCode (c : Nat) : Bool :=
  decide (0x221 ≤ c ∧ c ≤ 0x22D) || [0x306, 0x307, 0x308, 0x401, 0x402, 0x404, 0x408, 0x801, 0x803].contains c

def State.eventRecord (s : State) (m : Msg) : State :=
  let c := field (m.word 7) 0 12
  let t := s.raise m.dstRegion c (if m.srcKind = 0 then m.srcUnit else noSubject) (Config.unstated 0 s.root).toNat
  if abortCode c then t.report (causeOf c 16383 none) else t

def execEventRecord (x : Arrival) (s : State) : Res :=
  onMsg x.msg (if x.msg.type = 12 ∧ x.msg.dstKind = 1 then s.arrive x.msg x.flits fun t => some (t.eventRecord x.msg) else s)

/-! ### Sync operations (R234-R237, R246) -/

/-- A sync operation at its region controller: answered with its fault, or applied; `pick` says which operations the row
stands for. -/
def State.syncOp (s : State) (x : Arrival) (pick : Nat → Bool) (f : State → State) : State :=
  let m := x.msg
  if m.type = 8 ∧ m.dstKind = 1 ∧ pick m.sop = true then
    s.arrive m x.flits fun t => some (
      let code := t.syncOpFault m.dstRegion m
      if code ≠ 0 then t.syncAnswer m code 0 else f t)
  else s

/-- The operations of Table NET-8; the reserved ones are left to the READ row (log 17). -/
def sopKnown (n : Nat) : Bool := [0, 1, 2, 3, 8, 16, 17, 18, 24, 25, 26, 27, 31].contains n

def execSyncRead (x : Arrival) (s : State) : Res :=
  onMsg x.msg (s.syncOp x (fun n => n == 0 || !sopKnown n) fun t => t.syncValue x.msg.dstRegion x.msg id)
def execSyncAdd (x : Arrival) (s : State) : Res :=
  onMsg x.msg (s.syncOp x (· == 1) fun t => t.syncValue x.msg.dstRegion x.msg (· + x.msg.operand))
def execSyncSet (x : Arrival) (s : State) : Res :=
  onMsg x.msg (s.syncOp x (· == 2) fun t => t.syncValue x.msg.dstRegion x.msg fun _ => x.msg.operand)
def execWaitGe (x : Arrival) (s : State) : Res := onMsg x.msg (s.syncOp x (· == 3) fun t => t.syncWait x.msg.dstRegion x.msg)
def execArrive (x : Arrival) (s : State) : Res := onMsg x.msg (s.syncOp x (· == 8) fun t => t.syncArrive x.msg.dstRegion x.msg)
def execSyncOr (x : Arrival) (s : State) : Res :=
  onMsg x.msg (s.syncOp x (· == 16) fun t => t.syncValue x.msg.dstRegion x.msg (· ||| x.msg.operand))
def execSyncClear (x : Arrival) (s : State) : Res :=
  onMsg x.msg (s.syncOp x (· == 17) fun t => t.syncValue x.msg.dstRegion x.msg (· &&& ~~~x.msg.operand))
def execWaitAny (x : Arrival) (s : State) : Res := onMsg x.msg (s.syncOp x (· == 18) fun t => t.syncWait x.msg.dstRegion x.msg)

/-- CONTRIBUTE: a decision of a linked object goes to the system verdict path (R235, R338); one that comes after the decision
is a schedule fault (R284). -/
def State.contributed (s : State) (m : Msg) : State :=
  match s.syncContribute m.dstRegion m with
  | (t, _, true) => t.schedFault m.dstRegion 0x801
  | (t, some bit, false) => (t.updSys fun y => { y with ownBit := some bit }).gatherVerdict
  | (t, none, false) => t

def execContribute (x : Arrival) (s : State) : Res := onMsg x.msg (s.syncOp x (· == 24) fun t => t.contributed x.msg)
def execAwait (x : Arrival) (s : State) : Res := onMsg x.msg (s.syncOp x (· == 25) fun t => t.syncWait x.msg.dstRegion x.msg)

/-- DECIDE: at the module verdict object it also reaches the sequencer (R283). -/
def execDecide (x : Arrival) (s : State) : Res :=
  onMsg x.msg (s.syncOp x (· == 26) fun t =>
    let t1 := t.syncDecide x.msg.dstRegion x.msg
    if x.msg.dstRegion = t1.verdictRegion ∧ waIndex x.msg.wa = objVerdict then t1.decided (x.msg.operand.getLsbD 0) else t1)

def execRearm (x : Arrival) (s : State) : Res := onMsg x.msg (s.syncOp x (· == 27) fun t => t.syncRearm x.msg.dstRegion x.msg)
def execSyncInit (x : Arrival) (s : State) : Res := onMsg x.msg (s.syncOp x (· == 31) fun t => t.syncInit x.msg.dstRegion x.msg)

end Sys2Proof.Machine
end

