-- ==== Sys2Proof/Machine/Train.lean ====
section
/-! DEFINITION. The rows of a training step (spec/10), of digests (spec/11) and of the abort and the repairs (spec/13). -/

namespace Sys2Proof.Machine

/-! ### Verdict (R282) -/

/-- The region has formed everything its verdict covers: grad_done has been released and every block is done. -/
def State.regionDone (s : State) (r : Nat) : Bool :=
  decide ((s.syncObj r objGradDone).generation ≠ 0) && field (s.p1 r 15369) 0 24 == field (s.p1 r 15368) 0 24

/-- The region saw a non-finite value in this step. -/
def State.regionNf (s : State) (r : Nat) : Bool :=
  s.units.any (fun (u, x) => regionOf u == r && x.nf) || field (s.p1 r 15367) 4 1 == 1 || (s.svc r).msgNf

/-- The region controller's posted CONTRIBUTE. -/
def State.contributeMsg (s : State) (r : Nat) : Msg :=
  let v := s.verdictRegion
  { blankMsg with
    dstRegion := v, dstKind := 1, type := 8, srcRegion := r, srcKind := 1, srcModule := s.ownIndex,
    wa := waSync v objVerdict, words := [0, 0, if s.regionNf r then 1 else 0, 24] }

def State.regionVerdict (s : State) (r : Nat) : State :=
  if s.seq.running = false ∨ s.seq.phase ≠ 2 ∨ (s.svc r).inService = false ∨ (s.svc r).contributed = true ∨
      s.regionDone r = false then s
  else
    let t := (s.send (s.contributeMsg r)).updSvc r fun x => { x with contributed := true }
    if t.regionsUp.all fun k => (t.svc k).contributed then t.setPhase 3 else t

def execRegionVerdictContribution (region : Nat) (s : State) : Res := onRegion region (s.regionVerdict region)

/-! ### Update and broadcast (R287-R290) -/

/-- A trailer or snapshot granule goes to the carbon partner, with the nf of its rows (R40). -/
def State.toPartner (s : State) (shard block gkind : Nat) (nf : Bool) (rows : List Row) : State :=
  if s.partnerOf shard = s.ownIndex.toNat then s.wgtLand 0 s.ownIndex.toNat nf shard block gkind (s.seq.sched.step.toNat % 65536) rows
  else s.linkInject 7 1 nf (s.partnerOf shard) (s.wgtKind shard block gkind false) rows

/-- Inserts into a rising list. -/
def insertNat (n : Nat) : List Nat → List Nat
  | [] => [n]
  | k :: ks => if n ≤ k then n :: k :: ks else k :: insertNat n ks

/-- Blocks of a shard that the module holds, in order. -/
def State.blocksOf (s : State) (shard : Nat) : List Nat :=
  ((((s.host.image.map (·.areas)).getD []).filter fun (sh, _) => sh == shard).flatMap fun (_, first, n, _, _) =>
    (List.range n).map (first + ·)).foldr insertNat []

/-- The block may be sent now: the step updates, the module owns the block, and it has not been sent. -/
def State.mayUpdate (s : State) (shard block : Nat) : Bool :=
  s.seq.running && (s.seq.phase == 4 || s.seq.phase == 5) && s.ownShard shard && (s.blockPlace shard block).isSome &&
    !s.seq.updated.any fun x => x.1 == shard && x.2.1 == block

/-- The packet of an updated block leaves: granule 0 from the first 8 of its rows, 1 to 12 from the other 96 (R289). -/
def State.sendPacket (s : State) (shard block : Nat) (rows : List Row) (nf : Bool) : State :=
  let own := s.ownIndex.toNat
  let f := mkFlit (mkHeader 7 nf 2 own own s.ttlInit (s.wgtKind shard block 0 true)) (rows.take 8)
  let s1 := s.wgtMulticast 0 f shard block (s.seq.sched.step.toNat % 65536) fun _ => 0
  (List.range 12).foldl (fun t i =>
    t.toPartner shard block (i + 1) nf ((rows.drop (8 * (i + 1))).take 8)) s1

/-- An owner block has been updated: its weight packet leaves (R289), and the new state stays in the scratchpad until the blot point
(R288). From the given row of a unit on lie the 8 rows of new weights, then 32 rows each of master weights, first and second moments, as
one whole (DESIGN CHOICE, log 136). The rows are read through the maintenance port, once it has won their banks. -/
def State.weightPacket (s : State) (shard block : Nat) (place : RowPlace) (errs : Errs) : State :=
  if s.mayUpdate shard block then
    let qs := (List.range 104).map (place.row + ·)
    match s.winBanks maintSave (banksOf place.unit qs) with
    | (v, false) => v
    | (v, true) =>
      match v.readRows place.unit errs 0 qs with
      | (t, none) => t
      | (t, some (rows, nf)) =>
        let t1 := if t.seq.phase = 4 then t.setPhase 5 else t
        (t1.updSeq fun x => { x with updated := x.updated ++ [(shard, block, place.unit, place.row)] }).sendPacket shard block rows nf
  else s

def execWeightPacket (shard block : Nat) (place : RowPlace) (errs : Errs) (s : State) : Res :=
  guardRes (decide (shard < 4096 ∧ block < 2 ^ 24 ∧ place.unit < 15360 ∧ place.row + 104 ≤ scratchRows))
    (s.weightPacket shard block place errs)

/-- The words of a snapshot granule (Table STP-3), 16 to a row. -/
def State.snapshotRows (s : State) (shard : Nat) : List Row :=
  let c := s.seq.sched.next s.seq.verdict
  let w0 : List Word := c.words s.seq.verdict ++ [wd shard, wd s.seq.carried.length, wd s.jobRingPos, 0]
  let w1 := s.seq.carried.flatMap fun (o, r, v) => [wd (o % 2 ^ 14 + r % 64 * 2 ^ 14 + 2 ^ 20), v]
  let ws := w0 ++ List.replicate 16 0 ++ w1
  (List.range 8).map fun i => rowOfWords ((List.range 16).map fun j => ws.getD (16 * i + j) 0)

/-- The owner's snapshot granule, after its last block or alone on a skipped step (R290). -/
def State.snapshotGranule (s : State) (shard : Nat) : State :=
  let last := s.seq.verdict || (s.blocksOf shard).all fun b => s.seq.updated.any fun x => x.1 == shard && x.2.1 == b
  if s.seq.running = false ∨ s.seq.phase < 4 ∨ s.seq.phase = 7 ∨ s.seq.committed ≠ 0 ∨ s.ownShard shard = false ∨
      s.seq.sentSnap.contains shard = true ∨ last = false then s
  else
    (s.updSeq fun q => { q with sentSnap := q.sentSnap ++ [shard] }).toPartner shard 0 13 false (s.snapshotRows shard)

def execSnapshotGranule (shard : Nat) (s : State) : Res := guardRes (decide (shard < 4096)) (s.snapshotGranule shard)

/-! ### Ready and the blot point (R292, R312) -/

/-- The counts of a region are whole. -/
def State.countsWhole (s : State) (r : Nat) : Bool :=
  field (s.p1 r 15370) 0 27 == field (s.p1 r 15371) 0 27 && field (s.p1 r 15372) 0 27 == field (s.p1 r 15373) 0 27

/-- Every owner block of the module has been updated. -/
def State.ownerDone (s : State) : Bool :=
  (s.sys.shards.filter fun (k, _) => s.ownShard k).all fun (k, _) =>
    (s.blocksOf k).all fun b => s.seq.updated.any fun x => x.1 == k && x.2.1 == b

/-- A snapshot has come for every shard whose carbon the module keeps. -/
def State.snapshotsIn (s : State) : Bool :=
  (s.sys.shards.filter fun (k, _) => s.carbonShard k).all fun (k, _) => s.seq.snapIn.any fun x => x.1 == k

def State.moduleReady (s : State) (errs : Errs) : State :=
  let whole := s.snapshotsIn && s.seq.carbons.isEmpty && s.seq.reported.isEmpty &&
    (s.seq.verdict || (s.regionsUp.all s.countsWhole && s.ownerDone))
  if s.seq.running = false ∨ s.seq.phase < 4 ∨ s.seq.phase = 7 ∨ s.seq.committed ≠ 0 ∨ s.seq.readySent = true ∨ whole = false then s
  else (if s.seq.phase = 6 then s else s.setPhase 6).reportReady errs

/-- What the checks of the rows find that a commit then reads is a free value (log 152). -/
def execModuleReady (s : State) : Res := .next (s.moduleReady (Config.blotChecks s.root))

/-- Parameters of block `b` of a shard that the shard has (R310); a shard without a stated size is full. -/
def State.blockParams (s : State) (shard b : Nat) : Nat :=
  match ((s.host.image.map (·.shardParams)).getD []).find? fun p => p.1 == shard with
  | none => 512
  | some (_, n) => min 512 (n - 512 * b)

/-- Row `i` of the 96 of a block of which the shard has `n` parameters: 16 parameters to a row, 32 rows to a part; zero past the end. -/
def digestWindow (n i : Nat) (d : Row) : Row :=
  d &&& BitVec.ofNat 576 (2 ^ (36 * min 16 (n - 16 * (i % 32))) - 1)

/-- The digest of one block from its 96 rows (R310). -/
def blockHash (n : Nat) (rows : List Row) : List Octet :=
  Sha.digestOctets (Sha.sha256 (rows.zipIdx.flatMap fun (d, i) => rowOctets (digestWindow n i d)))

/-- The 96 rows of a block that this module keeps, owner or carbon, with their codewords checked (R249): 16 codewords to a row, from
number `i` on. -/
def State.blockRead (s : State) (shard b : Nat) (errs : Errs) (i : Nat) : State × Option (List Row) :=
  match s.blockPlace shard b with
  | none => (s, none)
  | some (r, g) =>
    match s.wellReads r errs i ((List.range 96).map (8 * g + ·)) with
    | (t, 0, rows) => (t, some rows)
    | (t, _, _) => (t, none)

/-- The rows of some blocks of a shard; none when one cannot be read. -/
def State.shardRead (s : State) (shard : Nat) (errs : Errs) : Nat → List Nat → State × Option (List (Nat × List Row))
  | _, [] => (s, some [])
  | i, b :: bs =>
    match s.blockRead shard b errs i with
    | (t, none) => (t, none)
    | (t, some rows) =>
      let (v, rest) := State.shardRead t shard errs (i + 1536) bs
      (v, rest.map ((b, rows) :: ·))

/-- The blocks of some shards, one shard after the other, as `shardRead` gives them. -/
def State.shardReads (s : State) (errs : Errs) : Nat → List Nat → State × Option (List (Nat × List (Nat × List Row)))
  | _, [] => (s, some [])
  | i, k :: ks =>
    match s.shardRead k errs i (s.blocksOf k) with
    | (t, none) => (t, none)
    | (t, some bs) =>
      let (v, rest) := State.shardReads t errs (i + 1536 * (s.blocksOf k).length) ks
      (v, rest.map ((k, bs) :: ·))

/-- The shard digest, over the digests of its blocks in order (R310). -/
def State.shardDigest (s : State) (shard : Nat) (bs : List (Nat × List Row)) : List Octet :=
  Sha.digestOctets (Sha.sha256 (bs.flatMap fun (b, rows) => blockHash (s.blockParams shard b) rows))

/-! ### Open (R277, R281, R368) -/

/-- A micro-batch of `n` tokens needs more chunks than its class allows (R277). -/
def State.tooManyChunks (s : State) (cls n : Nat) : Bool :=
  match ((s.host.image.map (·.classes)).getD [])[cls]? with
  | none => false
  | some (len, limit) => decide (0 < len ∧ limit < (n + len - 1) / len)

/-- The owner's digests of the shards of which a new partner makes its carbon, before the step updates anything (R368). What the checks of
the rows find is a free value (log 152); a shard that cannot be read stays due. -/
def State.digestOwned (s : State) : State :=
  s.seq.newPartners.foldl (fun t k =>
    match t.shardRead k (Config.blotChecks t.root) 0 (t.blocksOf k) with
    | (v, none) => v
    | (v, some bs) => v.updSeq fun q => { q with
        newPartners := q.newPartners.filter (· != k)
        ownerDigests := (q.ownerDigests.filter fun d => d.1 != k) ++ [(k, v.shardDigest k bs)] }) s

/-- Every region applies the open actions, and the pipeline starts. -/
def State.openStep (s : State) (batches : List (Nat × Nat)) : State :=
  if s.seq.phase ≠ 1 ∨ s.seq.running = false then s
  else if batches.any fun (c, n) => s.tooManyChunks c n then s.jobStop 0x804
  else (s.digestOwned.forRegions State.openRegion).setPhase 2

def execOpenStep (batches : List (Nat × Nat)) (s : State) : Res := .next (s.openStep batches)

/-! ### Digests (R312) -/

/-- Shards that the module owns. -/
def State.ownShards (s : State) : List Nat := (s.sys.shards.map (·.1)).filter s.ownShard

/-- The digests due at this blot point are written to the host, with event 0x085 (R312, R391); where the write fails, which is a free
value, with status 0x704. A row that cannot be read leaves
them due. -/
def State.digestComplete (s : State) (errs : Errs) : State :=
  match s.seq.phase == 6 && decide (5 ≤ s.seq.committed) && s.seq.refetch.isEmpty, s.dueDigests with
  | true, d :: _ =>
    match s.shardReads errs 0 s.ownShards with
    | (t, none) => t
    | (t, some ds) =>
      let ok := Config.hostWriteOk s.root
      let s1 := if ok then ds.foldl (fun v (k, bs) => v.hostWrite (d.addr.toNat + 32 * k) (s.shardDigest k bs)) t else t
      let s2 := (s1.updSeq fun q => { q with digests := q.digests.erase d, digested := q.digested ++ [d] }).finish d.ring d.index
        (if ok then 0 else 0x704) false (if ok then ds.length else 0)
      (s2.raiseSeq 0x085 s2.seq.phase).blotTail
  | _, _ => s

/-- What the checks of the well rows find is a free value (log 152). -/
def execDigestComplete (s : State) : Res := .next (s.digestComplete (Config.blotChecks s.root))

/-! ### Abort and repairs (R348-R361, R368) -/

def execSequencerAbort (s : State) : Res := .next s.sequencerAbort
def execDrainComplete (s : State) : Res := .next s.drainComplete

/-- The test of a transmit lane that the peer has asked for ends: its result goes back (R324, log 141). -/
def State.laneTested (s : State) (l p : Nat) (pass : Bool) : State :=
  if s.lnkState l = 4 ∧ (s.link l).testing.contains p = true then
    (s.sendMnt l 3 p pass 0).updLink l fun k => { k with testing := k.testing.erase p }
  else s

/-- A targeted self-test ends. Codes 1 to 7 run while the step is aborted, or in the Blot phase (R348, R349); code 9 is the test of a
link lane, 16 targets to a link. -/
def State.selfTest (s : State) (t : TestTarget) (x : TestResult) : State :=
  if t.code = 9 ∧ t.target < 384 then s.laneTested (t.target / 16) (t.target % 16) x.pass
  else if s.seq.tests.contains t ∧ 1 ≤ t.code ∧ t.code ≤ 7 ∧ (s.seq.phase = 7 ∨ s.seq.phase = 6) then
    (s.testResult t x).abortNext.blotTail
  else s

def execSelfTestResult (t : TestTarget) (result : TestResult) (s : State) : Res :=
  guardRes (decide (t.region < 48 ∧ (6 < t.code ∨ t.target < 15360))) (s.selfTest t result)

/-- The fill of a row map. -/
def State.fillOf (s : State) (r rowMap : Nat) (stage : FillStage) : Option Fill :=
  (s.svc r).fills.find? fun f => f.rowMap == rowMap && f.stage == stage

def State.updFill (s : State) (r rowMap : Nat) (g : Fill → Fill) : State :=
  s.updSvc r fun x => { x with fills := x.fills.map fun f => if f.rowMap = rowMap then g f else f }

def onRow (region rowMap : Nat) (t : State) : Res := guardRes (decide (region < 48 ∧ rowMap < 80)) t

/-- The spare's power switch has ramped: its test starts. -/
def State.spareWake (s : State) (r rowMap : Nat) : State :=
  match s.fillOf r rowMap .waking with
  | none => s
  | some _ => s.updFill r rowMap fun f => { f with stage := .testing }

def execSpareWake (region rowMap : Nat) (s : State) : Res := onRow region rowMap (s.spareWake region rowMap)

/-- Test 10 on a spare ends (Table FLT-4), with the banks of the spare; it has overwritten the spare (R352), and counts as any test
(R348, R351). -/
def State.spareTest (s : State) (r rowMap : Nat) (pass : Bool) : State :=
  match s.fillOf r rowMap .testing with
  | none => s
  | some f =>
    let u := fillUnit r f
    let k : TestTarget := { code := 10, region := r, target := u, part := 0 }
    match s.winBanks maintTest ((List.range 16).map fun b => (u, b, 3072)) with
    | (v, false) => v
    | (v, true) =>
      let ok := pass && !v.passedThrice k
      let t := ((v.recordTest k ok).testRows u 0 scratchRows).testWords u
      if ok then t.updFill r rowMap fun g => { g with stage := .loading } else t.failFill r rowMap

def execSpareTestResult (region rowMap : Nat) (pass : Bool) (s : State) : Res :=
  onRow region rowMap (s.spareTest region rowMap pass)

/-- The load stage of a fill is made (R360): `errs` tells the codewords that it reads. A second image that does not agree ends the fill and
the job. -/
def State.spareLoad (s : State) (r rowMap : Nat) (errs : Errs) : State :=
  match s.fillOf r rowMap .loading with
  | none => s
  | some f =>
    let u := fillUnit r f
    if (s.region r).epochWaits.any fun w => w.unit == u then s
    else
      match s.winBanks maintImage (s.imageBanks u) with
      | (v, false) => v
      | (v, true) =>
        match v.loadStage u errs 0 with
        | (t, true) => t.epochChange u 4 (some (2, f.lc))
        | (t, false) =>
          if f.failedOnce then (t.failFill r rowMap).jobStop 0x80D
          else t.updFill r rowMap fun g => { g with failedOnce := true }

def execSpareLoadComplete (region rowMap : Nat) (errs : Errs) (s : State) : Res :=
  onRow region rowMap (s.spareLoad region rowMap errs)

def execRegionRestore (region : Nat) (s : State) : Res := onRegion region (s.restoreRegion region)

/-- The owner's committed blocks, as the partner's region controllers have read them, are written into the carbon area (R368). -/
def State.carbonRows (s : State) (shard : Nat) (blocks : List (Nat × List Row)) : State :=
  blocks.foldl (fun t (b, rows) =>
    match t.blockPlace shard b with
    | some (r, g) => t.writeWell r g (rows.take 96)
    | none => t) s

/-- Owner blocks that the write-back could not read come from the partner's carbon, and the blot point goes on (Table FLT-7); CARBON_COPY
is the row that brings them (DESIGN CHOICE, log 139). -/
def State.refetched (s : State) (shard : Nat) (blocks : List (Nat × List Row)) : State :=
  let due := blocks.filter fun x => s.seq.refetch.contains (shard, x.1)
  ((s.carbonRows shard due).updSeq fun q => { q with
    refetch := q.refetch.filter fun x => !due.any fun y => x == (shard, y.1) }).blotTail

/-- The content of a lost well comes from its source: owner and carbon blocks go to the places that their areas have been given, working
weights, 8 rows to a block, to free granules, which the runtime's tables are to name (R364). Once all is there the abort or the Blot phase
goes on. -/
def State.recreated (s : State) (shard : Nat) (blocks : List (Nat × List Row)) : State :=
  let due := blocks.filter fun (b, rows) => s.seq.recreate.contains (shard, b, rows.length == 8)
  let t := due.foldl (fun v (b, rows) =>
    if rows.length = 8 then
      let (w, p) := v.takePlace 48 b 1
      w.writeWell p.1 p.2 rows
    else v.carbonRows shard [(b, rows)]) s
  ((t.updSeq fun q => { q with
    recreate := q.recreate.filter fun (k, b, w) => !(k == shard && due.any fun y => y.1 == b && (y.2.length == 8) == w) }).abortNext).blotTail

/-- A new carbon is copied, and the digest of the copy is compared with the owner's: accepted, repeated once, or the job stops (R368). -/
def State.carbonCopy (s : State) (shard : Nat) (copy : CarbonData) : State :=
  if s.seq.recreate.any fun x => x.1 == shard then s.recreated shard copy.blocks
  else
  match s.seq.carbons.find? fun c => c.1 == shard with
  | none => if s.seq.refetch.any fun x => x.1 == shard then s.refetched shard copy.blocks else s
  | some (_, once) =>
    let rest := s.seq.carbons.filter fun c => c.1 != shard
    match (s.carbonRows shard copy.blocks).shardRead shard copy.errs 0 (s.blocksOf shard) with
    | (t, none) => t
    | (t, some bs) =>
      if t.shardDigest shard bs = copy.owner then t.updSeq fun q => { q with carbons := rest }
      else
        let t1 := t.raiseSeq 0x22F shard
        if once then t1.jobStop 0x80D else t1.updSeq fun q => { q with carbons := rest ++ [(shard, true)] }

def execCarbonCopy (shard : Nat) (copy : CarbonData) (s : State) : Res :=
  guardRes (decide (shard < 4096)) (s.carbonCopy shard copy)

end Sys2Proof.Machine
end

