-- ==== Sys2Proof/Machine/Host.lean ====
section
/-! DEFINITION. The rows of the host engine (spec/14): doorbell polls, copies, job commands, completions, interrupts, event
records, resets and configuration requests. -/

namespace Sys2Proof.Machine

/-! ### MSI-X (R462) -/

def msixReg (v off : Nat) : Nat := 0x8000 + 0x10 * v + off
def pbaReg (v : Nat) : Nat := 0x9000 + 4 * (v / 32)
def State.msixMasked (s : State) (v : Nat) : Bool := s.host.fnMask || field (s.bar (msixReg v 0xC)) 0 1 == 1

/-- The message of a vector leaves. -/
def State.msixSend (s : State) (v : Nat) : State :=
  s.emit (.msix v (BitVec.ofNat 64 ((s.bar (msixReg v 0)).toNat + (s.bar (msixReg v 4)).toNat * 2 ^ 32)) (s.bar (msixReg v 8)))

/-- A trigger: the message, or the pending bit of a masked vector. In D3hot no interrupt is sent (R378); the vector stays
pending. -/
def State.msix (s : State) (v : Nat) : State :=
  if s.msixMasked v || s.host.d3 then s.seeBar (pbaReg v) (v % 32) else s.msixSend v

/-- Vectors that are pending and can be sent are sent. -/
def State.msixPending (s : State) : State :=
  (List.range 64).foldl (fun t v =>
    if field (t.bar (pbaReg v)) (v % 32) 1 = 1 ∧ t.msixMasked v = false ∧ t.host.d3 = false then
      (t.updBar (pbaReg v) fun w => putField w (v % 32) 1 0).msixSend v
    else t) s

/-! ### Doorbell blocks and the taking of descriptors (R381-R385, R390, R391) -/

def State.dbEnabled (s : State) (b : Nat) : Bool := field (s.bar (0x40 + 0x10 * b)) 0 1 == 1
def State.dbBase (s : State) (b : Nat) : Nat :=
  field (s.bar (0x40 + 0x10 * b)) 6 26 * 2 ^ 6 + (s.bar (0x44 + 0x10 * b)).toNat * 2 ^ 32
/-- Word `w` of a doorbell block: low half and high half. -/
def State.dbWord (s : State) (b w : Nat) : Nat × Nat :=
  let v := leNat (s.hostRead (s.dbBase b + 4 * w) 4)
  (v % 65536, v / 65536)

def State.base64 (s : State) (lo : Nat) : Nat := field (s.bar lo) 12 20 * 2 ^ 12 + (s.bar (lo + 4)).toNat * 2 ^ 32

/-- The octets of the descriptor in a slot. -/
def State.descOctets (s : State) (q slot : Nat) : List Octet := s.hostRead (s.base64 (ringReg q 0) + 64 * slot) 64

def zeros (os : List Octet) (lo n : Nat) : Bool := dField os lo n == 0

/-- A descriptor whose reserved fields are zero and whose opcode the ring's kind has (R385, R386, R391). -/
def descOk (job : Bool) (os : List Octet) : Bool :=
  zeros os 2 2 && decide (dOctet os 1 < 8) &&
    (if job then decide (0x10 ≤ dOp os ∧ dOp os ≤ 0x16) && zeros os 40 24
     else decide (dOp os = 1 ∨ dOp os = 2) && zeros os 22 2 && zeros os 48 16)

/-- Octets of a descriptor whose read failed: nothing of the returned data is used, and the spec states no cookie. -/
def State.lostOctets (s : State) (slot : Nat) : List Octet :=
  (List.range 64).map fun i => (Config.unstated 2 (s.root * 2 ^ 22 + slot * 64 + i)).setWidth 8

/-- Takes the next descriptor of a ring; `ok`: its read succeeded. -/
def State.takeDesc (s : State) (q : Nat) (ok : Bool) : State :=
  let slot := s.ringHead q % s.ringSize q
  let os := if ok then s.descOctets q slot else s.lostOctets slot
  let fin : Option (BitVec 12 × Bool × BitVec 64) :=
    if !ok then some (0x703, false, 0) else if descOk (s.ringJob q) os then none else some (0x701, false, 0)
  (s.updRing q fun r => { r with taken := r.taken ++ [{ index := slot, octets := os, finished := fin }] }).updBar
    (ringReg q 0x18) fun w => putField w 0 16 (field w 0 16 + 1)

/-- How many descriptors a running ring takes at a poll. -/
def State.takes (s : State) (q tail cplHead : Nat) : Nat :=
  let ahead := (tail + 65536 - s.ringHead q) % 65536
  let used := (s.ringHead q + 65536 - cplHead) % 65536
  min (min ahead (s.ringSize q - used)) (min 8 ((if s.ringJob q then 1 else 4) - (s.inFlight q).length))

/-- A poll of one ring. -/
def State.pollRing (s : State) (q : Nat) (ok : Bool) : State :=
  if s.ringState q ≠ 1 ∨ s.ringEnabled q = false ∨ s.dbEnabled (q / 16) = false then s
  else
    let (tail, cplHead) := s.dbWord (q / 16) (q % 16)
    if s.ringSize q < (tail + 65536 - s.ringHead q) % 65536 then s.ringStop q 0x702
    else (List.range (s.takes q tail cplHead)).foldl (fun t _ => t.takeDesc q ok) s

/-- One poll of the enabled doorbell blocks: whether its reads of the doorbells, and those of the descriptors, succeed. Of a read that
fails nothing is used (R377). -/
def State.poll (s : State) (reads : PollReads) : State :=
  if field (s.bar 0xC) 0 1 = 0 ∨ s.host.d3 = true ∨ reads.doorbell = false then s
  else (List.range 32).foldl (fun t q => t.pollRing q reads.desc) s

def execDoorbellPoll (reads : PollReads) (s : State) : Res := .next (s.poll reads)

/-! ### Copies (R386-R389, R202, R253) -/

structure CopyDesc where
  host : Nat
  wa : WAddr
  nonets : Nat
  rows : Nat
  hpitch : Nat
  wpitch : Nat
  wide : Bool

def copyDesc (os : List Octet) : CopyDesc :=
  let n := dField os 28 4
  { host := dField os 8 8, wa := BitVec.ofNat 48 (dField os 16 6), nonets := dField os 24 4, rows := n,
    hpitch := if n ≤ 1 then 0 else dField os 32 8, wpitch := if n ≤ 1 then 0 else dField os 40 8,
    wide := dOctet os 1 / 4 % 2 == 1 }

/-- Linear offsets that a row of a copy covers: registers of page 1 are four nonets each (R387). -/
def CopyDesc.span (d : CopyDesc) : Nat := if spaceOf d.wa = .sync then d.nonets / 4 else d.nonets
def CopyDesc.lin (d : CopyDesc) (r : Nat) : Nat := linOf d.wa + r * d.wpitch

/-- What forbids a copy before any transfer (R386, R387): the lowest code that applies. -/
def State.copyFault (s : State) (d : CopyDesc) (out : Bool) : Nat :=
  let sp := spaceOf d.wa
  let inv := waInvalid d.wa
  let size := decide (1 ≤ d.nonets ∧ d.nonets ≤ 2 ^ 31 ∧ 1 ≤ d.rows ∧ d.rows ≤ 65536)
  let space := sp == .scratch || sp == .well || (sp == .sync && out && waPage d.wa == 1 && decide (d.nonets % 4 = 0))
  let range := decide (d.lin (d.rows - 1) + d.span ≤ s.linLimit d.wa)
  lowest (inv ++ (if size && space && (range || !inv.isEmpty) then [] else [0x705]) ++
    (if d.wide && decide (d.host % 2 = 1 ∨ d.hpitch % 2 = 1) then [0x706] else []))

/-- A copy as it runs: how far it has got, and whether an access of it waits at a bank. The copy then stays in flight and goes on from
there when its row runs again (R76, R84). -/
structure CopyRun where
  s : State
  status : Nat
  got : Copied
  /-- Checks made, which number those of the next read. -/
  idx : Nat
  stuck : Bool

/-- Nothing more of the copy is made now. -/
def CopyRun.over (c : CopyRun) : Bool := c.status != 0 || c.stuck

/-- Pieces of a copy row: linear offset of the first nonet, how many nonets, and the nonet of the host row they start at;
each piece lies in one wide row. -/
def copyPieces (lin n : Nat) : List (Nat × Nat × Nat) :=
  (List.range ((lin % 64 + n + 63) / 64)).map fun i =>
    let a := if i = 0 then lin else lin / 64 * 64 + 64 * i
    let b := min (lin + n) (lin / 64 * 64 + 64 * (i + 1))
    (a, b - a, a - lin)

/-- The pieces of a copy in order: the copy row, the piece, and whether it is the last of its row. -/
def CopyDesc.pieces (d : CopyDesc) : List (Nat × (Nat × Nat × Nat) × Bool) :=
  (List.range d.rows).flatMap fun r =>
    let l := copyPieces (d.lin r) d.nonets
    l.zipIdx.map fun (p, i) => (r, p, i + 1 == l.length)

/-- A row with the nonets from nonet `o` replaced. -/
def mergeNonets (r : Row) (o : Nat) (ns : List Nat) : Row :=
  rowOfNonets (((nonetsOf r).take o) ++ ns ++ (nonetsOf r).drop (o + ns.length))

/-- One access of the region controller for a copy, through the mover read or the mover write port (R387, Table ORG-9). -/
def CopyRun.access (c : CopyRun) (a : WAddr) (lin : Nat) (write : Bool) (d : Row) (nf : Bool) (e : Ecc) : CopyRun × Row × Bool :=
  let u := waUnit a
  let x := c.s.agentAccess (if write then 9 else 8) (agentNo 1 (regionOf u)) u (lin / 64) 1 false d nf e
  match c.s.portAccess x (if write then .plainWrite else .plainRead) with
  | (t, .done st d1 nf1) => ({ c with s := t, status := st, idx := if write then c.idx else c.idx + 1 }, d1, nf1)
  | (t, .wait) => ({ c with s := t, stuck := true }, 0, false)

/-- Reads the row of a linear offset: its data and nf. -/
def CopyRun.read (c : CopyRun) (a : WAddr) (lin : Nat) (errs : Errs) : CopyRun × Row × Bool :=
  if spaceOf a = .well then
    let (t, st, row) := c.s.wellRead (waWellRegion a) (lin / 64) errs c.idx
    ({ c with s := t, status := st, idx := c.idx + 16 }, row, false)
  else c.access a lin false 0 false (errAt errs c.idx)

/-- Writes the row of a linear offset, whole; status 0x12C for a tagged row. -/
def CopyRun.write (c : CopyRun) (a : WAddr) (lin : Nat) (d : Row) (nf : Bool) : CopyRun :=
  if spaceOf a = .well then { c with s := c.s.wellWrite (waWellRegion a) (lin / 64) [d] }
  else (c.access a lin true d nf .clean).1

/-- Nonets of a copied row in host memory, and how many of their containers have non-zero high bits. -/
def State.copyNonets (s : State) (d : CopyDesc) (r o n : Nat) : List Nat × Nat :=
  let base := d.host + r * d.hpitch
  (s.hostNonets base d.wide o n,
    if d.wide then ((List.range n).filter fun i => decide (2 ≤ (leNat (s.hostRead (base + 2 * (o + i)) 2)) / 256)).length else 0)

/-- The data of one piece of a COPY_IN are written: a whole row, or the row that a merge has made. -/
def CopyRun.putPiece (c : CopyRun) (d : CopyDesc) (lin n bad : Nat) (row : Row) (nf : Bool) : CopyRun :=
  let w := c.write d.wa lin row nf
  if w.over then w
  else { w with got := { w.got with pieces := w.got.pieces + 1, moved := w.got.moved + n, dirty := w.got.dirty + bad, held := none } }

/-- One piece of a COPY_IN: a whole row is written at once, a part is merged into the row (R202), which is read first. -/
def copyInPiece (d : CopyDesc) (errs : Errs) (c : CopyRun) (p : Nat × (Nat × Nat × Nat) × Bool) : CopyRun :=
  let (r, (lin, n, o), _) := p
  let fault := lowest (c.s.waUnavailable d.wa)
  if c.over then c
  else if fault ≠ 0 then { c with status := fault }
  else
    let (ns, bad) := c.s.copyNonets d r o n
    if n = 64 then c.putPiece d lin n bad (rowOfNonets ns) false
    else
      match c.got.held with
      | some (row, nf) => c.putPiece d lin n bad (mergeNonets row (lin % 64) ns) nf
      | none =>
        let (v, row, nf) := c.read d.wa lin errs
        if v.over then v
        else { v with got := { v.got with held := some (row, nf) } }.putPiece d lin n bad (mergeNonets row (lin % 64) ns) nf

/-- The nonets read of the present row go to host memory. -/
def CopyRun.flushRow (c : CopyRun) (d : CopyDesc) (r : Nat) : CopyRun :=
  if c.got.out = [] then c
  else { c with s := c.s.hostPutNonets (d.host + r * d.hpitch) d.wide 0 c.got.out, got := { c.got with out := [] } }

/-- One piece of a COPY_OUT: its nonets; a row goes to the host whole, or as far as it has been read when the copy fails. -/
def copyOutPiece (d : CopyDesc) (errs : Errs) (c : CopyRun) (p : Nat × (Nat × Nat × Nat) × Bool) : CopyRun :=
  let (r, (lin, n, _), last) := p
  let fault := lowest (c.s.waUnavailable d.wa)
  if c.over then c
  else if fault ≠ 0 then { c with status := fault }.flushRow d r
  else
    let (v, row, nf) := c.read d.wa lin errs
    if v.stuck then v
    else if v.status ≠ 0 then v.flushRow d r
    else
      let w := { v with got := { v.got with
        pieces := v.got.pieces + 1, moved := v.got.moved + n, nf := v.got.nf || nf
        out := v.got.out ++ ((nonetsOf row).drop (lin % 64)).take n } }
      if last then w.flushRow d r else w

/-- One register of a copy of page 1 registers: four nonets, the least significant first. -/
def copyReg (d : CopyDesc) (lin : Nat) (c : CopyRun) (i : Nat) : CopyRun :=
  let a := waP1 (waSyncRegion d.wa) (lin + i)
  let fault := lowest (c.s.waUnavailable a)
  if c.status ≠ 0 then c
  else if fault ≠ 0 then { c with status := fault }
  else { c with got := { c.got with
    moved := c.got.moved + 4, out := c.got.out ++ (List.range 4).map fun k => field (c.s.readSync a) (9 * k) 9 } }

/-- One row of a copy of page 1 registers (R387). -/
def copyRegs (d : CopyDesc) (c : CopyRun) (r : Nat) : CopyRun :=
  ((List.range d.span).foldl (copyReg d (d.lin r)) c).flushRow d r

def copyRun0 (s : State) (got : Copied) : CopyRun := { s := s, status := 0, got := got, idx := 0, stuck := false }

/-- COPY_IN from where it has got to: rows in order. -/
def State.copyInRun (s : State) (d : CopyDesc) (errs : Errs) (got : Copied) : CopyRun :=
  (d.pieces.drop got.pieces).foldl (copyInPiece d errs) (copyRun0 s got)

/-- COPY_OUT from where it has got to: rows in order. -/
def State.copyOutRun (s : State) (d : CopyDesc) (errs : Errs) (got : Copied) : CopyRun :=
  if spaceOf d.wa = .sync then (List.range d.rows).foldl (copyRegs d) (copyRun0 s got)
  else (d.pieces.drop got.pieces).foldl (copyOutPiece d errs) (copyRun0 s got)

/-- The oldest descriptor of a ring with an opcode that is in flight and may run: a fence waits for all earlier ones. -/
def State.runnable (s : State) (q op : Nat) : Option Taken :=
  let l := (s.ring q).taken
  (l.zipIdx.find? fun (t, i) =>
    t.finished.isNone && dOp t.octets == op &&
      (dOctet t.octets 1 / 2 % 2 == 0 || (l.take i).all fun e => e.finished.isSome)).map (·.1)

/-- A copy keeps its place: how far the descriptor of a slot has got. -/
def State.keepCopy (s : State) (q index : Nat) (got : Copied) : State :=
  s.updRing q fun r => { r with taken := r.taken.map fun t =>
    if t.index = index ∧ t.finished.isNone then { t with copied := got } else t }

/-- The status and the result of a COPY_IN that has ended: with 0x071 the containers in [63:32] and the nonets in [31:0] (R388). -/
def CopyRun.inResult (c : CopyRun) : Nat × Nat :=
  if c.status = 0 ∧ 0 < c.got.dirty then (0x071, c.got.moved % 2 ^ 32 + c.got.dirty % 2 ^ 32 * 2 ^ 32) else (c.status, c.got.moved)

/-- The effect of a copy descriptor, and its completion; one whose access must wait stays in flight. -/
def State.copyIn (s : State) (q : Nat) (t : Taken) (errs : Errs) (ok : Bool) : State :=
  let d := copyDesc t.octets
  let f := s.copyFault d false
  if f ≠ 0 then s.finish q t.index f false 0
  else if !ok then s.finish q t.index 0x703 false 0
  else
    let c := s.copyInRun d errs t.copied
    if c.stuck then c.s.keepCopy q t.index c.got
    else c.s.finish q t.index c.inResult.1 false c.inResult.2

def State.copyOut (s : State) (q : Nat) (t : Taken) (errs : Errs) (ok : Bool) : State :=
  let d := copyDesc t.octets
  let f := s.copyFault d true
  if f ≠ 0 then s.finish q t.index f false 0
  else
    let c := s.copyOutRun d errs t.copied
    if c.stuck then c.s.keepCopy q t.index c.got
    else if !ok then { c.s with hostMem := s.hostMem }.finish q t.index 0x704 c.got.nf 0
    else c.s.finish q t.index c.status c.got.nf c.got.moved

/-- A copy ring moves nothing in phase Abort (R389). -/
def State.copyRow (s : State) (q op : Nat) (f : Taken → State) : State :=
  if s.ringJob q || s.seq.phase == 7 then s
  else
    match s.runnable q op with
    | none => s
    | some t => f t

def execCopyIn (ring : Nat) (errs : Errs) (readOk : Bool) (s : State) : Res :=
  onRing ring (s.copyRow ring 1 fun t => s.copyIn ring t errs readOk)
def execCopyOut (ring : Nat) (errs : Errs) (writeOk : Bool) (s : State) : Res :=
  onRing ring (s.copyRow ring 2 fun t => s.copyOut ring t errs writeOk)

/-! ### Job commands (R391, Table HST-7) -/

def jHost (t : Taken) : Nat := dField t.octets 8 8
def jLength (t : Taken) : Nat := dField t.octets 16 8
def jStep (t : Taken) : Word64 := BitVec.ofNat 64 (dField t.octets 24 8)
def jArg (t : Taken) : Nat := dField t.octets 32 8

/-- The job descriptor in flight with an opcode, if there is one. Under the service rail it completes with 0x708 (R404). -/
def State.jobRow (s : State) (q op : Nat) (f : Taken → State) : State :=
  if !s.ringJob q then s
  else
    match s.runnable q op with
    | none => s
    | some t => if s.onService then s.finish q t.index 0x708 false 0 else f t

/-- The job is held before commit action 6 (R378). -/
def State.holding (s : State) : Bool := s.seq.held && field (s.bar 8) 5 1 == 1
/-- A job runs and is not held. -/
def State.jobRuns (s : State) : Bool := s.seq.running && !s.holding

/-- A descriptor completes with a code of the schedule, which the region words record (Table STP-5). -/
def State.finishSched (s : State) (q i code : Nat) : State :=
  (s.forRegions fun t r => t.schedCode r code).finish q i code false 0

/-- The role epochs of a job image, as every table takes them (R230). -/
def imageEpochs (img : JobImage) (base : Nat) : Sparse (BitVec 12) :=
  img.epochs.foldl (fun m (u, e) => m.set 0 (base + u) e) []

def State.loadEpochs (s : State) (img : JobImage) : State :=
  let own := imageEpochs img 0
  let all := (List.range 20).flatMap fun c => imageEpochs img (c * 16384)
  (List.range 48).foldl (fun t r => t.updRegion r fun x => { x with epochs := own, ifEpochs := all }) s

/-- Counts that a job image expects of a region, in the widths of Table STP-5 (R7). -/
def State.loadExpected (s : State) (img : JobImage) : State :=
  let t0 := (List.range 48).foldl (fun t r => ((t.setP1 r 15369 0).setP1 r 15371 0).setP1 r 15373 0) s
  img.expected.foldl (fun t (r, a, b, c) => ((t.setP1 r 15368 (wd (a % 2 ^ 24))).setP1 r 15370 (wd (b % 2 ^ 27))).setP1 r 15372 (wd (c % 2 ^ 27))) t0

/-- The schedule state that a job image gives (R272). -/
def imageSchedule (img : JobImage) : Schedule :=
  { Schedule.reset with
    step := img.step, jobSeed := img.jobSeed, scaleExp := BitVec.ofInt 36 img.scaleExp,
    scaleMin := BitVec.ofInt 9 img.scaleMin, scaleMax := BitVec.ofInt 9 img.scaleMax,
    cleanCount := BitVec.ofNat 24 img.cleanCount, cleanLimit := BitVec.ofNat 24 img.cleanLimit,
    skipRun := BitVec.ofNat 12 img.skipRun, skipLimit := BitVec.ofNat 12 img.skipLimit, updCount := BitVec.ofNat 36 img.updCount,
    inputCursor := img.inputCursor, jobRingPos := BitVec.ofNat 36 img.jobRingPos }

/-- The resident image of a unit is put into its region's well, at the place the job image gives, and into the unit (R352, R360). -/
def State.placeImage (s : State) (g : UnitImage) : State :=
  let ds := g.rows.map (·.2.1)
  let t := s.writeWell (regionOf g.unit) g.place (ds ++ List.replicate ((8 - ds.length % 8) % 8) 0)
  if t.absent g.unit then t
  else ((t.writeCells g.unit (imageCells g ds)).imageControl g).scriptLoad g.unit []

/-- A job image is taken: tables, resident images, scripts, expected counts, schedule state, sync objects. -/
def State.takeImage (s : State) (img : JobImage) : State :=
  let word0 (o r : Nat) : Word := ((img.sync.find? fun (rg, k, _, _) => rg == r && k == o).map (·.2.2.1)).getD 0
  let s1 := { s with host := { s.host with image := some img }, mgmt := { s.mgmt with jobDigest := img.digest } }
  let s2 := s1.updSeq fun q => { q with
    sched := imageSchedule img, carried := img.carried.map fun (o, r) => (o, r, word0 o r), snapshots := [], snapIn := [],
    scripts := [], updated := [], trailers := [], carbons := [] }
  -- the stream entries of the tables name counters of the image (R265)
  let s3 := (List.range 48).foldl (fun v r => v.updRegion r fun x => { x with sync := v.imageSync r }) s2
  let s4 := ((s3.applyTables img.tables).takeRoster).loadExpected img
  let s4a := (List.range 48).foldl (fun v r =>
    if (v.well r).lastStream = [] ∧ (v.well r).blotLast = [] ∧ (v.well r).reserved = [] then v
    else v.updWell r fun x => { x with lastStream := [], blotLast := [], reserved := [] }) s4
  let s5 := img.units.foldl State.placeImage s4a
  ((s5.copySchedule.keepBlot).setStatus 4 1 1).setStatus 18 1 0

def State.loadJob (s : State) (q : Nat) (t : Taken) (img : JobImage) (ok : Bool) : State :=
  if s.seq.running then s.finish q t.index 0x708 false 0
  else if !ok then s.finish q t.index 0x703 false 0
  else if img.detClass.toNat ≠ field (s.bar 4) 0 16 then s.finishSched q t.index 0x806
  else if !img.digestOk then s.finish q t.index 0x70D false 0
  else if !img.tables.all tableRecOk then s.finish q t.index 0x70F false 0
  else
    -- the units' rows are written once the maintenance ports have won their banks; until then the descriptor stays in flight
    match s.winBanks maintImage (img.units.flatMap fun g => banksOf g.unit (g.rows.map (·.1))) with
    | (v, true) => (v.takeImage img).finish q t.index 0 false img.octets
    | (v, false) => v

def execLoadImage (ring : Nat) (img : JobImage) (readOk : Bool) (s : State) : Res :=
  onRing ring (s.jobRow ring 0x10 fun t => s.loadJob ring t img readOk)

/-- The job starts at its step, with no aborts counted and the placement of its image in force: epoch tables, blot-point state, go, then the open (R230, R272, R357). -/
def State.startJob (s : State) (img : JobImage) : State :=
  let s1 := (s.updSeq fun q => { q with
    running := true, held := false, stopAfter := none, aborts := 0, faults := [], lastFaults := [], reported := [], tests := [],
    digests := [], checkpoints := [], transfer := none, replan := false, recreate := [] }).loadEpochs img
  let s2 := (s1.forRegions fun t r => ((t.updP1 r 80 fun w => putField (putField w 3 5 0) 15 1 0).blotRegion r).goRegion r).copySchedule
  ((s2.setStatus 18 1 0).toOpen true)

def State.startRow (s : State) (q : Nat) (t : Taken) : State :=
  let step := s.seq.sched.step.toNat
  if s.holding then (((s.updSeq fun x => { x with held := false }).setStatus 18 1 0).blotTail).finish q t.index 0 false step
  else
    match s.seq.running, s.host.image with
    | false, some img => (s.startJob img).finish q t.index 0 false step
    | _, _ => s.finish q t.index 0x708 false 0

def execStart (ring : Nat) (s : State) : Res := onRing ring (s.jobRow ring 0x11 fun t => s.startRow ring t)

/-- STOP: after the next commit, or at once at the last committed state. The descriptor completes when the job stops. -/
def State.stopRow (s : State) (q : Nat) (t : Taken) : State :=
  if !s.seq.running then s.finish q t.index 0x708 false 0
  else if s.holding then s.jobStop 0
  else if jArg t % 2 = 0 then
    (s.updSeq fun x => { x with stopAfter := if x.stopAfter.isSome then x.stopAfter else some 0 }).blotTail
  else if s.seq.phase = 6 ∧ 5 ≤ s.seq.committed then s.jobStop 0
  else
    let s1 := if s.seq.phase = 7 then s else s.enterAbort.abortUp none
    if s1.seq.running then s1.jobStop 0 else s1

def execStop (ring : Nat) (s : State) : Res := onRing ring (s.jobRow ring 0x12 fun t => s.stopRow ring t)

/-- Octets of a checkpoint: 6,912 a block, 32 a shard, 104 of schedule state, 16 a carried object, the generation. -/
def State.checkpointSize (s : State) : Nat :=
  (s.ownShards.map fun k => 6912 * (s.blocksOf k).length + 32).sum + 104 + 16 * s.seq.carried.length + 2

/-- The octets of a checkpoint (R371), in the order of the rule, from the blocks of the shards; words take 8 octets, rows 72. -/
def State.checkpointOctets (s : State) (shards : List (Nat × List (Nat × List Row))) : List Octet :=
  let sched := (s.seq.sched.words (s.seq.sched.skipRun != 0) ++ [s.seq.sched.jobRingPos]).flatMap fun w => leOctets 8 w.toNat
  let carried := s.seq.carried.flatMap fun (o, r, v) =>
    leOctets 8 (o % 2 ^ 14 + r % 64 * 2 ^ 14 + 2 ^ 20) ++ leOctets 8 v.toNat
  (shards.flatMap fun (_, bs) => bs.flatMap fun (_, rows) => rows.flatMap rowOctets) ++
    (shards.flatMap fun (k, bs) => s.shardDigest k bs) ++ sched ++ carried ++ leOctets 2 s.generation

/-- CHECKPOINT and DIGEST are kept until their target step (R312, R371). -/
def State.checkpointRow (s : State) (q : Nat) (t : Taken) : State :=
  if !s.jobRuns then s.finish q t.index 0x708 false 0
  else if s.seq.checkpoints.any fun c => c.ring == q && c.index == t.index then s
  else if jStep t < s.seq.sched.step then s.finishSched q t.index 0x807
  else if jLength t < s.checkpointSize then s.finish q t.index 0x70E false 0
  else
    let c : Target := { ring := q, index := t.index, step := jStep t, addr := BitVec.ofNat 64 (jHost t), room := jLength t }
    s.updSeq fun x => { x with checkpoints := x.checkpoints ++ [c] }

def execCheckpoint (ring : Nat) (s : State) : Res := onRing ring (s.jobRow ring 0x13 fun t => s.checkpointRow ring t)

def State.digestRow (s : State) (q : Nat) (t : Taken) : State :=
  if !s.jobRuns then s.finish q t.index 0x708 false 0
  else if s.seq.digests.any fun c => c.ring == q && c.index == t.index then s
  else if jStep t < s.seq.sched.step then s.finishSched q t.index 0x807
  else
    let c : Target := { ring := q, index := t.index, step := jStep t, addr := BitVec.ofNat 64 (jHost t), room := jLength t }
    s.updSeq fun x => { x with digests := x.digests ++ [c] }

def execDigest (ring : Nat) (s : State) : Res := onRing ring (s.jobRow ring 0x16 fun t => s.digestRow ring t)

/-- The transfer of a checkpoint ends, and the next open may follow (R371). While a row cannot be read it goes on. -/
def State.transferDone (s : State) (ok : Bool) (errs : Errs) : State :=
  match s.seq.transfer with
  | none => s
  | some c =>
    match s.shardReads errs 0 s.ownShards with
    | (t, none) => t
    | (t, some bs) =>
      let os := s.checkpointOctets bs
      let s1 := t.updSeq fun x => { x with transfer := none, checkpoints := x.checkpoints.erase c }
      let s2 :=
        if !ok then s1.finish c.ring c.index 0x704 false 0
        else if c.room < os.length then s1.finish c.ring c.index 0x70E false 0
        else (s1.hostWrite c.addr.toNat os).finish c.ring c.index 0 false os.length
      s2.blotTail

def execCheckpointTransferComplete (x : TransferEnd) (s : State) : Res := .next (s.transferDone x.writeOk x.errs)

/-- The master weights of a block, parameter by parameter: nonets 4i to 4i + 3 of granules 1 to 4 (R289). -/
def State.masterWeights (s : State) (r g : Nat) : List Nat :=
  (List.range 32).flatMap fun i => (List.range 16).map fun j => field ((s.well r).rows.get 0 (8 * g + i)) (36 * j) 36

/-- The weight granule of a block: its master weights rounded to N9E4 (R372). -/
def State.weightRows (s : State) (r g : Nat) : List Row :=
  let ns := (s.masterWeights r g).map fun c => (Num.encode Num.n9e4 0 0 (Num.decode Num.n36 c)).1
  (List.range 8).map fun i => rowOfNonets ((ns.drop (64 * i)).take 64)

/-- The owner sends the weight granules of its blocks. -/
def State.sendWeights (s : State) : State :=
  ((s.sys.shards.map (·.1)).filter s.ownShard).foldl (fun t k =>
    (t.blocksOf k).foldl (fun v b =>
      match v.blockPlace k b with
      | none => v
      | some (r, g) =>
        let own := v.ownIndex.toNat
        let f := mkFlit (mkHeader 7 false 2 own own v.ttlInit (v.wgtKind k b 0 true)) (v.weightRows r g)
        v.wgtMulticast 0 f k b (v.seq.sched.step.toNat % 65536) fun _ => 0) t) s

/-- The shard digests of the restored owner blocks are those of the checkpoint. -/
def State.digestsMatch (s : State) (ck : Checkpoint) (shards : List (Nat × List (Nat × List Row))) : Bool :=
  shards.all fun (k, bs) => ck.digests.contains (k, s.shardDigest k bs)

/-- Schedule state and carried objects of a checkpoint take effect; every carbon is to be made by R368. -/
def State.takeCheckpoint (s : State) (q i : Nat) (ck : Checkpoint) : State :=
  s.updSeq fun x => { x with
    sched := { x.sched with
      step := ck.step, jobSeed := ck.jobSeed, scaleExp := BitVec.ofInt 36 ck.scaleExp,
      scaleMin := BitVec.ofInt 9 ck.scaleMin, scaleMax := BitVec.ofInt 9 ck.scaleMax,
      cleanCount := BitVec.ofNat 24 ck.cleanCount, cleanLimit := BitVec.ofNat 24 ck.cleanLimit,
      skipRun := BitVec.ofNat 12 ck.skipRun, skipLimit := BitVec.ofNat 12 ck.skipLimit,
      updCount := BitVec.ofNat 36 ck.updCount, inputCursor := ck.inputCursor,
      jobRingPos := BitVec.ofNat 36 ck.jobRingPos }
    carried := ck.carried
    carbons := ((s.sys.shards.map (·.1)).filter fun k => s.carbonShard k && !s.ownShard k).map fun k => (k, false)
    restoring := some (q, i) }

/-- RESTORE (R372): owner blocks, digests, schedule state and carried objects, then the weight packets. -/
def State.restoreJob (s : State) (q : Nat) (t : Taken) (ck : Checkpoint) (errs : Errs) (ok : Bool) : State :=
  if s.seq.running || s.host.image.isNone then s.finish q t.index 0x708 false 0
  else if s.seq.restoring.isSome then s
  else if !ok then s.finish q t.index 0x703 false 0
  else if ck.detClass.toNat ≠ field (s.bar 4) 0 16 then s.finishSched q t.index 0x806
  else
    let s1 := ck.rows.foldl (fun v (r, i, d) => v.updWell r fun x => { x with rows := x.rows.set 0 i d }) s
    match s1.shardReads errs 0 s1.ownShards with
    | (s2, some bs) =>
      if s2.digestsMatch ck bs then (s2.takeCheckpoint q t.index ck).copySchedule.sendWeights.restoreTail
      else s2.finishSched q t.index 0x80D
    | (s2, none) => s2.finishSched q t.index 0x80D

def execRestore (ring : Nat) (ck : Checkpoint) (reads : RestoreReads) (s : State) : Res :=
  onRing ring (s.jobRow ring 0x14 fun t => s.restoreJob ring t ck reads.errs reads.ok)

/-- The 64-bit words of a payload, 8 octets each, the least significant first. -/
def setWords (os : List Octet) : List (BitVec 64) := (List.range (os.length / 8)).map fun i => BitVec.ofNat 64 (dField os (8 * i) 8)

/-- The records of a table set from its octets: a header of 16, then the payload (R392); none where a length does not fit. The number
bounds the records. -/
def setRecords : Nat → List Octet → Option (List TableRec)
  | _, [] => some []
  | 0, _ => none
  | k + 1, os =>
    let n := dField os 12 4
    if os.length < 16 + n ∨ n % 8 ≠ 0 then none
    else
      (setRecords k (os.drop (16 + n))).map fun l =>
        { kind := dOctet os 0, region := dOctet os 1, first := dField os 4 4, count := dField os 8 4
          words := setWords ((os.drop 16).take n) } :: l

/-- A table set as it stands in host memory; none: it fails as a whole. -/
def State.readSet (s : State) (t : Taken) : Option (List TableRec) :=
  let os := s.hostRead (jHost t) (jLength t)
  (setRecords (jLength t / 16 + 1) os).filter fun l => l.all tableRecOk

/-- The stream entries that a set rewrites while the step is aborted or after its commit are those of the blot point (R269, R357). -/
def State.blotStreams (s : State) (l : List TableRec) : State :=
  (l.filter fun t => t.kind == 10).foldl (fun v t =>
    (List.range t.count).foldl (fun w i =>
      let js := streamStatus (t.first + i) :: (List.range 4).map (streamIndex (t.first + i))
      w.updRegion t.region fun x => { x with blot := js.foldl (fun m j => m.set 0 j (w.p1 t.region j)) x.blot }) v) s

/-- The plan that the abort or the Blot phase waits for has come: it is applied, and replan_needed is cleared (R363, R366, R373). -/
def State.applyReplan (s : State) (l : List TableRec) : State :=
  let t := (s.loadSet l).blotStreams l
  (t.forRegions fun v r => v.updP1 r 80 fun w => putField w 15 1 0).updSeq fun x => { x with replan := false }

/-- REDISTRIBUTE: at once while the abort or the Blot phase awaits its plan (R363, R366), else at commit action 4. -/
def State.redistribute (s : State) (q : Nat) (t : Taken) (ok superseded : Bool) : State :=
  if !s.jobRuns then s.finish q t.index 0x708 false 0
  else if s.sys.tables.any fun e => e.1 == q && e.2.1 == t.index then s
  else if !ok then s.finish q t.index 0x703 false 0
  else
    match s.readSet t with
    | none => s.finish q t.index 0x70F false 0
    | some l =>
      if superseded then s.finishSched q t.index 0x80C
      else if s.seq.replan = true ∧ (s.seq.phase = 7 ∨ s.inTail = true) then
        (((s.applyReplan l).finish q t.index 0 false l.length).abortNext).blotTail
      else s.updSys fun y => { y with tables := y.tables ++ [(q, t.index, l)] }

/-- `set`: what the host has put at the descriptor's address before it gave the command; the engine reads it there. -/
def execRedistribute (ring : Nat) (set : List Octet) (readOk superseded : Bool) (s : State) : Res :=
  onRing ring (s.jobRow ring 0x15 fun t => (s.hostWrite (jHost t) set).redistribute ring t readOk superseded)

/-- A read of the module has timed out: the descriptor concerned completes, and none of the data is used, so that a table set that waits
for the commit is dropped (R377). A RESTORE that waits for weight packets has read all it needs. -/
def State.readTimeout (s : State) (q : Nat) : State :=
  match (s.inFlight q).find? fun t =>
    [0x01, 0x10, 0x14, 0x15].contains (dOp t.octets) && s.seq.restoring != some (q, t.index) with
  | none => s
  | some t =>
    (s.updSys fun y => { y with tables := y.tables.filter fun e => !(e.1 == q && e.2.1 == t.index) }).finish q t.index 0x703 false 0

def execCompletionTimeout (ring : Nat) (s : State) : Res := onRing ring (s.readTimeout ring)

/-! ### Completions and interrupts (R384, R390, R393) -/

/-- The octets of a completion (Table HST-8). -/
def completionOctets (t : Taken) (status : BitVec 12) (nf : Bool) (result : BitVec 64) (phase : Bool) : List Octet :=
  (List.range 4).map (fun i => t.octets.getD (4 + i) 0) ++
    leOctets 2 (status.toNat + nf.toNat * 2 ^ 12 + phase.toNat * 2 ^ 15) ++ leOctets 2 t.index ++ leOctets 8 result.toNat

/-- An irq completion: the count's interrupt, or the timer starts. -/
def State.ringIrq (s : State) (q : Nat) : State :=
  let w := s.bar (ringReg q 0x10)
  let n := (s.ring q).irqs + 1
  if field w 13 8 ≠ 0 ∧ field w 13 8 ≤ n then
    (s.updRing q fun r => { r with irqs := 0, timer := false }).msix (field w 7 6)
  else s.updRing q fun r => { r with irqs := n, timer := r.timer || field (s.bar (ringReg q 0x14)) 0 16 != 0 }

/-- The oldest descriptor's completion is written once it has completed; a disabled ring that has no more stops. -/
def State.writeCompletion (s : State) (q : Nat) (ok : Bool) : State :=
  match (s.ring q).taken with
  | [] => s
  | t :: rest =>
    match t.finished with
    | none => s
    | some (st, nf, res) =>
      let ph := (s.ring q).phase
      let s1 := if ok then s.hostWrite (s.base64 (ringReg q 8) + 16 * t.index) (completionOctets t st nf res ph) else s
      let wrap := decide (t.index + 1 = s.ringSize q)
      let s2 := s1.updRing q fun r => { r with taken := rest, phase := ph != wrap, cplSlot := (t.index + 1) % s.ringSize q }
      let s3 := if dOctet t.octets 1 % 2 = 1 then s2.ringIrq q else s2
      if s3.ringEnabled q = false ∧ rest = [] then s3.setRingState q 0 else s3

def execCompletionWrite (ring : Nat) (writeOk : Bool) (s : State) : Res := onRing ring (s.writeCompletion ring writeOk)

/-- irq_us after the first unsignalled completion. -/
def State.ringTimer (s : State) (q : Nat) : State :=
  if (s.ring q).timer then
    (s.updRing q fun r => { r with irqs := 0, timer := false }).msix (field (s.bar (ringReg q 0x10)) 7 6)
  else s

def execInterruptTimer (ring : Nat) (s : State) : Res := onRing ring (s.ringTimer ring)

/-! ### Event rings (R394, R395) -/

def evtReg (e off : Nat) : Nat := 0x1800 + 0x40 * e + off
def State.evtEnabled (s : State) (e : Nat) : Bool := field (s.bar (evtReg e 8)) 0 1 == 1
def State.evtSize (s : State) (e : Nat) : Nat := 2 ^ field (s.bar (evtReg e 8)) 1 5
def State.evtTail (s : State) (e : Nat) : Nat := field (s.bar (evtReg e 0xC)) 0 16
def State.evRing (s : State) (e : Nat) : EvRing := s.host.evRings.get EvRing.reset e
def State.setEvRing (s : State) (e : Nat) (x : EvRing) : State :=
  { s with host := { s.host with evRings := s.host.evRings.set EvRing.reset e x } }

/-- The ring takes records of a code's high nibble. -/
def State.evtMasked (s : State) (e : Nat) (code : BitVec 12) : Bool := field (s.bar (evtReg e 8)) (12 + code.toNat / 256) 1 == 1 && decide (code.toNat / 256 ≤ 8)

/-- The record head of an event ring, from doorbell block 2. -/
def State.evtHead (s : State) (e : Nat) : Nat := if s.dbEnabled 2 then (s.dbWord 2 e).1 else 0

def State.evtFull (s : State) (e : Nat) : Bool := (s.evtTail e + 65536 - s.evtHead e) % 65536 == s.evtSize e

/-- The octets of a record (Table HST-10). -/
def recordOctets (r : EvRec) (phase : Bool) : List Octet :=
  leOctets 2 (r.code.toNat + phase.toNat * 2 ^ 15) ++ leOctets 1 r.source ++ leOctets 1 r.region ++ leOctets 2 r.subject ++
    leOctets 2 0 ++ leOctets 8 r.step.toNat ++ leOctets 8 r.hclk ++ leOctets 8 r.detail.toNat

/-- Writes a record into the next slot of an event ring, and raises its vector. -/
def State.evtPut (s : State) (e : Nat) (r : EvRec) : State :=
  let slot := s.evtTail e % s.evtSize e
  let x := s.evRing e
  let s1 := s.hostWrite (s.base64 (evtReg e 0) + 32 * slot) (recordOctets r x.phase)
  let s2 := s1.setEvRing e { x with phase := x.phase != decide (slot + 1 = s.evtSize e) }
  let s3 := s2.updBar (evtReg e 0xC) fun w => putField w 0 16 (field w 0 16 + 1)
  s3.msix (field (s3.bar (evtReg e 8)) 6 6)

/-- A record that finds the ring full is dropped and counted. -/
def State.evtDrop (s : State) (e : Nat) : State :=
  let s1 := (s.updBar (evtReg e 0xC) fun w => bumpField w 16 16).seeBar 0x14 1
  s1.setEvRing e { s1.evRing e with dropped := (s1.evRing e).dropped + 1 }

/-- A record is offered to an event ring; the count of dropped records goes first once there is space. -/
def State.evtOffer (s : State) (r : EvRec) (e : Nat) : State :=
  if !s.evtEnabled e || !s.evtMasked e r.code then s
  else if s.evtFull e then s.evtDrop e
  else
    let n := (s.evRing e).dropped
    let s1 :=
      if n = 0 then s
      else (s.setEvRing e { s.evRing e with dropped := 0 }).evtPut e (s.evRec srcHost 0x072 255 0xFFFF n)
    if s1.evtFull e then s1.evtDrop e else s1.evtPut e r

/-- The oldest record raised is written to every event ring that admits it. -/
def State.hostRecord (s : State) : State :=
  match s.host.events with
  | [] => s
  | r :: rest => (List.range 4).foldl (fun t e => t.evtOffer r e) { s with host := { s.host with events := rest } }

def execHostEventRecord (s : State) : Res := .next s.hostRecord

/-! ### Resets and power states of the function (R378, R457) -/

/-- One copy that a reset of the function has found in flight goes on; what is left of it, if it must wait. -/
def State.drainCopy (s : State) (t : Taken) : State × List Taken :=
  let d := copyDesc t.octets
  let out := dOp t.octets != 1
  if s.copyFault d out ≠ 0 then (s, [])
  else
    let c := if out then s.copyOutRun d [] t.copied else s.copyInRun d [] t.copied
    (c.s, if c.stuck then [{ t with copied := c.got }] else [])

/-- Copies in flight at a reset of the function complete internally, and their completions are discarded (R378). -/
def State.drainCopies (s : State) : State :=
  if s.seq.phase = 7 then s
  else
    s.host.draining.foldl (fun t d =>
      let (v, l) := t.drainCopy d
      { v with host := { v.host with draining := v.host.draining ++ l } }) { s with host := { s.host with draining := [] } }

/-- FLR: the host engine and the registers of the function return to reset, but for the identity that HST_ID and HST_FW show (Table HST-3).
A running job is to be held at its next blot point. -/
def State.flr (s : State) : State :=
  let copies := s.copyRings.flatMap fun q => (s.inFlight q).filter fun t => dOp t.octets == 1 || dOp t.octets == 2
  let s1 : State := { s with
    bar0 := s.bar0.filter fun e => decide (0x10000 ≤ e.1) || e.1 == 0 || e.1 == 4
    host := { s.host with
      rings := [], evRings := [], d3 := false, fnMask := false, config := [], draining := s.host.draining ++ copies } }
  let s2 := s1.drainCopies.updSys fun y => { y with tables := y.tables.map fun (_, _, l) => (32, 0, l) }
  let s3 := s2.updSeq fun x => { x with
    held := x.running, digests := [], checkpoints := [], transfer := none,
    restoring := x.restoring.map fun _ => (32, 0) }
  s3.blotTail

def execFlr (s : State) : Res := .next s.flr
/-- Hot reset and PERST# act as FLR on the host engine. -/
def execHotReset (s : State) : Res := .next s.flr
def execPerst (s : State) : Res := .next s.flr

def execD3hot (s : State) : Res := .next { s with host := { s.host with d3 := true } }
/-- A return to D0 resumes polling; vectors left pending are sent. -/
def execD0 (s : State) : Res := .next { s with host := { s.host with d3 := false } }.msixPending

/-! ### Configuration requests (R376, Table HST-1) -/

/-- A configuration word (Table HST-1): device, class and revision; BAR0 alone, 64 bits and 1 MiB, and no interrupt pin; the MSI-X capability
with 64 vectors, its table and its pending bits in BAR0; a payload of up to 512 octets; No_Soft_Reset and the power state. The rest is the
PCI Express specification's. -/
def State.configRead (s : State) (a : BitVec 12) : Reg32 :=
  let w := Config.configWord a
  let set := s.host.config.get 0 a.toNat
  if a.toNat / 4 = 0 then putField w 16 16 0x4816
  else if a.toNat / 4 = 2 then BitVec.ofNat 32 (0x12000000 + field (s.bar 0) 16 4)
  else if a.toNat / 4 = 4 then putField (4 : Reg32) 20 12 (field set 20 12)
  else if a.toNat / 4 = 5 then set
  else if 6 ≤ a.toNat / 4 ∧ a.toNat / 4 < 10 then 0
  else if a.toNat / 4 = 15 then putField w 8 8 0
  else if a = Config.msixCap then putField (putField (putField w 16 11 63) 30 1 s.host.fnMask.toNat) 31 1 (field set 31 1)
  else if a = Config.msixCap + 4 then 0x8000
  else if a = Config.msixCap + 8 then 0x9000
  else if a = Config.deviceCap then putField w 0 3 2
  else if a = Config.powerCap then putField (putField w 0 2 (if s.host.d3 then 3 else 0)) 3 1 1
  else w

/-- Retry status until boot is complete (R376); then the word is read, or the write is taken: the module keeps it, and the function mask of
MSI-X has its effect (R462). -/
def State.configRequest (s : State) (a : BitVec 12) (write : Option Reg32) : State :=
  if !s.host.ready then s.emit (.config true 0)
  else
    match write with
    | none => s.emit (.config false (s.configRead a))
    | some v =>
      let s0 := { s with host := { s.host with config := s.host.config.set 0 a.toNat v } }
      let s1 := if a = Config.msixCap then { s0 with host := { s0.host with fnMask := field v 30 1 == 1 } }.msixPending else s0
      s1.emit (.config false 0)

def execConfigurationRequest (address : BitVec 12) (write : Option Reg32) (s : State) : Res :=
  .next (s.configRequest address write)

/-! ### Idle steps -/

/-- What goes on without a command: the banks, a commit that waits for them, and copies that a reset has left (log 3). -/
def State.idle (s : State) : State := s.tick.commitRetry.drainCopies

end Sys2Proof.Machine
end

