-- ==== Sys2Proof/Machine/Fec.lean ====
section
/-! DEFINITION. A flit on the fibres (R314-R316): its 640 octets, CRC-32C, the four interleaved RS(160, 152) codewords, their decoding,
and the octets of each lane. -/

namespace Sys2Proof.Machine

/-- `k n`, with the number evaluated first: the folds below then stay shallow for the kernel too. -/
def onValue {α : Type} (n : Nat) (k : Nat → α) : α :=
  match n with
  | 0 => k 0
  | m + 1 => k (m + 1)

@[simp] theorem onValue_eq {α : Type} (n : Nat) (k : Nat → α) : onValue n k = k n := by cases n <;> rfl

/-- A fold to the left over a number that is evaluated at each step. -/
def foldNat (f : Nat → Nat → Nat) : Nat → List Nat → Nat
  | a, [] => a
  | a, x :: xs => onValue (f a x) fun b => foldNat f b xs

/-! ### GF(2^8) with x^8 + x^4 + x^3 + x^2 + 1 (R316) -/

/-- Times α. -/
def gfDouble (a : Nat) : Nat := if a < 128 then 2 * a else (2 * a) ^^^ 0x11D

/-- Product: the sum of the multiples a·α^k for the bits k of b. -/
def gfMul (a b : Nat) : Nat :=
  ((List.range 8).foldl (fun (acc, x) k => (if b.testBit k then acc ^^^ x else acc, gfDouble x)) (0, a)).1

/-- α^k. -/
def gfExp (k : Nat) : Nat := foldNat (fun a _ => gfDouble a) 1 (List.range (k % 255))

/-- Inverse, a^254. -/
def gfInv (a : Nat) : Nat :=
  ((List.range 7).foldl (fun (p, q) _ => (gfMul p (gfMul q q), gfMul q q)) (1, a)).1

/-- Value of a polynomial, highest coefficient first. -/
def gfEval (p : List Nat) (x : Nat) : Nat := foldNat (fun a c => gfMul a x ^^^ c) 0 p

/-- Sum of two polynomials, lowest coefficient first. -/
def gfAdd : List Nat → List Nat → List Nat
  | a :: as, b :: bs => onValue (a ^^^ b) fun c => c :: gfAdd as bs
  | as, [] => as
  | [], bs => bs

/-! ### RS(160, 152) -/

/-- The generator polynomial with roots α^0 to α^7 but for its leading coefficient, highest first. -/
def rsGenerator : List Nat :=
  ((List.range 8).foldl (fun g j => gfAdd (0 :: g) (g.map (gfMul (gfExp j)))) [1]).reverse.drop 1

/-- The remainder after more octets of data have been divided by the generator. -/
def rsFeed : List Nat → List Nat → List Nat
  | d :: ds, r :: rs => onValue (d ^^^ r) fun f => rsFeed ds (gfAdd (rs ++ [0]) (rsGenerator.map (gfMul f)))
  | _, rs => rs

/-- The eight parity octets of a codeword's data, the first octet the highest coefficient (DESIGN CHOICE, log 140). -/
def rsParity (data : List Nat) : List Nat :=
  rsFeed data (List.replicate 8 0)

/-- The eight syndromes of a received word. -/
def rsSyndromes (w : List Nat) : List Nat := (List.range 8).map fun j => gfEval w (gfExp j)

/-- One step of the search for the shortest error locator: locator, previous one, its length, steps since, previous discrepancy. -/
def rsStep (syn : List Nat) (st : List Nat × List Nat × Nat × Nat × Nat) (n : Nat) : List Nat × List Nat × Nat × Nat × Nat :=
  let (c, b, len, m, bd) := st
  let d := (List.range (len + 1)).foldl (fun a i => a ^^^ gfMul (c.getD i 0) (syn.getD (n - i) 0)) 0
  if d = 0 then (c, b, len, m + 1, bd)
  else
    let k := gfMul d (gfInv bd)
    let c1 := gfAdd c (List.replicate m 0 ++ b.map (gfMul k))
    if 2 * len ≤ n then (c1, c, n + 1 - len, 1, d) else (c1, b, len, m + 1, bd)

/-- The error locator, lowest coefficient first, and its length. -/
def rsLocator (syn : List Nat) : List Nat × Nat :=
  let (c, _, len, _, _) := (List.range 8).foldl (rsStep syn) ([1], [1], 0, 1, 1)
  (c, len)

/-- The value of the error whose position has locator `x`. -/
def rsValue (syn loc : List Nat) (x : Nat) : Nat :=
  let xi := gfInv x
  let omega := (List.range 8).map fun k => (List.range (k + 1)).foldl (fun a i => a ^^^ gfMul (loc.getD i 0) (syn.getD (k - i) 0)) 0
  let slope := (List.range 5).foldl (fun a i =>
    if i % 2 = 1 then a ^^^ gfMul (loc.getD i 0) (gfEval (1 :: List.replicate (i - 1) 0) xi) else a) 0
  gfMul x (gfMul (gfEval omega.reverse xi) (gfInv slope))

/-- Decodes a word of 160 octets: the codeword within four octet errors and the positions corrected, or nothing. -/
def rsDecode (w : List Nat) : Option (List Nat × List Nat) :=
  let syn := rsSyndromes w
  if syn.all (· == 0) then some (w, [])
  else
    let (loc, len) := rsLocator syn
    let at_ (i : Nat) : Nat := gfExp (159 - i)
    let bad := (List.range 160).filter fun i => gfEval loc.reverse (gfInv (at_ i)) == 0
    let fixed := w.zipIdx.map fun (o, i) => if bad.contains i then o ^^^ rsValue syn loc (at_ i) else o
    if len ≤ 4 ∧ bad.length = len ∧ (rsSyndromes fixed).all (· == 0) = true then some (fixed, bad) else none

/-! ### The flit (Table LNK-2) -/

/-- CRC-32C of some octets; bit order, start value and final inversion are those of the customary CRC-32C (PRESUMED, log 151). -/
def crc32c (os : List Nat) : Nat :=
  foldNat (fun c o =>
    foldNat (fun v _ => if v % 2 = 1 then (v / 2) ^^^ 0x82F63B78 else v / 2) (c ^^^ o) (List.range 8)) 0xFFFFFFFF os ^^^ 0xFFFFFFFF

def octetsOf (n v : Nat) : List Nat := (List.range n).map fun i => v / 256 ^ i % 256

/-- Octets 0 to 607: header, payload, CRC (R315, R317). -/
def flitBody (f : Flit) : List Nat :=
  let os := octetsOf 28 f.header.toNat ++ ((List.range 8).flatMap fun i => octetsOf 72 (f.payload.getD i 0).toNat)
  os ++ octetsOf 4 (crc32c os)

/-- The data octets of codeword `c`: those whose number is c modulo 4. -/
def codeData (os : List Nat) (c : Nat) : List Nat := (List.range 152).map fun i => os.getD (4 * i + c) 0

/-- The 640 octets of a flit as it is sent. -/
def flitOctets (f : Flit) : List Nat :=
  let os := flitBody f
  let ps := (List.range 4).map fun c => rsParity (codeData os c)
  os ++ (List.range 32).map fun i => (ps.getD (i % 4) []).getD (i / 4) 0

/-- The octets that lane `j` of a direction of width `w` carries, round by round; the last round is filled with 0x00 (R314). -/
def laneOctets (os : List Nat) (w j : Nat) : List Nat :=
  (List.range ((os.length + w - 1) / max 1 w)).map fun k => os.getD (k * w + j) 0

/-- Octets that come from the lanes of a direction: octet i from lane i mod w in round i / w (R314). -/
def lanesMerge (lanes : List (List Nat)) : List Nat :=
  (List.range 640).map fun i => (lanes.getD (i % max 1 lanes.length) []).getD (i / max 1 lanes.length) 0

/-- The octets of a flit as they arrive over `w` lanes: its errors change some of them. -/
def flitArriving (f : Flit) (w : Nat) : List Nat :=
  (lanesMerge ((List.range w).map (laneOctets (flitOctets f) w))).zipIdx.map fun (o, i) =>
    f.errors.foldl (fun a (k, x) => if k = i then a ^^^ x.toNat else a) o

/-- What the receiver makes of a flit (R316): a flit with the octets it corrected, codewords decoded but CRC wrong, or a codeword that
does not decode, with what the codewords that decode corrected. -/
inductive Reception where
  | good (f : Flit) (corrected : List Nat)
  | crcFail (corrected : List Nat)
  | lost (corrected : List Nat)
deriving DecidableEq, Repr

/-- A number from octets, the first the least significant. -/
def natOfOctets (os : List Nat) : Nat := os.foldr (fun o a => o + 256 * a) 0

/-- The flit that octets 0 to 603 spell. -/
def flitOfOctets (os : List Nat) : Flit :=
  { header := BitVec.ofNat 224 (natOfOctets (os.take 28))
    payload := (List.range 8).map fun i => BitVec.ofNat 576 (natOfOctets ((os.drop (28 + 72 * i)).take 72))
    errors := [] }

/-- The receiver decodes all four codewords and then checks the CRC. -/
def receiveOctets (os : List Nat) : Reception :=
  let words := (List.range 4).map fun c =>
    rsDecode (codeData os c ++ (List.range 8).map fun j => os.getD (608 + 4 * j + c) 0)
  let ws := words.map fun w => w.getD ([], [])
  let fixed := ws.zipIdx.flatMap fun ((_, bad), c) => bad.map fun i => if i < 152 then 4 * i + c else 608 + 4 * (i - 152) + c
  if words.any (·.isNone) then .lost fixed
  else
    let data := (List.range 608).map fun i => (ws.getD (i % 4) ([], [])).1.getD (i / 4) 0
    if natOfOctets (data.drop 604) = crc32c (data.take 604) then .good (flitOfOctets data) fixed else .crcFail fixed

/-- The reception of a flit over `w` lanes; one that nothing has changed arrives as it was sent. -/
def flitReceived (f : Flit) (w : Nat) : Reception := if f.errors = [] then .good f [] else receiveOctets (flitArriving f w)

end Sys2Proof.Machine
end

