-- ==== Sys2Proof/Machine/Links.lean ====
section
/-! DEFINITION. Arrival of flits on the Apnen links (spec/12): retry, credits, the checks on a header, forwarding, delivery, the
system control path, lane maps and the states of a link. -/

namespace Sys2Proof.Machine

/-! ### Headers (R317, Tables LNK-3, LNK-4, LNK-7) -/

def fAck (f : Flit) : BitVec 12 := BitVec.ofNat 12 (hf f 20 12)
def fNak (f : Flit) : Bool := hf f 32 1 == 1
/-- Well flits. -/
def fTag (f : Flit) : Nat := hf f 80 16
def fRegion (f : Flit) : Nat := hf f 96 6
def fGranule (f : Flit) : Nat := hf f 102 27
def fFirst (f : Flit) : Nat := hf f 129 3
def fRows (f : Flit) : Nat := hf f 132 4
def fStatus (f : Flit) : Nat := hf f 136 12
/-- Weight flits. -/
def fShard (f : Flit) : Nat := hf f 80 12
def fBlock (f : Flit) : Nat := hf f 92 24
def fGkind (f : Flit) : Nat := hf f 116 4
def fStep16 (f : Flit) : Nat := hf f 120 16
def fMcast (f : Flit) : Bool := hf f 136 1 == 1
/-- System control flits. -/
def fCmd (f : Flit) : Nat := hf f 80 4
def fBit (f : Flit) : Bool := hf f 144 1 == 1
def fSubject (f : Flit) : Nat := hf f 145 12
def fCount (f : Flit) : Nat := hf f 157 13
/-- Maintenance flits. -/
def mntOp (f : Flit) : Nat := hf f 80 4
def fLane (f : Flit) : Nat := hf f 84 4
def fPass (f : Flit) : Bool := hf f 88 1 == 1
def fMap (f : Flit) : BitVec 32 := BitVec.ofNat 32 (hf f 89 32)

/-- The class of a flit type (Table LNK-4); IDLE and MNT carry lvc 0. -/
def typeClass (t : Nat) : Nat := match t with | 1 => 1 | 3 => 1 | 7 => 1 | 2 => 2 | 4 => 2 | 5 => 2 | 6 => 3 | _ => 0
/-- Bits of the kind fields of a flit type. -/
def kindBits (t : Nat) : Nat :=
  match t with | 0 => 0 | 5 => 68 | 6 => 141 | 7 => 57 | 8 => 91 | 9 => 41 | _ => 56
def sequenced (t : Nat) : Bool := decide (1 ≤ t ∧ t ≤ 8)

/-- The header is valid: its type defined, its reserved fields zero, its fields in range (R317). -/
def headerOk (f : Flit) : Bool :=
  let t := fType f
  decide (t ≤ 9) && hf f 71 9 == 0 && hf f (80 + kindBits t) (144 - kindBits t) == 0 && fLvc f / 2 == typeClass t &&
    (t ≠ 9 && t ≠ 0 || fLvc f == 0) &&
    (match t with
     | 6 => decide (1 ≤ hf f 211 4 ∧ hf f 211 4 ≤ 8)
     | 7 => decide (fGkind f ≤ 13) && (!fMcast f || fGkind f == 0)
     | 8 => decide (fCmd f ≤ 8)
     | 9 => decide (mntOp f ≤ 4)
     | 0 => true
     | _ => decide (1 ≤ fRows f ∧ fRows f ≤ 8))

/-! ### Retry and credits (R316-R322) -/

/-- Numbers up to `a` have been accepted by the other end. -/
def Link.acked (k : Link) (a : BitVec 12) : Link :=
  let n := (a + 1 - k.txAcked).toNat
  if n = 0 ∨ k.buffer.length < n then k
  else { k with buffer := k.buffer.drop n, txAcked := a + 1, replays := 0 }

/-- An end pauses its link and tells the other with MNT op 0 (R320, R324). -/
def State.pauseLink (s : State) (l : Nat) : State :=
  if s.lnkState l = 4 then s else (s.sendMnt l 0 0 false 0).setLnkState l 4

/-- Replays the retry buffer in order (R319); after the sixteenth replay of one number both ends pause for a retrain (R320). -/
def State.replay (s : State) (l : Nat) : State :=
  let k := s.link l
  if k.buffer = [] then s
  else
    let out := k.buffer.map fun f => { f with header := putField f.header 20 12 (k.rxNext - 1).toNat }
    let s1 := out.foldl (fun t f => t.emit (.flit l f)) (s.setLink l { k with buffer := out, replays := k.replays + 1 })
    if k.replays + 1 = 16 then s1.pauseLink l else s1

/-- A retry episode begins: nak, event 0x041, the count (R319). -/
def State.retryEpisode (s : State) (l : Nat) : State :=
  let k := s.link l
  if k.nakOpen then s
  else
    let h := putField (putField (mkHeader 0 false 0 0 s.ownIndex.toNat 0 0) 32 1 1) 20 12 k.rxNext.toNat
    let s1 := (s.setLink l { k with nakOpen := true }).emit (.flit l (mkFlit h []))
    let s2 := (s1.updBar (lnkReg l 0x14) fun w => bumpField w 0 16).seeBar (lnkReg l 0xC) 0
    s2.raiseLink l 0x041 0x14

/-- What the acknowledgement, nak and credit fields of a flit do. -/
def State.linkFields (s : State) (l : Nat) (f : Flit) : State :=
  let s1 := s.updLink l fun k => (k.acked (if fNak f then fAck f - 1 else fAck f)).giveCredits (hf f 62 3) (hf f 65 6)
  let s2 := if fNak f then s1.replay l else s1
  s2.linkPumpAll l

/-- An IDLE flit with a fresh acknowledgement, and the credit of the flit that has left the engine (R318, R322). -/
def State.ackBack (s : State) (l lvc : Nat) : State :=
  s.linkRaw l (putField (putField (mkHeader 0 false 0 0 s.ownIndex.toNat 0 0) 62 3 lvc) 65 6 1)

/-- A flit is dropped with event 0x409 (R317, R333). -/
def State.flitDrop (s : State) (l : Nat) : State :=
  let t := s.seeBar 0x3080C 5
  t.raiseFrom srcLink 0x409 l (t.bar 0x3080C).toNat

/-- A live link: fenced, up or paused. -/
def State.lnkLive (s : State) (l : Nat) : Bool := s.lnkState l == 2 || s.lnkState l == 3 || s.lnkState l == 4

/-- Planned repairs hold arriving flits of the next step (R365). -/
def State.holdsFlits (s : State) : Bool :=
  s.seq.phase == 6 && decide (5 ≤ s.seq.committed) && (s.plannedDue || s.repairing || !s.seq.tests.isEmpty)

/-- Physical lanes of the logical lanes of a map. -/
def mapLane (m : BitVec 32) (i : Nat) : Nat := field m (4 * i) 4
def mapLanes (m : BitVec 32) : List Nat := ((List.range 8).map (mapLane m)).filter fun p => p != 15

/-- Receive lanes of a link, by logical lane. -/
def State.rxLanes (s : State) (l : Nat) : List Nat := mapLanes (s.bar (lnkReg l 8))

/-- A receive lane is suspect: the link pauses, and the other end is to test that lane (R324). -/
def State.suspectLane (s : State) (l p : Nat) : State :=
  if !s.lnkLive l || !(s.rxLanes l).contains p then s
  else ((s.pauseLink l).updLink l fun k => { k with suspect := putField k.suspect p 1 1 }).sendMnt l 2 p false 0

/-- Root-PLL cycles of 1 ms. -/
def rootMs : Nat := 7200000

/-- Corrected octets are counted, in all and by physical lane over the last millisecond (R314, R316). -/
def State.countCorrected (s : State) (l : Nat) (octets : List Nat) : State :=
  if octets = [] then s
  else
    let ls := s.rxLanes l
    let lane (i : Nat) : Nat := ls.getD (i % max 1 ls.length) 15
    let s1 := s.updBar (lnkReg l 0x10) fun w => BitVec.ofNat 32 (min (w.toNat + octets.length) (2 ^ 32 - 1))
    s1.updLink l fun k => { k with
      corrected := (k.corrected.filter fun c => decide (s.root < c.2.1 + rootMs)) ++
        ls.map fun p => (p, s.root, (octets.filter fun i => lane i == p).length) }

/-- Corrected octets of a lane in the last millisecond. -/
def Link.laneErrors (k : Link) (p : Nat) : Nat := ((k.corrected.filter fun c => c.1 == p).map (·.2.2)).sum

/-- Lanes with more than 1,024 corrected octets in 1 ms are suspect (R324); `octets` have just been corrected. -/
def State.suspectLanes (s : State) (l : Nat) (octets : List Nat) : State :=
  if octets = [] then s
  else ((s.rxLanes l).filter fun p => decide (1024 < (s.link l).laneErrors p)).foldl (fun t p =>
    (t.updLink l fun k => { k with corrected := k.corrected.filter fun c => c.1 != p }).suspectLane l p) s

/-- The link is fenced, or paused on the way back there. -/
def State.fenced (s : State) (l : Nat) : Bool := s.lnkState l == 2 || (s.lnkState l == 4 && !s.joined l)

/-- A flit that its sender may send on this link: from a member any; from another module HELLO and its answer on a fenced link, and what
keeps that link going, IDLE and MNT (R333, R334; DEDUCED, log 163). -/
def State.admits (s : State) (l : Nat) (f : Flit) : Bool :=
  s.isMember (fSrc f) ||
    (if fType f = 0 ∨ fType f = 9 then s.fenced l
     else s.lnkState l == 2 && fType f == 8 && (fCmd f == 7 || fCmd f == 8))

/-- A flit that has been decoded: its retry fields are applied, and if it is the expected one and valid, `k` delivers it. -/
def State.rxGood (s : State) (l : Nat) (f : Flit) (k : State → State) : State :=
  let t := fType f
  let s1 := s.linkFields l f
  if !sequenced t then (if headerOk f && s1.admits l f then k s1 else s1.flitDrop l)
  else if hf f 8 12 ≠ (s1.link l).rxNext.toNat then s1.retryEpisode l
  else
    let s2 := (s1.updLink l fun x => { x with rxNext := x.rxNext + 1, nakOpen := false }).ackBack l (fLvc f)
    let hello := t == 8 && (fCmd f == 7 || fCmd f == 8)
    if !headerOk f then s2.flitDrop l
    else if s2.lnkState l = 2 ∧ hello = false then s2.flitDrop l
    else if s2.admits l f = false then s2.flitDrop l
    else if s2.seq.phase = 7 ∧ t ≠ 8 then s2
    else k s2

/-- A flit arrives and is decoded (R316, R319); `takes` says which flits the row stands for, and `k` delivers them. -/
def State.rx (s : State) (l : Nat) (f : Flit) (takes : Flit → Bool) (k : State → Flit → State) : State :=
  if !s.lnkLive l then s
  else
    match flitReceived f (s.rxLanes l).length with
    | .lost octets => ((s.countCorrected l octets).retryEpisode l).suspectLanes l octets
    | .crcFail octets =>
      (((s.countCorrected l octets).updBar (lnkReg l 0x14) fun w => bumpField w 16 16).retryEpisode l).suspectLanes l octets
    | .good g octets =>
      if !takes g || (s.holdsFlits && decide (1 ≤ fType g ∧ fType g ≤ 7)) then s
      else ((s.countCorrected l octets).rxGood l g fun t => k t g).suspectLanes l octets

/-- IDLE, and the flits that no row stands for: reserved types, commands and operations, which are dropped (R317). -/
def idleTakes (f : Flit) : Bool :=
  (fType f == 0 && !fNak f) || decide (9 < fType f) || (fType f == 8 && decide (8 < fCmd f)) ||
    (fType f == 9 && decide (4 < mntOp f))

def execIdle (link : Nat) (f : Flit) (s : State) : Res :=
  onLink link (s.rx link f idleTakes fun t _ => t)

def execNak (link : Nat) (f : Flit) (s : State) : Res := onLink link (s.rx link f (fun g => fType g == 0 && fNak g) fun t _ => t)

/-- No acknowledgement has come for 4 µs (R319). -/
def execReplayTimeout (link : Nat) (s : State) : Res := onLink link (if s.lnkLive link then s.replay link else s)

/-! ### Forwarding (R323, R327) -/

/-- A flit whose hops are used up (R327). -/
def State.ttlDrop (s : State) (l : Nat) : State :=
  let t := s.seeBar 0x3080C 4
  (t.raiseFrom srcLink 0x404 l (t.bar 0x3080C).toNat).report (causeOf 0x404 16383 none)

/-- The dateline bit of a flit that came on link `l` and leaves on link `o`, before that crossing (R323). -/
def State.passDateline (s : State) (l : Nat) (f : Flit) (o : Nat) : Nat := if s.lnkGroup o = s.lnkGroup l then fLvc f % 2 else 0

def hop (f : Flit) : Flit := { f with header := putField f.header 57 5 (fTtl f - 1) }

/-- A flit for another module goes on; without a route and without a hop left it reports the lower code (R344). -/
def State.linkForward (s : State) (l : Nat) (f : Flit) : State :=
  match s.routeLink (fSrc f) (fDst f) with
  | none => s.noRoute (fDst f)
  | some o => if fTtl f = 0 then s.ttlDrop l else s.linkOut o (hop f) (s.passDateline l f o)

/-- Delivered here, or sent on. -/
def State.deliverOr (s : State) (l : Nat) (f : Flit) (k : State → State) : State :=
  if fDst f = s.ownIndex.toNat then k s else s.linkForward l f

/-! ### Delivery (R329, R330) -/

/-- A message of a link engine (R329). -/
def fromLink (l : Nat) (f : Flit) : Msg := engineMsg l (BitVec.ofNat 12 (fSrc f)) (fNf f)

/-- The granule lies in a window entry of its region; a write also needs writable (R330). -/
def State.windowOk (s : State) (region granule : Nat) (write : Bool) : Bool :=
  s.sys.window.any fun (_, e) =>
    match e with
    | none => false
    | some w => w.region == region && decide (w.first ≤ granule ∧ granule < w.first + w.count) && (!write || w.writable)

/-- WRD and WWR: checked, then sent to the gateway. -/
def State.remoteAccess (s : State) (l : Nat) (f : Flit) (write : Bool) : State :=
  let v : Served :=
    { src := fSrc f, tag := fTag f, wtag := s.freeWafer, region := fRegion f, first := 8 * fGranule f + fFirst f,
      count := fRows f, rows := [] }
  let bad := lowest (waInvalid (waWell (fRegion f) (fGranule f)))
  if 8 < fFirst f + fRows f then s.answerServed v 5 0x174 []
  else if !s.windowOk (fRegion f) (fGranule f) write then
    ((s.seeBar 0x3080C 3).updBar 0x30810 fun w => bumpField w 16 16).answerServed v 5 0x403 []
  else if bad ≠ 0 then s.answerServed v 5 bad []
  else
    let s1 := s.updSys fun y => { y with served := y.served ++ [v] }
    let m := { fromLink l f with dstRegion := fRegion f, dstKind := 2, vc := 1, tag := BitVec.ofNat 16 v.wtag }
    let wa (i : Nat) : WAddr := waWell (fRegion f) (fGranule f) + BitVec.ofNat 48 (64 * (fFirst f + i))
    if write then s1.send { m with type := 1, wa := wa 0, body := (f.payload.drop (fFirst f)).take (fRows f) }
    else (List.range (fRows f)).foldl (fun t i => t.send { m with type := 0, wa := wa i }) s1

def execWrd (link : Nat) (f : Flit) (s : State) : Res :=
  onLink link (s.rx link f (fType · == 1) fun t g => t.deliverOr link g fun v => v.remoteAccess link g false)
def execWwr (link : Nat) (f : Flit) (s : State) : Res :=
  onLink link (s.rx link f (fType · == 3) fun t g => t.deliverOr link g fun v => v.remoteAccess link g true)

/-- An answer from another module to a request that left this one, as the message of its class with the flit's nf and source (R329). -/
def State.remoteAnswer (s : State) (f : Flit) (type status : Nat) (body : List Row) : State :=
  match s.sys.remote.find? fun p => p.1 == fTag f with
  | none => s
  | some (t, m) =>
    (s.updSys fun y => { y with remote := y.remote.filter fun p => p.1 != t }).send
      { s.answer m 2 type status (fNf f) [] body with srcModule := BitVec.ofNat 12 (fSrc f), epoch := 0 }

def execWrs (link : Nat) (f : Flit) (s : State) : Res :=
  onLink link (s.rx link f (fType · == 2) fun t g => t.deliverOr link g fun v =>
    v.remoteAnswer g 2 0 ((g.payload.drop (fFirst g)).take (fRows g)))
def execWak (link : Nat) (f : Flit) (s : State) : Res :=
  onLink link (s.rx link f (fType · == 4) fun t g => t.deliverOr link g fun v => v.remoteAnswer g 3 0 [])
def execWer (link : Nat) (f : Flit) (s : State) : Res :=
  onLink link (s.rx link f (fType · == 5) fun t g => t.deliverOr link g fun v => v.remoteAnswer g 4 (fStatus g) [])

/-- A reduction contribution for an endpoint here (R329, R341). -/
def redMsg (l : Nat) (f : Flit) : Msg :=
  { fromLink l f with
    dstRegion := hf f 215 6, dstKind := 2, vc := 3, type := 16,
    words := [wd (hf f 80 35), wd (hf f 115 24), wd (hf f 139 24), wd (hf f 163 24), wd (hf f 187 24)]
    body := f.payload.take (hf f 211 4) }

def execRed (link : Nat) (f : Flit) (s : State) : Res :=
  onLink link (s.rx link f (fType · == 6) fun t g => t.deliverOr link g fun v =>
    if 48 ≤ hf g 215 6 then v.flitDrop link else v.send (redMsg link g))

/-- A weight granule: multicast, or landed by its kind (R331, R332). With no hop left it is landed where its entry says
deliver, and its copies are dropped (R327, log 22). -/
def State.wgtFlit (s : State) (l : Nat) (f : Flit) : State :=
  if fMcast f then
    let e := s.sys.mcast.get 0 (fShard f)
    if fTtl f = 0 ∧ field e 24 2 ≠ 3 then s.ttlDrop l
    else if fTtl f = 0 then
      let t := s.wgtLand l (fSrc f) (fNf f) (fShard f) (fBlock f) 0 (fStep16 f) f.payload
      if field e 0 24 = 0 then t else t.ttlDrop l
    else
      -- the copies that go on have one hop fewer
      s.wgtMulticast l (hop f) (fShard f) (fBlock f) (fStep16 f) (s.passDateline l f)
  else s.deliverOr l f fun v => v.wgtLand l (fSrc f) (fNf f) (fShard f) (fBlock f) (fGkind f) (fStep16 f) f.payload

def execWgt (link : Nat) (f : Flit) (s : State) : Res := onLink link (s.rx link f (fType · == 7) fun t g => t.wgtFlit link g)

/-! ### System control path (R336-R340) -/

/-- A SYS flit of a stale step, attempt or generation is discarded with event 0x047 (R337). -/
def State.sysStale (s : State) (f : Flit) : Bool :=
  hf f 84 36 != s.seq.sched.step.toNat % 2 ^ 36 || hf f 120 8 != s.attempt || hf f 128 16 != s.generation

def State.sysDiscard (s : State) : State :=
  let t := (s.seeBar 0x3080C 1).updBar 0x30810 fun w => bumpField w 0 16
  t.raiseFrom srcLink 0x047 0xFFFF (t.bar 0x30810).toNat

/-- A SYS flit at the system control block; one of the deputy tree brings that tree into use (R340). -/
def State.sysFlit (s : State) (l : Nat) (f : Flit) (cmd : Nat) (k : State → Flit → State) : State :=
  s.rx l f (fun g => fType g == 8 && fCmd g == cmd) fun t g =>
    if t.sysStale g then t.sysDiscard
    else k (if hf g 170 1 = 1 then t.switchDeputy else t) g

/-- The subject of a flit; 0xFFF names none (log 21). -/
def subjectOf (f : Flit) : Option Nat := if fSubject f = 4095 then none else some (fSubject f)

def State.verdictUp (s : State) (l : Nat) (f : Flit) : State :=
  if s.childLinks.contains l then
    (s.updSys fun y => { y with
      verdicts := (y.verdicts.filter fun v => v.1 != l) ++ [(l, fBit f, fCount f)] }).gatherVerdict
  else s

def State.readyUp (s : State) (l : Nat) (f : Flit) (errs : Errs) : State :=
  if s.childLinks.contains l then
    (s.updSys fun y => { y with readies := (y.readies.filter fun v => v.1 != l) ++ [(l, fCount f)] }).gatherReady errs
  else s

def execVerdictUp (link : Nat) (f : Flit) (s : State) : Res :=
  onLink link (s.sysFlit link f 0 fun t g => t.verdictUp link g)
def execDecideDown (link : Nat) (f : Flit) (s : State) : Res :=
  onLink link (s.sysFlit link f 1 fun t g => (t.sysDown 1 (fBit g) 0).send (t.decideMsg (fBit g)))
def execReadyUp (link : Nat) (x : FlitReads) (s : State) : Res :=
  onLink link (s.sysFlit link x.flit 2 fun t g => t.readyUp link g x.errs)
def execCommitDown (link : Nat) (x : FlitReads) (s : State) : Res :=
  onLink link (s.sysFlit link x.flit 3 fun t _ => (t.sysDown 3 false 0).committed x.errs)
def execAbortUp (link : Nat) (f : Flit) (s : State) : Res := onLink link (s.sysFlit link f 4 fun t _ => t.abortUp none)
def execAbortDown (link : Nat) (f : Flit) (s : State) : Res :=
  onLink link (s.sysFlit link f 5 fun t g => t.abortDown (subjectOf g))
def execLossUp (link : Nat) (f : Flit) (s : State) : Res :=
  onLink link (s.sysFlit link f 6 fun t g => t.abortUp (some (fSubject g)))

/-- A peer is lost: the deputy tree comes into use where it was the parent (R335, R340). -/
def State.peerLost (s : State) (peer : Nat) : State :=
  if !s.isMember peer || peer == s.ownIndex.toNat then s
  else (if !s.isRoot && s.lnkPeer s.tree.parent == peer then s.switchDeputy else s).abortUp (some peer)

def execPeerLossTimeout (peer : Nat) (s : State) : Res := guardRes (decide (peer < 4096)) (s.peerLost peer)

/-! ### HELLO (R334) -/

def State.ownClass (s : State) : BitVec 16 := BitVec.ofNat 16 (field (s.bar 4) 0 16)

/-- Octets of a granule as rows of 72. -/
def rowsOfOctets (os : List Octet) : List Row :=
  (List.range 8).map fun i => BitVec.ofNat 576 (leNat ((os.drop (72 * i)).take 72))

/-- The HELLO of a link. -/
def State.helloFlit (s : State) (l : Nat) : Flit :=
  let os := leOctets 8 s.ownSerial.toNat ++ leOctets 2 s.ownClass.toNat ++ leOctets 1 l ++ leOctets 2 s.sys.pendingGen.toNat ++
    leOctets 2 s.ownIndex.toNat
  mkFlit (mkHeader 8 false 0 (s.lnkPeer l) s.ownIndex.toNat s.ttlInit (s.sysKind 7 false 0 0)) (rowsOfOctets os)

def helloField (f : Flit) (o n : Nat) : Nat := leNat (((f.payload.flatMap rowOctets).drop o).take n)

/-- The status with which a HELLO is refused; 0 when it is accepted. A generation that is neither the present nor the pending one of
this module does not match (Table LNK-9; DEDUCED, log 143). -/
def State.helloStatus (s : State) (f : Flit) : Nat :=
  let i := helloField f 13 2
  let holds (m : Sparse RosterEntry) : Bool :=
    let e := m.get RosterEntry.reset i
    e.serial.toNat == helloField f 0 8 && (e.state == 1 || e.state == 2)
  if helloField f 8 2 ≠ s.ownClass.toNat then 0x405
  else if decide (helloField f 11 2 ≠ s.generation ∧ helloField f 11 2 ≠ s.sys.pendingGen.toNat) then 0x406
  else if decide (i < 4096) && (holds s.sys.roster || (s.sys.pendingRoster.map holds).getD false) then 0
  else 0x406

def State.hello (s : State) (l : Nat) (f : Flit) : State :=
  let st := s.helloStatus f
  let ack (t : State) (bit : Bool) : State :=
    t.linkOut l (mkFlit (mkHeader 8 false 0 (fSrc f) t.ownIndex.toNat t.ttlInit (t.sysKind 8 bit st 0)) []) 0
  if st = 0 then
    let s1 := s.updBar (lnkReg l 4) fun w => putField (putField w 13 12 (helloField f 13 2)) 25 5 (helloField f 10 1)
    (ack (s1.updLink l fun k => { k with helloIn := true }) true).linkUp l
  else
    let s1 := s.seeBar (lnkReg l 0xC) 5
    ack (s1.raiseLink l st 0xC) false

def execHello (link : Nat) (f : Flit) (s : State) : Res :=
  onLink link (s.rx link f (fun g => fType g == 8 && fCmd g == 7) fun t g => t.hello link g)

def execHelloAck (link : Nat) (f : Flit) (s : State) : Res :=
  onLink link (s.rx link f (fun g => fType g == 8 && fCmd g == 8) fun t g =>
    if fBit g then (t.updLink link fun k => { k with helloOut := true }).linkUp link else t)

/-! ### Lanes (R320, R324, R326) -/

/-- A map from the physical lanes in logical order. -/
def mkMap (l : List Nat) : BitVec 32 :=
  BitVec.ofNat 32 (((List.range 8).map fun i => (l.getD i 15) * 16 ^ i).sum)

/-- A direction after physical lane `p` has failed: the spare takes its place, or the width drops and the lanes are renumbered
(R324). The second result says that the spare was taken. -/
def failLane (m : BitVec 32) (retired : BitVec 9) (p : Nat) (spareOk : Bool) : BitVec 32 × Bool :=
  let ls := mapLanes m
  if !ls.contains p then (m, false)
  else if spareOk && !ls.contains 8 && !retired.getLsbD 8 then (mkMap (ls.map fun q => if q = p then 8 else q), true)
  else (mkMap ((ls.filter fun q => q != p).foldr insertNat []), false)

/-- The map, widths and spare bits of a direction are set; `rx` names the direction. -/
def State.setLaneMap (s : State) (l : Nat) (rx : Bool) (m : BitVec 32) : State :=
  let n := (mapLanes m).length
  let used := if (mapLanes m).contains 8 then 1 else 0
  let s1 := s.updBar (lnkReg l 4) fun w => if rx then putField (putField w 7 4 n) 12 1 used else putField (putField w 3 4 n) 11 1 used
  if rx then s1.setBar (lnkReg l 8) m else s1.updLink l fun k => { k with txMap := m }

def State.minWidth (s : State) (l : Nat) : Nat := field (s.bar (lnkReg l 0)) 6 4

/-- A lane fault is counted and recorded. -/
def State.laneFault (s : State) (l p : Nat) (lasting : Bool) : State :=
  s.updBar (lnkReg l 0x18) fun w => bumpField (if lasting then putField w 0 5 (p % 16 + 16) else w) 8 8

/-- The link has left service, and with it the peer if no other link to it is in service (R326, R335). -/
def State.linkLost (s : State) (l : Nat) : State :=
  let peer := s.lnkPeer l
  let t := s.linkDown l
  if (s.link l).helloIn && (List.range 24).all fun k => !(t.lnkLive k && (t.link k).helloIn && t.lnkPeer k == peer) then t.peerLost peer
  else t

/-- A lane of one direction has failed its test for good: retired, noted, its place taken (R324); a direction below min_width
takes the link out of service (R326). -/
def State.laneLasting (s : State) (l : Nat) (rx : Bool) (p : Nat) (spareOk : Bool) : State :=
  let k := s.link l
  let retired := if rx then k.rxRetired else k.txRetired
  let m := if rx then s.bar (lnkReg l 8) else k.txMap
  let (m1, spare) := failLane m retired p spareOk
  let ret1 := putField retired p 1 1
  let ret2 := if !spareOk && !(mapLanes m).contains 8 then putField ret1 8 1 1 else ret1
  let s1 := (s.setLink l (if rx then { k with rxRetired := ret2 } else { k with txRetired := ret2 })).laneFault l p true
  let s1a := if retired.getLsbD 8 == ret2.getLsbD 8 then s1 else s1.note 6 [l, 8, rx.toNat]
  let s2 := ((s1a.note 6 [l, p, rx.toNat]).setLaneMap l rx m1)
  let s3 := if m1 = m then s2
    else if spare then (s2.seeBar (lnkReg l 0xC) 1).raiseLink l 0x042 0x18
    else (s2.seeBar (lnkReg l 0xC) 2).raiseLink l 0x043 0x18
  if (mapLanes m1).length < s3.minWidth l then s3.linkLost l else s3

/-- A paused link resumes with replay; one that does not join two members is fenced again (R334). -/
def State.resumeLink (s : State) (l : Nat) : State :=
  if s.lnkState l ≠ 4 then s
  else
    let s1 := (s.setLnkState l (if s.joined l then 3 else 2)).updLink l fun k => { k with testing := [], suspect := 0, replays := 0 }
    (s1.replay l).linkPumpAll l

/-- This end resumes the link and tells the other with MNT op 1. -/
def State.resumeBoth (s : State) (l : Nat) : State :=
  if s.lnkState l = 4 then (s.sendMnt l 1 0 false 0).resumeLink l else s

def execPause (link : Nat) (f : Flit) (s : State) : Res :=
  onLink link (s.rx link f (fun g => fType g == 9 && mntOp g == 0) fun t _ => t.setLnkState link 4)
def execResume (link : Nat) (f : Flit) (s : State) : Res :=
  onLink link (s.rx link f (fun g => fType g == 9 && mntOp g == 1) fun t _ => t.resumeLink link)

/-- The peer asks for the test of one of this end's transmit lanes (log 141). -/
def execLaneTestStart (link : Nat) (f : Flit) (s : State) : Res :=
  onLink link (s.rx link f (fun g => fType g == 9 && mntOp g == 2) fun t g =>
    if t.lnkState link = 4 then t.updLink link fun k => { k with testing := k.testing ++ [fLane g] } else t)

/-- The test of a lane, by link, lane and direction: it is counted in the link's edge region (R348, R351; DESIGN CHOICE, log 164). -/
def laneTarget (l p : Nat) (rx : Bool) : TestTarget := { code := 9, region := linkRegion l, target := 16 * l + p, part := rx.toNat }

/-- The direction of a map that changed is told to the other end, with op 4: bit [88] is 0 for the sender's receive lanes and 1 for its
transmit lanes (DESIGN CHOICE, log 141). -/
def State.tellMap (s : State) (l p : Nat) (rx : Bool) : State :=
  s.sendMnt l 4 p (!rx) (if rx then s.bar (lnkReg l 8) else (s.link l).txMap)

/-- The result of the test of a receive lane that this end found suspect. A pass is transient, event 0x045, unless the lane has passed
three times before (R351); a fail is lasting. The map that changed is told to the other end, and the link resumes once no lane is
suspect. -/
def State.laneResult (s : State) (l : Nat) (p : Nat) (pass sparePass : Bool) : State :=
  if s.lnkState l ≠ 4 ∨ (s.link l).suspect.getLsbD p = false then s
  else
    let good := pass && !s.passedThrice (laneTarget l p true)
    let s1 := (s.updLink l fun k => { k with suspect := putField k.suspect p 1 0 }).recordTest (laneTarget l p true) good
    let s2 :=
      if good then (s1.laneFault l p false).raiseLink l 0x045 0x18
      else
        let t := s1.laneLasting l true p sparePass
        if t.lnkState l = 4 then t.tellMap l p true else t
    if (s2.link l).suspect = 0 then s2.resumeBoth l else s2

def execLaneTestResult (link : Nat) (f : Flit) (sparePass : Bool) (s : State) : Res :=
  onLink link (s.rx link f (fun g => fType g == 9 && mntOp g == 3) fun t g => t.laneResult link (fLane g) (fPass g) sparePass)

/-- The peer's new map: its receive lanes are this end's transmit lanes, and the other way round. A direction below min_width takes the
link out of service (R326). -/
def State.takeMap (s : State) (l : Nat) (f : Flit) : State :=
  let t := s.setLaneMap l (fPass f) (fMap f)
  if (mapLanes (fMap f)).length < t.minWidth l then t.linkLost l else t

def execSetLaneMap (link : Nat) (f : Flit) (s : State) : Res :=
  onLink link (s.rx link f (fun g => fType g == 9 && mntOp g == 4) fun t g =>
    if t.lnkState link = 4 then t.takeMap link g else t)

def execLaneLockLoss (link lane : Nat) (s : State) : Res :=
  guardRes (decide (link < 24 ∧ lane < 9)) (s.suspectLane link lane)

/-- One direction of a retrain: every lane that failed is retired. -/
def State.retrainDir (s : State) (l : Nat) (rx : Bool) (pass : BitVec 9) : State :=
  let m := if rx then s.bar (lnkReg l 8) else (s.link l).txMap
  ((mapLanes m).filter fun p => !pass.getLsbD p).foldl (fun t p =>
    if t.lnkLive l then t.laneLasting l rx p (pass.getLsbD 8) else t) s

/-- A retrain: the link pauses, the lanes of both directions are tested, a new map of a direction is told to the other end, and the link
resumes with replay, or leaves service (R320, R326). -/
def State.retrain (s : State) (l : Nat) (tx rx : BitVec 9) : State :=
  if !s.lnkLive l then s
  else
    let s1 := s.pauseLink l
    let t := (s1.retrainDir l false tx).retrainDir l true rx
    if t.lnkState l ≠ 4 then t
    else
      let t1 := if t.bar (lnkReg l 8) = s.bar (lnkReg l 8) then t else t.tellMap l 0 true
      (if (t.link l).txMap = (s.link l).txMap then t1 else t1.tellMap l 0 false).resumeBoth l

def execRetrain (link : Nat) (txPass rxPass : BitVec 9) (s : State) : Res := onLink link (s.retrain link txPass rxPass)

/-! ### Starvation, training (R322, R334, R343) -/

/-- A link virtual channel has starved for 65,536 NCLK, for want of a credit or behind a replay: event 0x044, once for the episode. -/
def State.linkStarved (s : State) (l v : Nat) : State :=
  let k := s.link l
  if k.starved.getLsbD v || !k.queue.any (fun f => fLvc f == v) || (decide (k.replays = 0) && (decide (0 < k.floors.get 64 v) || decide (0 < k.shared))) then s
  else
    let s1 := s.setLink l { k with starved := putField k.starved v 1 1 }
    let s2 := (s1.updBar (lnkReg l 0x18) fun w => bumpField (putField w 16 3 v) 19 12).seeBar (lnkReg l 0xC) 3
    s2.raiseLink l 0x044 0x18

def execLinkStarvation (link lvc : Nat) (s : State) : Res := guardRes (decide (link < 24 ∧ lvc < 8)) (s.linkStarved link lvc)

/-- A link has finished training: it is fenced, and HELLO goes out. -/
def State.trained (s : State) (l : Nat) : State :=
  if s.lnkState l ≠ 1 then s
  else
    let s1 := (((s.setLnkState l 2).setLaneMap l false (s.link l).txMap).setLaneMap l true (s.bar (lnkReg l 8)))
    s1.linkOut l (s1.helloFlit l) 0

def execLinkTrainingComplete (link : Nat) (s : State) : Res := onLink link (s.trained link)

/-- LNK_CTL enable: a link that is down trains, but under the service rail the engines are off (R404); one in service leaves it
(R326, R343). -/
def State.linkEnable (s : State) (l : Nat) (on : Bool) : State :=
  if on && s.onService then s
  else if on then (if s.lnkState l = 0 ∨ s.lnkState l = 5 then (s.setLink l { Link.reset with
      txMap := (s.link l).txMap, txRetired := (s.link l).txRetired, rxRetired := (s.link l).rxRetired }).setLnkState l 1 else s)
  else if s.lnkLive l then s.linkLost l
  else if s.lnkState l = 1 then s.setLnkState l 0
  else s

end Sys2Proof.Machine
end

