-- ==== Sys2Proof/Machine/Regs.lean ====
section
/-! DEFINITION. Writes to BAR0 (spec/17): what each register stores, when a write is refused, and what it sets going. -/

namespace Sys2Proof.Machine

/-! ### Refusals (R432, R459) -/

/-- HST_REFUSED records a refused write. -/
def State.refused (s : State) (off reason : Nat) : State :=
  s.updBar 0x18 fun _ => BitVec.ofNat 32 (off % 2 ^ 20 + reason * 2 ^ 20 + 2 ^ 23 + 2 ^ 24)

/-- The pen holder as MGT_PEN shows it. -/
def State.penHolder (s : State) : Nat := field (s.bar 0x20000) 0 2
def State.penGen (s : State) : Nat := field (s.bar 0x20000) 2 16
def writerCode : Writer → Nat
  | .host => 0
  | .mcA => 1
  | .mcB => 2

def mgtErr : Nat := 0x20024
/-- An event of a management controller that sets a bit of MGT_ERR. -/
def State.mgtSeen (s : State) (b code subject : Nat) : State :=
  let t := s.seeBar mgtErr b
  t.raiseFrom srcManagement code subject (t.bar mgtErr).toNat

/-- Registers of the PWR_, MGT_ and LNK_ blocks with an RW or WO field (R432; Tables PWR-7, MGT-6, LNK-8). -/
def controlReg (off : Nat) : Bool :=
  [0x1000C, 0x10014, 0x10018, 0x1001C, 0x20020, 0x20030, 0x20034, 0x20038, 0x2003C, 0x30808].contains off ||
    decide (0x30000 ≤ off ∧ off < 0x30600 ∧ off % 0x40 = 0)

/-- A control write comes from a controller that does not hold the pen. -/
def State.penRefuses (s : State) (w : Writer) (off : Nat) : Bool :=
  w != .host && controlReg off && writerCode w != s.penHolder

/-! ### Storing fields -/

/-- The bits of `v` under a mask replace those of a register. -/
def State.storeBar (s : State) (off mask : Nat) (v : Reg32) : State :=
  s.updBar off fun w => (w &&& ~~~(BitVec.ofNat 32 mask)) ||| (v &&& BitVec.ofNat 32 mask)

/-- A write to a W1C register (R8). -/
def State.clearBar (s : State) (off mask : Nat) (v : Reg32) : State := s.updBar off fun w => writeClear w (BitVec.ofNat 32 mask) v

/-- Fields under a mask that may not change now: stored if free, else refused when they would change. -/
def State.lockedStore (s : State) (locked : Bool) (off mask : Nat) (v : Reg32) (reason : Nat) : State :=
  let m := BitVec.ofNat 32 mask
  if !locked then s.storeBar off mask v
  else if s.bar off &&& m = v &&& m then s
  else s.refused off reason

/-! ### Rings (R380, R384, R455) -/

/-- A ring's enable goes from 0 to 1: head and phase, or the ring stops with 0x709. -/
def State.ringStart (s : State) (q : Nat) : State :=
  let tail := (s.dbWord (q / 16) (q % 16)).1
  let k := s.ringLog2 q
  let bad := decide (k < 4 ∨ 16 < k) || (s.ringJob q && (List.range 32).any fun p => p != q && s.ringEnabled p && s.ringJob p)
  -- during phase Abort a copy ring is paused (R389)
  let st := if s.seq.phase = 7 ∧ s.ringJob q = false then 2 else 1
  let s1 := s.updBar (ringReg q 0x18) fun w => putField (putField (putField w 0 16 tail) 16 2 st) 18 12 0
  let s2 := s1.updRing q fun r => { r with phase := true, cplSlot := tail % s1.ringSize q, irqs := 0, timer := false }
  if bad then s2.ringStop q 0x709 else s2

/-- enable is cleared: nothing more is taken; the state becomes 0 once the descriptors taken are written. -/
def State.ringClose (s : State) (q : Nat) : State :=
  let s1 := s.updBar (ringReg q 0x10) fun w => putField w 0 1 0
  if (s1.ring q).taken = [] then s1.setRingState q 0 else s1

/-- A write to register `+o` of command ring `q`; `locked`: the ring was enabled before the write. -/
def State.writeRing (s : State) (locked : Bool) (q o : Nat) (v : Reg32) : State :=
  let off := ringReg q o
  if 0x14 < o then s
  else if locked then
    if o = 0x10 ∧ field v 0 1 = 0 then s.ringClose q else (s.seeBar 0x14 2).refused off 1
  else
    let mask := match o with
      | 0x00 | 0x08 => 0xFFFFF000
      | 0x10 => 0x1FFFFF
      | 0x14 => 0xFFFF
      | _ => 0xFFFFFFFF
    let s1 := s.storeBar off mask v
    if o = 0x10 ∧ field v 0 1 = 1 then s1.ringStart q else s1

/-- A write to an event ring's register (Table HST-9). -/
def State.writeEvt (s : State) (locked : Bool) (e o : Nat) (v : Reg32) : State :=
  let off := evtReg e o
  match o with
  | 0 => if locked then s.refused off 1 else s.storeBar off 0xFFFFF000 v
  | 4 => if locked then s.refused off 1 else s.storeBar off 0xFFFFFFFF v
  | 8 =>
    let s1 := (s.lockedStore locked off 0xFFE v 1).storeBar off 0x1FF001 v
    if !locked && field v 0 1 == 1 then s1.setEvRing e { s1.evRing e with phase := true } else s1
  | _ => s

/-- A write to a translation slot (R396): only while it is not valid; clearing valid is obeyed. -/
def State.writeSlot (s : State) (locked : Bool) (k o : Nat) (v : Reg32) : State :=
  let off := slotReg k o
  if 0x10 < o then s
  else if locked then
    if o = 0x10 ∧ field v 0 1 = 0 then s.storeBar off 1 v else s.refused off 1
  else
    s.storeBar off (match o with
      | 0x00 => 0xFFFFF000
      | 0x0C => 0x3FF
      | 0x10 => 7
      | _ => 0xFFFFFFFF) v

/-- A write to a doorbell block's address and enable. -/
def State.writeDb (s : State) (locked : Bool) (off : Nat) (v : Reg32) : State :=
  if off % 16 = 0 then (s.lockedStore locked off 0xFFFFFFC0 v 1).storeBar off 1 v
  else if locked then s.refused off 1 else s.storeBar off 0xFFFFFFFF v

/-! ### Page 1 clears (R460) -/

/-- The W1C fields of page 1 register `i` (Tables SPD-8, SCR-10, MXA-3, STK-11, MOV-10, NET-11, WEL-6, STP-5, FLT-9). -/
def p1W1c (i : Nat) : Word :=
  if 1024 ≤ i ∧ i < 2304 ∧ i % 4 = 3 then 0o77
  else if 2304 ≤ i ∧ i < 3584 ∧ i % 4 = 2 then wd (7 * 2 ^ 28)
  else if 4608 ≤ i ∧ i < 4928 then wd (2 ^ 23)
  else if 4928 ≤ i ∧ i < 5248 then wd (3 * 2 ^ 33)
  else if 5248 ≤ i ∧ i < 5568 then wd (7 * 2 ^ 27)
  else if 14352 ≤ i ∧ i < 14384 then (if i % 2 = 0 then wd (3 * 2 ^ 32) else wd (2 ^ 12))
  else
    match i with
    | 83 => 0o37
    | 5568 => wd (3 * 2 ^ 33)
    | 5570 => wd (2 ^ 24)
    | 5572 => wd (3 * 2 ^ 32)
    | 5573 => wd (2 ^ 22)
    | 14388 => wd (2 ^ 20)
    | 15374 => wd (2 ^ 13)
    | _ => 0

/-- A region controller clears the W1C bits that a mask names. -/
def State.clearP1 (s : State) (r i : Nat) (mask : Word) : State := s.updP1 r i fun w => writeClear w (p1W1c i) mask

/-- send in HST_P1CLR_CMD. -/
def State.p1clr (s : State) : State :=
  let w := s.bar 0x24
  let i := field w 0 14
  let r := field w 14 6
  let mask := wd ((s.bar 0x20).toNat + field w 20 4 * 2 ^ 32)
  if (s.svc r).inService = false then s.refused 0x24 2
  else if !p1Defined i then s.refused 0x24 3
  else
    let s1 := s.clearP1 r i mask
    (if i = 5569 ∧ mask.getLsbD 16 then s1.strayPop r else s1).summarise r

/-! ### Summary clears (R465) -/

/-- The source fields of the W1C bits of a summary register: register offset in the region's block, bit, page 1 indices and
their bits. -/
def welSources : List (Nat × List Nat × Nat) :=
  [(0, (List.range 16).map fun c => 14352 + 2 * c, 32), (1, (List.range 16).map fun c => 14352 + 2 * c, 33),
    (2, (List.range 16).map fun c => 14353 + 2 * c, 12), (3, [14388], 20)]
def netSources (o : Nat) : List (Nat × List Nat × Nat) :=
  match o with
  | 0x00 => [(9, [5568], 33), (10, [5568], 34)]
  | 0x08 => [(24, [5570], 24)]
  | 0x10 => [(22, [5573], 22), (23, [5572], 32), (24, [5572], 33)]
  | _ => []

/-- A write of 1 to W1C bits of a summary register of region `r`. -/
def State.summaryClear (s : State) (r off : Nat) (src : List (Nat × List Nat × Nat)) (v : Reg32) : State :=
  let hit := src.filter fun e => v.getLsbD e.1
  if (s.svc r).inService then
    (hit.foldl (fun t (_, is, b) => is.foldl (fun u i => u.clearP1 r i (wd (2 ^ b))) t) s).summarise r
  else hit.foldl (fun t e => t.updBar off fun w => putField w e.1 1 0) s

/-! ### Links and power (R458) -/

/-- The sequencer is Idle, or in phase Abort. -/
def State.seqIdle (s : State) : Bool := s.seq.phase == 0
def State.idleOrAbort (s : State) : Bool := s.seq.phase == 0 || s.seq.phase == 7

/-- A write to LNK_CTL. -/
def State.writeLnkCtl (s : State) (l : Nat) (v : Reg32) : State :=
  let off := lnkReg l 0
  let was := field (s.bar off) 0 1
  let width := field v 6 4
  let s1 := s.lockedStore (!s.idleOrAbort) off 0x3C v 2
  let s2 := if width < 4 ∨ 8 < width then s1.refused off 3 else s1.lockedStore (!s.idleOrAbort) off 0x3C0 v 2
  let s3 := if field v 1 1 = 1 ∧ s.lnkState l ≠ 2 ∧ s.lnkState l ≠ 3 ∧ s.lnkState l ≠ 4 then s2.refused off 2 else s2
  -- a retrain begins with the pause of both ends; its tests and its end are RETRAIN (R320)
  let s4 := (if field v 1 1 = 1 ∧ s.lnkLive l = true then s3.pauseLink l else s3).storeBar off 1 v
  if was = field v 0 1 then s4 else s4.linkEnable l (field v 0 1 == 1)

/-- Regions that firmware powers under the service rail (R404): in ascending order while the sum of 90 A and 155 A for each
stays at or below 560 A; each set bit beyond raises 0x05B. -/
def State.serviceBudget (s : State) : State :=
  let want := (List.range 48).filter fun r => if r < 32 then (s.bar 0x10014).getLsbD r else (s.bar 0x10018).getLsbD (r - 32)
  let s1 := { s with power := { s.power with svcRegions := want.take 3 } }
  (want.drop 3).foldl (fun t r =>
    let u := t.seeBar pwrErr 11
    u.raiseFrom srcManagement 0x05B r (u.bar pwrErr).toNat) s1

/-- A region comes on under the service rail, without the boot's checks of it: its clusters at ÷6 and code 10 (R404, R406). -/
def State.serviceOn (s : State) (r : Nat) : State :=
  let t := (s.updBar (pwrRegion r) fun w => putField w 0 3 2).updSvc r fun x => { x with inService := true, withdrawn := false }
  (regionClusters r).foldl (fun u c =>
    let (div, code) := (u.notedPlan c).getD (4, 0)
    u.powerCluster c div code (BitVec.allOnes 8)) t

/-- A region goes off: what its units and its well hold is gone. -/
def State.serviceOff (s : State) (r : Nat) : State :=
  let t := (s.updBar (pwrRegion r) fun w => putField w 0 3 0).updSvc r fun x => { x with inService := false, withdrawn := true }
  let t1 := (t.units.filter fun e => regionOf e.1 == r).foldl (fun u e => u.vacate e.1 0x128) t
  ((regionClusters r).foldl State.gateClock t1).updWell r fun x => { Well.reset with ident := x.ident, repaired := x.repaired }

/-- The regions of PWR_SVC are powered, within 10 ms of the write: those set come on, others go off. -/
def State.powerService (s : State) : State :=
  let t := s.serviceBudget
  (List.range 48).foldl (fun u r =>
    let on := t.power.svcRegions.contains r
    let st := field (u.bar (pwrRegion r)) 0 3
    if on && st == 0 then u.serviceOn r else if !on && st == 2 then u.serviceOff r else u) t

/-! ### The margin plan (R425, R426) -/

/-- A field note with octets. -/
def State.noteOctets (s : State) (sub : Nat) (os : List Octet) : State :=
  let n : FlashRec := {
    kind := 0x10, superseded := false, seq := 0, payload := leOctets 2 sub ++ os, key := 1, sig := 0,
    written := s.operating }
  { s with mgmt := { s.mgmt with journal := s.mgmt.journal ++ [n] } }

/-- plan_cluster (R425): the first setting in order with 10 percent of projected slack, with 15 mV of guard. -/
def State.planFor (s : State) (c : Nat) : Option (Nat × Nat) :=
  let k := s.cluster c
  let t := min (k.peaks.foldl max k.hourPeak + 10) 95
  ([4, 5, 6].flatMap fun div => (List.range 61).map fun code => (div, code)).findSome? fun (div, code) =>
    if 1000 ≤ Config.projectedSlack c div code t k.slackMxa k.slackSpd then some (div, min (code + 3) 60) else none

/-- The pen holder computes a plan: applied at once while Idle, else at the next blot point (R426). -/
def State.marginPlan (s : State) : State :=
  if s.penHolder = 0 then s
  else
    let cs := (List.range 960).filter fun c => field (s.bar (pwrRegion (c / 20))) 0 3 == 2 && field (s.bar (pwrCluster c)) 22 1 == 0
    let plan := cs.filterMap fun c => (s.planFor c).map fun (d, v) => (c, d, v)
    let dead := cs.filter fun c => (s.planFor c).isNone
    let seq := field (s.bar 0x1001C) 18 14 + 1
    let s1 : State := { s with power := { s.power with plan := some plan, retire := dead } }
    let s2 := s1.noteOctets 8 (leOctets 4 seq ++ plan.flatMap fun (c, d, v) => leOctets 2 c ++ leOctets 1 d ++ leOctets 1 v)
    let s3 := s2.updBar 0x1001C fun w => putField (putField w 1 1 1) 2 16 0
    let s4 := s3.raiseFrom srcManagement 0x05A 0xFFFF (s3.bar 0x1001C).toNat
    let s5 := dead.foldl (fun t c => t.raise (c / 20) 0x506 (c % 20) (t.bar (pwrCluster c)).toNat) s4
    if s5.seq.running then s5 else s5.applyPlan

def State.writePwr (s : State) (off : Nat) (v : Reg32) : State :=
  match off with
  | 0x1000C => s.updBar off fun w => putField w 16 16 (max 12000 (field v 16 16))
  | 0x10010 => s.clearBar off 0xFFF v
  | 0x10014 => let t := s.storeBar off 0xFFFFFFFF v; if t.onService then t.powerService else t
  | 0x10018 => let t := s.storeBar off 0xFFFF v; if t.onService then t.powerService else t
  | 0x1001C => if field v 0 1 = 1 then s.marginPlan else s
  | _ => s

/-- upd_state. -/
def State.updState (s : State) : Nat := field (s.bar 0x2003C) 2 3

/-- A write to the MGT_ block. What release, warm_reset and cmd set going has rows of its own; here it is accepted or
refused. -/
def State.writeMgt (s : State) (off : Nat) (v : Reg32) : State :=
  let free := s.updState == 0 || s.updState == 3 || s.updState == 5
  let len := field (s.bar 0x20038) 0 28
  match off with
  | 0x20020 => if field v 1 1 = 1 ∧ s.seqIdle = false then s.refused off 2 else s
  | 0x20024 => s.clearBar off 0x1F v
  | 0x20030 => if free then s.storeBar off 0xFFFFFFFF v else s.refused off 2
  | 0x20034 => if free then s.storeBar off 0xFFFFFFFF v else s.refused off 2
  | 0x20038 => if free then s.storeBar off 0xFFFFFFF v else s.refused off 2
  | 0x2003C => if field v 0 2 = 1 ∧ (len = 0 ∨ 134217728 < len) then s.refused off 3 else s
  | _ => s

def State.writeLnk (s : State) (off : Nat) (v : Reg32) : State :=
  let o := off - 0x30000
  if o < 0x600 then
    match o % 0x40 with
    | 0 => s.writeLnkCtl (o / 0x40) v
    | 0xC => s.clearBar off 0x3F v
    | _ => s
  else
    match off with
    | 0x30808 =>
      -- outside Idle the value in force stays until the next open (R6, R458)
      (s.storeBar off 0x1F v).updSys fun y => { y with
        newTtl := if s.seqIdle then none else some (y.newTtl.getD (BitVec.ofNat 5 (field (s.bar 0x30808) 0 5))) }
    | 0x3080C => s.clearBar off 0x3F v
    | _ => s

/-! ### One 4-byte half, and a whole write (R453-R455) -/

/-- An offset that is locked by an enable or valid of its block. -/
def State.barLocked (s : State) (off : Nat) : Bool :=
  if 0x40 ≤ off ∧ off < 0x70 then s.dbEnabled ((off - 0x40) / 16)
  else if 0x1000 ≤ off ∧ off < 0x1800 then s.ringEnabled ((off - 0x1000) / 0x40)
  else if 0x1800 ≤ off ∧ off < 0x1900 then s.evtEnabled ((off - 0x1800) / 0x40)
  else if 0x2000 ≤ off ∧ off < 0x2200 then s.slotValid ((off - 0x2000) / 0x20)
  else false

/-- A write of the HST_ block below the rings. -/
def State.writeHst (s : State) (off : Nat) (v : Reg32) : State :=
  match off with
  | 0x0C => s.storeBar off 1 v
  | 0x10 => s.updBar off fun w => putField w 0 16 (max 250 (field v 0 16))
  | 0x14 => s.clearBar off 7 v
  | 0x18 => s.clearBar off 0x1000000 v
  | 0x20 => s.storeBar off 0xFFFFFFFF v
  | 0x24 => let t := s.storeBar off 0xFFFFFF v; if field v 24 1 = 1 then t.p1clr else t
  | _ => s

/-- An MSI-X entry: it takes effect at once, and a pending vector that is unmasked sends its message. -/
def State.writeMsix (s : State) (off : Nat) (v : Reg32) : State :=
  (s.storeBar off (match off % 16 with
    | 0 => 0xFFFFFFFC
    | 12 => 1
    | _ => 0xFFFFFFFF) v).msixPending

/-- One 4-byte half of a write; `locked` as the whole write found it. Offsets without a register are ignored (R379). -/
def State.writeHalf (s : State) (locked : Bool) (off : Nat) (v : Reg32) : State :=
  if off < 0x40 then s.writeHst off v
  else if off < 0x70 then (if off % 16 < 8 then s.writeDb locked off v else s)
  else if 0x1000 ≤ off ∧ off < 0x1800 then s.writeRing locked ((off - 0x1000) / 0x40) (off % 0x40) v
  else if 0x1800 ≤ off ∧ off < 0x1900 then s.writeEvt locked ((off - 0x1800) / 0x40) (off % 0x40) v
  else if 0x2000 ≤ off ∧ off < 0x2200 then s.writeSlot locked ((off - 0x2000) / 0x20) (off % 0x20) v
  else if 0x8000 ≤ off ∧ off < 0x8400 then s.writeMsix off v
  else if 0x10000 ≤ off ∧ off < 0x20000 then s.writePwr off v
  else if 0x20000 ≤ off ∧ off < 0x30000 then s.writeMgt off v
  else if 0x30000 ≤ off ∧ off < 0x40000 then s.writeLnk off v
  else if 0x40000 ≤ off ∧ off < 0x40600 then
    (if off % 0x20 = 0x18 then s.summaryClear ((off - 0x40000) / 0x20) off welSources v else s)
  else if 0x50000 ≤ off ∧ off < 0x50600 then s.summaryClear ((off - 0x50000) / 0x20) off (netSources (off % 0x20)) v
  else s

/-- A write to BAR0: an access that is not a whole aligned 4 or 8 bytes is an Unsupported Request; a control write without
the pen is refused with 0x061; the halves are judged by the enables before the write. -/
def State.barWrite (s : State) (w : BarWrite) : State :=
  if !w.fullBe || decide (w.size ≠ 4 ∧ w.size ≠ 8) || decide (w.offset % w.size ≠ 0 ∨ 2 ^ 20 ≤ w.offset) then s.emit .unsupported
  else
    let lo := s.penRefuses w.writer w.offset
    let hi := w.size == 8 && s.penRefuses w.writer (w.offset + 4)
    let s1 := if lo then s else s.writeHalf (s.barLocked w.offset) w.offset (w.value.setWidth 32)
    let s2 :=
      if w.size = 8 ∧ hi = false then s1.writeHalf (s.barLocked (w.offset + 4)) (w.offset + 4) ((w.value >>> 32).setWidth 32)
      else s1
    -- the flag that a refusal sets wins over a clear in the other half (R8)
    if lo || hi then s2.mgtSeen 1 0x061 (writerCode w.writer) else s2

/-- What a read of BAR0 answers: the registers of 4 octets from its offset on, where an offset without a register reads zero; a read of
another size, or one that is not aligned, is an Unsupported Request (R379, R453). No row of the command table stands for a read, and it
changes nothing. -/
def State.barRead (s : State) (off size : Nat) : Option (List Reg32) :=
  if (size = 4 ∨ size = 8) ∧ off % size = 0 ∧ off < 2 ^ 20 then some ((List.range (size / 4)).map fun i => s.bar (off + 4 * i))
  else none

/-! ### The rows -/

/-- A row of its own takes the writes that reach its registers. -/
def State.barRow (s : State) (w : BarWrite) (ok : Nat → Bool) : State :=
  if ok w.offset || (w.size == 8 && ok (w.offset + 4)) then s.barWrite w else s

def execRegisterWrite (w : BarWrite) (s : State) : Res := .next (s.barWrite w)
def execRingEnable (w : BarWrite) (s : State) : Res :=
  .next (s.barRow w fun o => decide (0x1000 ≤ o ∧ o < 0x1800 ∧ o % 0x40 = 0x10))
def execEventRingEnable (w : BarWrite) (s : State) : Res :=
  .next (s.barRow w fun o => decide (0x1800 ≤ o ∧ o < 0x1900 ∧ o % 0x40 = 8))
def execEngineEnable (w : BarWrite) (s : State) : Res := .next (s.barRow w fun o => o == 0xC)
def execMsixEntryWrite (w : BarWrite) (s : State) : Res := .next (s.barRow w fun o => decide (0x8000 ≤ o ∧ o < 0x8400))
def execP1clrSend (w : BarWrite) (s : State) : Res := .next (s.barRow w fun o => o == 0x24)
def execSummaryClear (w : BarWrite) (s : State) : Res :=
  .next (s.barRow w fun o => decide ((0x40000 ≤ o ∧ o < 0x40600) ∨ (0x50000 ≤ o ∧ o < 0x50600)))
def execLinkEnable (w : BarWrite) (s : State) : Res :=
  .next (s.barRow w fun o => decide (0x30000 ≤ o ∧ o < 0x30600 ∧ o % 0x40 = 0))

/-- The route word of a region's network summary, and the module-wide one (R464). -/
def State.routeRefresh (s : State) (r : Nat) : State :=
  let bits := match (s.region r).detour with
    | none => 0
    | some d => ((List.range 4).map fun p => if neighbour r p = d then 2 ^ p else 0).sum
  let any := s.regions.any fun x => x.2.detour.isSome
  (s.updBar (netReg r 0x18) fun w => putField w 0 4 bits).updBar 0x50800 fun w => putField w 16 1 any.toNat

def execSummaryRefresh (region : Nat) (s : State) : Res := onRegion region ((s.summarise region).routeRefresh region)

end Sys2Proof.Machine
end

