-- ==== Sys2Proof/Machine/Power.lean ====
section
/-! DEFINITION. Power, clocks and heat (spec/15), and the sideband pins (spec/18): sources and the interlock, regulator phases,
isolation and detours, lock losses, thermal thresholds, power limits, ageing and the margin plan. -/

namespace Sys2Proof.Machine

/-! ### Pins (Table PHY-3) -/

/-- A cluster or well reading is at or above its T2 threshold, or a region is isolated for T3. -/
def State.thermN (s : State) : Bool :=
  !((List.range 48).any fun r =>
    let w := s.bar (pwrRegion r)
    field w 0 3 == 4 || decide (105 ≤ field w 5 8 ∨ 95 ≤ field w 13 8))
/-- A source is connected. -/
def State.pwrGood (s : State) : Bool := s.power.connected != 0
/-- alert_n is low while any bit of PWR_ERR, MGT_ERR or LNK_SYS_ERR is set. -/
def State.alertN (s : State) : Bool := s.bar pwrErr == 0 && s.bar mgtErr == 0 && s.bar 0x3080C == 0
/-- svc_present_n. -/
def State.svcPresentN (s : State) : Bool := !s.power.service

/-! ### Events of this chapter -/

/-- A bit of PWR_ERR is set and its event raised, by the ring. -/
def State.pwrSeen (s : State) (b code : Nat) : State :=
  let t := s.seeBar pwrErr b
  t.raiseFrom srcManagement code 0xFFFF (t.bar pwrErr).toNat

/-- The same, by the region controller of region `r`. -/
def State.pwrRaise (s : State) (r b code subject : Nat) : State :=
  let t := s.seeBar pwrErr b
  t.raise r code subject (t.bar pwrErr).toNat

/-! ### Sources and the interlock (R399-R402, R472) -/

/-- A held-off source that has gone is held off no longer (R400). -/
def State.holdEnds (s : State) : State :=
  let p := s.power
  if p.heldOff && !((p.feedA || p.feedB) && p.connected != 1) && !(p.service && p.connected != 2) then
    { s with power := { p with heldOff := false } }.updBar 0x10000 fun w => putField w 5 1 0
  else s

def State.setSource (s : State) (v : Nat) : State :=
  { s with power := { s.power with connected := v } }.updBar 0x10000 fun w => putField w 0 2 v

/-- Flags of a source that has come or gone. -/
def State.markSource (s : State) (src : Source) (on : Bool) : State :=
  match src with
  | .feedA => { s with power := { s.power with feedA := on } }.updBar 0x10000 fun w => putField w 2 1 on.toNat
  | .feedB => { s with power := { s.power with feedB := on } }.updBar 0x10000 fun w => putField w 3 1 on.toNat
  | .service => { s with power := { s.power with service := on } }.updBar 0x10000 fun w => putField w 4 1 on.toNat

def State.hasSource (s : State) (src : Source) : Bool :=
  match src with
  | .feedA => s.power.feedA
  | .feedB => s.power.feedB
  | .service => s.power.service

/-- The interlock's side of a source: 1 the feeds, 2 the service rail. -/
def sourceKind (src : Source) : Nat := if src = .service then 2 else 1

/-- A source is held off: 0x05B and interlock_block. -/
def State.holdOff (s : State) : State :=
  ({ s with power := { s.power with heldOff := true } }.updBar 0x10000 fun w => putField w 5 1 1).pwrSeen 11 0x05B

/-- A source becomes present; `both`: both kinds came within the latch's resolution. -/
def State.sourceConnect (s : State) (src : Source) (both : Bool) : State :=
  if s.hasSource src then s
  else
    let t := s.markSource src true
    if t.power.connected = sourceKind src then t
    else if t.power.connected = 0 ∧ both = false ∧ t.power.heldOff = false then t.setSource (sourceKind src)
    else t.holdOff

def execSourceConnect (src : Source) (both : Bool) (s : State) : Res := .next (s.sourceConnect src both)

/-- A held-off source is connected once the other has been removed and the rail has fallen. -/
def State.interlockRelease (s : State) : State :=
  let p := s.power
  let feeds := p.feedA || p.feedB
  if p.heldOff = false ∨ p.connected ≠ 0 ∨ feeds = p.service then s
  else
    ({ s with power := { p with heldOff := false } }.updBar 0x10000 fun w => putField w 5 1 0).setSource (if feeds then 1 else 2)

def execInterlockRelease (s : State) : Res := .next s.interlockRelease

/-- A feed is counted restored. -/
def State.feedRestore (s : State) (src : Source) : State :=
  if src = .service ∨ s.hasSource src = true then s
  else
    let t := s.markSource src true
    let t1 := t.raiseFrom srcManagement 0x051 0xFFFF (t.bar 0x10000).toNat
    if t1.power.connected = 1 then t1
    else if t1.power.connected = 0 ∧ t1.power.heldOff = false then t1.setSource 1
    else if t1.power.connected = 2 then t1.holdOff
    else t1

def execFeedRestore (src : Source) (s : State) : Res := .next (s.feedRestore src)

/-- What the management controllers keep without power: their flashes, the notes that wait to be written there, the history (R440, R443;
log 101). -/
def Mgmt.cold (m : Mgmt) : Mgmt :=
  { Mgmt.reset with
    flashA := m.flashA, flashB := m.flashB, noteSeq := m.noteSeq, history := m.history, staged := m.staged, journal := m.journal
    recA := { Recovery.reset with fresh := m.recA.fresh }, recB := { Recovery.reset with fresh := m.recB.fresh } }

/-- The module after its source has gone: what its flash, its fault log and the identity records of its wells hold stays; the rest is as
at cold reset. While a held-off source is present the management controllers run on, with their registers (R399); none of the boot's
steps holds any more. -/
def State.powerOff (s : State) : State :=
  let p := s.power
  let live := p.feedA || p.feedB || p.service
  let m := if live then { s.mgmt with jobDigest := 0 } else s.mgmt.cold
  let off : State := { State.reset with
    pending := s.pending, out := s.out, hostMem := s.hostMem
    wells := (s.wells.map fun (r, w) => (r, { Well.reset with ident := w.ident })).filter fun e => decide (e.2 ≠ Well.reset)
    service := (s.service.map fun (r, v) => (r, { Service.reset with retired := v.retired, shorted := v.shorted })).filter fun e =>
      decide (e.2 ≠ Service.reset)
    mgmt := { m with served := s.operating }
    bar0 := if live then s.bar0.filter fun e => decide (0x20000 ≤ e.1 ∧ e.1 < 0x30000) else []
    power := { Power.reset with
      feedA := p.feedA, feedB := p.feedB, service := p.service, heldOff := p.heldOff && live, faultLog := p.faultLog } }
  let w := p.feedA.toNat * 4 + p.feedB.toNat * 8 + p.service.toNat * 16 + (p.heldOff && live).toNat * 32
  (off.setBar 0x10000 (BitVec.ofNat 32 w)).updBar 0x20010 fun v => putField v 0 4 0

/-- Both feeds have fallen: the cause goes to the fault log of 64 entries, and the module powers off. -/
def State.feedsLost (s : State) : State :=
  let t := (s.markSource .feedA false).markSource .feedB false
  if s.power.connected ≠ 1 then t.holdEnds
  else
    let log := t.power.faultLog ++ [0x505]
    { t with power := { t.power with faultLog := log.drop (log.length - 64) } }.powerOff

def execBothFeedsLost (s : State) : Res := .next s.feedsLost

/-- A feed is counted lost (R401); with it, the last that fed the module (R402). -/
def State.feedLoss (s : State) (src : Source) : State :=
  if src = .service ∨ s.hasSource src = false then s
  else
    let t := s.markSource src false
    if t.power.connected = 1 ∧ t.power.feedA = false ∧ t.power.feedB = false then t.feedsLost else (t.pwrSeen 0 0x050).holdEnds

def execFeedLoss (src : Source) (s : State) : Res := .next (s.feedLoss src)

/-- The service connector is unseated: the interlock opens the service switch (R472). -/
def State.serviceRemoved (s : State) : State :=
  let t := s.markSource .service false
  if t.power.connected = 2 then t.powerOff else t.holdEnds

def execServiceConnectorRemoval (s : State) : Res := .next s.serviceRemoved

/-! ### Regulator phases and droops (R406-R408) -/

def onCluster (c : Nat) (t : State) : Res := guardRes (decide (c < 960)) t

def phasesOk (w : Reg32) : Nat := ((List.range 8).filter fun p => w.getLsbD (8 + p)).length

/-- A phase is latched off; the cluster's floor or darkness follows from the count (Table PWR-3). -/
def State.phaseLoss (s : State) (c p : Nat) : State :=
  let w := s.bar (pwrCluster c)
  if !w.getLsbD (8 + p) || field w 22 1 == 1 then s
  else
    let r := c / 20
    let s0 := (s.setBar (pwrCluster c) (putField w (8 + p) 1 0)).updCluster c fun k => { k with lost := putField k.lost p 1 1 }
    let s1 := (s0.note 4 [c, p]).pwrRaise r 1 0x052 (c % 20)
    let lost := 8 - phasesOk (s1.bar (pwrCluster c))
    if lost = 3 then
      let s2 := (s1.updCluster c fun k => { k with phaseFloor := 6 }).reDivide c
      s2.raise r 0x053 (c % 20) (s2.bar (pwrCluster c)).toNat
    else if 4 ≤ lost then
      let s2 := (s1.updBar (pwrCluster c) fun v => putField v 22 1 1).pwrRaise r 6 0x501 (c % 20)
      let s3 := s2.updCluster c fun k => { k with phaseFloor := 4, thermalFloor := 4, newDiv := none }
      let s4 := (s3.note 1 [4, c, 0x501]).darkenCluster c false
      if s4.seq.running then s4.report (causeOf 0x501 16383 none) else s4
    else s1

def execPhaseLoss (cluster phase : Nat) (s : State) : Res :=
  guardRes (decide (cluster < 960 ∧ phase < 8)) (s.phaseLoss cluster phase)

/-- A droop episode: counted; 0x059 when droop_seen goes from 0; every ACLK period is one root cycle longer until 100 ns after the voltage
has recovered. -/
def State.droop (s : State) (c : Nat) : State :=
  let s0 := s.rebase c fun k => { k with stretched := max k.stretched (s.root + Config.droop s.root + 720) }
  let s1 := s0.updBar (pwrCluster c + 4) fun w => bumpField w 16 8
  if field (s1.bar pwrErr) 10 1 = 1 then s1 else s1.pwrRaise (c / 20) 10 0x059 (c % 20)

def execDroop (cluster : Nat) (s : State) : Res := onCluster cluster (s.droop cluster)

/-! ### Isolation and detours (R409-R412, R417, R474) -/

def State.regionState (s : State) (r : Nat) : Nat := field (s.bar (pwrRegion r)) 0 3
def State.setRegionState (s : State) (r v : Nat) : State := s.updBar (pwrRegion r) fun w => putField w 0 3 v

/-- An event about region `r` that the die's controller raises for it. -/
def State.dieRaise (s : State) (r b code : Nat) : State :=
  let t := s.seeBar pwrErr b
  t.forward (t.evRec srcManagement code r 0xFFFF (t.bar pwrErr).toNat)

/-- A code that aborts the step, while a job runs. -/
def State.stepAbort (s : State) (code : Nat) : State := if s.seq.running then s.report (causeOf code 16383 none) else s

/-- The region is powered through a switch that is commanded closed. -/
def State.switchClosed (s : State) (r : Nat) : Bool :=
  let st := s.regionState r
  !(s.svc r).isoLow && (st == 1 || st == 2 || st == 7)

/-- iso_n of a region goes low, with the state that PWR_REGION records; no withdrawal waits for a blot point any more (R421). -/
def State.isolate (s : State) (r st : Nat) : State :=
  ((s.updSvc r fun x => { x with isoLow := true, plannedWithdraw := false, shorted := x.shorted || st == 3 }).updBar (pwrRegion r) fun w =>
    putField (putField w 0 3 st) 3 1 0).note 7 [r, st]

/-- A short of a region, or a loss of a die, in the history: codes 12 and 13, which no test has (log 101). -/
def shortOf (r : Nat) : TestTarget := { code := 12, region := r, target := 0, part := 0 }
def lossOf (d : Nat) : TestTarget := { code := 13, region := 4 * d, target := 0, part := 0 }

/-- An entry of the history within 1,000 operating hours, and the entry that the present occasion makes. -/
def State.struckBefore (s : State) (k : TestTarget) : Bool :=
  s.mgmt.history.any fun (h, x) => x == k && decide (s.operating < h + hours1000)
def State.strike (s : State) (k : TestTarget) : State :=
  { s with mgmt := { s.mgmt with history := s.mgmt.history ++ [(s.operating, k)] } }

/-- A region is retired in the field notes: it is not powered up again (R413, R417). -/
def State.retireRegion (s : State) (r kind code : Nat) : State :=
  (s.updSvc r fun x => { x with retired := true }).note 1 [kind, r, code]

/-- The region's switch trips; `t3`: T3 was met in the same reading (Table PWR-6). -/
def State.isolationTrip (s : State) (r : Nat) (t3 : Bool) : State :=
  if s.switchClosed r = false then s
  else
    let s0 := if s.struckBefore (shortOf r) then s.retireRegion r 5 0x502 else s
    let s1 := ((s0.strike (shortOf r)).isolate r 3).dieRaise r 5 0x502
    let s2 := if t3 then (s1.updBar (pwrRegion r) fun w => putField w 4 1 1).dieRaise r 4 0x503 else s1
    s2.stepAbort 0x502

def execIsolationTrip (region : Nat) (t3 : Bool) (s : State) : Res := onRegion region (s.isolationTrip region t3)

/-- Regions next to each other in the wafer mesh. -/
def adjacent (a b : Nat) : Bool :=
  (gridX a == gridX b && (gridY a + 1 == gridY b || gridY b + 1 == gridY a)) ||
    (gridY a == gridY b && (gridX a + 1 == gridX b || gridX b + 1 == gridX a))

/-- The port of region `a` toward its neighbour `b`. -/
def portToward (a b : Nat) : Nat := (dimOrder a b).toNat

/-- A neighbouring router meets the alert of region `r`: its port is off, and it takes the detour table unless it is on one. -/
def State.detourRouter (s : State) (n r : Nat) : State :=
  s.updRegion n fun x => { x with
    portOff := putField x.portOff (portToward n r) 1 1, detour := if x.detour.isSome then x.detour else some r }

/-- What of the network is discarded with a region: of the messages at some places of the list those whose way leads through it, queued for
it at a neighbour or not whole when they came from it (R411). -/
def State.dropQueued (s : State) (r : Nat) (queued : List Nat) : State :=
  { s with net := (s.net.zipIdx.filter fun (m, i) => !(queued.contains i && (s.path m).contains (.regionRouter r))).map (·.1) }

/-- 8 NCLK after iso_n: the spine is gated, the neighbours switch and discard what was queued for it, and the region is withdrawn. -/
def State.detourSwitch (s : State) (r : Nat) (queued : List Nat) : State :=
  if (s.svc r).isoLow = false ∨ (s.svc r).gated = true then s
  else
    let st := s.regionState r
    let s0 := s.dropQueued r queued
    let s1 := s0.updSvc r fun x => { x with gated := true, switchOpen := x.switchOpen || st == 3 || st == 4 }
    let s2 := ((List.range 48).filter fun n => adjacent n r && !(s.svc n).gated).foldl (fun t n => t.detourRouter n r) s1
    ((regionClusters r).foldl State.gateClock s2).withdraw r true false

def execDetourSwitch (x : Switched) (s : State) : Res := onRegion x.region (s.detourSwitch x.region x.queued)

def pwrPll (d : Nat) : Nat := 0x10040 + 4 * d
def dieRegions (d : Nat) : List Nat := (List.range 4).map (4 * d + ·)

/-- A die's four regions are isolated together (R58). -/
def State.isolateDie (s : State) (d : Nat) : State :=
  (dieRegions d).foldl (fun t r =>
    if t.switchClosed r then t.isolate r 5 else t) s

/-- A root PLL loses lock: its die's regions are isolated, 0x504, and the step aborts; the second time within 1,000 operating hours the
die is retired (R417). -/
def State.pllLoss (s : State) (d : Nat) : State :=
  if field (s.bar (pwrPll d)) 0 1 = 0 then s
  else
    let s0 := if s.struckBefore (lossOf d) then (dieRegions d).foldl (fun t r => t.retireRegion r 6 0x504) s else s
    let s1 := (s0.strike (lossOf d)).updBar (pwrPll d) fun w => bumpField (putField w 0 1 0) 8 8
    ((s1.isolateDie d).pwrSeen 7 0x504).stepAbort 0x504

/-- When the die controller has failed, with the PLL in lock, the die's regions are withdrawn in the same way; the spec names no event and
no count of its own for it (log 144). -/
def execPllLockLoss (x : DieLoss) (s : State) : Res :=
  match x with
  | .lock d => guardRes (decide (d < 12)) (s.pllLoss d)
  | .controller d => guardRes (decide (d < 12)) (s.isolateDie d)

/-- 1 ms after a lock loss firmware opens the switches of the die's regions. -/
def State.openSwitches (s : State) (d : Nat) : State :=
  (dieRegions d).foldl (fun t r =>
    if (t.svc r).isoLow ∧ t.regionState r = 5 then t.updSvc r fun x => { x with switchOpen := true } else t) s

def execIsolationSwitchOpen (die : Nat) (s : State) : Res := guardRes (decide (die < 12)) (s.openSwitches die)

/-- The reference is gone: every die loses lock and every region is withdrawn (R474). -/
def State.referenceLoss (s : State) : State :=
  (List.range 48).foldl (fun t r =>
    if (t.svc r).isoLow then
      ((regionClusters r).foldl State.gateClock (t.updSvc r fun x => { x with gated := true })).withdraw r true false
    else t)
    ((List.range 12).foldl State.pllLoss s)

def execReferenceClockLoss (s : State) : Res := .next s.referenceLoss

/-! ### Heat (R418-R421) -/

/-- The hotter reading of a cluster among those of one pass. -/
def hotter (l : List (Sensor × Nat)) (i : Nat) : Option Nat :=
  (l.filterMap fun (k, t) => if k = .cluster i then some t else none).max?

def wellReading (l : List (Sensor × Nat)) : Option Nat :=
  (l.filterMap fun (k, t) => if k = .well then some t else none).max?

/-- T1: the thermal floor steps, at most once per ms, and holds at ÷6. -/
def State.t1 (s : State) (c : Nat) : State :=
  let k := s.cluster c
  let soon := match k.floorStep with
    | some b => decide (s.root < b + rootMs)
    | none => false
  if soon || decide (6 ≤ k.thermalFloor) then s
  else
    let s1 := (s.updCluster c fun x => { x with thermalFloor := x.thermalFloor + 1, floorStep := some s.root }).reDivide c
    s1.pwrRaise (c / 20) 2 0x054 (c % 20)

/-- T2 of a region: every cluster at ÷6, and the region marked for withdrawal; a T2 of the Blot phase waits for the next
(R421). `detail` is the event's. -/
def State.t2 (s : State) (r subject : Nat) (detail : Option Nat) : State :=
  if s.t2Pending r then s
  else
    let s1 := (s.updBar (pwrRegion r) fun w => putField w 3 1 1).seeBar pwrErr 3
    let s2 := (regionClusters r).foldl State.reDivide s1
    let s3 := if s2.seq.phase = 6 then s2 else s2.updSvc r fun x => { x with plannedWithdraw := true }
    s3.raise r 0x056 subject (detail.getD (s3.bar (pwrRegion r)).toNat)

/-- T3: isolation exactly as for a short. -/
def State.t3 (s : State) (r : Nat) : State :=
  if (s.svc r).isoLow then s else ((s.pwrRaise r 4 0x503 noSubject).isolate r 4).stepAbort 0x503

/-- One reading of a cluster is recorded. -/
def State.clusterReading (s : State) (c t : Nat) : State :=
  (s.updBar (pwrCluster c + 4) fun w => putField (putField w 0 8 (min t 255)) 8 8 (max (field w 8 8) (min t 255))).updCluster c
    fun k => { k with hourPeak := max k.hourPeak t, hotAt := if 90 ≤ t then some s.root else k.hotAt }

/-- The thermal loop reads the sensors of its region and acts (Table PWR-5). -/
def State.thermalReading (s : State) (r : Nat) (l : List (Sensor × Nat)) : State :=
  if s.regionState r ≠ 2 ∨ (s.svc r).isoLow = true then s
  else
    let cs := (List.range 20).filterMap fun i => (hotter l i).map fun t => (i, t)
    let s1 := cs.foldl (fun t (i, v) => t.clusterReading (20 * r + i) v) s
    let s2 := match (cs.map (·.2)).max? with
      | some m => s1.updBar (pwrRegion r) fun w => putField w 5 8 (min m 255)
      | none => s1
    let s3 := match wellReading l with
      | some w => (s2.updBar (pwrRegion r) fun v => putField v 13 8 (min w 255)).updP1 r 14385 fun v =>
          putField v 1 1 (if 85 ≤ w then 1 else 0)
      | none => s2
    let s4 := cs.foldl (fun t (i, v) => if 95 ≤ v then t.t1 (20 * r + i) else t) s3
    let s5 := match cs.find? fun e => decide (105 ≤ e.2) with
      | some (i, _) => s4.t2 r i none
      | none => s4
    let s6 := match wellReading l with
      | some w => if 95 ≤ w then s5.t2 r noSubject (some (Config.unstated 3 r).toNat) else s5
      | none => s5
    if cs.any fun e => decide (115 ≤ e.2) then s6.t3 r else s6

def execThermalReading (region : Nat) (readings : List (Sensor × Nat)) (s : State) : Res :=
  onRegion region (s.thermalReading region readings)

/-- 10 ms have passed since a root cycle. -/
def State.tenMsSince (s : State) (b : Option Nat) : Bool :=
  match b with
  | none => true
  | some r => decide (r + 10 * rootMs ≤ s.root)

/-- Every reading of 10 ms has been below 90 °C: the thermal floor steps back by one, at most once in 10 ms (R420). -/
def State.thermalBack (s : State) (c : Nat) : State :=
  let k := s.cluster c
  if k.thermalFloor ≤ 4 || !s.tenMsSince k.hotAt || !s.tenMsSince k.backAt then s
  else
    let s1 := (s.updCluster c fun x => { x with thermalFloor := x.thermalFloor - 1, backAt := some s.root }).reDivide c
    s1.raise (c / 20) 0x055 (c % 20) (s1.bar (pwrCluster c)).toNat

def execThermalStepBack (cluster : Nat) (s : State) : Res := onCluster cluster (s.thermalBack cluster)

/-! ### Module power (R422) -/

def State.setCapFloor (s : State) (v : Nat) : State :=
  ({ s with power := { s.power with capFloor := v } }.reDivideAll).pwrSeen 8 0x057

/-- The one-second comparison, with the readings of the feeds (a free value): `raise`: 100 ms above the cap have passed; `lower`: the draw stayed 1,000 W below it for
1 s. -/
def State.capCompare (s : State) (draw : Nat) (up down : Bool) : State :=
  if s.penHolder = 0 then s
  else
    let s0 := (s.setBar 0x10004 (Config.feedReading 0 s.root)).setBar 0x10008 (Config.feedReading 1 s.root)
    let s1 := s0.updBar 0x1000C fun w => putField w 0 16 (min draw 65535)
    let cap := field (s1.bar 0x1000C) 16 16
    if cap < draw ∧ up ∧ s1.power.capFloor < 6 then s1.setCapFloor (s1.power.capFloor + 1)
    else if draw + 1000 < cap ∧ down ∧ 4 < s1.power.capFloor then s1.setCapFloor (s1.power.capFloor - 1)
    else s1

def execPowerCapComparison (drawW : Nat) (raise lower : Bool) (s : State) : Res := .next (s.capCompare drawW raise lower)

/-- The peak guard holds every cluster at ÷6, and lets go. -/
def State.peakGuard (s : State) : State :=
  if s.power.peakFloor = 6 then s else ({ s with power := { s.power with peakFloor := 6 } }.reDivideAll).pwrSeen 9 0x058

def execPeakGuard (s : State) : Res := .next s.peakGuard
def execPeakGuardRelease (s : State) : Res := .next ({ s with power := { s.power with peakFloor := 4 } }.reDivideAll)

def execDividerChange (cluster : Nat) (s : State) : Res := onCluster cluster (s.dividerChange cluster)

/-! ### Ageing and the margin plan (R424-R426) -/

/-- A second's slack of a cluster's two replicas, and what the hour has of them. -/
def Cluster.sampled (k : Cluster) (a b : Int) : Cluster :=
  { k with
    slackMxa := a, slackSpd := b, slackSum := k.slackSum + a + b, slackNum := k.slackNum + 2
    slackMin := if k.slackNum = 0 then min a b else min k.slackMin (min a b) }

/-- Each replica's slack, by cluster of the region: array path and scratchpad path, in hundredths of a percent. -/
def execSlackMeasurement (region : Nat) (slack : List (Nat × Int × Int)) (s : State) : Res :=
  onRegion region (slack.foldl (fun t (i, a, b) =>
    if i < 20 then t.updCluster (20 * region + i) fun k => k.sampled a b else t) s)

/-- The hour's record of a cluster, 16 octets: mean and least slack in hundredths of a percent, four oscillator frequencies, 2 octets each;
peak temperature, 1 octet; three of zero. The order and the units are the model's (DESIGN CHOICE, log 165). -/
def Cluster.hourRecord (k : Cluster) (osc : List Nat) : List Octet :=
  leOctets 2 (BitVec.ofInt 16 (k.slackSum / max 1 (k.slackNum : Int))).toNat ++ leOctets 2 (BitVec.ofInt 16 k.slackMin).toNat ++
    ((List.range 4).flatMap fun i => leOctets 2 (osc.getD i 0)) ++ leOctets 1 (min 255 k.hourPeak) ++ leOctets 3 0

/-- The next hour begins: the window of peak temperatures moves on. -/
def Cluster.nextHour (k : Cluster) : Cluster :=
  { k with
    peaks := if k.hourPeak = 0 ∧ k.peaks = [] then [] else (k.hourPeak :: k.peaks).take 500, hourPeak := 0, slackSum := 0,
    slackNum := 0, slackMin := 0 }

/-- The hour's record of every cluster goes to the field notes; `osc` gives the frequencies of the clusters' oscillators. -/
def State.hourly (s : State) (osc : List (Nat × List Nat)) : State :=
  if s.penHolder = 0 ∨ s.power.connected = 0 then s
  else
    let os := (List.range 960).flatMap fun c =>
      (s.cluster c).hourRecord (((osc.find? fun e => e.1 == c).map (·.2)).getD [])
    let s1 := (List.range 960).foldl (fun t c => t.updCluster c Cluster.nextHour) s
    (s1.updBar 0x1001C fun w => bumpField w 2 16).noteOctets 9 os

def execHourlyAgeingRecord (osc : List (Nat × List Nat)) (s : State) : Res := .next (s.hourly osc)

def execMarginPlan (s : State) : Res := .next s.marginPlan

end Sys2Proof.Machine
end

