-- ==== Sys2Proof/Machine/Mgmt.lean ====
section
/-! DEFINITION. The management controllers (spec/16): the pen and its handover, boot and warm reset, ROM recovery, firmware
update, flash records. -/

namespace Sys2Proof.Machine

/-- Step 8 of the boot has ended (R376, R436). -/
def State.ready (s : State) : Bool := s.host.ready

def State.updMgmt (s : State) (f : Mgmt → Mgmt) : State := { s with mgmt := f s.mgmt }

/-! ### Controllers and the pen (R429-R435) -/

/-- MGT_MC_A and MGT_MC_B: controller 1 or 2. -/
def mcReg (who : Nat) : Nat := 0x20004 + 4 * who
/-- 0 off, 1 ROM, 2 booting, 3 follower, 4 holder, 5 standby, 6 ROM recovery. -/
def State.mcState (s : State) (who : Nat) : Nat := field (s.bar (mcReg who)) 0 3
def State.setMcState (s : State) (who v : Nat) : State := s.updBar (mcReg who) fun w => putField w 0 3 v
def peerOf (who : Nat) : Nat := 3 - who

def State.flash (s : State) (who : Nat) : Flash := if who = 1 then s.mgmt.flashA else s.mgmt.flashB
def State.updFlash (s : State) (who : Nat) (f : Flash → Flash) : State :=
  s.updMgmt fun m => if who = 1 then { m with flashA := f m.flashA } else { m with flashB := f m.flashB }

/-- An event of a management controller without a bit of MGT_ERR. -/
def State.mgtRaise (s : State) (code off : Nat) : State := s.raiseFrom srcManagement code 0xFFFF (s.bar off).toNat

def penWord (holder gen : Nat) : Reg32 := BitVec.ofNat 32 (holder + gen % 65536 * 4)
def State.setPen (s : State) (holder gen : Nat) : State := s.setBar 0x20000 (penWord holder gen)

/-- A follower reads MGT_PEN. -/
def State.readPen (s : State) : State := s.updMgmt fun m => { m with seenPen := s.bar 0x20000 }

/-- The pen passes to another controller: it acts as holder, and the other follows and takes its first sample anew (R431); every SPDM
session is closed, with 0x068, and a connection that had begun is to begin again (R434). -/
def State.handOver (s : State) (who : Nat) : State :=
  let t := s.setMcState who 4
  let t1 := (if t.mcState (peerOf who) = 4 then t.setMcState (peerOf who) 3 else t).readPen
  let t2 := t1.updMgmt fun m => { m with sample := none, spdm := { Spdm.reset with resynch := m.spdm.resynch || m.spdm.stage != 0 } }
  if t1.mgmt.spdm.session then t2.mgtRaise 0x068 0x20000 else t2

/-- A compare-and-set of MGT_PEN: applied only if the register holds what is expected; it advances pen_gen, and the value
found is answered. -/
def State.penCas (s : State) (holder gen new : Nat) : State :=
  let found := s.bar 0x20000
  if s.penHolder = holder ∧ s.penGen = gen ∧ new ≤ 2 then
    let t := s.setPen new (gen + 1)
    (if new ≠ 0 ∧ new ≠ holder then t.handOver new
     else if new = 0 ∧ holder ≠ 0 then t.setMcState holder 3
     else t).emit (.pen found)
  else s.emit (.pen found)

def execPenCompareAndSet (who : Writer) (expHolder : Nat) (expGen : BitVec 16) (newHolder : Nat) (s : State) : Res :=
  .next (if who = .host then s else s.penCas expHolder expGen.toNat newHolder)

/-- The holder restores the flash of a controller that stands by or is in ROM recovery to its own images, with 0x064, and restarts it:
the controller follows (R435, R438, R443). When it does so the spec does not say: with its next heartbeat (DESIGN CHOICE, log 145). -/
def State.restorePeer (s : State) : State :=
  let h := s.penHolder
  let p := peerOf h
  if (h ≠ 1 ∧ h ≠ 2) ∨ (s.mcState p ≠ 5 ∧ s.mcState p ≠ 6) then s
  else
    let fl := s.flash h
    let t := s.updFlash p fun x => { x with
      imageA := fl.imageA, imageB := fl.imageB, active := fl.active, trial := fl.trial, revert := fl.revert, hdrSeq := fl.hdrSeq }
    ((t.setBar (mcReg p) (putField (s.bar (mcReg h)) 0 3 3)).updMgmt fun m =>
      let m1 := { m with sample := none, seenPen := s.bar 0x20000 }
      if p = 1 then { m1 with recA := Recovery.reset } else { m1 with recB := Recovery.reset }).mgtRaise 0x064 0x20000

/-- The holder's heartbeat. -/
def execHeartbeat (s : State) : Res :=
  .next (if s.penHolder = 0 then s else s.restorePeer.updBar 0x20004 fun w => putField w 0 16 (field w 0 16 + 1))

/-- The follower samples the heartbeats; its first sample misses nothing. On the third miss in a row it attempts the pen with the values
that it last read; if they are no longer in the register it reads it again and remains follower (R431). -/
def State.heartbeatSample (s : State) : State :=
  let me := peerOf s.penHolder
  if s.penHolder = 0 ∨ s.mcState me ≠ 3 then s
  else
    let hb := BitVec.ofNat 16 (field (s.bar 0x20004) 0 16)
    if s.mgmt.sample ≠ some hb then
      (s.updMgmt fun m => { m with sample := some hb }).updBar 0x20004 fun w => putField w 16 2 0
    else
      let n := min 3 (field (s.bar 0x20004) 16 2 + 1)
      let t := s.updBar 0x20004 fun w => putField w 16 2 n
      if n < 3 then t
      else if s.mgmt.seenPen ≠ s.bar 0x20000 then t.readPen
      else ((t.setPen me (s.penGen + 1)).handOver me).mgtSeen 0 0x060 0xFFFF

def execHeartbeatSample (s : State) : Res := .next s.heartbeatSample

/-- release: the holder gives the pen up and the follower takes it (R433); ignored with no follower. -/
def State.penRelease (s : State) : State :=
  let me := peerOf s.penHolder
  if s.penHolder = 0 ∨ s.mcState me ≠ 3 then s
  else ((s.setPen me (s.penGen + 2)).handOver me).mgtRaise 0x062 0x20000

def execPenRelease (s : State) : Res := .next s.penRelease

/-- A pen of none for 10 ms is taken by a controller that runs. -/
def State.penNone (s : State) (who : Writer) : State :=
  let w := writerCode who
  if w = 0 ∨ s.penHolder ≠ 0 ∨ (s.mcState w ≠ 3 ∧ s.mcState w ≠ 4) then s
  else (s.setPen w (s.penGen + 1)).handOver w

def execPenNoneTimeout (who : Writer) (s : State) : Res := .next (s.penNone who)

/-! ### Boot (R436, R437, R405, R413, R259, R44, R49) -/

/-- The code of a halt of step 1: the lowest that applies. -/
def bootHaltCode (f : BootFacts) : Option Nat :=
  if !f.imageA && !f.imageB then some 0x601
  else if !f.factoryOk then some 0x602
  else if !f.identityDerived then some 0x604
  else if !f.identityMatch then some 0x605
  else none

/-- The boot halts: halted and halt_code; a trial image that halts is to be reverted (R449). -/
def State.bootHalt (s : State) (step code : Nat) : State :=
  let t := s.updBar 0x20010 fun w => putField (putField (putField w 0 4 step) 4 12 code) 16 1 1
  t.updMgmt fun m => { m with
    flashA := if m.flashA.trial then { m.flashA with revert := true } else m.flashA
    flashB := if m.flashB.trial then { m.flashB with revert := true } else m.flashB }

/-- A controller that runs an image goes back to its other slot where it must, with 0x063 (R449). -/
def State.bootFallback (s : State) (who : Nat) (verified active : Bool) : State :=
  let fl := s.flash who
  if verified && (fl.revert || !active) then
    (s.updFlash who fun x => { x with active := !x.active, trial := false, revert := false }).mgtSeen 2 0x063 who
  else s

/-- What MGT_MC shows of a controller after step 1. -/
def State.bootMc (s : State) (who : Nat) (verified : Bool) (cls : BitVec 16) (st : Nat) : State :=
  s.setBar (mcReg who) (BitVec.ofNat 32
    (if verified then st + (s.flash who).active.toNat * 8 + cls.toNat * 16 else 6))

/-- The newer of two record areas, by the last sequence number. -/
def newerNotes (a b : List FlashRec) : List FlashRec :=
  if ((a.map (·.seq)).max?.getD 0) < ((b.map (·.seq)).max?.getD 0) then b else a

/-- The flashes are compared: the newer records, and images that one lacks, are copied; 0x064 (R443). -/
def State.resync (s : State) (holder : Nat) : State :=
  let h := s.flash holder
  let p := s.flash (peerOf holder)
  let notes := newerNotes h.notes p.notes
  let h1 := { h with notes := notes, imageA := h.imageA.or p.imageA, imageB := h.imageB.or p.imageB }
  let p1 := { p with notes := notes, factory := h.factory, imageA := p.imageA.or h.imageA, imageB := p.imageB.or h.imageB }
  if h1 = h ∧ p1 = p then s
  else ((s.updFlash holder fun _ => h1).updFlash (peerOf holder) fun _ => p1).mgtRaise 0x064 0x20000

/-- The image in a flash's active slot. -/
def Flash.running (x : Flash) : Option Image := if x.active then x.imageB else x.imageA

/-- Determinism class and release of the image that a controller runs: those of the image in its active slot (R305); of an image that
the flash has held since before cold reset, those that its header gives. -/
def State.classOf (s : State) (f : BootFacts) (who : Nat) : BitVec 16 :=
  ((s.flash who).running.map (·.detClass)).getD (if who = 1 then f.detClassA else f.detClassB)
def State.releaseOf (s : State) (f : BootFacts) (who : Nat) : BitVec 16 := ((s.flash who).running.map (·.release)).getD f.fwRelease

/-- The controller that comes to hold the pen: the one that holds it already, where a source was never lost; else the first that verifies
an image (R430, R436). -/
def State.bootHolder (s : State) (f : BootFacts) : Nat :=
  if (s.penHolder = 1 ∧ f.imageA = true) ∨ (s.penHolder = 2 ∧ f.imageB = true) then s.penHolder else if f.imageA then 1 else 2

/-- Step 1: controllers, pen, identity, firmware registers. -/
def State.bootStep1 (s : State) (f : BootFacts) : State :=
  let holder := s.bootHolder f
  let both := f.imageA && f.imageB
  let s1 := (s.bootFallback 1 f.imageA f.activeA).bootFallback 2 f.imageB f.activeB
  let s2 := (if s1.penHolder = holder then s1 else s1.setPen holder (s1.penGen + 1)).readPen
  let clsA := s2.classOf f 1
  let clsB := s2.classOf f 2
  let st (w : Nat) : Nat := if w = holder then 4 else if clsA = clsB then 3 else 5
  let s3 := (s2.bootMc 1 f.imageA clsA (st 1)).bootMc 2 f.imageB clsB (st 2)
  let s4 := if both && decide (clsA ≠ clsB) then s3.mgtSeen 3 0x606 (peerOf holder) else s3
  let s5 := s4.resync holder
  let s6 := (s5.setBar 0 (BitVec.ofNat 32 (0x4816 + f.stepping % 2 * 2 ^ 16))).setBar 4
    (BitVec.ofNat 32 ((s2.classOf f holder).toNat + (s2.releaseOf f holder).toNat * 2 ^ 16))
  let s7 := (s6.setBar 0x20014 (f.serial.setWidth 32)).setBar 0x20018 ((f.serial >>> 32).setWidth 32)
  let s8 := (s7.setBar 0x2001C 1).updMgmt fun m => { m with identity := true, spdm := Spdm.reset, sample := none }
  if s8.power.faultLog = [] then s8
  else
    let t := s8.noteOctets 10 (s8.power.faultLog.flatMap (leOctets 2))
    ({ t with power := { t.power with faultLog := [] } }).mgtRaise 0x505 0x10000

/-- Regions that the boot powers (R404, R405, R413): not retired ones, nor those isolated since the module was powered up; under the service rail those of PWR_SVC within the budget. -/
def State.bootRegions (s : State) : List Nat :=
  if s.onService then s.power.svcRegions else (List.range 48).filter fun r => !(s.svc r).retired && !(s.svc r).isoLow

/-- Step 2 for one region: the switch closes. The rail of a region that was isolated for a short is checked first, and a check that fails
retires it (R413). -/
def State.bootRegion (s : State) (f : BootFacts) (r : Nat) : State :=
  if !(s.svc r).shorted then s.setRegionState r 2
  else if f.railOk.getLsbD r then (s.setRegionState r 2).updSvc r fun x => { x with shorted := false }
  else ((s.setRegionState r 6).updSvc r fun x => { x with retired := true }).note 1 [5, r, 0x502]

/-- The plan and the phases of a cluster, from the field notes: those of this module's life here, else those that the flash held before. -/
def State.bootCluster (s : State) (f : BootFacts) (c : Nat) : State :=
  let (div, code) := ((s.notedPlan c).orElse fun _ => (f.plan.find? fun e => e.1 == c).map (·.2)).getD (4, 0)
  s.powerCluster c div code (((f.phases.find? fun e => e.1 == c).map (·.2)).getD (BitVec.allOnes 8))

/-- Step 3 for a die: its PLL's lock. -/
def State.bootDie (s : State) (f : BootFacts) (d : Nat) : State :=
  let ok := f.lockOk.getLsbD d
  let t := s.updBar (pwrPll d) fun w => putField w 0 1 ok.toNat
  if ok then t else (dieRegions d).foldl (fun u r => if u.regionState r = 2 then u.setRegionState r 5 else u) t

/-- Step 5: a row map from the failed columns of its row, in the order in which they failed: the spare serves the first (R49, R50,
log 104). -/
def rowMapFor (bad : List Nat) : Word :=
  let spare := !bad.contains 4
  let col (c : Nat) : Nat := if !bad.contains c then c else if spare && bad.head? == some c then 4 else 7
  let st := if !spare then 3 else if bad = [] then 0 else 2
  wd (col 0 + col 1 * 8 + col 2 * 64 + col 3 * 512 + st * 4096)

/-- Retired positions of a region that the field notes record: kind 1, position (R444, R445). -/
def State.notedPositions (s : State) (r : Nat) : List Nat :=
  (s.noted 1).filterMap fun e => if e.head? = some 1 ∧ e.getD 1 0 / 400 = r then some (e.getD 1 0 % 400) else none

/-- Failed columns of row `m` of a region by the effective map, oldest first. -/
def State.failedColumns (s : State) (f : BootFacts) (r m : Nat) : List Nat :=
  let old := f.retired.filterMap fun (rg, p) => if rg = r then some p else none
  ((old ++ s.notedPositions r).filter fun p => p / 5 == m).map (· % 5)

def State.bootRows (s : State) (f : BootFacts) (r : Nat) : State :=
  (List.range 80).foldl (fun t m =>
    let dark := field (t.bar (pwrCluster (20 * r + m / 4))) 22 1 == 1
    t.setP1 r m (rowMapFor (if dark then List.range 5 else s.failedColumns f r m))) s

/-- The region's rows that spare rows stand in for: those of the effective map, and those repaired since (R258). -/
def State.bootSpares (s : State) (f : BootFacts) (r : Nat) : State :=
  let map := f.spareRows.filterMap fun (rg, k) => if rg = r then some k else none
  let noted := (s.noted 5).filterMap fun e =>
    if e.take 2 = [1, r] then some (e.getD 2 0, e.getD 3 0, e.getD 4 0, e.getD 5 0) else none
  let fresh := noted.filter fun k => !map.contains k && !(s.well r).repaired.contains k
  s.updWell r fun x => { x with repaired := map ++ (x.repaired ++ fresh).filter fun k => !map.contains k }

/-- Channels that step 6 finds good: those that train and that no field note records as failed (R444). -/
def State.goodChannels (s : State) (f : BootFacts) (r : Nat) : BitVec 16 :=
  (s.noted 5).foldl (fun m e => if e.take 2 = [2, r] then putField m (e.getD 2 16) 1 0 else m)
    (((f.trained.find? fun e => e.1 == r).map (·.2)).getD (BitVec.allOnes 16))

/-- The region controller reads the identity record, the last burst of the well (R259); none when it cannot be read (R249). -/
def State.readIdent (s : State) (f : BootFacts) (r : Nat) : State × Option (BitVec 512) :=
  let (w, errs) := ((f.ident.find? fun e => e.1 == r).map (·.2)).getD ((s.well r).ident, [])
  match s.wellCheck r [2 ^ 30 - 1] errs 0 with
  | (t, true) => (t.updWell r fun x => { x with ident := w }, some w)
  | (t, false) => (t, none)

/-- module_bind of an identity record is the digest of its first 16 octets and the module's serial number (R259). -/
def State.identOk (s : State) (w : BitVec 512) : Bool :=
  Sha.digestOctets (Sha.sha256 (leOctets 16 w.toNat ++ leOctets 8 s.ownSerial.toNat)) == leOctets 32 (w.extractLsb' 128 256).toNat

/-- A region does not come into service: event 0x228 (R259). -/
def State.bootWellOut (s : State) (r : Nat) : State :=
  let t := s.updBar 0x40808 fun w => bumpField w 0 6
  (t.updSvc r fun x => { x with inService := false, withdrawn := true }).raise r 0x228 noSubject (t.p1 r 14385).toNat

/-- Step 6 for a region: channels, spare rows, the identity record (R259); 0x228 keeps the region out of service. -/
def State.bootWell (s : State) (f : BootFacts) (r : Nat) : State :=
  let tr := s.goodChannels f r
  let s0 := s.bootSpares f r
  let s1 := (List.range 16).foldl (fun t c =>
    let n := ((s0.well r).repaired.filter fun k => k.1 == c).length
    t.updP1 r (14353 + 2 * c) fun w => putField (putField w 0 10 n) 10 1 (tr.getLsbD c).toNat) s0
  let (s2, id) := s1.readIdent f r
  match id with
  | some w =>
    if s2.identOk w && tr == BitVec.allOnes 16 then
      let s3 := (List.range 16).foldl (fun t i => t.setP1 r (14336 + i) ((w.extractLsb' (32 * i) 32).setWidth 36)) s2
      (s3.updP1 r 14385 fun v => putField v 2 1 1).updSvc r fun x => { x with inService := true, withdrawn := false }
    else s2.bootWellOut r
  | none => s2.bootWellOut r

/-- The boundary wires that the field notes record, and those found failed, are steered onto spares, or their links leave service (R44). -/
def State.bootWires (s : State) (f : BootFacts) : State :=
  let s1 := (List.range 48).foldl (fun t r => t.updRegion r fun x => { x with steered := [], portOff := 0 }) s
  let s2 := (s.noted 3).foldl (fun t e => t.steer (e.getD 0 0) (e.getD 1 0) (e.getD 2 0) (e.getD 3 0)) s1
  f.wires.foldl (fun t (r, p, g, n) => t.steerGroup r p g n) s2

/-- A lane that the field notes record as retired is out of its direction's map (R324, R444). -/
def State.bootLane (s : State) (l p : Nat) (rx : Bool) : State :=
  let k := s.link l
  if p = 8 then s.setLink l (if rx then { k with rxRetired := putField k.rxRetired 8 1 1 } else { k with txRetired := putField k.txRetired 8 1 1 })
  else if rx then
    (s.setLink l { k with rxRetired := putField k.rxRetired p 1 1 }).setLaneMap l true
      (failLane (s.bar (lnkReg l 8)) k.rxRetired p true).1
  else (s.setLink l { k with txRetired := putField k.txRetired p 1 1 }).setLaneMap l false (failLane k.txMap k.txRetired p true).1

def State.bootLanes (s : State) : State :=
  (s.noted 6).foldl (fun t e =>
    let l := e.getD 0 24
    let rx := e.getD 2 0 == 1
    let k := t.link l
    if l < 24 ∧ (if rx then k.rxRetired else k.txRetired).getLsbD (e.getD 1 9) = false then t.bootLane l (e.getD 1 9) rx else t) s

/-- Steps 3 to 6, over the regions that have power: the rest are out of service, and no router sends toward them. -/
def State.bootSteps (s : State) (f : BootFacts) : State :=
  let s1 := (List.range 12).foldl (fun t d => t.bootDie f d) s
  let on := (List.range 48).filter fun r => s1.regionState r == 2
  let off := (List.range 48).filter fun r => s1.regionState r != 2
  let s2 := on.foldl (fun t r => ((regionClusters r).foldl (fun u c => u.bootCluster f c) t).bootRows f r) s1
  let s3 := on.foldl (fun t r => t.bootWell f r) s2
  let s4 := off.foldl (fun t r => t.updSvc r fun x => { x with inService := false, withdrawn := true }) s3
  let s6 := s4.bootWires f
  let s7 := off.foldl (fun t r => ((List.range 48).filter (adjacent r)).foldl (fun u n =>
    u.updRegion n fun x => { x with portOff := putField x.portOff (portToward n r) 1 1 }) t) s6
  s7.recomputeRoutes

/-- Steps 7 and 8: links, then ready. A trial image is confirmed with 0x067, a recovered one reported with 0x069. -/
def State.bootEnd (s : State) : State :=
  let s1 :=
    if s.onService then s
    else (List.range 24).foldl (fun t l => if field (t.bar (lnkReg l 0)) 0 1 = 1 then t.linkEnable l true else t) s.bootLanes
  let s2 := (List.range 48).foldl (fun t r => (t.summarise r).routeRefresh r) s1
  let s3 := (({ s2 with host := { s2.host with ready := true } }).setStatus 0 1 1).updBar 0x20010 fun w => putField (putField w 0 4 8) 17 1 s.onService.toNat
  let trial := s3.mgmt.flashA.trial || s3.mgmt.flashB.trial
  let s4 := (s3.updFlash 1 fun x => { x with trial := false }).updFlash 2 fun x => { x with trial := false }
  let s5 := if trial then s4.mgtRaise 0x067 0x20010 else s4
  let fresh := s5.mgmt.recA.fresh || s5.mgmt.recB.fresh
  let s6 := s5.updMgmt fun m => { m with recA := { m.recA with fresh := false }, recB := { m.recB with fresh := false } }
  if fresh then s6.mgtRaise 0x069 0x20010 else s6

/-- Steps 1 to 8 on a module whose regions in `power` are to be powered up. -/
def State.bootAll (s : State) (f : BootFacts) (power : State → List Nat) : State :=
  let s0 := s.updBar 0x20010 fun w => putField (putField w 4 12 0) 16 1 0
  match bootHaltCode f with
  | some code =>
    let t := (s0.bootMc 1 f.imageA (s0.classOf f 1) 2).bootMc 2 f.imageB (s0.classOf f 2) 2
    t.bootHalt 1 code
  | none =>
    let s1 := s0.bootStep1 f
    let out := ((List.range 48).filter fun r => (s1.svc r).retired).foldl (fun t r => t.setRegionState r 6) s1
    let s2 := (power s1).foldl (fun t r => t.bootRegion f r) out
    let s3 := s2.bootSteps f
    if s3.regionsUp = [] then s3.bootHalt 6 0x60B else s3.bootEnd

/-- BOOT, after cold reset or from a halt; a module that is ready does not boot again. -/
def State.boot (s : State) (f : BootFacts) : State :=
  if s.power.connected = 0 ∨ s.ready then s
  else
    let s1 := if s.onService then s.serviceBudget else s
    s1.bootAll f State.bootRegions

def execBoot (facts : BootFacts) (s : State) : Res := .next (s.boot facts)

/-- Registers at warm reset: every one at its Reset value, but the RWS fields, the event rings of the regions and the scratchpad
counters, which stay (R56, R93, R439, R457, log 146). The region's power state shows what the wafer keeps. -/
def State.warmRegs (s : State) : State :=
  let keep (i : Nat) : Bool := i == 5574 || i == 5575 || decide (5632 ≤ i ∧ i < 6144)
  let rws (e : Nat × Word) : Option (Nat × Word) :=
    if keep e.1 then some e
    else if 14352 ≤ e.1 ∧ e.1 < 14384 ∧ e.1 % 2 = 1 ∧ field e.2 0 10 ≠ 0 then some (e.1, wd (field e.2 0 10))
    else if 1024 ≤ e.1 ∧ e.1 < 2304 ∧ e.1 % 4 < 2 ∧ e.2 ≠ 0 then some e
    else none
  let pwr (e : Nat × Reg32) : Option (Nat × Reg32) :=
    if e.1 = 0x10000 then some e
    else if 0x10100 ≤ e.1 ∧ e.1 < 0x101C0 ∧ field e.2 0 3 ≠ 0 then some (e.1, BitVec.ofNat 32 (field e.2 0 3))
    else none
  let m := s.mgmt
  { s with
    bar0 := s.bar0.filterMap pwr
    regions := (s.regions.map fun (r, x) => (r, { x with p1 := x.p1.filterMap rws })).filter fun e => decide (e.2 ≠ Region.reset)
    links := [], seq := Sequencer.reset, sys := Sys.reset
    host := { HostEng.reset with events := s.host.events }
    power := { s.power with plan := none, retire := [], capFloor := 4 }
    mgmt := { Mgmt.reset with
      flashA := m.flashA, flashB := m.flashB, journal := m.journal, noteSeq := m.noteSeq, history := m.history,
      identity := m.identity, served := m.served
      recA := { Recovery.reset with fresh := m.recA.fresh }, recB := { Recovery.reset with fresh := m.recB.fresh } } }

/-- WARM_RESET: only while the sequencer is Idle; steps 1 and 3 to 8 follow. -/
def State.warmReset (s : State) (f : BootFacts) : State :=
  if s.power.connected = 0 ∨ s.seqIdle = false then s else s.warmRegs.bootAll f fun _ => []

def execWarmReset (facts : BootFacts) (s : State) : Res := .next (s.warmReset facts)

/-! ### ROM recovery (R438) -/

def State.recovery (s : State) (who : Nat) : Recovery := if who = 1 then s.mgmt.recA else s.mgmt.recB
def State.setRecovery (s : State) (who : Nat) (r : Recovery) : State :=
  s.updMgmt fun m => if who = 1 then { m with recA := r } else { m with recB := r }

/-- A command to a controller in ROM recovery. -/
def State.inRecovery (s : State) (who : Writer) (f : Nat → State) : State :=
  if who = .host ∨ s.mcState (writerCode who) ≠ 6 then s else f (writerCode who)

/-- A status is answered and kept. -/
def State.recoveryAnswer (s : State) (who status : Nat) : State :=
  (s.setRecovery who { s.recovery who with status := BitVec.ofNat 16 status }).emit (.mctp (leOctets 2 status))

def execRecoveryStatus (who : Writer) (s : State) : Res :=
  .next (s.inRecovery who fun w =>
    let r := s.recovery w
    s.emit (.mctp (leOctets 1 r.state ++ leOctets 4 r.octets.length ++ leOctets 2 r.status.toNat)))

/-- The partial image and slot A of the controller's flash are erased. -/
def State.recoveryErase (s : State) (w state length : Nat) : State :=
  let r := s.recovery w
  (s.updFlash w fun x => { x with imageA := none }).setRecovery w { r with state := state, length := length, octets := [] }

def execRecoveryBegin (who : Writer) (length : Nat) (s : State) : Res :=
  .next (s.inRecovery who fun w =>
    if length = 0 ∨ 134217728 < length then s.recoveryAnswer w 0x60C
    else (s.recoveryErase w 1 length).recoveryAnswer w 0)

def execRecoveryData (who : Writer) (offset : Nat) (data : List Octet) (s : State) : Res :=
  .next (s.inRecovery who fun w =>
    let r := s.recovery w
    if r.state ≠ 1 ∨ offset ≠ r.octets.length ∨ data = [] ∨ 1024 < data.length ∨ r.length < offset + data.length then
      s.recoveryAnswer w 0x60C
    else (s.setRecovery w { r with octets := r.octets ++ data }).recoveryAnswer w 0)

/-- The image of a slot from its octets; its release and class stand in the signed header, whose layout is not given. -/
def State.imageFrom (s : State) (os : List Octet) : Image :=
  { release := (Config.unstated 4 s.root).setWidth 16, detClass := (Config.unstated 5 s.root).setWidth 16,
    digest := Sha.sha256 os, octets := os }

/-- RECOVERY_COMMIT; `good`: the signature and the revocation list allow the image. -/
def State.recoveryCommit (s : State) (w : Nat) (good : Bool) : State :=
  let r := s.recovery w
  if r.state = 1 ∧ r.octets.length = r.length ∧ good = true then
    let s1 := s.updFlash w fun x => { x with
      imageA := some (s.imageFrom r.octets), active := false, trial := true, hdrSeq := x.hdrSeq + 1, revert := false }
    ((s1.setRecovery w { r with state := 3, fresh := true }).recoveryAnswer w 0).setMcState w 1
  else (s.recoveryErase w 4 0).recoveryAnswer w 0x60C

def execRecoveryCommit (who : Writer) (good : Bool) (s : State) : Res :=
  .next (s.inRecovery who fun w => s.recoveryCommit w good)

def execRecoveryAbort (who : Writer) (s : State) : Res :=
  .next (s.inRecovery who fun w => (s.recoveryErase w 0 0).recoveryAnswer w 0)

/-! ### Firmware update (R448, R449) -/

/-- An update may run: the sequencer is Idle and both controllers are running. -/
def State.updatable (s : State) : Bool :=
  let runs (w : Nat) : Bool := s.mcState w == 3 || s.mcState w == 4
  s.seqIdle && runs 1 && runs 2 && s.penHolder != 0

def State.updReport (s : State) (state status : Nat) : State :=
  s.updBar 0x2003C fun w => putField (putField w 2 3 state) 5 12 status

/-- cmd = 1; `good`: the signature verifies and the release is not revoked. -/
def State.stage (s : State) (os : List Octet) (release cls : BitVec 16) (good : Bool) : State :=
  if s.updatable = false then s.updReport s.updState 0x608
  else if !good then s.updReport 5 0x607
  else
    let img : Image := { release := release, detClass := cls, digest := Sha.sha256 os, octets := os }
    let put (x : Flash) : Flash := if x.active then { x with imageA := some img } else { x with imageB := some img }
    let s1 := ((s.updFlash 1 put).updFlash 2 put).updMgmt fun m => { m with staged := some img }
    (s1.updReport 3 0).mgtRaise 0x066 0x2003C

def execStage (image : List Octet) (release detClass : BitVec 16) (good : Bool) (s : State) : Res :=
  .next (s.stage image release detClass good)

/-- cmd = 2: the new slot becomes active on trial, and a warm reset begins; its boot is the next BOOT. -/
def State.activate (s : State) : State :=
  if s.updatable = false then s.updReport s.updState 0x608
  else if s.mgmt.staged.isNone then s
  else
    let put (x : Flash) : Flash := { x with active := !x.active, trial := true, hdrSeq := x.hdrSeq + 1, revert := false }
    let s1 := (((s.updFlash 1 put).updFlash 2 put).warmRegs).updReport 4 0
    (s1.setMcState 1 1).setMcState 2 1

def execActivate (s : State) : Res := .next s.activate

/-- cmd = 3: the holder cancels the staged image (R429). -/
def State.cancel (s : State) : State :=
  if s.penHolder = 0 ∨ s.mgmt.staged.isNone = true then s else (s.updMgmt fun m => { m with staged := none }).updReport 0 0

def execCancel (s : State) : Res := .next s.cancel

/-- A trial image that has not ended step 8 in time is reverted at the next boot. -/
def execTrialTimeout (who : Writer) (s : State) : Res :=
  .next (if who = .host ∨ s.ready = true ∨ (s.flash (writerCode who)).trial = false then s
    else s.updFlash (writerCode who) fun x => { x with revert := true })

/-! ### Flash records (R441-R445) -/

/-- The octets that a record's signature covers. -/
def recordHead (r : FlashRec) : List Octet :=
  leOctets 2 r.kind.toNat ++ leOctets 2 r.superseded.toNat ++ leOctets 8 r.seq ++ leOctets 4 r.payload.length ++
    leOctets 4 r.key ++ leOctets 4 0 ++ r.payload

/-- Octets that records take in flash. -/
def recordsSize (l : List FlashRec) : Nat := (l.map fun r => 88 + r.payload.length).sum

/-- Octets of the field-note area, less its retired blocks. -/
def noteArea (x : Flash) : Nat := 536870912 - 65536 * x.retiredBlocks

/-- A record that compaction keeps: all but subkinds 2 and 9 older than 1,000 operating hours (R445). -/
def State.liveNote (s : State) (r : FlashRec) : Bool :=
  let sub := leNat (r.payload.take 2)
  (sub != 2 && sub != 9) || decide (s.operating < r.written + hours1000)

/-- fill_pct, and the compaction at 90 percent, with 0x065. -/
def State.compact (s : State) : State :=
  let fill (x : Flash) : Nat := recordsSize x.notes * 100 / max 1 (noteArea x)
  let h := s.flash s.penHolder
  if 90 ≤ fill h then
    let keep (x : Flash) : Flash := { x with notes := x.notes.filter s.liveNote }
    let s1 := (s.updFlash 1 keep).updFlash 2 keep
    let s2 := s1.updBar 0x20028 fun w => bumpField (putField w 0 7 (min 100 (fill (s1.flash s.penHolder)))) 7 16
    s2.mgtRaise 0x065 0x20028
  else s.updBar 0x20028 fun w => putField w 0 7 (min 100 (fill h))

/-- The holder writes a record; a write that fails three times retires its erase block first. Only field notes and the
revocation list of a signed update are written in the field. -/
def State.writeRecord (s : State) (kind : BitVec 16) (payload : List Octet) (verified : Bool) : State :=
  if s.penHolder = 0 ∨ (kind ≠ 0x10 ∧ kind ≠ 0x07) then s
  else
    let s0 := if verified then s
      else (s.updFlash s.penHolder fun x => { x with retiredBlocks := x.retiredBlocks + 1 }).mgtSeen 4 0x609 0xFFFF
    let key := if kind = 0x10 then 1 else 0
    let r0 : FlashRec :=
      { kind := kind, superseded := false, seq := s0.mgmt.noteSeq + 1, payload := payload, key := key, sig := 0, written := s0.operating }
    let r : FlashRec := { r0 with sig := Config.ecdsaSign (Sha.sha256 (recordHead r0)) r0.seq }
    let put (x : Flash) : Flash :=
      if kind = 0x10 then { x with notes := x.notes ++ [r] } else { x with factory := x.factory ++ [r] }
    let mirrored := s0.mcState (peerOf s0.penHolder) == 3
    let s1 := s0.updFlash s0.penHolder put
    let s2 := if mirrored then s1.updFlash (peerOf s0.penHolder) put else s1
    let s3 := s2.updMgmt fun m => { m with
      noteSeq := r.seq, journal := (m.journal.eraseP fun e => e.payload == payload) ++ (if mirrored then [] else [r]) }
    s3.compact

/-- A record goes through the ring's field-note journal, which refuses a controller that does not hold the pen (R432). -/
def execFlashRecordWrite (kind : RecordWrite) (payload : List Octet) (verified : Bool) (s : State) : Res :=
  .next (if kind.writer = .host then s
    else if writerCode kind.writer ≠ s.penHolder then s.mgtSeen 1 0x061 (writerCode kind.writer)
    else s.writeRecord kind.kind payload verified)

end Sys2Proof.Machine
end

