-- ==== Sys2Proof/Machine/Spdm.lean ====
section
/-! DEFINITION. The SPDM responder (R447). The request and response codes and the order of a connection are SPDM 1.2's; the
content of Table MGT-5, the certificate slot and the algorithms are the spec's. -/

namespace Sys2Proof.Machine

/-! ### Responses -/

/-- Octets of a response that the standard leaves to the responder (capability flags, nonces, opaque data), fresh for each
message. -/
def State.spdmFree (s : State) (code n : Nat) : List Octet :=
  (List.range n).map fun i => Config.spdmOctet code (s.mgmt.spdm.count * 4096 + i)

/-- A response leaves; `f` is what it does to the responder. -/
def State.spdmAnswer (s : State) (code : Nat) (os : List Octet) (f : Spdm → Spdm) : State :=
  (s.updMgmt fun m => { m with spdm := f { m.spdm with count := m.spdm.count + 1 } }).emit (.spdm code os)

/-- SPDM ERROR with its error code. -/
def State.spdmError (s : State) (e : Nat) : State := s.spdmAnswer 0x7F (leOctets 1 e) id

/-- UnexpectedRequest, InvalidRequest (SPDM 1.2). -/
def unexpected : Nat := 0x04
def invalidRequest : Nat := 0x01
/-- RequestResynch: the connection is to begin again with GET_VERSION. -/
def requestResynch : Nat := 0x43

/-- The holder answers, when the connection has come to a stage. A request of a connection that a handover has ended is answered
RequestResynch, until GET_VERSION begins another (R434, log 166). -/
def State.spdmAt (s : State) (stage : Nat) (f : State) : State :=
  if s.penHolder = 0 then s
  else if stage ≠ 0 ∧ s.mgmt.spdm.resynch = true then s.spdmError requestResynch
  else if s.mgmt.spdm.stage < stage then s.spdmError unexpected
  else f

/-- The signature of the identity key over a response (R446). -/
def State.spdmSign (s : State) (os : List Octet) : List Octet :=
  let g := Config.ecdsaSign (Sha.sha256 os) s.mgmt.spdm.count
  (List.range 64).map fun i => g.extractLsb' (8 * i) 8

/-- The certificate chain of slot 0: kind 0x05. -/
def chain : List Octet := (List.range Config.chainLength).map Config.chainOctet
def chainDigest : List Octet := Sha.digestOctets (Sha.sha256 chain)

/-! ### The connection -/

/-- GET_VERSION: version 1.2; the connection starts anew. -/
def execGetVersion (s : State) : Res :=
  .next (s.spdmAt 0 (s.spdmAnswer 0x04 ([0] ++ leOctets 1 1 ++ leOctets 2 0x1200) fun d =>
    { Spdm.reset with stage := 1, count := d.count, ideKeys := d.ideKeys, ideActive := d.ideActive }))

def execGetCapabilities (s : State) : Res :=
  .next (s.spdmAt 1 (s.spdmAnswer 0x61 (s.spdmFree 0x61 18) fun d => { d with stage := max d.stage 2 }))

/-- NEGOTIATE_ALGORITHMS: masks of the requester; ECDSA P-256 is bit 4 and SHA-256 bit 0. -/
def execNegotiateAlgorithms (asym hash : Nat) (s : State) : Res :=
  .next (s.spdmAt 2 (
    if asym.testBit 4 ∧ hash.testBit 0 then
      s.spdmAnswer 0x63 (leOctets 4 0x10 ++ leOctets 4 1) fun d => { d with stage := max d.stage 3 }
    else s.spdmError invalidRequest))

def execGetDigests (s : State) : Res := .next (s.spdmAt 3 (s.spdmAnswer 0x01 ([1] ++ chainDigest) id))

/-- GET_CERTIFICATE: a portion of slot 0's chain, with the portion's length and what remains. -/
def execGetCertificate (slot offset length : Nat) (s : State) : Res :=
  .next (s.spdmAt 3 (
    if slot ≠ 0 ∨ Config.chainLength ≤ offset then s.spdmError invalidRequest
    else
      let part := (chain.drop offset).take length
      s.spdmAnswer 0x02 (leOctets 2 part.length ++ leOctets 2 (Config.chainLength - offset - part.length) ++ part) id))

/-- CHALLENGE: the chain's digest, a nonce, and a signature over both nonces. -/
def execChallenge (slot : Nat) (nonce : BitVec 256) (s : State) : Res :=
  .next (s.spdmAt 3 (
    if slot ≠ 0 then s.spdmError invalidRequest
    else
      let os := chainDigest ++ s.spdmFree 0x03 32
      s.spdmAnswer 0x03 (os ++ s.spdmSign (os ++ Sha.digestOctets nonce)) id))

/-! ### Measurements (Table MGT-5) -/

/-- The image that a controller runs. -/
def State.runningImage (s : State) (who : Nat) : Option Image :=
  let f := s.flash who
  if f.active then f.imageB else f.imageA

/-- Release and class of a controller. -/
def State.releaseClass (s : State) (who : Nat) : List Octet :=
  let g := s.runningImage who
  leOctets 2 ((g.map (·.release.toNat)).getD (field (s.bar 4) 16 16)) ++ leOctets 2 (field (s.bar (mcReg who)) 4 16)

def State.measurement (s : State) (i : Nat) : List Octet :=
  match i with
  | 1 => Sha.digestOctets Config.romDigest
  | 2 => Sha.digestOctets (((s.runningImage s.penHolder).map (·.digest)).getD 0)
  | 3 => s.releaseClass 1 ++ s.releaseClass 2
  | 4 => Sha.digestOctets s.mgmt.jobDigest
  | 5 => Sha.digestOctets (Sha.sha256 ((s.flash s.penHolder).factory.flatMap recordHead))
  | _ => leOctets 8 (((s.flash s.penHolder).notes.map (·.seq)).max?.getD 0)

/-- GET_MEASUREMENTS: 0 asks for their number, 0xFF for all. -/
def execGetMeasurements (index : Nat) (s : State) : Res :=
  .next (s.spdmAt 3 (
    if index = 0 then s.spdmAnswer 0x60 (leOctets 1 6) id
    else if 6 < index ∧ index ≠ 0xFF then s.spdmError invalidRequest
    else
      let ids := if index = 0xFF then [1, 2, 3, 4, 5, 6] else [index]
      let os := ids.flatMap fun i => leOctets 1 i ++ leOctets 2 (s.measurement i).length ++ s.measurement i
      s.spdmAnswer 0x60 (os ++ s.spdmSign os) id))

/-! ### Secured session and IDE (R447, Table HST-1) -/

def execKeyExchange (reqKey : BitVec 512) (s : State) : Res :=
  .next (s.spdmAt 3 (
    let pub := (List.range 64).map fun i => (Config.keyShare s.mgmt.spdm.count).extractLsb' (8 * i) 8
    let req := (List.range 64).map fun i => reqKey.extractLsb' (8 * i) 8
    s.spdmAnswer 0x64 (pub ++ s.spdmSign (req ++ pub)) fun d => { d with session := true, secured := false }))

/-- FINISH; `verify`: the requester's MAC is good. -/
def execFinish (verify : Bool) (s : State) : Res :=
  .next (s.spdmAt 3 (
    if !s.mgmt.spdm.session then s.spdmError unexpected
    else if !verify then s.spdmAnswer 0x7F (leOctets 1 0x06) fun d => { d with session := false, secured := false }
    else s.spdmAnswer 0x65 (s.spdmFree 0x65 32) fun d => { d with secured := true }))

/-- An IDE_KM message over the secured session: QUERY, KEY_PROG, K_SET_GO or K_SET_STOP by its first octet. -/
def State.ideKm (s : State) (os : List Octet) : State :=
  if s.penHolder = 0 then s
  else if s.mgmt.spdm.resynch then s.spdmError requestResynch
  else if !s.mgmt.spdm.secured then s.spdmError unexpected
  else
    match (os.headD 0).toNat with
    | 0 => s.spdmAnswer 0x7E (leOctets 1 1 ++ s.spdmFree 0x7E 7) id
    | 2 => s.spdmAnswer 0x7E (leOctets 1 3) fun d => { d with ideKeys := d.ideKeys ++ [os.drop 1] }
    | 4 => s.spdmAnswer 0x7E (leOctets 1 6) fun d => { d with ideActive := !d.ideKeys.isEmpty }
    | 5 => s.spdmAnswer 0x7E (leOctets 1 6) fun d => { d with ideActive := false }
    | _ => s.spdmError invalidRequest

def execIdeKmRequest (message : List Octet) (s : State) : Res := .next (s.ideKm message)

end Sys2Proof.Machine
end

