-- ==== Sys2Proof/Machine/Table.lean ====
section
/-! DEFINITION. The TABLE functions of the stroke engine (R165, Table STK-6): the exact value of the function rounded
once to N36. An irrational value is computed to 640 fractional bits and carried with a sticky bit, far beyond what
any N36 operand needs to decide the rounding. -/

namespace Sys2Proof.Table

open Sys2Proof.Num

/-- The operations of TABLE (Table STK-5, kind 4). -/
inductive Op where
  | exp | log | rsqrt | sqrt | recip | tanh | sigm
deriving DecidableEq, Repr

/-- Fractional bits of the fixed-point work. -/
abbrev prec : Nat := 640

/-- A truncated magnitude `t * 2^q` of an irrational value just above it: the extra low bit is the sticky bit. -/
def sticky (neg : Bool) (t : Nat) (q : Int) : Val := .fin neg (2 * (t / 2 ^ 64) + 1) (q + 63)

/-- Sum of y^(2i+1)/(2i+1) for a fixed-point y below 1/3. -/
def atanhSeries (y : Nat) : Nat :=
  let y2 := y * y / 2 ^ prec
  ((List.range 210).foldl (fun (st : Nat × Nat) i => (st.1 * y2 / 2 ^ prec, st.2 + st.1 / (2 * i + 1))) (y, 0)).2

/-- ln 2 in fixed point. -/
def ln2 : Nat := 2 * atanhSeries (2 ^ prec / 3)

/-- e^r in fixed point for r in [0, ln 2). -/
def expSeries (r : Nat) : Nat :=
  ((List.range 140).foldl (fun (st : Nat × Nat) i => (st.1 * r / 2 ^ prec / (i + 1), st.2 + st.1))
    (2 ^ prec, 0)).2

/-- e^x as a fixed-point mantissa in [1, 2) and a power of two, for a signed fixed-point x. -/
def expFix (x : Int) : Nat × Int :=
  let k := x / (ln2 : Int)
  (expSeries (x - k * ln2).toNat, k)

/-- A finite value in fixed point. -/
def fix (neg : Bool) (mag : Nat) (exp : Int) : Int :=
  let n : Int := roundAt 1 0 mag (exp + prec) 0
  if neg then -n else n

/-- The exponent of the leading bit of a non-zero magnitude. -/
def lead (mag : Nat) (exp : Int) : Int := Nat.log2 mag + exp

/-- 1 plus or minus an amount too small to matter but not zero. -/
def nearOne (above : Bool) (q : Int) : Val := .fin false (if above then 2 ^ 64 + 1 else 2 ^ 64 - 1) (q - 64)

/-- e^x for a finite non-zero x. -/
def expVal (neg : Bool) (mag : Nat) (exp : Int) : Val :=
  if lead mag exp ≥ 9 then (if neg then .fin false 1 (-2000) else .fin false 1 2000)
  else if lead mag exp < -60 then nearOne (!neg) 0
  else
    let (t, k) := expFix (fix neg mag exp)
    sticky false t (k - prec)

/-- ln x for a finite positive x. -/
def logVal (mag : Nat) (exp : Int) : Val :=
  let l := Nat.log2 mag
  let e : Int := l + exp
  if mag == 2 ^ l && e == 0 then .fin false 0 0
  else
    let m := mag * 2 ^ prec / 2 ^ l
    let y := (m - 2 ^ prec) * 2 ^ prec / (m + 2 ^ prec)
    let v : Int := e * ln2 + 2 * atanhSeries y
    sticky (v < 0) v.natAbs (-prec)

/-- Square root with a sticky bit: exact when the low bit says so. -/
def sqrtVal (mag : Nat) (exp : Int) : Val :=
  let (m, e) := if exp % 2 == 0 then (mag, exp) else (2 * mag, exp - 1)
  let n := m * 2 ^ 160
  let r := Nat.sqrt n
  .fin false (2 * r + (if r * r == n then 0 else 1)) (e / 2 - 81)

/-- The quotient a/b of positive integers times 2^q, with a sticky bit. -/
def quotVal (neg : Bool) (a b : Nat) (q : Int) : Val :=
  let n := a * 2 ^ 160
  .fin neg (2 * (n / b) + (if n % b == 0 then 0 else 1)) (q - 161)

/-- 1/√x: the square root of the exact quotient, with a sticky bit. -/
def rsqrtVal (mag : Nat) (exp : Int) : Val :=
  let (m, e) := if exp % 2 == 0 then (mag, exp) else (2 * mag, exp - 1)
  let n := 2 ^ 320 / m
  let r := Nat.sqrt n
  .fin false (2 * r + (if r * r * m == 2 ^ 320 then 0 else 1)) (-(e / 2) - 161)

/-- tanh of a finite non-zero magnitude. -/
def tanhVal (neg : Bool) (mag : Nat) (exp : Int) : Val :=
  if lead mag exp < -60 then .fin neg (mag * 2 ^ 64 - 1) (exp - 64)
  else if lead mag exp ≥ 6 then
    match nearOne false 0 with
    | .fin _ m e => .fin neg m e
    | v => v
  else
    let (t, k) := expFix (-2 * fix false mag exp)
    let e := t / 2 ^ (-k).toNat
    sticky neg ((2 ^ prec - e) * 2 ^ prec / (2 ^ prec + e)) (-prec)

/-- 1/(1 + e^−x) of a finite non-zero x. -/
def sigmVal (neg : Bool) (mag : Nat) (exp : Int) : Val :=
  if lead mag exp < -60 then nearOne (!neg) (-1)
  else if lead mag exp ≥ 9 then (if neg then .fin false 1 (-2000) else nearOne false 0)
  else
    let (t, k) := expFix (-fix false mag exp)
    let e := t / 2 ^ (-k).toNat
    if neg then
      -- e/(1+e) keeps its relative precision through the mantissa t and power k
      sticky false (t * 2 ^ prec / (2 ^ prec + e)) (k - prec)
    else sticky false (2 ^ prec * 2 ^ prec / (2 ^ prec + e)) (-prec)

/-- The exact (or sticky) value of a TABLE function, with the special operands of Table STK-6. -/
def value (op : Op) (a : Val) : Val :=
  match op, a with
  | _, .nan => .nan
  | .exp, .inf n => if n then .fin false 0 0 else .inf false
  | .exp, .fin n m e => if m == 0 then .fin false 1 0 else expVal n m e
  | .log, .inf n => if n then .nan else .inf false
  | .log, .fin n m e => if m == 0 then .inf true else if n then .nan else logVal m e
  | .rsqrt, .inf n => if n then .nan else .fin false 0 0
  | .rsqrt, .fin n m e => if m == 0 then .inf n else if n then .nan else rsqrtVal m e
  | .sqrt, .inf n => if n then .nan else .inf false
  | .sqrt, .fin n m e => if m == 0 then .fin n 0 0 else if n then .nan else sqrtVal m e
  | .recip, .inf n => .fin n 0 0
  | .recip, .fin n m e => if m == 0 then .inf n else quotVal n 1 m (-e)
  | .tanh, .inf n => .fin n 1 0
  | .tanh, .fin n m e => if m == 0 then .fin n 0 0 else tanhVal n m e
  | .sigm, .inf n => if n then .fin false 0 0 else .fin false 1 0
  | .sigm, .fin n m e => if m == 0 then .fin false 1 (-1) else sigmVal n m e

/-- A TABLE operation: the result rounded once to N36, and the flag of R39 for a non-finite operand or result. -/
def apply (op : Op) (a : Val) : Val × Bool := flagged (value op a) [a]

end Sys2Proof.Table
end

