-- ==== Sys2Proof/Machine/Chain.lean ====
section
/-! DEFINITION. The arithmetic of the stroke chain (spec/06): stages on lanes, permutation, glyphs, and the reduction
tree. A lane holds four slots of N36 values. -/

namespace Sys2Proof.Machine

open Sys2Proof.Num

/-! ### Stage words (Table STK-4) -/

def stKind (w : Word) : Nat := field w 0 4
def stOp (w : Word) : Nat := field w 4 4
def stDst (w : Word) : Nat := field w 8 2
def stA (w : Word) : Nat := field w 10 4
def stB (w : Word) : Nat := field w 14 4
def stC (w : Word) : Nat := field w 18 4
def stParam (w : Word) : Nat := field w 22 14

/-- Which of the selectors a, b and c a stage uses (Table STK-5). -/
def stUses (w : Word) : Nat :=
  match stKind w, stOp w with
  | 2, 0 | 2, 1 | 2, 2 | 3, 0 | 3, 1 => 2
  | 2, 3 | 2, 4 | 3, 2 | 3, 3 | 3, 4 | 3, 5 => 3
  | 7, _ | 8, _ => 0
  | _, _ => 1

def selDefined (x : Nat) : Bool := decide (x < 4 ∨ 8 ≤ x)

/-- The fields of a stage word are listed and used (Tables STK-4, STK-5, R160, R163). `nOut` bounds PACK's slots. -/
def stValid (w : Word) (nOut : Nat) : Bool :=
  let p := stParam w
  let n := stUses w
  (if 1 ≤ n then selDefined (stA w) else stA w == 0) && (if 2 ≤ n then selDefined (stB w) else stB w == 0) &&
    (if 3 ≤ n then selDefined (stC w) else stC w == 0) &&
    (match stKind w with
      | 1 => stOp w == 0 && decide (p % 16 ≤ 4) && decide (p / 16 < 4)
      | 2 => decide (stOp w ≤ 6) && p == 0
      | 3 => decide (stOp w ≤ 5) && p == 0
      | 4 => decide (stOp w ≤ 6) && p == 0
      | 5 => decide (stOp w ≤ 1) && (p == 0 || decide (8 ≤ p ∧ p < 16))
      | 6 => decide (stOp w ≤ 2) && decide (1 ≤ p ∧ p ≤ 12)
      | 7 => stOp w == 0 && stDst w == 0 && decide (p < 32)
      | 8 => stOp w == 0 && stDst w == 0 && decide (p < 4 ^ min nOut 4)
      | _ => false)

/-! ### Lanes (R155, R156) -/

/-- One lane: slots x0 to x3, the nf of the input rows that supplied the lane's element as each slot shows it (R166), whether a slot holds an infinity that MIN, MAX
or CLAMP passed on (R39, R164), and the flags its arithmetic has set. -/
structure Lane where
  x : List Val
  nf : List Bool
  free : List Bool
  flag : Bool
deriving DecidableEq, Repr

def zeroVal : Val := .fin false 0 0

/-- The operand that a selector names. -/
def Lane.sel (l : Lane) (k : List Val) (sel : Nat) : Val := if sel < 8 then l.x.getD sel zeroVal else k.getD (sel - 8) zeroVal
def Lane.selNf (l : Lane) (sel : Nat) : Bool := sel < 4 && l.nf.getD sel false
/-- The nf of the input rows of a lane whose operand is `sel`: those of the slot, or of the whole lane for a constant (R166). -/
def Lane.supplied (l : Lane) (sel : Nat) : Bool := if sel < 4 then l.nf.getD sel false else l.nf.any id

/-- Writes a slot. -/
def Lane.put (l : Lane) (d : Nat) (v : Val) (nf free flag : Bool) : Lane :=
  { x := l.x.set d v, nf := l.nf.set d nf, free := l.free.set d free, flag := l.flag || flag }

/-- Rounds a value to the grid of a format and back to N36 (R163). INT36 has one zero, so a negative fraction that rounds to it
leaves +0 in the slot (DESIGN CHOICE, log 124). -/
def cvt (fmt rnd : Nat) (a : Val) : Val × Bool :=
  let (c, o) := encode fmt rnd 0 a
  ((toN36 (decode fmt c)).1, o || a.nonFinite)

/-- Minimum or maximum with the exception of R164: only NaN sets the flag. -/
def exempt (v : Val) (ops : List Val) : Val × Bool := (v, ops.any Val.isNan)

/-- TABLE operations by code (Table STK-5). -/
def tableOp (op : Nat) : Table.Op :=
  match op with
  | 0 => .exp | 1 => .log | 2 => .rsqrt | 3 => .sqrt | 4 => .recip | 5 => .tanh | _ => .sigm

/-- ARITH (Table STK-5). -/
def arith (op : Nat) (a b c : Val) : Val × Bool :=
  match op with
  | 0 => flagged (sum a b) [a, b]
  | 1 => flagged (sum a (neg b)) [a, b]
  | 2 => flagged (prod a b) [a, b]
  | 3 => flagged (sum (prod a b) c) [a, b, c]
  | 4 => flagged (sum c (neg (prod a b))) [a, b, c]
  | 5 => flagged (abs a) [a]
  | _ => flagged (neg a) [a]

/-- CMPSEL (Table STK-5, R164); `d` is the slot written. -/
def cmpsel (op : Nat) (a b c d : Val) : Val × Bool :=
  let pick (hit : Bool) : Val × Bool :=
    let y := if hit then c else d
    (y, [a, b, c, y].any Val.nonFinite)
  match op with
  | 0 => exempt (vmin a b) [a, b]
  | 1 => exempt (vmax a b) [a, b]
  | 2 => exempt (vmin (vmax a b) c) [a, b, c]
  | 3 => pick (lt a b)
  | 4 => pick (le a b)
  | _ => pick (eq a b)

/-- A lane through a CVT, ARITH, CMPSEL or TABLE stage. The rows that supplied the lane's element go on counting in the slot that is
written, also where its value comes from constants (DEDUCED, log 121). -/
def Lane.stage (l : Lane) (k : List Val) (w : Word) : Lane :=
  let a := l.sel k (stA w)
  let b := l.sel k (stB w)
  let c := l.sel k (stC w)
  let d := stDst w
  let nfA := l.selNf (stA w)
  let nfB := decide (2 ≤ stUses w) && l.selNf (stB w)
  let nfC := decide (3 ≤ stUses w) && l.selNf (stC w)
  let nf := nfA || nfB || nfC || l.selNf d
  let (v, f) :=
    match stKind w with
    | 1 => cvt (stParam w % 16) (stParam w / 16) a
    | 2 => arith (stOp w) a b c
    | 3 => cmpsel (stOp w) a b c (l.x.getD d zeroVal)
    | _ => Table.apply (tableOp (stOp w)) a
  l.put d v nf (stKind w == 3 && decide (stOp w < 3) && v.nonFinite && !v.isNan) f

/-! ### Permutation (R168) -/

/-- The lanes of a block after PERM, and whether a map entry set the lane-range flag. -/
def permute (w : Word) (k : List Val) (m : Row) (ls : List Lane) : List Lane × Bool :=
  let fill := if stParam w = 0 then zeroVal else k.getD (stParam w - 8) zeroVal
  let entry (j : Nat) : Nat := elemCode 6 m j
  (ls.zipIdx.map fun (l, j) =>
      match ls[entry j]? with
      | some src =>
        let v := src.sel k (stA w)
        l.put (stDst w) v (src.supplied (stA w) || src.flag) false v.nonFinite
      | none => l.put (stDst w) fill false false fill.nonFinite,
    ls.zipIdx.any fun (_, j) => entry j != 0o777 && decide (ls.length ≤ entry j))

/-! ### Glyphs (R171-R173) -/

/-- Micro-instruction `i` of a glyph row. -/
def micro (g : Row) (i : Nat) : BitVec 18 := g.extractLsb' (18 * i) 18
def miOp (w : BitVec 18) : Nat := field w 13 5
def miD (w : BitVec 18) : Nat := field w 10 3
def miA (w : BitVec 18) : Nat := field w 6 4
def miB (w : BitVec 18) : Nat := field w 2 4

/-- Operations that use b as a selector. -/
def miUsesB (op : Nat) : Bool := (decide (1 ≤ op ∧ op ≤ 7)) || decide (0o21 ≤ op ∧ op ≤ 0o24)
/-- Operations that read d. -/
def miUsesD (op : Nat) : Bool := op == 4 || op == 5 || op == 0o24

/-- A micro-instruction is valid (R173). -/
def miValid (w : BitVec 18) : Bool :=
  let op := miOp w
  decide (op ≤ 0o25) && field w 0 2 == 0 &&
    (if op = 0o25 then decide (miB w < 4) else miUsesB op || miB w == 0)

/-- One micro-instruction on the element registers (Table STK-8). -/
def runMicro (k : List Val) (w : BitVec 18) (l : Lane) : Lane :=
  let op := miOp w
  let a := l.sel k (miA w)
  let b := l.sel k (miB w)
  let d := l.x.getD (miD w) zeroVal
  let nfOf (x : Nat) : Bool := decide (x < 8) && l.nf.getD x false
  let nf := nfOf (miA w) || (miUsesB op && nfOf (miB w)) || nfOf (miD w)
  let one := ofInt 1
  let test (c : Bool) : Val × Bool := (if c then one else zeroVal, a.nonFinite || b.nonFinite)
  let (v, f) :=
    match op with
    | 0 => (a, a.nonFinite)
    | 1 => arith 0 a b d
    | 2 => arith 1 a b d
    | 3 => arith 2 a b d
    | 4 => arith 3 a b d
    | 5 => arith 4 a b d
    | 6 => let y := vmin a b; (y, a.nonFinite || b.nonFinite)
    | 7 => let y := vmax a b; (y, a.nonFinite || b.nonFinite)
    | 8 => arith 5 a b d
    | 9 => arith 6 a b d
    | 0o12 => Table.apply .exp a
    | 0o13 => Table.apply .log a
    | 0o14 => Table.apply .rsqrt a
    | 0o15 => Table.apply .sqrt a
    | 0o16 => Table.apply .recip a
    | 0o17 => Table.apply .tanh a
    | 0o20 => Table.apply .sigm a
    | 0o21 => test (lt a b)
    | 0o22 => test (le a b)
    | 0o23 => test (eq a b)
    | 0o24 => let y := if a.isZero then d else b; (y, a.nonFinite || b.nonFinite || y.nonFinite)
    | _ => cvt (miB w) 0 a
  l.put (miD w) v nf false f

/-- A glyph of `n` micro-instructions on one lane (R172); e4 to e7 are the lane's too (log 121). -/
def Lane.glyph (l : Lane) (k : List Val) (g : Row) (n : Nat) : Lane :=
  let e : Lane := { l with
    x := l.x ++ List.replicate 4 zeroVal, nf := l.nf ++ List.replicate 4 (l.nf.any id),
    free := l.free ++ List.replicate 4 false }
  let r := (List.range n).foldl (fun t i => runMicro k (micro g i) t) e
  { x := r.x.take 4, nf := r.nf.take 4, free := r.free.take 4, flag := r.flag }

/-! ### The chain on a block -/

/-- The stages before REDUCE and PACK on the lanes of a block; the Bool is the lane-range flag. -/
def runStages (k : List Val) (g m : Row) : List Word → List Lane → List Lane × Bool
  | [], ls => (ls, false)
  | w :: ws, ls =>
    match stKind w with
    | 6 | 8 => (ls, false)
    | 5 =>
      let (a, f) := permute w k m ls
      let (b, f') := runStages k g m ws a
      (b, f || f')
    | 7 => runStages k g m ws (ls.map fun l => l.glyph k g (stParam w + 1))
    | _ => runStages k g m ws (ls.map fun l => l.stage k w)

/-! ### Reduction (R170) -/

/-- Combines two nodes, the left child first. -/
def redCombine (op : Nat) (a b : Val) : Val × Bool :=
  match op with
  | 0 => flagged (sum a b) [a, b]
  | 1 => (vmax a b, a.nonFinite || b.nonFinite)
  | _ => (vmin a b, a.nonFinite || b.nonFinite)

/-- One level of the tree; a node with one absent child passes the other. -/
def redLevel (op : Nat) : List (Val × Bool) → List (Val × Bool)
  | a :: b :: l =>
    let (v, f) := redCombine op a.1 b.1
    (v, a.2 || b.2 || f) :: redLevel op l
  | l => l

/-- The tree over a group, level by level. -/
def redTree (op : Nat) : Nat → List (Val × Bool) → List (Val × Bool)
  | 0, l => l
  | n + 1, l => redTree op n (redLevel op l)

end Sys2Proof.Machine
end

