-- ==== Sys2Proof/Machine/Stroke.lean ====
section
/-! DEFINITION. The stroke engine (spec/06): its command words and checks, the prologue, the entry of a block and the
writing of its rows. -/

namespace Sys2Proof.Machine

open Sys2Proof.Num

/-! ### Command words (Tables STK-1 to STK-3) -/

def skVl (b : Row) : Nat := blk b 4 0 13
def skStages (b : Row) : Nat := blk b 4 13 4
def skIn (b : Row) : Nat := blk b 4 17 3
def skOut (b : Row) : Nat := blk b 4 20 3
def skStrm (b : Row) : Nat := blk b 5 0 22
def skParam (b : Row) : Nat := blk b 6 0 22
def skGlyph (b : Row) : Nat := blk b 7 0 22
/-- The stage words in chain order. -/
def skChain (b : Row) : List Word := (List.range (min 8 (skStages b))).map fun i => wordOf b (8 + i)
/-- A stage word carries kind 7 (R179). -/
def skHasGlyph (b : Row) : Bool := (List.range 8).any fun i => stKind (wordOf b (8 + i)) == 7
/-- The first stage of a kind in the chain. -/
def skStage (b : Row) (kind : Nat) : Option Word := (skChain b).find? fun w => stKind w == kind

/-- A stream descriptor (Table STK-2). -/
structure Stream where
  off : Nat
  src : Nat
  kind : Nat
  fmt : Nat
  rnd : Nat
  one : Bool
  period : Nat
  tensor : Nat
  idxLo : Nat
deriving DecidableEq, Repr

def streamAt (t : Row) (i : Nat) : Stream :=
  { off := blk t (4 * i) 0 22, src := blk t (4 * i) 22 4, kind := blk t (4 * i) 26 2, fmt := blk t (4 * i) 28 4,
    rnd := blk t (4 * i) 32 3, one := blk t (4 * i + 1) 0 1 == 1, period := blk t (4 * i + 1) 1 7,
    tensor := blk t (4 * i + 2) 0 32, idxLo := blk t (4 * i + 3) 0 36 }

def skIns (b t : Row) : List Stream := (List.range (min 4 (skIn b))).map (streamAt t)
def skOuts (b t : Row) : List Stream := (List.range (min 4 (skOut b))).map (streamAt t)

/-- Words of a descriptor that must be zero are (Table STK-2). -/
def streamReserved (t : Row) (i : Nat) (out : Bool) : Bool :=
  let d := streamAt t i
  blk t (4 * i) 35 1 != 0 || blk t (4 * i + 1) 8 28 != 0 ||
    (if out then
      d.src != 0 || decide (1 < d.kind) || decide (4 < d.fmt) || decide (5 < d.rnd) || !d.one || d.period != 0 ||
        blk t (4 * i + 2) 32 4 != 0
    else
      d.kind == 3 || decide (4 < d.fmt) || d.rnd != 0 || (d.one && d.period != 0) || wordOf t (4 * i + 2) != 0 ||
        wordOf t (4 * i + 3) != 0)

def streamZero (t : Row) (i : Nat) : Bool := (List.range 4).all fun k => wordOf t (4 * i + k) == 0

/-- Parameter row (Table STK-3). -/
def paramConsts (p : Row) : List Val := (List.range 8).map fun i => decode n36 (wordOf p i).toNat
def paramMap (p : Row) : Nat := blk p 8 0 22

/-- Elements per group of a REDUCE stage; 1 without one. -/
def skGroup (b : Row) : Nat := match skStage b 6 with | some w => 2 ^ min (stParam w) 12 | none => 1
/-- Elements of each output stream (R166). -/
def skOutElems (b : Row) : Nat := (skVl b + skGroup b - 1) / skGroup b
def rowsFor (n fmt : Nat) : Nat := (n + perRow fmt - 1) / max 1 (perRow fmt)

/-! ### Checks (R161, R178, R179) -/

/-- The offsets of the rows that the checks need: the lowest code, 0 for none (R179). -/
def skEarly (b : Row) : Nat :=
  let spans := [(skStrm b, 2), (skParam b, 1)] ++ (if skHasGlyph b then [(skGlyph b, 1)] else [])
  lowest (spans.flatMap fun (o, n) =>
    (if o % 64 ≠ 0 then [0x12B] else []) ++ (if scratchNonets < o + 64 * n then [0x154] else []))

/-- Fields of Tables STK-1 to STK-4 (R179, check 1). Unused are a map offset without a PERM stage, and the tensor and index fields
without stochastic rounding (DEDUCED, log 122). -/
def skFieldsBad (b inT outT par : Row) : Bool :=
  above b 4 23 || above b 5 22 || above b 6 22 || above b 7 22 || (!skHasGlyph b && skGlyph b != 0) ||
    (skChain b).any (fun w => !stValid w (skOut b)) ||
    (List.range 8).any (fun i => decide (skStages b ≤ i) && wordOf b (8 + i) != 0) ||
    (List.range 4).any (fun i => if i < skIn b then streamReserved inT i false else !streamZero inT i) ||
    (List.range 4).any (fun i => if i < skOut b then streamReserved outT i true else !streamZero outT i) ||
    above par 8 22 || above par 9 28 || ((List.range 6).any fun i => wordOf par (10 + i) != 0) ||
    ((skStage b 5).isNone && paramMap par != 0) ||
    (let st := (skOuts b outT).map fun d => d.rnd == 4 || d.rnd == 5
     (!st.any id && blk par 9 0 28 != 0) || ((skOuts b outT).any fun d => d.rnd != 4 && d.rnd != 5 && (d.tensor != 0 || d.idxLo != 0)))

/-- The chain's structure (R161). -/
def skChainOk (b : Row) : Bool :=
  let ks := (skChain b).map stKind
  let n := ks.length
  let atMost (k : Nat) : Bool := decide (ks.count k ≤ 1)
  let packed := ks.getLast? == some 8
  atMost 7 && atMost 5 && atMost 6 && (if 1 ≤ skOut b then packed && ks.count 8 == 1 else !ks.contains 8) &&
    (match ks.idxOf? 6 with
      | none => true
      | some i =>
        i + 1 == n ||
          (i + 2 == n && packed && skOut b == 1 &&
            (match skStage b 6, skStage b 8 with
              | some r, some p => stParam p % 4 == stDst r
              | _, _ => false)))

def skInSpan (u vl : Nat) (d : Stream) : Span :=
  { unit := mate u d.src, off := d.off, rows := rowsFor (if d.one then vl else min (max d.period 1) 64) d.fmt }
def skOutSpan (u n : Nat) (d : Stream) : Span := { unit := u, off := d.off, rows := rowsFor n d.fmt }

/-- The map rows (R168). -/
def skMapSpan (u : Nat) (b par : Row) : List Span :=
  match skStage b 5 with
  | none => []
  | some w => [{ unit := u, off := paramMap par, rows := if stOp w = 0 then 1 else (skVl b + 63) / 64 }]

/-- An in-place pair that R178 permits. -/
def skInPlace (u vl n : Nat) (i o : Stream) : Bool :=
  decide (skInSpan u vl i = skOutSpan u n o) && i.fmt == o.fmt && i.one &&
    ((i.kind == 0 && o.kind == 0) || (i.kind == 2 && o.kind == 1))

/-- R178 is broken. -/
def skOverlaps (u : Nat) (b inT outT par : Row) : Bool :=
  let vl := skVl b
  let n := skOutElems b
  let outs := skOuts b outT
  let plan : List Span := [{ unit := u, off := skStrm b, rows := 2 }, { unit := u, off := skParam b, rows := 1 },
      { unit := u, off := cplOffset b, rows := 1 }] ++
    (if skHasGlyph b then [{ unit := u, off := skGlyph b, rows := 1 }] else []) ++ skMapSpan u b par
  outs.zipIdx.any fun (o, j) =>
    let so := skOutSpan u n o
    plan.any so.meets || (outs.zipIdx.any fun (p, k) => k != j && so.meets (skOutSpan u n p)) ||
      (skIns b inT).any fun i => so.meets (skInSpan u vl i) && !skInPlace u vl n i o

/-- A glyph is invalid (R173). -/
def skGlyphBad (b g : Row) : Bool :=
  match skStage b 7 with
  | none => false
  | some w => (List.range (stParam w % 32 + 1)).any fun i => !miValid (micro g i)

/-- The statuses of the checks of R179. -/
def State.skFaults (s : State) (u : Nat) (b inT outT par g : Row) : List Nat :=
  let ins := skIns b inT
  let spans := ins.map (skInSpan u (skVl b)) ++ (skOuts b outT).map (skOutSpan u (skOutElems b)) ++ skMapSpan u b par
  (if skFieldsBad b inT outT par then [0x151] else []) ++
    (if skVl b = 0 ∨ 4096 < skVl b ∨ skStages b = 0 ∨ 8 < skStages b ∨ 4 < skIn b ∨ 4 < skOut b then [0x152] else []) ++
    (if skChainOk b then [] else [0x153]) ++ spans.flatMap (s.spanFaults 0x154) ++
    (if skOverlaps u b inT outT par then [0x155] else []) ++ (if skGlyphBad b g then [0x156] else []) ++
    (if ins.any fun d => !d.one && (d.kind == 2 || d.period == 0 || decide (64 < d.period)) then [0x157] else [])

/-- Elements of block `i`. -/
def blockLen (vl i : Nat) : Nat := min 64 (vl - 64 * i)

/-! ### Deadlines (R175, R177) -/

def fmtRows (fmt : Nat) : Nat := rowsFor 64 fmt

/-- Latency of a stage (Table STK-5). -/
def stLatency (w : Word) : Nat :=
  match stKind w with
  | 1 | 3 | 8 => 2
  | 2 => 4
  | 4 => 8
  | 5 => 3
  | 6 => 2 + min (stParam w) 6
  | 7 => 4 * (stParam w % 32 + 1)
  | _ => 0

/-- From a block's entry to its leaving the chain (R176). -/
def skLatency (b : Row) : Nat := 1 + ((skChain b).map stLatency).sum

/-- T of a command (R175). -/
def skPeriod (b inT outT : Row) : Nat :=
  let ins := (skIns b inT).zipIdx.filter (·.1.one)
  let ra := ((ins.filter (·.2 % 2 == 0)).map (fmtRows ·.1.fmt)).sum
  let each := if (skStage b 5).any fun w => stOp w == 1 then 1 else 0
  let rb := ((ins.filter (·.2 % 2 == 1)).map (fmtRows ·.1.fmt)).sum + each
  let rw := ((skOuts b outT).map (fmtRows ·.fmt)).sum
  let glyph := match skStage b 7 with | some w => stParam w % 32 + 1 | none => 0
  max 1 (max (max ra rb) (max ((rw + skGroup b - 1) / skGroup b) glyph)) + 2 * each

/-- The planned cycle of block `i`'s reads, of its writes, and of the completion put. -/
def State.skPlan (s : State) (u : Nat) (c : StrokeCmd) (i : Nat) : Int :=
  s.planOf u c.block + (skPeriod c.block c.inTab c.outTab * i : Nat)
def State.skPlanOut (s : State) (u : Nat) (c : StrokeCmd) (i : Nat) : Int := s.skPlan u c i + (skLatency c.block + 16 : Nat)
def State.skPlanCpl (s : State) (u : Nat) (c : StrokeCmd) : Int := s.skPlanOut u c ((skVl c.block - 1) / 64) + 1

/-! ### Reads (R167, R175, R176) -/

/-- A read through port A or B: the row, its kind, the planned arrival, the stream it belongs to (4: a plan row), and whether
its nf counts (R156). -/
structure PortRead where
  unit : Nat
  row : Nat
  kind : AccKind
  plan : Int
  tag : Nat
  counts : Bool

/-- The reads of a span. -/
def Span.reads (p : Span) (k : AccKind) (tag : Nat) (counts : Bool) : List PortRead :=
  (List.range p.rows).map fun i => { unit := p.unit, row := p.off / 64 + i, kind := k, plan := 0, tag := tag, counts := counts }

/-- Numbers the planned arrivals of a port's prologue reads: read `k` of `n` arrives at `P - n + k` (R175). -/
def planned (base : Int) (first n : Nat) (l : List PortRead) : List PortRead :=
  l.zipIdx.map fun (p, i) => { p with plan := base - (n : Int) + (first + i : Nat) }

/-- A row has been read on port A or B; an input row's or the parameter row's nf joins the command's and the unit's (R40, R156). -/
def State.skGot (s : State) (u : Nat) (onB : Bool) (p : PortRead) (d : Row) (nf : Bool) : State :=
  (s.updUnit u fun x => { x with stroke := { x.stroke with cur := x.stroke.cur.map fun c =>
    { c with
      gotA := if onB then c.gotA else c.gotA ++ [(p.tag, d, nf)]
      gotB := if onB then c.gotB ++ [(p.tag, d, nf)] else c.gotB
      nf := c.nf || (p.counts && nf) } } }).noteNf u (p.counts && nf)

/-- The reads of one port, in order; `idx` numbers the accesses of the command's row. -/
def State.skPort (s : State) (u : Nat) (onB : Bool) (hold : BitVec 12) (errs : Errs) (idx : Nat) : List PortRead → Load
  | [] => .ready s idx
  | p :: rest =>
    match s.engineAccess u p.unit p.row p.kind
        { port := if onB then 3 else 2, plan := p.plan - latency u p.unit p.row, hold := hold,
          keep := rest.head?.any fun n => sameBank p.unit p.row n.unit n.row } 0 false (errAt errs idx) with
    | (t, .wait) => .wait t (idx + 1)
    | (t, .done 0 d nf) => State.skPort (t.skGot u onB p d nf) u onB hold errs (idx + 1) rest
    | (t, .done st _ _) => .fail t st

/-- The reads of both ports that are still to be made; those of port A come first in the order of accesses (DESIGN CHOICE,
log 123). -/
def State.skBoth (s : State) (u : Nat) (c : StrokeCmd) (errs : Errs) (idx : Nat) (a b : List PortRead) : Load :=
  let hold := cmdHold c.block
  let second (t : State) (i : Nat) : Load := t.skPort u true hold errs i (b.drop c.gotB.length)
  match s.skPort u false hold errs idx (a.drop c.gotA.length) with
  | .fail t st => .fail t st
  | .ready t i => second t i
  | .wait t i =>
    match second t i with
    | .ready t1 j => .wait t1 j
    | l => l

/-- The stride-zero streams of a port. -/
def skZeros (u : Nat) (b inT : Row) (odd : Bool) : List PortRead :=
  ((skIns b inT).zipIdx.filter fun (d, i) => !d.one && (i % 2 == 1) == odd).flatMap fun (d, i) =>
    (skInSpan u (skVl b) d).reads (kindOf d.kind) i true

/-- A static map row (R168). -/
def skMapReads (u : Nat) (b par : Row) : List PortRead :=
  if (skStage b 5).any fun w => stOp w == 0 then (skMapSpan u b par).flatMap (·.reads .plainRead 4 false) else []

/-- Rows that the checks need, all on port A: stream table, parameter row, glyph row (R175). Port A's prologue reads are counted with the
stream table that the scratchpad holds when these are asked for (DESIGN CHOICE, log 123). -/
def State.skFirst (s : State) (u : Nat) (b : Row) : List PortRead :=
  let inT := ((s.unit u).cell (skStrm b / 64)).data
  let l := ({ unit := u, off := skStrm b, rows := 2 } : Span).reads .plainRead 4 false ++
    ({ unit := u, off := skParam b, rows := 1 } : Span).reads .plainRead 4 true ++
    (if skHasGlyph b then ({ unit := u, off := skGlyph b, rows := 1 } : Span).reads .plainRead 4 false else [])
  planned (s.planOf u b) 0 (l.length + (skMapReads u b 0).length + (skZeros u b inT false).length) l

/-- The rest of the prologue on ports A and B: a static map row, then the rows of stride-zero streams (R167, R168, R175). -/
def State.skSecond (s : State) (u : Nat) (c : StrokeCmd) : List PortRead × List PortRead :=
  let b := c.block
  let done := (s.skFirst u b).length
  let la := skMapReads u b c.param ++ skZeros u b c.inTab false
  let lb := skZeros u b c.inTab true
  (planned (s.planOf u b) done (done + la.length) la, planned (s.planOf u b) 0 lb.length lb)

/-- The reads of the next block on ports A and B: the rows of the stride-one streams, and on port B the map row of op 1. -/
def State.skBlockReads (s : State) (u : Nat) (c : StrokeCmd) : List PortRead × List PortRead :=
  let n := blockLen (skVl c.block) c.nextBlock
  let at0 := s.skPlan u c c.nextBlock
  let streams (odd : Bool) : List PortRead :=
    ((skIns c.block c.inTab).zipIdx.filter fun (d, i) => d.one && (i % 2 == 1) == odd).flatMap fun (d, i) =>
      ({ unit := mate u d.src, off := d.off + 64 * (c.nextBlock * fmtRows d.fmt), rows := rowsFor n d.fmt } : Span).reads
        (kindOf d.kind) i true
  let map : List PortRead :=
    match skStage c.block 5 with
    | some w => if stOp w = 1 then
        ({ unit := u, off := paramMap c.param + 64 * c.nextBlock, rows := 1 } : Span).reads .plainRead 4 false else []
    | none => []
  let due (l : List PortRead) : List PortRead := l.map fun p => { p with plan := at0 }
  (due (streams false), due (streams true ++ map))

/-- Rows read for a stream. -/
def StrokeCmd.rowsOf (c : StrokeCmd) (tag : Nat) : List (Row × Bool) :=
  ((c.gotA ++ c.gotB).filter (·.1 == tag)).map (·.2)

/-! ### Taking a command (R175, R176, R179) -/

/-- A command ends before its blocks: nothing was executed. Words 1 to 3 are 0 (word 3: DESIGN CHOICE, log 125). -/
def State.skReject (s : State) (u : Nat) (b : Row) (seq : Word) (nf : Bool) (status : Nat) : State :=
  ((s.updUnit u fun x => { x with stroke := { x.stroke with
    cur := none, cpls := x.stroke.cpls ++ [mkCpl b seq status nf 0 0 0 none] } }).noteAlign u status).leavePorts u [2, 3]

/-- Ends a command that has passed its checks with a status (R481): its requests and queued rows are dropped. -/
def State.skFail (s : State) (u : Nat) (c : StrokeCmd) (status : Nat) : State :=
  (s.updUnit u fun x => { x with stroke := { x.stroke with
    cur := none, outq := x.stroke.outq.filter fun r => r.seq ≠ c.seq,
    cpls := x.stroke.cpls ++
      [mkCpl c.block c.seq status c.nf (wd c.written) (boolWord c.laneRange) c.firstCycle (some (s.skPlanCpl u c))] } }).leavePorts
    u (if (s.unit u).stroke.outq.head?.any fun r => r.seq = c.seq then [2, 3, 5] else [2, 3])

/-- Changes the command in progress. -/
def State.skCur (s : State) (u : Nat) (f : StrokeCmd → StrokeCmd) : State :=
  s.updUnit u fun x => { x with stroke := { x.stroke with cur := x.stroke.cur.map f } }

/-- The rest of the prologue of a command that has passed its checks. -/
def State.skRest (s : State) (u : Nat) (errs : Errs) (idx : Nat) : State :=
  match (s.unit u).stroke.cur with
  | none => s
  | some c =>
    let (la, lb) := s.skSecond u c
    match s.skBoth u c errs idx la lb with
    | .wait t _ => t
    | .fail t st => t.skFail u (((t.unit u).stroke.cur).getD c) st
    | .ready t _ =>
      t.skCur u fun y =>
        let zeros := ((skIns y.block y.inTab).zipIdx.filter fun (d, _) => !d.one).map (·.2)
        let rows := zeros.map fun i => (i, y.rowsOf i)
        { y with
          stage := 2, gotA := [], gotB := [], map := ((y.rowsOf 4).headD (0, false)).1
          szRows := rows.map fun (i, l) => (i, l.map (·.1)), proNf := y.nf }

/-- The prologue goes on: the rows that the checks need, the checks, and the rest (R175, R179). -/
def State.skPrologue (s : State) (u : Nat) (errs : Errs) (idx : Nat) : State :=
  match (s.unit u).stroke.cur with
  | none => s
  | some c =>
    if c.stage = 1 then s.skRest u errs idx
    else if c.stage ≠ 0 then s
    else
      match s.skBoth u c errs idx (s.skFirst u c.block) [] with
      | .wait t _ => t
      | .fail t st => t.skReject u c.block c.seq (((t.unit u).stroke.cur.map (·.nf)).getD false) st
      | .ready t i =>
        let rows := (((t.unit u).stroke.cur.getD c).rowsOf 4).map (·.1)
        let inT := rows.getD 0 0
        let outT := rows.getD 1 0
        let par := rows.getD 2 0
        let g := rows.getD 3 0
        let status := lowest (t.skFaults u c.block inT outT par g)
        if status ≠ 0 then t.skReject u c.block c.seq (((t.unit u).stroke.cur.map (·.nf)).getD false) status
        else
          (t.skCur u fun y => { y with
            stage := 1, gotA := [], gotB := [], inTab := inT, outTab := outT, param := par, glyph := g
            elems := List.replicate (skOut c.block) [], rowsOut := List.replicate (skOut c.block) 0 }).skRest u errs i

/-- The engine takes the oldest command once the last block of the one before it has entered: it reads the block and goes on with
the prologue. A read that must wait stays at its bank, and the command's row goes on from there (log 18). -/
def State.skTake (s : State) (u : Nat) (errs : Errs) : State :=
  let x := s.unit u
  if x.stroke.cur.isSome then s.skPrologue u errs 0
  else
    match x.stroke.queue with
    | [] => s
    | q :: rest =>
      if 4 ≤ x.stroke.cpls.length then s
      else
        let pop (t : State) : State := t.updUnit u fun y => { y with stroke := { y.stroke with queue := rest } }
        match s.takeBlock u 1 q (errAt errs 0) with
        | .waits t => t
        | .dropped t => pop t
        | .block t0 b code =>
          let t := pop t0
          let early := if code ≠ 0 then code else skEarly b
          if early ≠ 0 then t.skReject u b q.seq false early
          else
            let c : StrokeCmd :=
              { block := b, seq := q.seq, stage := 0, gotA := [], gotB := [], inTab := 0, outTab := 0, param := 0, glyph := 0,
                map := 0, szRows := [], proNf := false, nextBlock := 0, firstCycle := 0, laneRange := false, nf := false,
                written := 0, elems := [], rowsOut := [], group := [] }
            (t.updUnit u fun y => { y with stroke := { y.stroke with cur := some c } }).skPrologue u errs 1

def execStrokeCommand (unit : Nat) (errs : Errs) (s : State) : Res := onUnit unit (s.skTake unit errs)

/-! ### Block entry (R155, R156, R166, R176) -/

/-- An input element as a slot value: exact but for INT36, which rounds to N36 (R155). -/
def slotVal (fmt code : Nat) : Val := if fmt = 4 then (toN36 (decode 4 code)).1 else decode fmt code

/-- The lanes of a block at chain entry: stride-one streams from the rows read, stride-zero ones from the rows held
(R155, R167). `rows` lists, by stream, the rows of the block. The rows that hold element `64 i + j` (R154) supply lane `j` (DEDUCED,
log 121). -/
def skLanes (c : StrokeCmd) (rows : List (Nat × List (Row × Bool))) (i n : Nat) : List Lane :=
  let ins := skIns c.block c.inTab
  (List.range n).map fun j =>
    let slot (k : Nat) : Val :=
      match ins[k]? with
      | none => zeroVal
      | some d =>
        let (e, l) := if d.one then (j, ((rows.find? fun p => p.1 == k).map (·.2)).getD [] |>.map (·.1))
          else ((64 * i + j) % d.period, ((c.szRows.find? fun p => p.1 == k).map (·.2)).getD [])
        slotVal d.fmt (elemCode d.fmt (l.getD (e / perRow d.fmt) 0) (e % perRow d.fmt))
    let nf := rows.any fun (k, l) =>
      match ins[k]? with
      | none => false
      | some d => (l.getD (j / perRow d.fmt) (0, false)).2
    { x := [slot 0, slot 1, slot 2, slot 3], nf := List.replicate 4 nf, free := List.replicate 4 false, flag := false }

/-- One output element: its code and nf (R166). An infinity that MIN, MAX or CLAMP passed on sets no flag (R39) unless it is turned
into an INT36 extreme (R28). -/
def skElem (x : Unit) (c : StrokeCmd) (d : Stream) (e : Nat) (v : Val) (free nf : Bool) : Nat × Bool :=
  let idx := blk c.param 9 0 28 * 2 ^ 36 + d.idxLo + e
  let (code, o) := encode d.fmt d.rnd (x.random d.rnd d.tensor idx) v
  (code, nf || c.proNf || (o && (d.fmt == 4 || !(free && v.nonFinite))) || (v.nonFinite && !free))

/-- Elements in whole rows, or in a last partial row when `last`, become rows; the rest stay. -/
def skRows (epr : Nat) (last : Bool) (l : List (Nat × Bool)) : Nat → List (List (Nat × Bool)) × List (Nat × Bool)
  | 0 => ([], l)
  | fuel + 1 =>
    if epr ≤ l.length ∧ 0 < epr then
      let (a, b) := skRows epr last (l.drop epr) fuel
      (l.take epr :: a, b)
    else if last ∧ l ≠ [] then ([l], [])
    else ([], l)

/-- The rows that a block adds to one output stream, with its state afterwards (R166, R177). -/
def skEmit (c : StrokeCmd) (plan : Int) (j : Nat) (new : List (Nat × Bool)) (last : Bool) :
    List OutRow × List (Nat × Bool) × Nat :=
  let d := streamAt c.outTab j
  let epr := perRow d.fmt
  let (rows, left) := skRows epr last (c.elems.getD j [] ++ new) 65
  let first := c.rowsOut.getD j 0
  let mk (l : List (Nat × Bool)) (t : Nat) : OutRow :=
    { seq := c.seq, offset := d.off + 64 * (first + t), put := d.kind == 1,
      data := BitVec.ofNat 576 (packCodes (size d.fmt) (l.map (·.1))), nf := l.any (·.2),
      elems := if j + 1 = skOut c.block then min (skVl c.block) ((first + t + 1) * epr * skGroup c.block) else 0,
      plan := plan, hold := cmdHold c.block }
  (rows.zipIdx.map fun (l, t) => mk l t, left, first + rows.length)

/-- The groups that a block completes: their results, and the elements left (R170). -/
def skGroups (op g vl : Nat) (e : Nat) (acc : List (Nat × Bool)) : List (Nat × Bool) → List (Val × Bool) × List (Nat × Bool)
  | [] => ([], acc)
  | x :: xs =>
    let acc' := acc ++ [x]
    if (e + 1) % g = 0 ∨ e + 1 = vl then
      let r := (redTree op 13 (acc'.map fun p => (decode n36 p.1, p.2))).headD (zeroVal, false)
      let (a, b) := skGroups op g vl (e + 1) [] xs
      (r :: a, b)
    else skGroups op g vl (e + 1) acc' xs

/-- Output elements that the next block forms: its own, or one for each group that it completes (R170). -/
def skNew (c : StrokeCmd) : Nat :=
  let b := c.block
  let vl := skVl b
  let hi := min vl (64 * (c.nextBlock + 1))
  match skStage b 6 with
  | none => blockLen vl c.nextBlock
  | some _ => (if hi = vl then skOutElems b else hi / skGroup b) - 64 * c.nextBlock / skGroup b

/-- Rows that the next block adds to the write queue (R176). -/
def skRoom (c : StrokeCmd) : Nat :=
  let last := decide (skVl c.block ≤ 64 * (c.nextBlock + 1))
  ((skOuts c.block c.outTab).zipIdx.map fun (d, j) =>
    let n := (c.elems.getD j []).length + skNew c
    if last then rowsFor n d.fmt else n / max 1 (perRow d.fmt)).sum

/-- Page 1 index of the stroke word (R182). -/
def skIdx (u : Nat) : Nat := 4928 + u % 320

/-- The first lane-range flag of a command counts (R169). -/
def State.skLaneRange (s : State) (u : Nat) : State :=
  s.updP1 (regionOf u) (skIdx u) fun w => putField (bumpField w 0 16) 33 1 1

/-- A block passes the chain: its output elements join their rows, which enter the write queue (R166, R168, R170). The flags of the
in-block trees of a group that goes on into the next block count at once. -/
def skBlock (x : Unit) (c : StrokeCmd) (plan : Int) (rows : List (Nat × List (Row × Bool))) (map : Row) : StrokeCmd × List OutRow :=
  let b := c.block
  let n := blockLen (skVl b) c.nextBlock
  let k := paramConsts c.param
  let (ls, range) := runStages k c.glyph map (skChain b) (skLanes c rows c.nextBlock n)
  let last := decide (skVl b ≤ 64 * (c.nextBlock + 1))
  let outs := skOuts b c.outTab
  let red := skStage b 6
  let (groups, left) :=
    match red with
    | none => ([], [])
    | some w => skGroups (stOp w) (skGroup b) (skVl b) (64 * c.nextBlock) c.group
        (ls.map fun (l : Lane) => (n36Code (l.sel k (stA w)), l.supplied (stA w) || l.flag || (l.sel k (stA w)).nonFinite))
  let pack := (skStage b 8).getD 0
  let new (j : Nat) (d : Stream) : List (Nat × Bool) :=
    match red with
    | some _ => groups.zipIdx.map fun ((v, f), t) =>
        skElem x c d ((64 * c.nextBlock - c.group.length) / skGroup b + t) v false f
    | none => ls.zipIdx.map fun ((l, t) : Lane × Nat) =>
        let sl := stParam pack / 4 ^ j % 4
        skElem x c d (64 * c.nextBlock + t) (l.x.getD sl zeroVal) (l.free.getD sl false) (l.nf.getD sl false || l.flag)
  let made := outs.zipIdx.map fun (d, j) => skEmit c plan j (new j d) last
  let elemNf := (outs.zipIdx.any fun (d, j) => (new j d).any (·.2)) || ls.any (fun (l : Lane) => l.flag) ||
    groups.any (·.2) || (redTree (red.elim 0 stOp) 6 (left.map fun p => (decode n36 p.1, p.2))).any (·.2) || rows.any (fun p => p.2.any (·.2))
  ({ c with
      nextBlock := c.nextBlock + 1, laneRange := c.laneRange || range, nf := c.nf || elemNf,
      elems := made.map (·.2.1), rowsOut := made.map (·.2.2), group := left },
    made.flatMap (·.1))

/-- A block whose rows are there enters the chain (R176, R177, R181). -/
def State.skAdmit (s : State) (u : Nat) (c : StrokeCmd) (parity : Option Nat) : State :=
  let c1 := if c.nextBlock = 0 then { c with firstCycle := (s.cycle u).setWidth 36 } else c
  let t1 := if c.nextBlock = 0 then s.checkpoint u (plannedStart c.block) else s
  match parity with
  | some lane =>
    let i := skIdx u
    let t2 := t1.updP1 (regionOf u) i fun w =>
      putField (putField (putField (bumpField w 16 10) 26 6 lane) 32 1 1) 34 1 1
    (t2.skFail u c1 0x224).parityStop u 0x224 4 i
  | none =>
    let streams := ((skIns c.block c.inTab).zipIdx.filter (·.1.one)).map (·.2)
    let map := if (skStage c.block 5).any (fun w => stOp w == 1) then ((c.rowsOf 4).headD (0, false)).1 else c.map
    let (c2, rows) := skBlock (s.unit u) { c1 with gotA := [], gotB := [] } (s.skPlanOut u c c.nextBlock)
      (streams.map fun i => (i, c.rowsOf i)) map
    let t2 := if c2.laneRange && !c1.laneRange then t1.skLaneRange u else t1
    let ended := decide (skVl c.block ≤ 64 * c2.nextBlock)
    let done := mkCpl c.block c.seq 0 c2.nf (wd (skVl c.block)) (boolWord c2.laneRange) c2.firstCycle (some (s.skPlanCpl u c))
    (t2.updUnit u fun y => { y with stroke := { y.stroke with
      cur := if ended then none else some c2
      outq := y.stroke.outq ++ rows
      cpls := if ended then y.stroke.cpls ++ [{ done with progress := c2.written }] else y.stroke.cpls } }).noteNf u c2.nf

/-- The next block's rows are read, and it enters once they are usable and the write queue has room (R176). -/
def State.skEnter (s : State) (u : Nat) (errs : Errs) (parity : Option Nat) : State :=
  match (s.unit u).stroke.cur with
  | none => s
  | some c =>
    if c.stage ≠ 2 then s
    else
      let (la, lb) := s.skBlockReads u c
      match s.skBoth u c errs 0 la lb with
      | .wait t _ => t
      | .fail t st => t.skFail u (((t.unit u).stroke.cur).getD c) st
      | .ready t _ =>
        match (t.unit u).stroke.cur with
        | none => t
        | some c1 => if 16 < (t.unit u).stroke.outq.length + skRoom c1 then t else t.skAdmit u c1 parity

def execStrokeBlockEntry (unit : Nat) (errs : Errs) (parity : Option Nat) (s : State) : Res :=
  onUnit unit (s.skEnter unit errs parity)

/-! ### Result rows (R176, R177, R481) -/

/-- A written row counts the elements that it completes. -/
def Stroke.wrote (k : Stroke) (r : OutRow) : Stroke :=
  { k with
    outq := k.outq.drop 1
    cur := k.cur.map fun c => if c.seq = r.seq then { c with written := max c.written r.elems } else c
    cpls := k.cpls.map fun c => if c.seq = r.seq then { c with progress := max c.progress r.elems } else c }

/-- A result write has failed (R481). -/
def State.skWriteFailed (s : State) (u : Nat) (seq : Word) (status : Nat) : State :=
  let k := (s.unit u).stroke
  match k.cur.filter fun c => c.seq = seq with
  | some c => s.skFail u c status
  | none =>
    s.updUnit u fun x => { x with stroke := { k with
      outq := k.outq.filter fun r => r.seq ≠ seq
      cpls := k.cpls.map fun c =>
        if c.seq = seq then { c with status := BitVec.ofNat 12 status, w1 := wd c.progress } else c } }

/-- A completion put is due, and not parked, ahead of queued rows of later commands (R177). -/
def Unit.skPutFirst (x : Unit) (seq : Word) : Bool :=
  match x.stroke.cpls with
  | [] => false
  | c :: _ =>
    c.seq != seq && !(x.stroke.outq.any (·.seq == c.seq)) &&
      !((x.bank (c.offset / 64 / 3072)).parked.any fun q => q.own && q.acc.port == 5 && q.acc.offset == c.offset && !q.woken)

/-- The oldest row of the write queue is written through the write port; a put waits while its row is full. -/
def State.skWrite (s : State) (u : Nat) : State :=
  match (s.unit u).stroke.outq with
  | [] => s
  | r :: rest =>
    if (s.unit u).skPutFirst r.seq then s
    else
      let q := r.offset / 64
      match s.engineAccess u u q (if r.put then .put else .plainWrite)
          { port := 5, plan := r.plan, hold := r.hold, keep := rest.head?.any fun n => sameBank u q u (n.offset / 64) } r.data r.nf .clean with
      | (t, .wait) => t
      | (t, .done 0 _ _) => t.updUnit u fun x => { x with stroke := x.stroke.wrote r }
      | (t, .done st _ _) => t.skWriteFailed u r.seq st

def execStrokeRowWrite (unit : Nat) (s : State) : Res := onUnit unit (s.skWrite unit)

end Sys2Proof.Machine
end

