-- ==== Sys2Proof/Machine/Wells.lean ====
section
/-! DEFINITION. Upkeep of the wells, streams and ink lines (spec/09), and the verify reads of the scratchpads (R350). -/

namespace Sys2Proof.Machine

/-! ### Refresh and scrub (R256-R258) -/

/-- A bank's refresh is counted; it changes timing only. -/
def State.refresh (s : State) (r c p b : Nat) : State :=
  s.updWell r fun x => { x with refreshed := x.refreshed.upd 0 (64 * c + 32 * p + b) (· + 1) }

def execRefresh (region channel pseudo bank : Nat) (s : State) : Res :=
  guardRes (decide (region < 48 ∧ channel < 16 ∧ pseudo < 2 ∧ bank < 32)) (s.refresh region channel pseudo bank)

/-- Bursts of one pseudo-channel (R248). -/
def pseudoBursts : Nat := 2 ^ 25

/-- Whole passes that every pseudo-channel of a well has made. -/
def Well.passes (x : Well) : Nat :=
  (List.range 32).foldl (fun n k => min n (x.patrol.get 0 k / pseudoBursts)) (x.patrol.get 0 0 / pseudoBursts)

/-- The patrol scrub reads the next burst of a pseudo-channel (R257); a pass that ends is counted, and the corrections of the
next one count from zero (R258). -/
def State.patrolScrub (s : State) (r c p : Nat) (errs : Errs) : State :=
  let x := s.well r
  let k := 2 * c + p
  let n := x.patrol.get 0 k
  let s1 := s.setWell r { x with patrol := x.patrol.set 0 k (n + 1) }
  let s2 := (s1.wellCheck r [n % pseudoBursts * 32 + p * 16 + c] errs 0).1
  if x.passes < (s2.well r).passes then
    (s2.updP1 r 14387 fun w => bumpField w 0 36).updWell r fun y => { y with passCorr := [] }
  else s2

def execPatrolScrub (region channel pseudo : Nat) (errs : Errs) (s : State) : Res :=
  guardRes (decide (region < 48 ∧ channel < 16 ∧ pseudo < 2)) (s.patrolScrub region channel pseudo errs)

/-- A failing DRAM row is copied to a spare row of its bank and remapped: event 0x028 (R258). -/
def State.repairRow (s : State) (r c : Nat) (f : Nat × Nat × Nat) : State :=
  let (p, b, row) := f
  let s1 := s.updWell r fun x => { x with repaired := x.repaired ++ [(c, p, b, row)] }
  let s2 := s1.updP1 r (chanIdx c 1) fun w => bumpField w 0 10
  (s2.raise r 0x028 c (s2.p1 r (chanIdx c 1)).toNat).note 5 [1, r, c, p, b, row]

/-- Spare rows of a bank in use. -/
def Well.spares (x : Well) (c p b : Nat) : Nat := (x.repaired.filter fun k => k.1 == c && k.2.1 == p && k.2.2.1 == b).length

/-- Some bank would need a ninth spare, or more than 64 rows fail (R258). -/
def Well.channelFails (x : Well) (c : Nat) (failing : List (Nat × Nat × Nat)) : Bool :=
  decide (64 < failing.length) || failing.any fun (p, b, _) =>
    decide (8 < x.spares c p b + (failing.filter fun g => g.1 == p && g.2.1 == b).length)

/-- The channel has failed: event 0x229, and the region is withdrawn with its well (R258, R362). -/
def State.channelFailed (s : State) (r c : Nat) : State :=
  let s1 := s.updWell r fun x => { x with failed := putField x.failed c 1 1 }
  (((s1.raise r 0x229 c (s1.p1 r (chanIdx c 1)).toNat).note 5 [2, r, c]).structural 0x229).withdraw r true false

/-- The DRAM row of a burst: pseudo-channel, bank, row (R248). -/
def dramRow (b : Nat) : Nat × Nat × Nat := (b / 16 % 2, b / 32 % 32, b / 32768)

/-- One codeword that the targeted scrub could not read clean: it is handled as by any read, and a correction is read again after its
write-back; it is among `again` when that is not clean (R258). -/
def State.scrubWord (s : State) (r : Nat) (again : List (Nat × Nat)) (f : Nat × Nat × Ecc) : State :=
  let (b, k, e) := f
  match e.ofData with
  | .corrected _ => (s.wellFixed r b).updWell r fun x => { x with
      verify := if again.contains (b, k) then x.verify else x.verify.filter fun v => v.1 != b || v.2 / 72 != k }
  | .uncorrectable => (s.wellLost r b).report (causeOf 0x227 16383 none)
  | _ => s

/-- The DRAM rows that fail: an uncorrectable codeword, or a second read that is not clean. -/
def scrubFailing (found : List (Nat × Nat × Ecc)) (again : List (Nat × Nat)) : List (Nat × Nat × Nat) :=
  ((found.filter fun (b, k, e) =>
    match e.ofData with
    | .corrected _ => again.contains (b, k)
    | .uncorrectable => true
    | _ => false).map fun f => dramRow f.1).dedup

/-- The targeted scrub of a channel reads all its bursts (R258). `found` lists what it finds: burst, codeword, and the check;
`again` the corrected ones whose second read is not clean. A fourth error is lasting whatever it finds (R351). -/
def State.targetedScrub (s : State) (r c : Nat) (found : List (Nat × Nat × Ecc)) (again : List (Nat × Nat)) : State :=
  if field (s.p1 r (chanIdx c 1)) 11 1 = 0 then s
  else
    let t : TestTarget := { code := 8, region := r, target := c, part := 0 }
    let here := found.filter fun f => decide (f.1 < 2 ^ 30) && burstChannel f.1 == c && decide (f.2.1 < 8)
    let failing := scrubFailing here again
    let pass := failing.isEmpty && !s.passedThrice t
    let s0 := here.foldl (fun v f => v.scrubWord r again f) s
    let s1 := s0.updP1 r (chanIdx c 1) fun w => putField (if pass then w else putField w 12 1 1) 11 1 0
    let s2 := (s1.recordTest t pass).updSeq fun q => { q with tests := q.tests.filter (· != t) }
    let s3 := if (s2.well r).channelFails c failing then s2.channelFailed r c
      else failing.foldl (fun v f => v.repairRow r c f) s2
    s3.abortNext

def execTargetedScrub (region channel : Nat) (found : List (Nat × Nat × Ecc)) (again : List (Nat × Nat)) (s : State) : Res :=
  guardRes (decide (region < 48 ∧ channel < 16)) (s.targetedScrub region channel found again)

/-! ### Streams (R262, R265, R268) -/

def bufOf (w : Word) : Bool := field w 0 1 == 1
def State.streamOf (s : State) (r t : Nat) : List Word := s.streamWords r t

/-- The line's next entry in cyclic order after the one that ran last (R265). -/
def State.nextStream (s : State) (r l : Nat) : Option Nat :=
  let last := (s.well r).lastStream.get 0 l
  ((List.range 64).map fun i => (last + i) % 64).find? fun t =>
    stInUse (s.streamOf r t) && stLine (s.streamOf r t) == l

/-- The stream's trigger has reached its threshold. -/
def State.triggered (s : State) (r t : Nat) : Bool :=
  let ws := s.streamOf r t
  decide ((stThreshold ws).toInt ≤ (s.syncObj r (stTrigger ws)).w0.toInt)

/-- A stream starts on its idle line, and none while the step is aborted (R266); a line with an absent unit refuses, with event 0x173. -/
def State.streamStart (s : State) (r t : Nat) : State :=
  let ws := s.streamOf r t
  let l := stLine ws
  if s.seq.phase == 7 || !(stInUse ws && s.lineOk r l) || s.lineBusy r l || field (s.p1 r (streamStatus t)) 0 2 ≠ 1 || !s.triggered r t ||
      s.nextStream r l ≠ some t then s
  else if (List.range (s.lineN r l)).any fun p => s.absent (s.linePos r l p) then
    s.raise r 0x173 noSubject (s.p1 r (streamStatus t)).toNat
  else
    let s1 := (s.setP1 r (lineIndex l 5) (wd (1 + 2 * t))).setP1 r (streamStatus t) 2
    s1.updWell r fun x => { x with
      running := x.running ++ [{ line := l, stream := t, nextRow := 0, buf := bufOf (s.p1 r 14385) }]
      lastStream := x.lastStream.set 0 l (t + 1) }

def execStreamStart (region stream : Nat) (s : State) : Res :=
  guardRes (decide (region < 48 ∧ stream < 64)) (s.streamStart region stream)

/-- The line is idle once no stream runs on it and no row is in flight (Table WEL-7). -/
def State.settleLine (s : State) (r l : Nat) : State :=
  let us := (List.range (s.lineN r l)).map (s.linePos r l)
  if (s.well r).running.any (fun k => k.line == l) || us.any (fun u => !(s.unit u).inkIn.isEmpty) ||
      s.net.any (fun m => m.type == 20 && us.contains m.dstUnit) then s
  else s.updP1 r (lineIndex l 5) fun w => putField w 0 1 0

/-- A row on its way to a unit of the line, as a message (R261). -/
def State.inkMsg (s : State) (r u srcKind : Nat) (k : InkRow) (epoch : BitVec 12) : Msg :=
  { blankMsg with
    dstRegion := r, dstUnit := u, vc := 1, type := 20, srcRegion := r, srcKind := srcKind, epoch := epoch,
    tag := BitVec.ofNat 16 (k.row % 64 + k.pos % 16 * 2 ^ 6 + k.bcast.toNat * 2 ^ 10 + k.last.toNat * 2 ^ 11),
    srcModule := s.ownIndex, wa := k.wa, body := [k.data] }

/-- A stream has sent its last row: its threshold moves, and with inc = 0 it is disarmed (R265). -/
def State.streamDone (s : State) (r l t : Nat) : State :=
  let inc := stInc (s.streamOf r t)
  let s1 := s.updWell r fun x => { x with running := x.running.filter fun k => k.line != l }
  ((s1.updP1 r (streamStatus t) fun w => putField w 0 2 (if inc = 0 then 0 else 1)).updP1 r (streamIndex t 3) fun w =>
    w + wd inc).settleLine r l

/-- A stream stops on an uncorrectable row (R251). -/
def State.streamStop (s : State) (r l t code : Nat) : State :=
  let s1 := s.updWell r fun x => { x with running := x.running.filter fun k => k.line != l }
  (s1.updP1 r (streamStatus t) fun w => putField (putField w 0 2 3) 22 12 code).settleLine r l

/-- The credit of a row's next step (R263): nothing is on the ink input of unit `v`, nor on its way there. That an input holds one
row is the model's (DESIGN CHOICE, log 134). -/
def State.inkCredit (s : State) (v : Nat) : Bool :=
  (s.unit v).inkIn.isEmpty && !s.net.any fun m => m.type == 20 && m.dstKind == 0 && m.dstUnit == v

/-- The gateway sends the next row of the stream that runs on a line (R262), when position 0 has a credit for it (R263). -/
def State.streamRow (s : State) (r l : Nat) (errs : Errs) : State :=
  match (s.well r).running.find? fun k => k.line == l with
  | none => s
  | some k =>
    if !s.inkCredit (s.linePos r l 0) then s else
    let ws := s.streamOf r k.stream
    let n := stRows ws
    let tile := k.nextRow / n
    let q := 8 * stBase ws k.buf + k.nextRow
    match s.wellRead r q errs 0 with
    | (t, 0, d) =>
      let u := t.linePos r l 0
      let row : InkRow :=
        { data := d, row := k.nextRow % n, bcast := stBcast ws, last := k.nextRow % n + 1 == n
          pos := if stBcast ws then 0 else t.lineN r l - 1 - tile % max 1 (t.lineN r l)
          wa := waWell r (q / 8) + BitVec.ofNat 48 (q % 8 * 64) }
      let t1 := t.send (t.inkMsg r u 2 row (t.epoch u))
      let t2 := t1.updWell r fun x => { x with
        running := x.running.map fun j => if j.line = l then { j with nextRow := j.nextRow + 1 } else j }
      let t3 := if row.last then t2.updP1 r (streamStatus k.stream) fun w => bumpField w 2 20 else t2
      if k.nextRow + 1 = stTiles ws * n then t3.streamDone r l k.stream else t3
    | (t, code, _) => t.streamStop r l k.stream code

def execStreamRow (region line : Nat) (errs : Errs) (s : State) : Res :=
  guardRes (decide (region < 48 ∧ line < 80)) (s.streamRow region line errs)

/-! ### Ink lines (R261, R263, R264) -/

/-- The next position of a line takes a row: over the crossbar in the same cluster, as a message otherwise. -/
def State.inkForward (s : State) (u v : Nat) (k : InkRow) : State :=
  if clusterOf u = clusterOf v then s.inkPush v k
  else s.send { s.inkMsg (regionOf u) v 0 k (s.stamp (clusterOf u) v) with srcUnit := u }

/-- Where the oldest row on a unit's ink input goes: into the buffer, and on to the next position of the line. -/
def State.inkWays (s : State) (u : Nat) : Option (InkRow × Nat × Nat × Bool × Option Nat) :=
  match (s.unit u).inkIn, s.lineOf u with
  | k :: _, some (l, p) =>
    let r := regionOf u
    let more := if k.bcast then decide (p + 1 < s.lineN r l) else decide (p < k.pos ∧ p + 1 < s.lineN r l)
    some (k, l, p, k.bcast || k.pos == p, if more then some (s.linePos r l (p + 1)) else none)
  | _, _ => none

/-- The oldest row on a unit's ink input can move: the buffer has room for it and the next position has a credit (R263). -/
def State.inkMoves (s : State) (u : Nat) : Bool :=
  match s.inkWays u with
  | none => false
  | some (_, _, _, takes, next) => !(takes && decide (64 ≤ (s.unit u).ink.length)) && next.all s.inkCredit

/-- The oldest row on a unit's ink input moves, if it can. -/
def State.inkRow (s : State) (u : Nat) : State :=
  match s.inkWays u with
  | none => s
  | some (k, l, _, takes, next) =>
    if !s.inkMoves u then s
    else
      let s1 := s.updUnit u fun x => { x with
        inkIn := x.inkIn.drop 1, inkSince := s.aclkOf (clusterOf u), ink := if takes then x.ink ++ [k] else x.ink }
      let s2 := match next with
        | some v => s1.inkForward u v k
        | none => s1
      (s2.updWell (regionOf u) fun y => { y with stalled := y.stalled.filter (· != l) }).settleLine (regionOf u) l

def execInkLineRow (unit : Nat) (s : State) : Res := onUnit unit (s.inkRow unit)

/-- A stall is recorded and raised (Table WEL-6). -/
def State.stallEvent (s : State) (r l : Nat) : State :=
  let t := s.updP1 r 14388 fun w => putField (bumpField (putField w 0 8 (l % 128 + 128)) 8 12) 20 1 1
  t.raise r 0x029 noSubject (t.p1 r 14388).toNat

/-- A row at a unit of the line has not been able to move for 2^20 ACLK. -/
def State.inkBlocked (s : State) (r l : Nat) : Bool :=
  ((List.range (s.lineN r l)).map (s.linePos r l)).any fun u =>
    !(s.unit u).inkIn.isEmpty && !s.inkMoves u && decide ((s.unit u).inkSince + 2 ^ 20 ≤ s.aclkOf (clusterOf u))

/-- A row of a line has not moved for 2^20 ACLK: once for the episode (R263). -/
def State.inkStall (s : State) (r l : Nat) : State :=
  if s.lineBusy r l = false ∨ (s.well r).stalled.contains l = true ∨ s.inkBlocked r l = false then s
  else (s.updWell r fun x => { x with stalled := x.stalled ++ [l] }).stallEvent r l

def execInkStall (region line : Nat) (s : State) : Res :=
  guardRes (decide (region < 48 ∧ line < 80)) (s.inkStall region line)

/-- The command that waits for rows of the ink buffer: the one that is to enter, or the next one, whose set is loaded ahead (R146). -/
def Unit.inkWaits (x : Unit) : Option MxaCmd :=
  let waits (c : MxaCmd) : Bool :=
    c.entered == 0 && mxWMode c.block == 2 &&
      decide (((x.mxa.shadow.map (·.rows.length)).getD 0) + x.ink.length < mxK c.block)
  match x.mxa.cur with
  | some c => if waits c then some c else if c.entered == 0 then none else x.mxa.nxt.filter waits
  | none => none

/-- A w_mode 2 command has waited 2^20 ACLK for rows, counted from its taking (R264; DEDUCED, log 135). -/
def State.inkCommandWait (s : State) (u : Nat) : State :=
  let x := s.unit u
  match s.lineOf u, x.inkWaits with
  | some (l, _), some c =>
    if !x.inkStalled && decide (c.takenAt + 2 ^ 20 ≤ s.aclkOf (clusterOf u)) then
      (s.setUnit u { x with inkStalled := true }).stallEvent (regionOf u) l
    else s
  | _, _ => s

def execInkCommandWait (unit : Nat) (s : State) : Res := onUnit unit (s.inkCommandWait unit)

/-! ### Entries (R260, R265, R270) -/

def execLineEntryWrite (region line : Nat) (words : List Word) (s : State) : Res :=
  guardRes (decide (region < 48 ∧ line < 80)) (s.writeLine region line words)

def execStreamEntryWrite (region stream : Nat) (words : List Word) (s : State) : Res :=
  guardRes (decide (region < 48 ∧ stream < 64)) (s.writeStream region stream words)

/-! ### Verify reads (R348, R350) -/

/-- The verify read repeats the error: lasting but correctable, event 0x02A, and planned sparing of the unit. -/
def State.lastingCorrectable (s : State) (u : Nat) : State :=
  let r := regionOf u
  let s1 := s.testWord { code := 11, region := r, target := u, part := 0 } false
  let s2 := (s1.updP1 r 82 fun w => bumpField w 12 12).seeP1 r 83 1
  let s3 := (s2.raise r 0x02A u (s2.p1 r 81).toNat).note 2 [11, r, s2.position u, 0]
  s3.updSvc r fun x => { x with planned := if x.planned.contains u then x.planned else x.planned ++ [u] }

/-- The verify read finds nothing, or another bit: the correction was transient, but for a fourth error (R351). -/
def State.transient (s : State) (u : Nat) : State :=
  let t : TestTarget := { code := 11, region := regionOf u, target := u, part := 0 }
  if s.passedThrice t then s.lastingCorrectable u else s.recordTest t true

/-- A verify read has been made of a row that is owed one; its own correction owes no further one. -/
def State.verified (s : State) (u q : Nat) (v : Nat × Nat × Nat) (e : Ecc) : State :=
  let s1 := s.updSvc (regionOf u) fun x => { x with verify := (x.verify.erase v).filter fun k => k != (u, q, v.2.2) }
  match e.ofData with
  | .corrected bit => if bit = v.2.2 then s1.lastingCorrectable u else s1.transient u
  | .uncorrectable => s1
  | _ => s1.transient u

/-- Verify read of a scratchpad row that is owed one, through the maintenance port, with a deadline 64 ACLK ahead and a hold of 1
(R350). -/
def State.verifyRow (s : State) (u q : Nat) (e : Ecc) : State :=
  match (s.svc (regionOf u)).verify.find? fun v => v.1 == u && v.2.1 == q with
  | none => s
  | some v =>
    let a := { s.agentAccess 10 maintVerify u q 1 false 0 false e with deadline := BitVec.ofNat 16 (s.aclkOf (clusterOf u) + 64) }
    match s.portAccess a .plainRead with
    | (t, .wait) => t
    | (t, .done _ _ _) => t.verified u q v e

/-- Verify read of a script store word after a load (R350): rows from 49,152 on stand for the script words (log 20). -/
def State.verifyWord (s : State) (u k : Nat) (e : Ecc) : State :=
  let r := regionOf u
  match (s.svc r).scriptVerify.find? fun v => v.1 == u && v.2.1 == k with
  | none => s
  | some v =>
    let s1 := s.updSvc r fun x => { x with scriptVerify := x.scriptVerify.erase v }
    match e.ofData with
    | .corrected bit => if bit = v.2.2 then s1.lastingCorrectable u else s1.transient u
    | .uncorrectable =>
      ((s1.stopHands u).raiseUnit u 0x222 0).report
        (causeOf 0x222 u (some { code := 2, region := r, target := u, part := 0 }))
    | _ => s1.transient u

def execVerifyRead (unit row : Nat) (ecc : Ecc) (s : State) : Res :=
  guardRes (decide (unit < 15360 ∧ row < scratchRows + 32768))
    (if row < scratchRows then s.verifyRow unit row ecc else s.verifyWord unit (row - scratchRows) ecc)

end Sys2Proof.Machine
end

