-- ==== Sys2Proof/Machine/Dispatch.lean ====
section
/-! DEFINITION. One arm per command: the direct call of its meaning. -/

namespace Sys2Proof.Machine

/-- The effect of a command on everything but the queue. -/
def exec (i : Instr) (s : State) : Host.Outcome State Fault Refusal :=
  match i with
  | .add x => Sys2Proof.Machine.execAdd x s
  | .sub x => Sys2Proof.Machine.execSub x s
  | .and x => Sys2Proof.Machine.execAnd x s
  | .or x => Sys2Proof.Machine.execOr x s
  | .xor x => Sys2Proof.Machine.execXor x s
  | .sll x => Sys2Proof.Machine.execSll x s
  | .srl x => Sys2Proof.Machine.execSrl x s
  | .sra x => Sys2Proof.Machine.execSra x s
  | .slt x => Sys2Proof.Machine.execSlt x s
  | .sltu x => Sys2Proof.Machine.execSltu x s
  | .min x => Sys2Proof.Machine.execMin x s
  | .max x => Sys2Proof.Machine.execMax x s
  | .adds x => Sys2Proof.Machine.execAdds x s
  | .subs x => Sys2Proof.Machine.execSubs x s
  | .mul x => Sys2Proof.Machine.execMul x s
  | .mulh x => Sys2Proof.Machine.execMulh x s
  | .mulhu x => Sys2Proof.Machine.execMulhu x s
  | .clz x => Sys2Proof.Machine.execClz x s
  | .popc x => Sys2Proof.Machine.execPopc x s
  | .addi x => Sys2Proof.Machine.execAddi x s
  | .andi x => Sys2Proof.Machine.execAndi x s
  | .ori x => Sys2Proof.Machine.execOri x s
  | .xori x => Sys2Proof.Machine.execXori x s
  | .slli x => Sys2Proof.Machine.execSlli x s
  | .srli x => Sys2Proof.Machine.execSrli x s
  | .srai x => Sys2Proof.Machine.execSrai x s
  | .slti x => Sys2Proof.Machine.execSlti x s
  | .sltiu x => Sys2Proof.Machine.execSltiu x s
  | .lui x => Sys2Proof.Machine.execLui x s
  | .beq x => Sys2Proof.Machine.execBeq x s
  | .bne x => Sys2Proof.Machine.execBne x s
  | .blt x => Sys2Proof.Machine.execBlt x s
  | .bge x => Sys2Proof.Machine.execBge x s
  | .bltu x => Sys2Proof.Machine.execBltu x s
  | .bgeu x => Sys2Proof.Machine.execBgeu x s
  | .jal x => Sys2Proof.Machine.execJal x s
  | .jalr x => Sys2Proof.Machine.execJalr x s
  | .ld x => Sys2Proof.Machine.execLd x s
  | .ldp x => Sys2Proof.Machine.execLdp x s
  | .ldt x => Sys2Proof.Machine.execLdt x s
  | .st x => Sys2Proof.Machine.execSt x s
  | .stf x => Sys2Proof.Machine.execStf x s
  | .sts x => Sys2Proof.Machine.execSts x s
  | .seal x => Sys2Proof.Machine.execSeal x s
  | .tst x => Sys2Proof.Machine.execTst x s
  | .tagset x => Sys2Proof.Machine.execTagset x s
  | .twait x => Sys2Proof.Machine.execTwait x s
  | .aset x => Sys2Proof.Machine.execAset x s
  | .aadd x => Sys2Proof.Machine.execAadd x s
  | .aaddi x => Sys2Proof.Machine.execAaddi x s
  | .aget x => Sys2Proof.Machine.execAget x s
  | .sync x => Sys2Proof.Machine.execSync x s
  | .syncr x => Sys2Proof.Machine.execSyncr x s
  | .issue x => Sys2Proof.Machine.execIssue x s
  | .fence x => Sys2Proof.Machine.execFence x s
  | .hstart x => Sys2Proof.Machine.execHstart x s
  | .halt x => Sys2Proof.Machine.execHalt x s
  | .raise x => Sys2Proof.Machine.execRaise x s
  | .plan x => Sys2Proof.Machine.execPlan x s
  | .planr x => Sys2Proof.Machine.execPlanr x s
  | .rdsr x => Sys2Proof.Machine.execRdsr x s
  | .wrsr x => Sys2Proof.Machine.execWrsr x s
  | .backOffExpiry x => Sys2Proof.Machine.execBackOffExpiry x s
  | .scriptLoad unit errs => Sys2Proof.Machine.execScriptLoad unit errs s
  | .go unit => Sys2Proof.Machine.execGo unit s
  | .unitStop unit => Sys2Proof.Machine.execUnitStop unit s
  | .flush unit => Sys2Proof.Machine.execFlush unit s
  | .plainRead a => Sys2Proof.Machine.execPlainRead a s
  | .peek a => Sys2Proof.Machine.execPeek a s
  | .take a => Sys2Proof.Machine.execTake a s
  | .plainWrite a => Sys2Proof.Machine.execPlainWrite a s
  | .put a => Sys2Proof.Machine.execPut a s
  | .fill a => Sys2Proof.Machine.execFill a s
  | .fillSeal a => Sys2Proof.Machine.execFillSeal a s
  | .tagSeal a => Sys2Proof.Machine.execTagSeal a s
  | .tagTest a => Sys2Proof.Machine.execTagTest a s
  | .parkedRequestWake unit bank index ecc => Sys2Proof.Machine.execParkedRequestWake unit bank index ecc s
  | .tagWaitEvent unit bank index => Sys2Proof.Machine.execTagWaitEvent unit bank index s
  | .overhold unit bank => Sys2Proof.Machine.execOverhold unit bank s
  | .scrub unit bank ecc => Sys2Proof.Machine.execScrub unit bank ecc s
  | .verifyRead unit row ecc => Sys2Proof.Machine.execVerifyRead unit row ecc s
  | .mac unit block => Sys2Proof.Machine.execMac unit block s
  | .minPlus unit block => Sys2Proof.Machine.execMinPlus unit block s
  | .maxPlus unit block => Sys2Proof.Machine.execMaxPlus unit block s
  | .l1 unit block => Sys2Proof.Machine.execL1 unit block s
  | .squaredDifference unit block => Sys2Proof.Machine.execSquaredDifference unit block s
  | .compareCountLess unit block => Sys2Proof.Machine.execCompareCountLess unit block s
  | .compareCountLessOrEqual unit block => Sys2Proof.Machine.execCompareCountLessOrEqual unit block s
  | .mxaRowEntry unit errs parity => Sys2Proof.Machine.execMxaRowEntry unit errs parity s
  | .mxaResultWrite unit => Sys2Proof.Machine.execMxaResultWrite unit s
  | .fillGatePass unit waited => Sys2Proof.Machine.execFillGatePass unit waited s
  | .completionPut unit engine => Sys2Proof.Machine.execCompletionPut unit engine s
  | .strokeCommand unit errs => Sys2Proof.Machine.execStrokeCommand unit errs s
  | .strokeBlockEntry unit errs parity => Sys2Proof.Machine.execStrokeBlockEntry unit errs parity s
  | .records unit checks => Sys2Proof.Machine.execRecords unit checks s
  | .register unit checks => Sys2Proof.Machine.execRegister unit checks s
  | .release unit checks => Sys2Proof.Machine.execRelease unit checks s
  | .copy unit errs parity => Sys2Proof.Machine.execCopy unit errs parity s
  | .gather unit errs parity => Sys2Proof.Machine.execGather unit errs parity s
  | .scatter unit errs parity => Sys2Proof.Machine.execScatter unit errs parity s
  | .moverInboundRequest x hold deadline ecc => Sys2Proof.Machine.execMoverInboundRequest x hold deadline ecc s
  | .readRequest m flits errs => Sys2Proof.Machine.execReadRequest m flits errs s
  | .writeRequest m flits errs => Sys2Proof.Machine.execWriteRequest m flits errs s
  | .readResponse m flits => Sys2Proof.Machine.execReadResponse m flits s
  | .writeAcknowledgement m flits => Sys2Proof.Machine.execWriteAcknowledgement m flits s
  | .errorResponse m flits => Sys2Proof.Machine.execErrorResponse m flits s
  | .syncReply m flits => Sys2Proof.Machine.execSyncReply m flits s
  | .syncAcknowledgement m flits => Sys2Proof.Machine.execSyncAcknowledgement m flits s
  | .epochUpdate table x => Sys2Proof.Machine.execEpochUpdate table x s
  | .epochUpdateAcknowledged unit => Sys2Proof.Machine.execEpochUpdateAcknowledged unit s
  | .eventRecord x => Sys2Proof.Machine.execEventRecord x s
  | .reductionContribution place m flits => Sys2Proof.Machine.execReductionContribution place m flits s
  | .holdWindowEnd region place index => Sys2Proof.Machine.execHoldWindowEnd region place index s
  | .dryNib region place port vc => Sys2Proof.Machine.execDryNib region place port vc s
  | .strayPop region => Sys2Proof.Machine.execStrayPop region s
  | .syncRead x => Sys2Proof.Machine.execSyncRead x s
  | .syncAdd x => Sys2Proof.Machine.execSyncAdd x s
  | .syncSet x => Sys2Proof.Machine.execSyncSet x s
  | .waitGe x => Sys2Proof.Machine.execWaitGe x s
  | .arrive x => Sys2Proof.Machine.execArrive x s
  | .syncOr x => Sys2Proof.Machine.execSyncOr x s
  | .syncClear x => Sys2Proof.Machine.execSyncClear x s
  | .waitAny x => Sys2Proof.Machine.execWaitAny x s
  | .contribute x => Sys2Proof.Machine.execContribute x s
  | .await x => Sys2Proof.Machine.execAwait x s
  | .decide x => Sys2Proof.Machine.execDecide x s
  | .rearm x => Sys2Proof.Machine.execRearm x s
  | .syncInit x => Sys2Proof.Machine.execSyncInit x s
  | .refresh region channel pseudo bank => Sys2Proof.Machine.execRefresh region channel pseudo bank s
  | .patrolScrub region channel pseudo errs => Sys2Proof.Machine.execPatrolScrub region channel pseudo errs s
  | .targetedScrub region channel found again => Sys2Proof.Machine.execTargetedScrub region channel found again s
  | .streamStart region stream => Sys2Proof.Machine.execStreamStart region stream s
  | .streamRow region line errs => Sys2Proof.Machine.execStreamRow region line errs s
  | .inkLineRow unit => Sys2Proof.Machine.execInkLineRow unit s
  | .inkStall region line => Sys2Proof.Machine.execInkStall region line s
  | .inkCommandWait unit => Sys2Proof.Machine.execInkCommandWait unit s
  | .lineEntryWrite region line words => Sys2Proof.Machine.execLineEntryWrite region line words s
  | .streamEntryWrite region stream words => Sys2Proof.Machine.execStreamEntryWrite region stream words s
  | .openStep batches => Sys2Proof.Machine.execOpenStep batches s
  | .regionVerdictContribution region => Sys2Proof.Machine.execRegionVerdictContribution region s
  | .weightPacket shard block place errs => Sys2Proof.Machine.execWeightPacket shard block place errs s
  | .snapshotGranule shard => Sys2Proof.Machine.execSnapshotGranule shard s
  | .moduleReady => Sys2Proof.Machine.execModuleReady s
  | .digestComplete => Sys2Proof.Machine.execDigestComplete s
  | .sequencerAbort => Sys2Proof.Machine.execSequencerAbort s
  | .drainComplete => Sys2Proof.Machine.execDrainComplete s
  | .selfTestResult t result => Sys2Proof.Machine.execSelfTestResult t result s
  | .spareWake region rowMap => Sys2Proof.Machine.execSpareWake region rowMap s
  | .spareTestResult region rowMap pass => Sys2Proof.Machine.execSpareTestResult region rowMap pass s
  | .spareLoadComplete region rowMap digestOk => Sys2Proof.Machine.execSpareLoadComplete region rowMap digestOk s
  | .regionRestore region => Sys2Proof.Machine.execRegionRestore region s
  | .carbonCopy shard copy => Sys2Proof.Machine.execCarbonCopy shard copy s
  | .idle link f => Sys2Proof.Machine.execIdle link f s
  | .wrd link f => Sys2Proof.Machine.execWrd link f s
  | .wrs link f => Sys2Proof.Machine.execWrs link f s
  | .wwr link f => Sys2Proof.Machine.execWwr link f s
  | .wak link f => Sys2Proof.Machine.execWak link f s
  | .wer link f => Sys2Proof.Machine.execWer link f s
  | .red link f => Sys2Proof.Machine.execRed link f s
  | .wgt link f => Sys2Proof.Machine.execWgt link f s
  | .nak link f => Sys2Proof.Machine.execNak link f s
  | .replayTimeout link => Sys2Proof.Machine.execReplayTimeout link s
  | .retrain link txPass rxPass => Sys2Proof.Machine.execRetrain link txPass rxPass s
  | .pause link f => Sys2Proof.Machine.execPause link f s
  | .resume link f => Sys2Proof.Machine.execResume link f s
  | .laneTestStart link f => Sys2Proof.Machine.execLaneTestStart link f s
  | .laneTestResult link f sparePass => Sys2Proof.Machine.execLaneTestResult link f sparePass s
  | .setLaneMap link f => Sys2Proof.Machine.execSetLaneMap link f s
  | .linkStarvation link lvc => Sys2Proof.Machine.execLinkStarvation link lvc s
  | .peerLossTimeout peer => Sys2Proof.Machine.execPeerLossTimeout peer s
  | .verdictUp link f => Sys2Proof.Machine.execVerdictUp link f s
  | .decideDown link f => Sys2Proof.Machine.execDecideDown link f s
  | .readyUp link x => Sys2Proof.Machine.execReadyUp link x s
  | .commitDown link x => Sys2Proof.Machine.execCommitDown link x s
  | .abortUp link f => Sys2Proof.Machine.execAbortUp link f s
  | .abortDown link f => Sys2Proof.Machine.execAbortDown link f s
  | .lossUp link f => Sys2Proof.Machine.execLossUp link f s
  | .hello link f => Sys2Proof.Machine.execHello link f s
  | .helloAck link f => Sys2Proof.Machine.execHelloAck link f s
  | .linkEnable w => Sys2Proof.Machine.execLinkEnable w s
  | .doorbellPoll readOk => Sys2Proof.Machine.execDoorbellPoll readOk s
  | .copyIn ring errs readOk => Sys2Proof.Machine.execCopyIn ring errs readOk s
  | .copyOut ring errs writeOk => Sys2Proof.Machine.execCopyOut ring errs writeOk s
  | .loadImage ring img readOk => Sys2Proof.Machine.execLoadImage ring img readOk s
  | .start ring => Sys2Proof.Machine.execStart ring s
  | .stop ring => Sys2Proof.Machine.execStop ring s
  | .checkpoint ring => Sys2Proof.Machine.execCheckpoint ring s
  | .restore ring ck reads => Sys2Proof.Machine.execRestore ring ck reads s
  | .redistribute ring set readOk superseded => Sys2Proof.Machine.execRedistribute ring set readOk superseded s
  | .digest ring => Sys2Proof.Machine.execDigest ring s
  | .completionWrite ring writeOk => Sys2Proof.Machine.execCompletionWrite ring writeOk s
  | .interruptTimer ring => Sys2Proof.Machine.execInterruptTimer ring s
  | .hostEventRecord => Sys2Proof.Machine.execHostEventRecord s
  | .flr => Sys2Proof.Machine.execFlr s
  | .hotReset => Sys2Proof.Machine.execHotReset s
  | .perst => Sys2Proof.Machine.execPerst s
  | .d3hot => Sys2Proof.Machine.execD3hot s
  | .d0 => Sys2Proof.Machine.execD0 s
  | .configurationRequest address write => Sys2Proof.Machine.execConfigurationRequest address write s
  | .ringEnable w => Sys2Proof.Machine.execRingEnable w s
  | .eventRingEnable w => Sys2Proof.Machine.execEventRingEnable w s
  | .engineEnable w => Sys2Proof.Machine.execEngineEnable w s
  | .msixEntryWrite w => Sys2Proof.Machine.execMsixEntryWrite w s
  | .p1clrSend w => Sys2Proof.Machine.execP1clrSend w s
  | .summaryClear w => Sys2Proof.Machine.execSummaryClear w s
  | .summaryRefresh region => Sys2Proof.Machine.execSummaryRefresh region s
  | .registerWrite w => Sys2Proof.Machine.execRegisterWrite w s
  | .sourceConnect src both => Sys2Proof.Machine.execSourceConnect src both s
  | .interlockRelease => Sys2Proof.Machine.execInterlockRelease s
  | .feedLoss src => Sys2Proof.Machine.execFeedLoss src s
  | .feedRestore src => Sys2Proof.Machine.execFeedRestore src s
  | .bothFeedsLost => Sys2Proof.Machine.execBothFeedsLost s
  | .phaseLoss cluster phase => Sys2Proof.Machine.execPhaseLoss cluster phase s
  | .droop cluster => Sys2Proof.Machine.execDroop cluster s
  | .isolationTrip region t3 => Sys2Proof.Machine.execIsolationTrip region t3 s
  | .detourSwitch x => Sys2Proof.Machine.execDetourSwitch x s
  | .pllLockLoss x => Sys2Proof.Machine.execPllLockLoss x s
  | .isolationSwitchOpen die => Sys2Proof.Machine.execIsolationSwitchOpen die s
  | .referenceClockLoss => Sys2Proof.Machine.execReferenceClockLoss s
  | .thermalReading region readings => Sys2Proof.Machine.execThermalReading region readings s
  | .thermalStepBack cluster => Sys2Proof.Machine.execThermalStepBack cluster s
  | .powerCapComparison drawW raise lower => Sys2Proof.Machine.execPowerCapComparison drawW raise lower s
  | .peakGuard => Sys2Proof.Machine.execPeakGuard s
  | .peakGuardRelease => Sys2Proof.Machine.execPeakGuardRelease s
  | .dividerChange cluster => Sys2Proof.Machine.execDividerChange cluster s
  | .slackMeasurement region slack => Sys2Proof.Machine.execSlackMeasurement region slack s
  | .hourlyAgeingRecord record => Sys2Proof.Machine.execHourlyAgeingRecord record s
  | .marginPlan => Sys2Proof.Machine.execMarginPlan s
  | .boot facts => Sys2Proof.Machine.execBoot facts s
  | .warmReset facts => Sys2Proof.Machine.execWarmReset facts s
  | .penCompareAndSet who expHolder expGen newHolder => Sys2Proof.Machine.execPenCompareAndSet who expHolder expGen newHolder s
  | .heartbeat => Sys2Proof.Machine.execHeartbeat s
  | .heartbeatSample => Sys2Proof.Machine.execHeartbeatSample s
  | .penRelease => Sys2Proof.Machine.execPenRelease s
  | .penNoneTimeout who => Sys2Proof.Machine.execPenNoneTimeout who s
  | .recoveryStatus who => Sys2Proof.Machine.execRecoveryStatus who s
  | .recoveryBegin who length => Sys2Proof.Machine.execRecoveryBegin who length s
  | .recoveryData who offset data => Sys2Proof.Machine.execRecoveryData who offset data s
  | .recoveryCommit who good => Sys2Proof.Machine.execRecoveryCommit who good s
  | .recoveryAbort who => Sys2Proof.Machine.execRecoveryAbort who s
  | .stage image release detClass good => Sys2Proof.Machine.execStage image release detClass good s
  | .activate => Sys2Proof.Machine.execActivate s
  | .cancel => Sys2Proof.Machine.execCancel s
  | .trialTimeout who => Sys2Proof.Machine.execTrialTimeout who s
  | .flashRecordWrite kind payload verified => Sys2Proof.Machine.execFlashRecordWrite kind payload verified s
  | .getVersion => Sys2Proof.Machine.execGetVersion s
  | .getCapabilities => Sys2Proof.Machine.execGetCapabilities s
  | .negotiateAlgorithms asym hash => Sys2Proof.Machine.execNegotiateAlgorithms asym hash s
  | .getDigests => Sys2Proof.Machine.execGetDigests s
  | .getCertificate slot offset length => Sys2Proof.Machine.execGetCertificate slot offset length s
  | .challenge slot nonce => Sys2Proof.Machine.execChallenge slot nonce s
  | .getMeasurements index => Sys2Proof.Machine.execGetMeasurements index s
  | .keyExchange reqKey => Sys2Proof.Machine.execKeyExchange reqKey s
  | .finish verify => Sys2Proof.Machine.execFinish verify s
  | .laneLockLoss link lane => Sys2Proof.Machine.execLaneLockLoss link lane s
  | .linkTrainingComplete link => Sys2Proof.Machine.execLinkTrainingComplete link s
  | .completionTimeout ring => Sys2Proof.Machine.execCompletionTimeout ring s
  | .checkpointTransferComplete x => Sys2Proof.Machine.execCheckpointTransferComplete x s
  | .serviceConnectorRemoval => Sys2Proof.Machine.execServiceConnectorRemoval s
  | .ideKmRequest message => Sys2Proof.Machine.execIdeKmRequest message s
  | .strokeRowWrite unit => Sys2Proof.Machine.execStrokeRowWrite unit s
  | .invalidInstruction x => Sys2Proof.Machine.execInvalidInstruction x s

end Sys2Proof.Machine
end

