-- ==== Sys2Proof/WellFormed.lean ====
section
/-! DEFINITION. Well-formed commands: every number names a structure of the module (R1, R41, R46, R49, R82, R120, R248,
R313, R382) and every numeric field fits the field that carries it (Tables NET-4, LNK-2, SPD-5). -/

namespace Sys2Proof

/-- A number lies below a bound. -/
def below (n bound : Nat) : Bool := decide (n < bound)

/-- Logical units, regions, clusters, dies, link engines, rings (R1, R41, R46, R313, R382). -/
def unitOk (u : Nat) : Bool := decide (u < 15360)
def regionOk (r : Nat) : Bool := decide (r < 48)
def clusterOk (c : Nat) : Bool := decide (c < 960)
def dieOk (d : Nat) : Bool := decide (d < 12)
def linkOk (l : Nat) : Bool := decide (l < 24)
def ringOk (q : Nat) : Bool := decide (q < 32)
/-- Row maps of a region, lines and streams of a well, banks of a unit (R49, R260, R265, R68). -/
def rowMapOk (m : Nat) : Bool := decide (m < 80)
def lineOk (l : Nat) : Bool := decide (l < 80)
def streamOk (n : Nat) : Bool := decide (n < 64)
def bankOk (b : Nat) : Bool := decide (b < 16)
/-- Entries of the shard table (R342). -/
def shardOk (n : Nat) : Bool := decide (n < 4096)

/-- An issue names a unit and one of its eight hands (R95). -/
def Issue.wf (x : Issue) : Bool := unitOk x.unit && decide (x.hand < 8)

/-- An access names a unit, a port of Table SPD-5 and an offset of the 22-bit offset field; port 6 uses the narrow view, the others the
wide one (R60, R69, R70, R82). -/
def Access.wf (a : Access) : Bool :=
  unitOk a.unit && decide (a.port < 11) && decide (a.offset < 2 ^ 22) && a.wide == (a.port != 6)

/-- The fields of a message (Table NET-4): regions, the unit of a message to a unit, the widths of the rest; up to 8 body flits, none on
VC0 (R224). -/
def Msg.wf (m : Msg) : Bool :=
  regionOk m.dstRegion && regionOk m.srcRegion && decide (m.dstKind < 8) && decide (m.srcKind < 8) &&
    (m.dstKind != 0 || (unitOk m.dstUnit && m.dstUnit / 320 == m.dstRegion)) && decide (m.dstUnit < 16384) &&
    decide (m.srcUnit < 16384) && decide (m.vc < 4) && decide (m.type < 64) && decide (m.akind < 4) &&
    decide (m.words.length ≤ 11) && decide (m.body.length ≤ 8) && (m.vc != 0 || m.body.isEmpty)

/-- The payload of a flit is one granule of eight rows, and an error changes one of its 640 octets (R315). -/
def Flit.wf (f : Flit) : Bool := decide (f.payload.length = 8) && f.errors.all fun e => decide (e.1 < 640)

def RedPlace.wf : RedPlace → Bool
  | .clusterRouter c => clusterOk c
  | .regionRouter r => regionOk r
  | .endpoint => true

/-- A test names a code of Table FLT-2, a region and, for codes 1 to 6, a logical unit. -/
def TestTarget.wf (t : TestTarget) : Bool := regionOk t.region && (decide (6 < t.code) || unitOk t.target)

/-- A well-formed command. -/
def Instr.wf (i : Instr) : Bool :=
  match i with
  | .add x | .sub x | .and x | .or x | .xor x | .sll x | .srl x | .sra x | .slt x | .sltu x | .min x | .max x
  | .adds x | .subs x | .mul x | .mulh x | .mulhu x | .clz x | .popc x | .addi x | .andi x | .ori x | .xori x
  | .slli x | .srli x | .srai x | .slti x | .sltiu x | .lui x | .beq x | .bne x | .blt x | .bge x | .bltu x
  | .bgeu x | .jal x | .jalr x | .ld x | .ldp x | .ldt x | .st x | .stf x | .sts x | .seal x | .tst x | .tagset x
  | .twait x | .aset x | .aadd x | .aaddi x | .aget x | .sync x | .syncr x | .issue x | .fence x | .hstart x
  | .halt x | .raise x | .plan x | .planr x | .rdsr x | .wrsr x | .backOffExpiry x | .invalidInstruction x => x.wf
  | .scriptLoad u _ | .go u | .unitStop u | .flush u | .mac u _ | .minPlus u _ | .maxPlus u _ | .l1 u _
  | .squaredDifference u _ | .compareCountLess u _ | .compareCountLessOrEqual u _ | .mxaRowEntry u _ _
  | .mxaResultWrite u | .fillGatePass u _ | .strokeCommand u _ | .strokeBlockEntry u _ _ | .strokeRowWrite u
  | .records u _ | .register u _ | .release u _ | .copy u _ _ | .gather u _ _ | .scatter u _ _
  | .epochUpdateAcknowledged u | .inkLineRow u | .inkCommandWait u => unitOk u
  | .plainRead a | .peek a | .take a | .plainWrite a | .put a | .fill a | .fillSeal a | .tagSeal a | .tagTest a =>
    a.wf
  | .parkedRequestWake u b _ _ | .tagWaitEvent u b _ | .overhold u b | .scrub u b _ => unitOk u && bankOk b
  | .verifyRead u row _ => unitOk u && below row 81920
  | .completionPut u e => unitOk u && below e 3
  | .readRequest m _ _ | .writeRequest m _ _ | .readResponse m _
  | .writeAcknowledgement m _ | .errorResponse m _ | .syncReply m _ | .syncAcknowledgement m _ => m.wf
  | .moverInboundRequest x _ _ _ | .eventRecord x | .syncRead x | .syncAdd x | .syncSet x | .waitGe x | .arrive x | .syncOr x
  | .syncClear x | .waitAny x | .contribute x | .await x | .decide x | .rearm x | .syncInit x => x.msg.wf
  | .epochUpdate t x => below t 1008 && x.msg.wf && unitOk ((x.msg.words.getD 2 0).toNat % 2 ^ 14)
  | .reductionContribution p m _ => p.wf && m.wf
  | .holdWindowEnd r p _ => regionOk r && p.wf
  | .dryNib r place port vc =>
    regionOk r && below place 43 && below port 8 && below vc 4
  | .strayPop r | .regionVerdictContribution r | .regionRestore r | .summaryRefresh r | .isolationTrip r _
  | .thermalReading r _ | .slackMeasurement r _ => regionOk r
  | .detourSwitch x => regionOk x.region
  | .refresh r c p b =>
    regionOk r && below c 16 && below p 2 && below b 32
  | .patrolScrub r c p _ => regionOk r && below c 16 && below p 2
  | .targetedScrub r c _ _ => regionOk r && below c 16
  | .streamStart r n | .streamEntryWrite r n _ => regionOk r && streamOk n
  | .streamRow r l _ | .inkStall r l | .lineEntryWrite r l _ => regionOk r && lineOk l
  | .weightPacket n b p _ => shardOk n && below b (2 ^ 24) && unitOk p.unit && below (p.row + 103) 49152
  | .snapshotGranule n | .carbonCopy n _ => shardOk n
  | .selfTestResult t _ => t.wf
  | .spareWake r m | .spareTestResult r m _ | .spareLoadComplete r m _ => regionOk r && rowMapOk m
  | .idle l f | .wrd l f | .wrs l f | .wwr l f | .wak l f | .wer l f | .red l f | .wgt l f | .nak l f
  | .pause l f | .resume l f | .laneTestStart l f | .laneTestResult l f _ | .setLaneMap l f | .verdictUp l f
  | .decideDown l f | .abortUp l f | .abortDown l f | .lossUp l f | .hello l f
  | .helloAck l f => linkOk l && f.wf
  | .readyUp l x | .commitDown l x => linkOk l && x.flit.wf
  | .replayTimeout l | .retrain l _ _ | .linkTrainingComplete l => linkOk l
  | .linkStarvation l v => linkOk l && below v 8
  | .laneLockLoss l n => linkOk l && below n 9
  | .peerLossTimeout p => below p 4096
  | .copyIn q _ _ | .copyOut q _ _ | .loadImage q _ _ | .start q | .stop q | .checkpoint q | .restore q _ _
  | .redistribute q _ _ _ | .digest q | .completionWrite q _ | .interruptTimer q | .completionTimeout q => ringOk q
  | .phaseLoss c p => clusterOk c && below p 8
  | .droop c | .thermalStepBack c | .dividerChange c => clusterOk c
  | .isolationSwitchOpen d | .pllLockLoss (.lock d) | .pllLockLoss (.controller d) => dieOk d
  | .openStep _ | .moduleReady | .digestComplete | .sequencerAbort | .drainComplete | .linkEnable _ | .doorbellPoll _ | .flashRecordWrite _ _ _
  | .hostEventRecord | .flr | .hotReset | .perst | .d3hot | .d0 | .configurationRequest _ _ | .ringEnable _
  | .eventRingEnable _ | .engineEnable _ | .msixEntryWrite _ | .p1clrSend _ | .summaryClear _ | .registerWrite _
  | .sourceConnect _ _ | .interlockRelease | .feedLoss _ | .feedRestore _ | .bothFeedsLost | .referenceClockLoss
  | .powerCapComparison _ _ _ | .peakGuard | .peakGuardRelease | .hourlyAgeingRecord _ | .marginPlan | .boot _
  | .warmReset _ | .penCompareAndSet _ _ _ _ | .heartbeat | .heartbeatSample | .penRelease | .penNoneTimeout _
  | .recoveryStatus _ | .recoveryBegin _ _ | .recoveryData _ _ _ | .recoveryCommit _ _ | .recoveryAbort _
  | .stage _ _ _ _ | .activate | .cancel | .trialTimeout _ | .getVersion | .getCapabilities
  | .negotiateAlgorithms _ _ | .getDigests | .getCertificate _ _ _ | .challenge _ _ | .getMeasurements _
  | .keyExchange _ | .finish _ | .checkpointTransferComplete _ | .serviceConnectorRemoval | .ideKmRequest _ => true

end Sys2Proof
end

