-- ==== Sys2Proof/Safety.lean ====
section
/-! DEFINITION. The vocabulary of the statements: what a safe run is, which structures serve a command, and what a command
leaves as it was. -/

namespace Sys2Proof.Machine

/-! ### Runs -/

/-- The next step neither faults nor refuses. -/
def State.goesOn (s : State) : Prop := ∃ t, step s = .next t

/-- Every command that waits is well-formed. -/
def State.queueOk (s : State) : Bool := s.pending.all Instr.wf

/-- Every table of the state is in canonical form, the rows of each scratchpad and of each well included: equal contents are
equal data. -/
def State.canonical (s : State) : Prop :=
  Sparse.wf (fun _ => Unit.reset) s.units = true ∧ Sparse.wf (fun _ => Region.reset) s.regions = true ∧
    Sparse.wf (fun _ => Well.reset) s.wells = true ∧ Sparse.wf (fun _ => Service.reset) s.service = true ∧
    Sparse.wf (fun _ => Cluster.reset) s.clusters = true ∧ Sparse.wf (fun _ => Link.reset) s.links = true ∧
    Sparse.wf barReset s.bar0 = true ∧ Sparse.wf (fun _ => (0 : Octet)) s.hostMem = true ∧
    (∀ e ∈ s.units, Sparse.wf (fun _ => Cell.reset) e.2.rows = true) ∧
    ∀ e ∈ s.wells, Sparse.wf (fun _ => (0 : Row)) e.2.rows = true

/-- The invariant of a run: every command that waits is well-formed and every table is in canonical form. -/
def State.Inv (s : State) : Prop := s.queueOk = true ∧ s.canonical

/-- What every operation keeps: the same commands wait, and where every table was canonical every table still is. -/
def State.keeps (s t : State) : Prop := t.pending = s.pending ∧ (s.canonical → t.canonical)

/-! ### Frames -/

/-- Nothing but the logical units differs. -/
def onlyUnits (s t : State) : Prop := t = { s with units := t.units }

/-- Nothing but logical unit `u` differs. -/
def onlyUnit (u : Nat) (s t : State) : Prop := onlyUnits s t ∧ ∀ v, v ≠ u → t.unit v = s.unit v

/-- The units `s` and `t` hold the same rows but for row `q` of unit `u`. -/
def sameRowsBut (u q : Nat) (s t : State) : Prop :=
  ∀ v r, ¬(v = u ∧ r = q) → (t.unit v).cell r = (s.unit v).cell r

/-- Page 1 registers are the same but for those of region `r` whose index `but` names. -/
def sameP1But (r : Nat) (but : Nat → Bool) (s t : State) : Prop :=
  ∀ r' i, ¬(r' = r ∧ but i = true) → t.p1 r' i = s.p1 r' i

/-- An index of a region's event ring (R56). -/
def ringIndex (i : Nat) : Bool := decide (5574 ≤ i ∧ i ≤ 5575) || decide (5632 ≤ i ∧ i ≤ 6143)

/-- The slot of region `r`'s event ring that the next record takes (R56). -/
def State.ringSlot (s : State) (r : Nat) : Nat := field (s.p1 r 5574) 0 7

/-- The event ring of region `r` took a record with this code and subject, from the region, with this detail (R56). -/
def tookRecord (r code subject : Nat) (detail : Word) (s t : State) : Prop :=
  let i := 5632 + 4 * s.ringSlot r
  field (t.p1 r i) 0 12 = code ∧ field (t.p1 r i) 12 14 = subject ∧ field (t.p1 r i) 26 3 = 0 ∧
    field (t.p1 r i) 29 1 = 1 ∧ t.p1 r (i + 1) = s.seq.sched.step.setWidth 36 ∧ t.p1 r (i + 3) = detail ∧
    t.ringSlot r = (s.ringSlot r + 1) % 128

/-! ### Scratchpad (spec/03) -/

/-- Logical unit `u` exists and is served (R61). -/
def State.unitServed (s : State) (u : Nat) : Prop :=
  u < 15360 ∧ s.absent u = false ∧ (s.svc (regionOf u)).withdrawn = false

/-- The bank of the access has no owner and nothing competes for it, and the port has no request there yet (R82). -/
def State.bankFree (s : State) (a : Access) : Prop :=
  let b := (s.unit a.unit).bank (a.offset / 64 / 3072)
  b.owner = none ∧ b.waiting = [] ∧ b.presents a.port a.agent = false

/-- The rows of the opcode table that make one scratchpad access, with their kind (Table SPD-3). -/
def accessRows (a : Access) : List (Instr × AccKind) :=
  [(.plainRead a, .plainRead), (.peek a, .peek), (.take a, .take), (.plainWrite a, .plainWrite), (.put a, .put), (.fill a, .fill),
   (.fillSeal a, .fillSeal), (.tagSeal a, .seal), (.tagTest a, .test)]

/-- The offset suits the view (R69, R70) and lies in the scratchpad (R60). -/
def offsetOk (wide : Bool) (off : Nat) : Prop :=
  off < scratchNonets ∧ if wide then off % 64 = 0 else off % 4 = 0

/-- The access is one that its port makes (Table SPD-5), the last to be presented to its bank in its cycle, at an offset that suits the
port's view (port 6 has the narrow one, R69, R70), of a unit that is not being filled (R52). -/
def State.accessOk (s : State) (a : Access) (k : AccKind) : Prop :=
  portMakes a.port k = true ∧ a.more = false ∧ offsetOk (a.port != 6) a.offset ∧ s.fillDiverts a = false

/-- The latest answer to the requester of access `a` (R76, R94). -/
def answered (t : State) (a : Access) (status : Nat) (data : Row) (nf : Bool) : Prop :=
  ∃ p ∈ (t.unit a.unit).resps, p.port = a.port ∧ p.agent = a.agent ∧ p.offset = a.offset ∧
    p.status = BitVec.ofNat 12 status ∧ p.data = data ∧ p.nf = nf

/-! ### Scribe core (spec/04) -/

/-- The word at a hand's program counter (R98). -/
def State.scriptWord (s : State) (x : Issue) : Word :=
  (s.unit x.unit).script.get 0 ((s.unit x.unit).hand x.hand).pc.toNat

/-- The core issues this hand's next instruction in this ACLK, and it is an `op`: its program counter is in the script
store, the word there is a valid `op`, the fetch finds no error, and the core chooses the hand among those that are ready in this cycle
(R95, R97, R98, R100, R120). -/
def State.issues (s : State) (x : Issue) (op : Op) : Prop :=
  x.unit < 15360 ∧ x.hand < 8 ∧ ((s.unit x.unit).hand x.hand).pc.toNat < 32768 ∧ opOf (s.scriptWord x) = some op ∧
    x.fetch = .clean ∧ ((s.settled x).unit x.unit).chosen x x.hand = true

/-- The hand that a command names. -/
def State.issuer (s : State) (x : Issue) : Hand := (s.unit x.unit).hand x.hand

/-- What an instruction of a hand leaves: every other hand keeps its registers, its address bases and its program counter,
and the unit keeps its script, its rows, its banks, its engines and its plan base; nothing outside the unit differs. -/
def handFrame (x : Issue) (s t : State) : Prop :=
  onlyUnit x.unit s t ∧
    (∀ h, h ≠ x.hand → ((t.unit x.unit).hand h).w = ((s.unit x.unit).hand h).w ∧
      ((t.unit x.unit).hand h).a = ((s.unit x.unit).hand h).a ∧
      ((t.unit x.unit).hand h).pc = ((s.unit x.unit).hand h).pc) ∧
    t.unit x.unit = { s.unit x.unit with hands := (t.unit x.unit).hands, recency := (t.unit x.unit).recency }

/-- The R-format functions of Table SCR-4 with their results (R103, R105). -/
def aluRows (x : Issue) : List (Instr × Op × (Word → Word → Word)) :=
  [(.add x, .add, fun a b => wd (a.toNat + b.toNat)),
   (.sub x, .sub, fun a b => BitVec.ofInt 36 (a.toInt - b.toInt)),
   (.and x, .and, fun a b => a &&& b), (.or x, .or, fun a b => a ||| b), (.xor x, .xor, fun a b => a ^^^ b),
   (.sll x, .sll, fun a b => if b.toNat % 64 < 36 then wd (a.toNat * 2 ^ (b.toNat % 64)) else 0),
   (.srl x, .srl, fun a b => if b.toNat % 64 < 36 then wd (a.toNat / 2 ^ (b.toNat % 64)) else 0),
   (.sra x, .sra, fun a b =>
     if b.toNat % 64 < 36 then BitVec.ofInt 36 (a.toInt / 2 ^ (b.toNat % 64)) else if a.toInt < 0 then -1 else 0),
   (.slt x, .slt, fun a b => if a.toInt < b.toInt then 1 else 0),
   (.sltu x, .sltu, fun a b => if a.toNat < b.toNat then 1 else 0),
   (.min x, .min, fun a b => BitVec.ofInt 36 (min a.toInt b.toInt)),
   (.max x, .max, fun a b => BitVec.ofInt 36 (max a.toInt b.toInt)),
   (.adds x, .adds, fun a b =>
     if 2 ^ 35 ≤ a.toInt + b.toInt then 0o377777777777 else if a.toInt + b.toInt < -(2 ^ 35) then 0o400000000000 else a + b),
   (.subs x, .subs, fun a b =>
     if 2 ^ 35 ≤ a.toInt - b.toInt then 0o377777777777 else if a.toInt - b.toInt < -(2 ^ 35) then 0o400000000000 else a - b),
   (.mul x, .mul, fun a b => wd (a.toNat * b.toNat)),
   (.mulh x, .mulh, fun a b => (BitVec.ofInt 72 (a.toInt * b.toInt)).extractLsb' 36 36),
   (.mulhu x, .mulhu, fun a b => (BitVec.ofNat 72 (a.toNat * b.toNat)).extractLsb' 36 36),
   (.clz x, .clz, fun a _ => if a = 0 then 36 else wd (35 - Nat.log2 a.toNat)),
   (.popc x, .popc, fun a _ => wd ((List.range 36).countP fun i => a.getLsbD i))]

/-- The I-format arithmetic of Table SCR-3 with its results (R102, R105). -/
def immRows (x : Issue) : List (Instr × Op × (Word → BitVec 20 → Word)) :=
  [(.addi x, .addi, fun a m => BitVec.ofInt 36 (a.toInt + m.toInt)),
   (.andi x, .andi, fun a m => a &&& wd m.toNat), (.ori x, .ori, fun a m => a ||| wd m.toNat),
   (.xori x, .xori, fun a m => a ^^^ wd m.toNat),
   (.slli x, .slli, fun a m => if m.toNat < 36 then wd (a.toNat * 2 ^ m.toNat) else 0),
   (.srli x, .srli, fun a m => if m.toNat < 36 then wd (a.toNat / 2 ^ m.toNat) else 0),
   (.srai x, .srai, fun a m =>
     if m.toNat < 36 then BitVec.ofInt 36 (a.toInt / 2 ^ m.toNat) else if a.toInt < 0 then -1 else 0),
   (.slti x, .slti, fun a m => if a.toInt < m.toInt then 1 else 0),
   (.sltiu x, .sltiu, fun a m => if a.toNat < (BitVec.ofInt 36 m.toInt).toNat then 1 else 0)]

/-- The branches of Table SCR-3 with their conditions (R102). -/
def branchRows (x : Issue) : List (Instr × Op × (Word → Word → Prop)) :=
  [(.beq x, .beq, fun a b => a = b), (.bne x, .bne, fun a b => a ≠ b),
   (.blt x, .blt, fun a b => a.toInt < b.toInt), (.bge x, .bge, fun a b => b.toInt ≤ a.toInt),
   (.bltu x, .bltu, fun a b => a.toNat < b.toNat), (.bgeu x, .bgeu, fun a b => b.toNat ≤ a.toNat)]

/-- The M-format instructions with their access kinds, whether they load, and the value they write (Table SCR-3,
R111). -/
def memRows (x : Issue) : List (Instr × Op × AccKind × Bool) :=
  [(.ld x, .ld, .plainRead, true), (.ldp x, .ldp, .peek, true), (.ldt x, .ldt, .take, true),
   (.st x, .st, .plainWrite, false), (.stf x, .stf, .fill, false), (.sts x, .sts, .fillSeal, false),
   (.seal x, .seal, .seal, false), (.tst x, .tst, .test, true), (.tagset x, .tagset, .tagset, false),
   (.twait x, .twait, .peek, false)]

/-- Nothing holds, competes for or is parked at the bank of this offset. -/
def State.bankIdle (s : State) (u off : Nat) : Prop :=
  let b := (s.unit u).bank (off / 64 / 3072)
  b.owner = none ∧ b.waiting = [] ∧ b.parked = []

/-- The same of all the banks of a unit. -/
def State.banksIdle (s : State) (u : Nat) : Prop :=
  ∀ b, ((s.unit u).bank b).owner = none ∧ ((s.unit u).bank b).waiting = [] ∧ ((s.unit u).bank b).parked = []

/-! ### Engines (spec/05 to spec/07) -/

/-- No unit of `u`'s cluster is being filled, and nothing holds, competes for or is parked at their banks. -/
def State.clusterFree (s : State) (u : Nat) : Prop :=
  ∀ v, v / 16 = u / 16 → s.filling v = false ∧
    ∀ b, ((s.unit v).bank b).owner = none ∧ ((s.unit v).bank b).waiting = [] ∧ ((s.unit v).bank b).parked = []

/-- Of units other than `u` only the banks differ. -/
def othersKeep (u : Nat) (s t : State) : Prop := ∀ v, v ≠ u → t.unit v = { s.unit v with banks := (t.unit v).banks }

/-- The row at an offset of a unit's scratchpad. -/
def State.rowOf (s : State) (u off : Nat) : Cell := (s.unit u).cell (off / 64)

/-- The rows of the opcode table that take a matrix array command, by mode (Table MXA-2). -/
def mxaRows (u : Nat) : List (Instr × Nat) :=
  [(.mac u .clean, 0), (.minPlus u .clean, 1), (.maxPlus u .clean, 2), (.l1 u .clean, 3), (.squaredDifference u .clean, 4),
   (.compareCountLess u .clean, 5), (.compareCountLessOrEqual u .clean, 6)]

/-- The oldest queued command `q` of the idle matrix array has a well-formed header (R117) and mode `mode`. -/
def State.mxaReady (s : State) (u mode : Nat) (q : Queued) (rest : List Queued) : Prop :=
  let m := (s.unit u).mxa
  let b := (s.rowOf u q.offset).data
  u < 15360 ∧ m.queue = q :: rest ∧ m.cur = none ∧ m.nxt = none ∧ m.cpls.length < 4 ∧ headerDrops b = false ∧
    headerBad b 0 = false ∧ mxMode b = mode

/-- The unit keeps its hands, its script, its engines but the matrix array, and its ink rows. -/
def keepsButMxa (x y : Unit) : Prop :=
  y.hands = x.hands ∧ y.script = x.script ∧ y.stroke = x.stroke ∧ y.mover = x.mover ∧ y.ink = x.ink ∧
    y.planBase = x.planBase

/-- The oldest queued command `q` of the idle stroke engine has a well-formed header (R117). -/
def State.strokeReady (s : State) (u : Nat) (q : Queued) (rest : List Queued) : Prop :=
  let k := (s.unit u).stroke
  let b := (s.rowOf u q.offset).data
  s.unitServed u ∧ k.queue = q :: rest ∧ k.cur = none ∧ k.cpls.length < 4 ∧ headerDrops b = false ∧ headerBad b 1 = false

/-- The rows that the stride-one streams of a stroke command hold for its next block, by stream, and the map row that
PERM uses there (R154, R155, R168). -/
def State.strokeRows (s : State) (u : Nat) (c : StrokeCmd) : List (Nat × List (Row × Bool)) :=
  ((skIns c.block c.inTab).zipIdx.filter (·.1.one)).map fun (d, k) =>
    (k, (List.range (rowsFor (blockLen (skVl c.block) c.nextBlock) d.fmt)).map fun j =>
      let x := s.rowOf (mate u d.src) (d.off + 64 * (c.nextBlock * fmtRows d.fmt + j))
      (x.data, x.nf))
def State.strokeMap (s : State) (u : Nat) (c : StrokeCmd) : Row :=
  if (skStage c.block 5).any fun w => stOp w == 1 then (s.rowOf u (paramMap c.param + 64 * c.nextBlock)).data else c.map

/-- The lanes of a command's next block at the end of its chain. -/
def State.lanesOut (s : State) (u : Nat) (c : StrokeCmd) : List Lane :=
  (runStages (paramConsts c.param) c.glyph (s.strokeMap u c) (skChain c.block)
    (skLanes c (s.strokeRows u c) c.nextBlock (blockLen (skVl c.block) c.nextBlock))).1

/-- The oldest queued command `q` of the idle mover has operation `op`, with a well-formed header and fields (R117, R195), and the
banks of the cluster are free. -/
def State.moverReady (s : State) (u op : Nat) (q : Queued) (rest : List Queued) : Prop :=
  let m := (s.unit u).mover
  let b := (s.rowOf u q.offset).data
  s.unitServed u ∧ s.clusterFree u ∧ m.queue = q :: rest ∧ m.cur = none ∧ m.cpls = [] ∧ headerDrops b = false ∧ headerBad b 2 = false ∧
    mvOp b = op ∧ mvFieldsBad b = false

/-- The mover takes the command and completes it with a status, a count and a policy count. -/
def moverDid (u : Nat) (q : Queued) (rest : List Queued) (s t : State) (status count met : Nat) : Prop :=
  (t.unit u).mover.queue = rest ∧ (t.unit u).mover.cur = none ∧ (t.unit u).mover.issued = (s.unit u).mover.issued ∧
    ∃ p, (t.unit u).mover.cpls = [p] ∧ p.status = BitVec.ofNat 12 status ∧ p.seq = q.seq ∧ p.w1 = wd count ∧ p.w2 = wd met ∧
      p.offset = cplOffset (s.rowOf u q.offset).data

/-- The row of a key, for a key of the unit's cluster. -/
def State.keyRow (s : State) (k : RowKey) : Cell := (s.unit (waUnit k.addr)).cell (waOffset k.addr / 64)

/-- The mover of unit `u` reads or writes this row without the network (R184). -/
def State.rowNear (s : State) (u : Nat) (k : RowKey) : Prop :=
  s.near u k = true ∧ waInvalid k.addr = [] ∧ s.unitServed (waUnit k.addr)

/-- The element of `esz` nonets at nonet `pos` of a row. -/
def nonets (esz pos : Nat) (r : Row) : Nat := r.toNat / 2 ^ (9 * pos) % 2 ^ (9 * esz)

/-- The values of an index tensor of the cluster, in order (R206, R207). -/
def State.indexValues (s : State) (own : Nat) (index : Operand) : List Int :=
  (List.range (dSize index.desc 0)).map fun i =>
    let p := index.place own [i]
    (BitVec.ofNat 36 (nonets 4 p.2 (s.keyRow p.1).data)).toInt

/-- The choices that the indices make under a policy, in order up to the first that stops the command (none: skipped), how many
met the policy, and whether one stopped the command (R207). -/
def picksOf (policy n : Nat) : List Int → List (Option Nat) × Nat × Bool
  | [] => ([], 0, false)
  | v :: l =>
    match pickIndex policy n v with
    | (none, _) => ([], 0, true)
    | (some x, met) => let (a, m, stop) := picksOf policy n l; (x :: a, m + met.toNat, stop)

/-- The steps of a COPY (R200, R204). -/
def copyOps (b : Row) (own : Nat) (src dst : Operand) : List MvOp :=
  if mvTranspose b then transposeSteps own src dst else copySteps own src dst

/-- The rows that steps read, in order; a row is read again when another has been read since, or at the start of a tile. -/
def sourceReads (held : Option RowKey) : List MvOp → List RowKey
  | [] => []
  | o :: l =>
    match o.source with
    | none => sourceReads held l
    | some (k, _) =>
      if held = some k ∧ (match o with | .load _ _ _ f => f | _ => false) = false then sourceReads held l
      else k :: sourceReads (some k) l

/-- The rows that steps write, in order, one for each run of a row's elements (R202 to R204). -/
def destWrites (run : Option RowKey) : List MvOp → List RowKey
  | [] => []
  | .store (k, _) _ _ first live :: l =>
    let open' := if run = some k ∧ first = false then run else none
    if live = true ∧ open' = none then k :: destWrites (some k) l else destWrites open' l
  | .move (k, _) _ :: l => if run = some k then destWrites run l else k :: destWrites (some k) l
  | _ :: l => destWrites run l

/-- Two places share a nonet. -/
def placesMeet (esz : Nat) (p q : RowKey × Nat) : Prop := p.1 = q.1 ∧ p.2 < q.2 + esz ∧ q.2 < p.2 + esz

/-- A row that a command writes: a tagged one is put to, and is not full unless the command takes it first. -/
def Cell.takesWrite (c : Cell) (put taken : Bool) : Prop := c.tagged = true → put = true ∧ (c.full = false ∨ taken = true)

/-- An operand whose base lies on its elements (R192) and whose format a mover moves (R190). -/
def Operand.aligned (o : Operand) : Prop :=
  dDistributed o.desc = false ∧ o.space = .scratch ∧ [0, 1, 2, 3, 4, 6].contains (dFmt o.desc) = true ∧
    linOf (dBase o.desc) % dEsz o.desc = 0

/-! ### Network (spec/08) -/

/-- The state without message `m`. -/
def State.taken (s : State) (m : Msg) : State := { s with net := s.net.erase m }

/-- Message `m` is the next of its flow (R222), its route leads to its destination (R221), and no abort discards it
(R355). -/
def State.arrives (s : State) (m : Msg) : Prop :=
  msgOk m = true ∧ s.isNext m = true ∧ (s.taken m).unreachable m = false ∧ (s.taken m).abortDrops m = false

/-- Message `m` arrives and is consumed: nothing diverts it (R231). -/
def State.delivered (s : State) (m : Msg) : Prop := s.arrives m ∧ (s.taken m).strayReason m = none

/-- The state once the mover of unit `u` has the answer it asked for, with which the command's row goes on. -/
def State.answeredAsk (s : State) (u : Nat) (w : MoverWait) (status : Nat) (d : Row) (nf : Bool) : State :=
  s.updUnit u fun x => { x with mover := { x.mover with cur := some { w with ans := some (status, d, nf) } } }

/-- The rows of the opcode table that take a sync operation, by sop (Table NET-8). -/
def sopRows (m : Msg) : List (Instr × Nat) :=
  [(.syncRead ⟨m, []⟩, 0), (.syncAdd ⟨m, []⟩, 1), (.syncSet ⟨m, []⟩, 2), (.waitGe ⟨m, []⟩, 3), (.arrive ⟨m, []⟩, 8), (.syncOr ⟨m, []⟩, 16),
   (.syncClear ⟨m, []⟩, 17), (.waitAny ⟨m, []⟩, 18), (.contribute ⟨m, []⟩, 24), (.await ⟨m, []⟩, 25), (.decide ⟨m, []⟩, 26), (.rearm ⟨m, []⟩, 27),
   (.syncInit ⟨m, []⟩, 31)]

/-- The rows of the opcode table that take message `m` as it arrives (Table NET-5), its flits checked without an error on the way; unit
control, ink-line rows and reserved types are taken by the read request's row (log 17). -/
def messageRows (m : Msg) : List (Instr × Bool) :=
  [(.readRequest m [] [], readRowTakes m), (.writeRequest m [] [], m.type == 1),
   (.readResponse m [], m.type == 2), (.writeAcknowledgement m [], m.type == 3),
   (.errorResponse m [], m.type == 4), (.syncReply m [], m.type == 9 && m.dstKind == 0),
   (.syncAcknowledgement m [], m.type == 10), (.eventRecord ⟨m, []⟩, m.type == 12 && m.dstKind == 1),
   (.reductionContribution .endpoint m [], m.type == 16)] ++
    (sopRows m).map fun p => (p.1, m.type == 8 && m.dstKind == 1 && m.sop == p.2)

/-- Those that change word 0 at once: what they make of it from the operand. -/
def valueRows (m : Msg) : List (Instr × Nat × (Word → Word → Word)) :=
  [(.syncRead ⟨m, []⟩, 0, fun v _ => v), (.syncAdd ⟨m, []⟩, 1, fun v x => v + x), (.syncSet ⟨m, []⟩, 2, fun _ x => x),
   (.syncOr ⟨m, []⟩, 16, fun v x => v ||| x), (.syncClear ⟨m, []⟩, 17, fun v x => v &&& ~~~x)]

/-- The sync operation reaches its object at the region controller and has no fault (R234, R237). -/
def State.applies (s : State) (m : Msg) (sop : Nat) : Prop :=
  s.delivered m ∧ m.type = 8 ∧ m.dstKind = 1 ∧ m.sop = sop ∧ m.nf = false ∧ (s.taken m).syncOpFault m.dstRegion m = 0

/-- The object that a sync operation names. -/
def State.object (s : State) (m : Msg) : SyncObj := s.syncObj m.dstRegion (waIndex m.wa)

/-- The reply to a SYNCR, or the acknowledgement of a posted operation (R113, R114, R237). -/
def answers (m : Msg) (status : Nat) (value : Word) (a : Msg) : Prop :=
  a.dstRegion = m.srcRegion ∧ a.dstUnit = m.srcUnit ∧ a.dstKind = m.srcKind ∧ a.vc = 0 ∧ a.tag = m.tag ∧
    a.status = BitVec.ofNat 12 status ∧
    if m.isSyncr then a.type = 9 ∧ a.operand = value else a.type = 10

/-- Nothing but the regions and the messages in flight differs, and of the regions only the sync objects and waiting
operations of region `r`; no object but `o` differs. -/
def onlyObject (r o : Nat) (s t : State) : Prop :=
  t = { s with regions := t.regions, net := t.net } ∧ (∀ k, k ≠ r → t.region k = s.region k) ∧
    t.region r = { s.region r with sync := (t.region r).sync, waiters := (t.region r).waiters } ∧
    ∀ k, k ≠ o → t.syncObj r k = s.syncObj r k

/-! ### Blocks of a shard (spec/10, spec/11) -/

/-- The 96 rows of each block of a shard that the module keeps, in order. -/
def State.shardBlocks (s : State) (shard : Nat) : List (Nat × List Row) :=
  (s.blocksOf shard).map fun b => (b,
    match s.blockPlace shard b with
    | some (r, g) => (List.range 96).map fun i => (s.well r).rows.get 0 (8 * g + i)
    | none => [])

/-- The resident image of unit `u` can be read from its well, the checks of the reads being `errs`, and agrees with its digest (R360). -/
def State.imageGood (s : State) (u : Nat) (errs : Errs) : Prop :=
  ∀ g, s.imageOf u = some g → (s.wellReads (regionOf u) errs 0 (imageRows g)).2.1 = 0 ∧
    Sha.digestOctets (Sha.sha256 (((imageRows g).map fun q => (s.well (regionOf u)).rows.get 0 q).flatMap rowOctets)) = g.digest

/-- The state with the well rows of a checkpoint written. -/
def State.restoredRows (s : State) (ck : Checkpoint) : State :=
  ck.rows.foldl (fun v (r, i, d) => v.updWell r fun x => { x with rows := x.rows.set 0 i d }) s

/-- The wells hold the same rows. -/
def sameWellRows (s t : State) : Prop := ∀ k i, (t.well k).rows.get 0 i = (s.well k).rows.get 0 i

/-! ### Links (spec/12) -/

/-- The rows of the opcode table that take a flit of types 1 to 7 as it arrives, by ftype (Table LNK-4). -/
def flitRows (l : Nat) (f : Flit) : List (Instr × Nat) :=
  [(.wrd l f, 1), (.wrs l f, 2), (.wwr l f, 3), (.wak l f, 4), (.wer l f, 5), (.red l f, 6), (.wgt l f, 7)]

/-- Those that take a system control flit, by cmd (Table LNK-7). -/
def sysRows (l : Nat) (f : Flit) : List (Instr × Nat) :=
  [(.verdictUp l f, 0), (.decideDown l f, 1), (.readyUp l ⟨f, []⟩, 2), (.commitDown l ⟨f, []⟩, 3), (.abortUp l f, 4), (.abortDown l f, 5),
   (.lossUp l f, 6), (.hello l f, 7), (.helloAck l f, 8)]

/-- The others: IDLE, with and without nak, and maintenance flits. -/
def rawRows (l : Nat) (f : Flit) : List Instr :=
  [.idle l f, .nak l f, .pause l f, .resume l f, .laneTestStart l f, .laneTestResult l f true, .setLaneMap l f]

/-- A flit arrives as it was sent, and its header is valid (R316, R317). -/
def flitGood (f : Flit) : Prop := f.errors = [] ∧ headerOk f = true

/-- The link engine accepts flit `f` on link `l` and acts on it: the link is up, the flit is good, the one expected next and
from a member, and neither planned repairs nor an abort hold it back (R319, R333, R355, R365). -/
def State.accepts (s : State) (l : Nat) (f : Flit) : Prop :=
  l < 24 ∧ s.lnkState l = 3 ∧ flitGood f ∧ hf f 8 12 = (s.link l).rxNext.toNat ∧ s.isMember (fSrc f) = true ∧
    (fType f = 8 ∨ (s.holdsFlits = false ∧ s.seq.phase ≠ 7))

/-- A system control flit of this command that is not stale and belongs to the tree in use (R336, R337, R340). -/
def State.acceptsSys (s : State) (l : Nat) (f : Flit) (cmd : Nat) : Prop :=
  s.accepts l f ∧ fType f = 8 ∧ fCmd f = cmd ∧ s.sysStale f = false ∧ (hf f 170 1 = 1 → s.onDeputy = true)

/-- A flit has been sent on a link or waits for it. -/
def State.outbound (t : State) (l : Nat) (g : Flit) : Prop := Out.flit l g ∈ t.out ∨ g ∈ (t.link l).queue

/-- One more event is on its way to the host event rings (R394). -/
def raisedOne (s t : State) (code source subject : Nat) : Prop :=
  ∃ e, t.host.events = s.host.events ++ [e] ∧ e.code = BitVec.ofNat 12 code ∧ e.source = source ∧ e.subject = subject

/-- A code has been reported to the sequencer as a cause to abort the step (R353). -/
def State.reports (t : State) (code : Nat) : Prop := ∃ k ∈ t.seq.reported, k.code = BitVec.ofNat 12 code

/-- A link has left service: its buffer is discarded, event 0x401, and the step aborts (R326); the loss of a peer with it has its own
statement. -/
def leftService (s t : State) (l : Nat) : Prop :=
  t.lnkState l = 5 ∧ (t.link l).buffer = [] ∧ (∃ e ∈ t.host.events, e.code = 0x401 ∧ e.source = srcLink ∧ e.subject = l) ∧
    ((s.link l).helloIn = false ∨ s.isMember (s.lnkPeer l) = false → t.reports 0x401)

/-- A place on the wafer that a message goes to. -/
structure Dest where
  dstRegion : Nat
  dstUnit : Nat
  dstKind : Nat
deriving DecidableEq, Repr

/-- The granule of flit `f` is on its way to a place as a write of the link engine (R332), and is remembered with its shard, block
and kind until the write is answered. -/
def landsBy (s t : State) (f : Flit) (d : Dest) (wa : WAddr) : Prop :=
  ∃ m k, t.net = s.net ++ [m] ∧ t.sys.granules = s.sys.granules ++ [k] ∧ m.type = 1 ∧ m.vc = 1 ∧ m.srcKind = 4 ∧
    m.srcModule.toNat = fSrc f ∧ m.nf = fNf f ∧ m.body = f.payload ∧ m.wa = wa ∧ m.dstRegion = d.dstRegion ∧ m.dstUnit = d.dstUnit ∧ m.dstKind = d.dstKind ∧
    m.tag = BitVec.ofNat 16 k.tag ∧ k.shard = fShard f ∧ k.block = fBlock f ∧ k.gkind = fGkind f

/-- A host write of a 4-byte value, well formed (R453). -/
def hostWrite4 (off : Nat) (v : Reg32) : BarWrite :=
  { writer := .host, offset := off, size := 4, value := v.setWidth 64, fullBe := true }

/-! ### Host engine (spec/14, spec/17) -/

/-- The descriptor of slot `i` of ring `q` has completed with a status and a result (R390, R393). -/
def State.completed (t : State) (q i status result : Nat) : Prop :=
  ∃ e ∈ (t.ring q).taken, e.index = i ∧ e.finished = some (BitVec.ofNat 12 status, false, BitVec.ofNat 64 result)

/-- It has completed in some way. -/
def State.hasCompleted (t : State) (q i : Nat) : Prop := ∃ e ∈ (t.ring q).taken, e.index = i ∧ e.finished.isSome = true

/-- Descriptor `d` of copy ring `q` is to run: an opcode of its own, no fault before the transfer, and no abort (R385, R387,
R389). -/
def State.copyReady (s : State) (q op : Nat) (d : Taken) : Prop :=
  q < 32 ∧ s.ringJob q = false ∧ s.seq.phase ≠ 7 ∧ s.runnable q op = some d ∧
    s.copyFault (copyDesc d.octets) (op == 2) = 0 ∧ s.waUnavailable (copyDesc d.octets).wa = []

/-- It copies one whole well row, packed, and has not begun (R386, R387). -/
def oneWellRow (d : Taken) : Prop :=
  let c := copyDesc d.octets
  d.copied = Copied.none ∧ c.rows = 1 ∧ c.nonets = 64 ∧ c.wide = false ∧ spaceOf c.wa = .well ∧ c.lin 0 % 64 = 0

/-- Job descriptor `d` of ring `q` is in flight, on a module that runs from the feeds (R391, R404). -/
def State.jobReady (s : State) (q op : Nat) (d : Taken) : Prop :=
  q < 32 ∧ s.ringJob q = true ∧ s.runnable q op = some d ∧ s.onService = false

/-- MSI-X vector `v` has sent its message since state `s` (R462). -/
def messageSent (v : Nat) (s t : State) : Prop :=
  ∃ o, t.out = s.out ++ [o] ∧
    o = Out.msix v (BitVec.ofNat 64 ((s.bar (msixReg v 0)).toNat + (s.bar (msixReg v 4)).toNat * 2 ^ 32)) (s.bar (msixReg v 8))

/-! ### Power (spec/15) -/

/-- A cluster's divider follows its floors at the next frame boundary (R415, R416). -/
def State.followsFloors (t : State) (c : Nat) : Prop :=
  (t.cluster c).newDiv = if t.divTarget c = (t.cluster c).div then none else some (t.divTarget c)

/-- The regulator phases of a cluster that work (Table PWR-7). -/
def State.workingPhases (s : State) (c : Nat) : Nat := (List.range 8).countP fun p => (s.bar (pwrCluster c)).getLsbD (8 + p)

/-- The projected slack of cluster `c` at a setting (R425). -/
def State.slackAt (s : State) (c div code : Nat) : Int :=
  let k := s.cluster c
  Config.projectedSlack c div code (min (k.peaks.foldl max k.hourPeak + 10) 95) k.slackMxa k.slackSpd

/-- The first setting, by divider and then by voltage code, that leaves 10 percent of projected slack (R425). -/
def State.firstSetting (s : State) (c div code : Nat) : Prop :=
  (div = 4 ∨ div = 5 ∨ div = 6) ∧ code ≤ 60 ∧ 1000 ≤ s.slackAt c div code ∧
    ∀ d v, 4 ≤ d → v ≤ 60 → (d < div ∨ (d = div ∧ v < code)) → s.slackAt c d v < 1000

/-- A cluster that a margin plan plans for: its region is on and it is not dark. -/
def State.planned (s : State) (c : Nat) : Prop :=
  c < 960 ∧ s.regionState (c / 20) = 2 ∧ field (s.bar (pwrCluster c)) 22 1 = 0

/-! ### Management (spec/16) -/

/-- The latest event on its way to the host event rings has this code (R394). -/
def State.lastEvent (t : State) (code : Nat) : Prop := t.host.events.getLast?.map (·.code) = some (BitVec.ofNat 12 code)

/-- A controller holds the pen, and the other one follows (R430, R431). -/
def State.follows (s : State) (holder me : Nat) : Prop :=
  s.penHolder = holder ∧ (holder = 1 ∨ holder = 2) ∧ me = 3 - holder ∧ s.mcState me = 3

/-- The identity record read for region `r` names the module: its module_bind is the SHA-256 digest of its first 16 octets and the
serial number (R259). -/
def identifies (f : BootFacts) (r : Nat) : Prop :=
  ∃ w : BitVec 512, f.ident.find? (fun e => e.1 == r) = some (r, w, []) ∧
    Sha.digestOctets (Sha.sha256 (leOctets 16 w.toNat ++ leOctets 8 f.serial.toNat)) = leOctets 32 (w.extractLsb' 128 256).toNat

/-- A boot with these facts brings region `r` into service once it has power: no halt of step 1, its die locks, its channels
train and its identity record reads and checks (Table MGT-1, R437). -/
def bootsRegion (f : BootFacts) (r : Nat) : Prop :=
  bootHaltCode f = none ∧ r < 48 ∧ f.lockOk.getLsbD (r / 4) = true ∧ identifies f r ∧
    (∀ e ∈ f.trained, e.1 = r → e.2 = BitVec.allOnes 16)

/-- The flashes once each controller runs the image that it is to run (R449). -/
def State.fallenBack (s : State) (f : BootFacts) : State :=
  (s.bootFallback 1 f.imageA f.activeA).bootFallback 2 f.imageB f.activeB

/-- No field note records a failed channel of the region (R444). -/
def State.noFailedChannel (s : State) (r : Nat) : Prop := ∀ e ∈ s.noted 5, e.take 2 ≠ [2, r]

/-- The handover from state `s` has closed the SPDM connection: no session, and one that had begun is to begin again (R434). -/
def State.closedSpdm (t s : State) : Prop :=
  t.mgmt.spdm.session = false ∧ t.mgmt.spdm.resynch = (s.mgmt.spdm.resynch || s.mgmt.spdm.stage != 0)

/-- The module has booted from state `s`, whose pen was `holder`'s with generation `gen`, with these facts (R305, R430, R436,
Table MGT-1). A controller that holds the pen already and verifies its image keeps it (log 170). -/
def State.booted (s t : State) (f : BootFacts) (holder gen : Nat) : Prop :=
  let u := s.fallenBack f
  let keeps := (holder = 1 ∧ f.imageA = true) ∨ (holder = 2 ∧ f.imageB = true)
  t.ready = true ∧ field (t.bar 0x20010) 0 4 = 8 ∧ field (t.bar 0x20010) 16 1 = 0 ∧
    (keeps → t.penHolder = holder ∧ t.penGen = gen) ∧
    (¬keeps → t.penHolder = (if f.imageA then 1 else 2) ∧ t.penGen = (gen + 1) % 65536) ∧ t.mcState t.penHolder = 4 ∧
    field (t.bar 4) 0 16 = (u.classOf f t.penHolder).toNat ∧ field (t.bar 4) 16 16 = (u.releaseOf f t.penHolder).toNat ∧
    (t.bar 0x20014).toNat = f.serial.toNat % 2 ^ 32 ∧ (t.bar 0x20018).toNat = f.serial.toNat / 2 ^ 32 ∧ field (t.bar 0x2001C) 0 1 = 1 ∧
    (f.imageA = true → f.imageB = true → t.mcState (3 - t.penHolder) = (if u.classOf f 1 = u.classOf f 2 then 3 else 5)) ∧
    (f.imageA = true → f.imageB = false → t.mcState 2 = 6) ∧ (f.imageA = false → f.imageB = true → t.mcState 1 = 6)

/-- A message has left the module, and nothing else has. -/
def sent (s t : State) (o : Out) : Prop := t.out = s.out ++ [o]

/-- A status has answered a recovery command (R438). -/
def recoveryAnswered (s t : State) (w status : Nat) : Prop :=
  sent s t (.mctp (leOctets 2 status)) ∧ (t.recovery w).status = BitVec.ofNat 16 status

/-- The SPDM requests with the stage of the connection that each of them needs (R447). -/
def spdmRow (c : Instr) (stage : Nat) : Prop :=
  (c = .getVersion ∧ stage = 0) ∨ (c = .getCapabilities ∧ stage = 1) ∨ (∃ a h, c = .negotiateAlgorithms a h ∧ stage = 2) ∨
    (c = .getDigests ∧ stage = 3) ∨ (∃ x o n, c = .getCertificate x o n ∧ stage = 3) ∨ (∃ x n, c = .challenge x n ∧ stage = 3) ∨
    (∃ i, c = .getMeasurements i ∧ stage = 3) ∨ (∃ k, c = .keyExchange k ∧ stage = 3) ∨ (∃ g, c = .finish g ∧ stage = 3)

/-- Where PWR_SRC shows feed_a_ok and feed_b_ok (Table PWR-7). -/
def feedBit (src : Source) : Nat := if src = .feedA then 2 else 3

end Sys2Proof.Machine
end

