-- ==== Sys2Proof/Certificates/Slice0/Obligations.lean ====
section
/-! DEFINITION. The statements for the provers, family by family. A statement that gives a command's result concludes that
`exec` answers a next state, under hypotheses on the state and the operands alone. -/

open Sys2Proof Sys2Proof.Machine

/-! ### The step -/

/-- A step takes the command at the front of the queue and runs it with the queue's rest. On an empty queue one root cycle passes, and a
commit or a copy that waits for a bank goes on; where no request competes at a bank and neither waits, nothing else happens. What an
empty queue's step does is the model's choice (log 3). -/
def Obligations.StepRunsFrontCommand : Prop :=
  (∀ (s : State) (c : Instr) (rest : List Instr), s.pending = c :: rest →
    step s = exec c { s with pending := rest }) ∧
  (∀ s : State, s.pending = [] → step s = .next s.idle) ∧
  ∀ s : State, (∀ u b, ((s.unit u).bank b).waiting = []) → s.seq.commitDue = none → s.host.draining = [] →
    s.idle = { s with root := s.root + 1 }


/-! ### Scratchpad (spec/03) -/

/-- Table SPD-4, R75 to R77: what an access that need not wait does to its row and returns, and that it leaves every other
row of every unit as it was. -/
def Obligations.ScratchpadAccessMade : Prop :=
  ∀ (s : State) (a : Access) (i : Instr) (k : AccKind), (i, k) ∈ accessRows a →
    s.unitServed a.unit → s.accessOk a k → s.bankFree a → a.ecc = .clean →
    let w := a.port != 6
    let q := a.offset / 64
    let j := a.offset % 64 / 4
    let c := (s.unit a.unit).cell q
    (c.tagged = true → k ≠ .plainWrite) →
    (c.tagged = true → c.full = false → k ≠ .peek ∧ k ≠ .take) →
    (c.tagged = true → c.full = true → k ≠ .put ∧ k ≠ .fill ∧ k ≠ .fillSeal ∧ k ≠ .seal) →
    ∃ t, exec i s = .next t ∧
      (let c' := (t.unit a.unit).cell q
       (k = .plainRead ∨ k = .peek ∨ k = .test ∨ (c.tagged = false ∧ (k = .take ∨ k = .seal)) → c' = c) ∧
       (c.tagged = true → k = .take → c' = { c with full := false, nf := false }) ∧
       (c.tagged = true → k = .put → c' = { data := a.data, tagged := true, full := true, nf := a.nf }) ∧
       (c.tagged = true → k = .fill → c' = { c with data := setWordOf c.data j (a.data.setWidth 36) }) ∧
       (c.tagged = true → k = .fillSeal →
         c' = { c with data := setWordOf c.data j (a.data.setWidth 36), full := true }) ∧
       (c.tagged = true → k = .seal → c' = { c with full := true }) ∧
       (c.tagged = false → k = .plainWrite ∨ k = .put → w = true → c' = { c with data := a.data, nf := a.nf }) ∧
       (c.tagged = false → k = .plainWrite ∨ k = .fill ∨ k = .fillSeal → w = false →
         c' = { c with data := setWordOf c.data j (a.data.setWidth 36) })) ∧
      (k = .plainRead ∨ k = .peek ∨ k = .take → w = true → answered t a 0 c.data c.nf) ∧
      (k = .plainRead ∨ k = .peek ∨ k = .take → w = false → answered t a 0 ((wordOf c.data j).setWidth 576) c.nf) ∧
      (k = .test ∨ k = .seal →
        answered t a 0 (BitVec.ofNat 576 ((c.full || (c.tagged && k == .seal)).toNat + 2 * c.tagged.toNat)) c.nf) ∧
      (k = .plainWrite ∨ k = .put ∨ k = .fill ∨ k = .fillSeal → answered t a 0 0 false) ∧
      sameRowsBut a.unit q s t ∧ t = { s with units := t.units, net := t.net }

/-- R78, Table SPD-4: a request that must wait is parked at its bank, and every row keeps its data and its tag. -/
def Obligations.ScratchpadRequestParks : Prop :=
  ∀ (s : State) (a : Access) (i : Instr) (k : AccKind), (i, k) ∈ accessRows a →
    s.unitServed a.unit → s.accessOk a k → s.bankFree a → a.ecc.ofMeta = false →
    let c := (s.unit a.unit).cell (a.offset / 64)
    c.tagged = true → (if c.full then k = .put ∨ k = .fill ∨ k = .fillSeal ∨ k = .seal else k = .peek ∨ k = .take) →
    ∃ t, exec i s = .next t ∧
      (∃ r, ((t.unit a.unit).bank (a.offset / 64 / 3072)).parked =
          ((s.unit a.unit).bank (a.offset / 64 / 3072)).parked ++ [r] ∧
        r.kind = k ∧ r.acc = { a with wide := a.port != 6 } ∧ r.slack = slackAt a.deadline (s.aclkOf (clusterOf a.unit))) ∧
      ((t.unit a.unit).bank (a.offset / 64 / 3072)).owner = none ∧
      (∀ v r, (t.unit v).cell r = (s.unit v).cell r) ∧ onlyUnits s t

/-- Table SPD-4, R93, R94: a plain write to a tagged row is rejected with 0x12C: tag_violation_seen is set, and no row
changes. -/
def Obligations.PlainWriteToTaggedRowRejected : Prop :=
  ∀ (s : State) (a : Access), s.unitServed a.unit → s.accessOk a .plainWrite → s.bankFree a → a.port ≠ 6 →
    a.ecc.ofMeta = false → ((s.unit a.unit).cell (a.offset / 64)).tagged = true →
    ∃ t, exec (.plainWrite a) s = .next t ∧ answered t a 0x12C 0 false ∧
      field (t.p1 (regionOf a.unit) (spdIdx a.unit 3)) 3 1 = 1 ∧
      sameP1But (regionOf a.unit) (fun i => i == spdIdx a.unit 3) s t ∧
      ∀ v r, (t.unit v).cell r = (s.unit v).cell r

/-- R90, R91, R93: a read that finds a single-bit error delivers the data, counts the correction, records the row and the
bit and raises 0x022; one that finds an uncorrectable error delivers nothing, changes no row, stops every hand of the
unit, counts, raises 0x221 and reports it for the abort. -/
def Obligations.ScratchpadErrorChecks : Prop :=
  ∀ (s : State) (a : Access), s.unitServed a.unit → s.accessOk a .plainRead → s.bankFree a → a.port < 4 →
    let q := a.offset / 64
    let r := regionOf a.unit
    let c := (s.unit a.unit).cell q
    (∀ bit, a.ecc = .corrected bit → bit < 1024 →
      ∃ t, exec (.plainRead a) s = .next t ∧
        answered t a 0 c.data c.nf ∧
        field (t.p1 r (spdIdx a.unit 0)) 0 24 = min (2 ^ 24 - 1) (field (s.p1 r (spdIdx a.unit 0)) 0 24 + 1) ∧
        field (t.p1 r (spdIdx a.unit 2)) 0 16 = q ∧ field (t.p1 r (spdIdx a.unit 2)) 16 10 = bit ∧
        field (t.p1 r (spdIdx a.unit 2)) 26 1 = 1 ∧ field (t.p1 r (spdIdx a.unit 3)) 0 1 = 1 ∧
        tookRecord r 0x022 a.unit (t.p1 r (spdIdx a.unit 2)) s t ∧
        ∀ v q', (t.unit v).cell q' = (s.unit v).cell q') ∧
    (a.ecc = .uncorrectable →
      ∃ t, exec (.plainRead a) s = .next t ∧ answered t a 0x221 0 false ∧
        field (t.p1 r (spdIdx a.unit 1)) 0 12 = min (2 ^ 12 - 1) (field (s.p1 r (spdIdx a.unit 1)) 0 12 + 1) ∧
        field (t.p1 r (spdIdx a.unit 3)) 1 1 = 1 ∧
        (∀ h, h < 8 → ((t.unit a.unit).hand h).st = .idle) ∧
        tookRecord r 0x221 a.unit (t.p1 r (spdIdx a.unit 1)) s t ∧
        (∃ x ∈ t.seq.reported, x.code = 0x221 ∧ x.unit = a.unit) ∧
        ∀ v q', (t.unit v).cell q' = (s.unit v).cell q')

/-- R78, R79, R86, R92: a woken request of a free bank is served and leaves the parking list; a long wait and a grant held
past its declared length are recorded and raised once; a scrub moves to the bank's next row and changes no row.
A port presents no request of a kind that it does not make (Table SPD-5; what such a request would come to is the model's choice, log
148), and a request of the other view's alignment is rejected without an access (R69, R70, R72). -/
def Obligations.ScratchpadBankEvents : Prop :=
  (∀ (s : State) (u b : Nat), u < 15360 → b < 16 →
      let x := (s.unit u).bank b
      let r := regionOf u
      (∀ (i : Nat) (p : Req), x.parked[i]? = some p → p.woken = true → p.acc.unit = u → p.acc.offset / 64 / 3072 = b →
        p.kind = .plainRead ∨ p.kind = .peek → p.own = false → p.acc.more = false → x.owner = none → x.waiting = [] →
        ((s.unit u).cell (p.acc.offset / 64)).full = true →
        ∃ t, exec (.parkedRequestWake u b i .clean) s = .next t ∧ ((t.unit u).bank b).parked = x.parked.eraseIdx i ∧
          ∃ d, answered t p.acc 0 d ((s.unit u).cell (p.acc.offset / 64)).nf) ∧
      (∀ (i : Nat) (p : Req), x.parked[i]? = some p → p.waited = false →
        (s.aclkOf (clusterOf u) < p.parkedAt + 2 ^ 20 → exec (.tagWaitEvent u b i) s = .next s) ∧
        (p.parkedAt + 2 ^ 20 ≤ s.aclkOf (clusterOf u) →
        ∃ t, exec (.tagWaitEvent u b i) s = .next t ∧ field (t.p1 r (spdIdx u 3)) 5 1 = 1 ∧
          tookRecord r 0x023 u (t.p1 r (spdIdx u 3)) s t ∧
          ((t.unit u).bank b).parked = x.parked.set i { p with waited := true } ∧ exec (.tagWaitEvent u b i) t = .next t)) ∧
      (∀ g, x.owner = some g → g.hold ≠ 0 → g.overheld = false →
        (s.aclkOf (clusterOf u) < g.granted + g.hold → exec (.overhold u b) s = .next s) ∧
        (g.granted + g.hold ≤ s.aclkOf (clusterOf u) →
        ∃ t, exec (.overhold u b) s = .next t ∧
          field (t.p1 r (spdIdx u 1)) 12 16 = min (2 ^ 16 - 1) (field (s.p1 r (spdIdx u 1)) 12 16 + 1) ∧
          field (t.p1 r (spdIdx u 3)) 2 1 = 1 ∧ tookRecord r 0x021 u (t.p1 r (spdIdx u 1)) s t ∧
          ((t.unit u).bank b).owner = some { g with overheld := true } ∧ exec (.overhold u b) t = .next t)) ∧
      (∀ g, x.owner = some g → g.hold = 0 → exec (.overhold u b) s = .next s) ∧
      (s.unitServed u → x.presents 10 1 = false → x.scrubRow < 3072 →
        (x.owner = none → x.waiting = [] →
          ∃ t, exec (.scrub u b .clean) s = .next t ∧ ((t.unit u).bank b).scrubRow = (x.scrubRow + 1) % 3072 ∧
            ((t.unit u).bank b).parked = x.parked ∧ (∀ v q, (t.unit v).cell q = (s.unit v).cell q) ∧ onlyUnit u s t) ∧
        (∀ g, x.owner = some g → g.port ≠ 10 →
          ∃ t, exec (.scrub u b .clean) s = .next t ∧ ((t.unit u).bank b).scrubRow = x.scrubRow ∧
            (∃ p, ((t.unit u).bank b).waiting = x.waiting ++ [p] ∧ p.isScrub = true ∧ p.kind = .plainRead ∧
              p.acc.offset = 64 * (b * 3072 + x.scrubRow) ∧ p.acc.hold = 1 ∧
              p.acc.deadline = BitVec.ofNat 16 (s.aclkOf (clusterOf u) + 4096)) ∧
            (∀ v q, (t.unit v).cell q = (s.unit v).cell q) ∧ onlyUnit u s t))) ∧
  (∀ (s : State) (a : Access) (i : Instr) (k : AccKind), (i, k) ∈ accessRows a → a.unit < 15360 →
      (portMakes a.port k = false → exec i s = .next s) ∧
      (portMakes a.port k = true → a.port ≠ 6 → a.port ≠ 7 → s.unitServed a.unit → a.offset < scratchNonets → a.offset % 64 ≠ 0 →
        ∃ t, exec i s = .next t ∧ answered t a 0x12B 0 false ∧
          field (t.p1 (regionOf a.unit) (spdIdx a.unit 3)) 4 1 = 1 ∧
          sameP1But (regionOf a.unit) (fun i => i == spdIdx a.unit 3) s t ∧ ∀ v r, (t.unit v).cell r = (s.unit v).cell r))

/-! ### Scribe core (spec/04) -/

/-- Tables SCR-3 and SCR-4, R96, R97, R105: the result of every arithmetic instruction goes to rd, unless rd is w0; the other
registers and the address bases stay, and the program counter advances by 1. A register whose value is late is not ready: after 3 ACLK
that of a multiply is, and after 2 ACLK that of RDSR (R97). -/
def Obligations.ArithmeticResult : Prop :=
  (∀ (s : State) (x : Issue) (i : Instr) (op : Op) (f : Word → Word → Word), (i, op, f) ∈ aluRows x → s.issues x op →
    let w := s.scriptWord x
    let y := s.issuer x
    ∃ t, exec i s = .next t ∧ handFrame x s t ∧
      (∀ r, (t.issuer x).reg r = if r = fA w ∧ r ≠ 0 then f (y.reg (fB w)) (y.reg (fC w)) else y.reg r) ∧
      (∀ a, (t.issuer x).base a = y.base a) ∧ (t.issuer x).pc = y.pc + 1 ∧ (t.issuer x).st = .ready) ∧
  (∀ (s : State) (x : Issue) (i : Instr) (op : Op) (f : Word → BitVec 20 → Word), (i, op, f) ∈ immRows x →
    s.issues x op →
    let w := s.scriptWord x
    let y := s.issuer x
    ∃ t, exec i s = .next t ∧ handFrame x s t ∧
      (∀ r, (t.issuer x).reg r = if r = fA w ∧ r ≠ 0 then f (y.reg (fB w)) (imm20 w) else y.reg r) ∧
      (∀ a, (t.issuer x).base a = y.base a) ∧ (t.issuer x).pc = y.pc + 1 ∧ (t.issuer x).st = .ready) ∧
  (∀ (s : State) (x : Issue), s.issues x .lui →
    let w := s.scriptWord x
    let y := s.issuer x
    ∃ t, exec (.lui x) s = .next t ∧ handFrame x s t ∧
      (∀ r, (t.issuer x).reg r = if r = fA w ∧ r ≠ 0 then wd ((imm25 w).toNat * 2 ^ 11) else y.reg r) ∧
      (∀ a, (t.issuer x).base a = y.base a) ∧ (t.issuer x).pc = y.pc + 1 ∧ (t.issuer x).st = .ready) ∧
  (∀ (s : State) (x : Issue) (i : Instr) (op : Op) (n : Nat),
      (i, op, n) ∈ [(Instr.mul x, Op.mul, 3), (.mulh x, .mulh, 3), (.mulhu x, .mulhu, 3), (.rdsr x, .rdsr, 2)] → s.issues x op →
      let w := s.scriptWord x
      let late := s.aclkOf (clusterOf x.unit) + n
      (op = .rdsr → (imm20 w).toNat ≤ 12) → fA w ≠ 0 →
      ∃ t, exec i s = .next t ∧ (t.issuer x).ready.getLsbD (fA w) = false ∧ (fA w, late) ∈ (t.issuer x).due ∧
        (∀ c, late ≤ c → ((t.issuer x).mature c).ready.getLsbD (fA w) = true) ∧
        ∀ c, c < late → ((t.issuer x).mature c).ready.getLsbD (fA w) = false)

/-- Table SCR-3: a branch adds off20 words to the program counter when its condition holds, and else 1; JAL and JALR
link and jump; no other register changes. -/
def Obligations.BranchesAndJumps : Prop :=
  (∀ (s : State) (x : Issue) (i : Instr) (op : Op) (c : Word → Word → Prop), (i, op, c) ∈ branchRows x → s.issues x op →
    let w := s.scriptWord x
    let y := s.issuer x
    ∃ t, exec i s = .next t ∧ handFrame x s t ∧ (∀ r, (t.issuer x).reg r = y.reg r) ∧
      (∀ a, (t.issuer x).base a = y.base a) ∧
      (c (y.reg (fA w)) (y.reg (fB w)) → (t.issuer x).pc = y.pc + BitVec.ofInt 36 (imm20 w).toInt) ∧
      (¬c (y.reg (fA w)) (y.reg (fB w)) → (t.issuer x).pc = y.pc + 1)) ∧
  (∀ (s : State) (x : Issue), s.issues x .jal →
    let w := s.scriptWord x
    let y := s.issuer x
    ∃ t, exec (.jal x) s = .next t ∧ handFrame x s t ∧
      (∀ r, (t.issuer x).reg r = if r = fA w ∧ r ≠ 0 then y.pc + 1 else y.reg r) ∧
      (∀ a, (t.issuer x).base a = y.base a) ∧ (t.issuer x).pc = y.pc + BitVec.ofInt 36 (imm25 w).toInt) ∧
  (∀ (s : State) (x : Issue), s.issues x .jalr →
    let w := s.scriptWord x
    let y := s.issuer x
    ∃ t, exec (.jalr x) s = .next t ∧ handFrame x s t ∧
      (∀ r, (t.issuer x).reg r = if r = fA w ∧ r ≠ 0 then y.pc + 1 else y.reg r) ∧
      (∀ a, (t.issuer x).base a = y.base a) ∧
      (t.issuer x).pc = y.reg (fB w) + BitVec.ofInt 36 (imm20 w).toInt)

/-- Table SCR-3: ASET, AADD and AADDI write one address base, AGET reads one into rd; nothing else of the hand changes
but its program counter. -/
def Obligations.AddressBases : Prop :=
  ∀ (s : State) (x : Issue),
    let w := s.scriptWord x
    let y := s.issuer x
    let writes (op : Op) (i : Instr) (v : WAddr) : Prop := s.issues x op →
      ∃ t, exec i s = .next t ∧ handFrame x s t ∧ (∀ r, (t.issuer x).reg r = y.reg r) ∧
        (∀ a, (t.issuer x).base a = if a = fA w then v else y.base a) ∧ (t.issuer x).pc = y.pc + 1
    writes .aset (.aset x) (BitVec.ofNat 48 ((y.reg (fB w)).toNat % 4096 * 2 ^ 36 + (y.reg (fC w)).toNat)) ∧
    writes .aadd (.aadd x) (y.base (fB w) + BitVec.ofInt 48 (y.reg (fC w)).toInt) ∧
    writes .aaddi (.aaddi x) (y.base (fB w) + BitVec.ofInt 48 (imm20 w).toInt) ∧
    (s.issues x .aget →
      ∃ t, exec (.aget x) s = .next t ∧ handFrame x s t ∧
        (∀ r, (t.issuer x).reg r =
          if r = fA w ∧ r ≠ 0 then wd (if fFn w = 0 then (y.base (fB w)).toNat else (y.base (fB w)).toNat / 2 ^ 36)
          else y.reg r) ∧
        (∀ a, (t.issuer x).base a = y.base a) ∧ (t.issuer x).pc = y.pc + 1)

/-- R76, R77, R107, R111 and Table SCR-5: an M-format instruction whose address it may reach, at a bank that nothing holds,
and that need not wait makes its access: the load gives rd the addressed word (TST the row's state, mode and nf), a
write merges its word, TAGSET sets mode and state, and the hand goes on. -/
def Obligations.NarrowAccessMade : Prop :=
  ∀ (s : State) (x : Issue) (i : Instr) (op : Op) (k : AccKind) (loads : Bool), (i, op, k, loads) ∈ memRows x →
    s.issues x op → x.ecc = .clean →
    let w := s.scriptWord x
    let y := s.issuer x
    let a := memAddr y w
    let v := waUnit a
    let q := waOffset a / 64
    let j := waOffset a % 64 / 4
    let c := (s.unit v).cell q
    s.memFault x.unit k a = 0 → s.unitServed v → s.bankIdle v (waOffset a) → (v ≠ x.unit → s.filling v = false) →
    (c.tagged = true → k ≠ .plainWrite) →
    (c.tagged = true → c.full = false → k ≠ .peek ∧ k ≠ .take) →
    (c.tagged = true → c.full = true → k ≠ .fill ∧ k ≠ .fillSeal ∧ k ≠ .seal) →
    ∃ t, exec i s = .next t ∧ onlyUnits s t ∧ sameRowsBut v q s t ∧
      (let c' := (t.unit v).cell q
       (loads = true ∧ (k = .take → c.tagged = false) ∨ k = .peek → c' = c) ∧
       (k = .take → c.tagged = true → c' = { c with full := false, nf := false }) ∧
       (k = .plainWrite ∨ k = .fill ∨ k = .fillSeal →
         c' = { c with data := setWordOf c.data j (y.reg (fA w)), full := c.full || (c.tagged && k == .fillSeal) }) ∧
       (k = .seal → c' = { c with full := c.full || c.tagged }) ∧
       (k = .tagset → c' = { c with tagged := (wd (fA w)).getLsbD 1, full := (wd (fA w)).getLsbD 0 })) ∧
      (∀ r, (t.issuer x).reg r =
        if loads = true ∧ r = fA w ∧ r ≠ 0 then
          (if k = .test then wd (c.full.toNat + 2 * c.tagged.toNat + 4 * c.nf.toNat) else wordOf c.data j)
        else y.reg r) ∧
      (∀ b, (t.issuer x).base b = y.base b) ∧ (t.issuer x).pc = y.pc + 1 ∧ (t.issuer x).st = .ready ∧
      (t.issuer x).narrow = none

/-- R113, R114, R237: SYNC posts one message and goes on; SYNCR sends one and waits for its reply; each carries sop, the
operand and the unit's role epoch to the region that holds the object. FENCE goes on when nothing is posted, and
else waits where it is. -/
def Obligations.SyncInstructions : Prop :=
  ∀ (s : State) (x : Issue),
    let w := s.scriptWord x
    let y := s.issuer x
    let a := y.base (fAb w) + (BitVec.ofInt 48 (idx12 w).toInt <<< 20)
    let carries (m : Msg) : Prop := m.type = 8 ∧ m.vc = 0 ∧ m.dstKind = 1 ∧ m.dstRegion = waSyncRegion a ∧
      m.srcKind = 0 ∧ m.srcUnit = x.unit ∧ m.wa = a ∧ m.sop = fSop w ∧ m.operand = y.reg (fRs w) ∧
      m.epoch = s.stamp (clusterOf x.unit) x.unit
    (s.issues x .sync → syncFault a = 0 →
      ∃ t m k, exec (.sync x) s = .next t ∧ t.net = s.net ++ [m] ∧ carries m ∧ k < 8 ∧
        (∀ p ∈ y.posted, p.1 ≠ k) ∧ (t.issuer x).posted = y.posted ++ [(k, y.pc)] ∧
        m.tag = BitVec.ofNat 16 (x.hand + 8 * k) ∧ (t.issuer x).pc = y.pc + 1 ∧ (t.issuer x).st = .ready ∧
        (∀ r, (t.issuer x).reg r = y.reg r) ∧ t = { s with units := t.units, net := t.net }) ∧
    (s.issues x .syncr → syncFault a = 0 →
      ∃ t m, exec (.syncr x) s = .next t ∧ t.net = s.net ++ [m] ∧ carries m ∧ m.tag = BitVec.ofNat 16 (x.hand + 64) ∧
        (t.issuer x).reply = some (fA w, y.pc) ∧ (t.issuer x).st = .replyWait ∧ (t.issuer x).pc = y.pc + 1 ∧
        (fA w ≠ 0 → (t.issuer x).ready.getLsbD (fA w) = false) ∧ (∀ r, (t.issuer x).reg r = y.reg r) ∧
        t = { s with units := t.units, net := t.net }) ∧
    (s.issues x .fence →
      ∃ t, exec (.fence x) s = .next t ∧ handFrame x s t ∧ (t.issuer x).pc = (if y.posted = [] then y.pc + 1 else y.pc) ∧
        (∀ r, (t.issuer x).reg r = y.reg r) ∧ (t.issuer x).posted = y.posted ∧
        (t.issuer x).st = if y.posted = [] then .ready else .replyWait)

/-- R115: ISSUE places the block's offset at the end of the engine's queue with the engine's count of commands, which rd
receives and which then counts on; the other two queues stay. -/
def Obligations.IssueQueuesCommand : Prop :=
  ∀ (s : State) (x : Issue), s.issues x .issue →
    let w := s.scriptWord x
    let y := s.issuer x
    let a := y.base (fAb w) + BitVec.ofInt 48 ((imm20 w).toInt * 64)
    let u := s.unit x.unit
    issueFault x.unit a = 0 →
    ∃ t, exec (.issue x) s = .next t ∧ onlyUnit x.unit s t ∧ (t.issuer x).pc = y.pc + 1 ∧
      (let v := t.unit x.unit
       (fEng w = 0 → (∀ r, (t.issuer x).reg r = if r = fA w ∧ r ≠ 0 then u.mxa.issued else y.reg r) ∧
         v.mxa = { u.mxa with queue := u.mxa.queue ++ [⟨waOffset a, u.mxa.issued⟩], issued := u.mxa.issued + 1 } ∧
         v.stroke = u.stroke ∧ v.mover = u.mover) ∧
       (fEng w = 1 → (∀ r, (t.issuer x).reg r = if r = fA w ∧ r ≠ 0 then u.stroke.issued else y.reg r) ∧
         v.stroke =
           { u.stroke with queue := u.stroke.queue ++ [⟨waOffset a, u.stroke.issued⟩], issued := u.stroke.issued + 1 } ∧
         v.mxa = u.mxa ∧ v.mover = u.mover) ∧
       (fEng w = 2 → (∀ r, (t.issuer x).reg r = if r = fA w ∧ r ≠ 0 then u.mover.issued else y.reg r) ∧
         v.mover = { u.mover with queue := u.mover.queue ++ [⟨waOffset a, u.mover.issued⟩], issued := u.mover.issued + 1 } ∧
         v.mxa = u.mxa ∧ v.stroke = u.stroke) ∧
       v.rows = u.rows ∧ v.script = u.script ∧ v.banks = u.banks)

/-- Table SCR-3, R126: HSTART starts an idle hand at rs1, HALT makes the hand idle, RDSR reads and WRSR writes the special
registers of Table SCR-8; PBASE_HI commits both halves of plan_base. -/
def Obligations.HandControlAndSpecialRegisters : Prop :=
  ∀ (s : State) (x : Issue),
    let w := s.scriptWord x
    let y := s.issuer x
    let u := s.unit x.unit
    (s.issues x .hstart → fA w ≠ x.hand → (u.hand (fA w)).st = .idle →
      ∃ t, exec (.hstart x) s = .next t ∧ onlyUnit x.unit s t ∧ (t.issuer x).pc = y.pc + 1 ∧
        ((t.unit x.unit).hand (fA w)).st = .ready ∧ ((t.unit x.unit).hand (fA w)).pc = y.reg (fB w) ∧
        ((t.unit x.unit).hand (fA w)).w = (u.hand (fA w)).w ∧ fA w ∉ (t.unit x.unit).recency.take 1) ∧
    (s.issues x .halt →
      ∃ t, exec (.halt x) s = .next t ∧ handFrame x s t ∧ (t.issuer x).st = .idle ∧ (t.issuer x).posted = y.posted ∧
        (∀ r, (t.issuer x).reg r = y.reg r)) ∧
    (∀ v, s.issues x .rdsr → s.specialReg x.unit x.hand y (imm20 w).toNat = some v →
      ∃ t, exec (.rdsr x) s = .next t ∧ handFrame x s t ∧ (t.issuer x).pc = y.pc + 1 ∧
        ∀ r, (t.issuer x).reg r = if r = fA w ∧ r ≠ 0 then v else y.reg r) ∧
    (s.issues x .wrsr → 5 ≤ (imm20 w).toNat → (imm20 w).toNat ≤ 9 →
      ∃ t, exec (.wrsr x) s = .next t ∧ onlyUnit x.unit s t ∧ (t.issuer x).pc = y.pc + 1 ∧
        (∀ r, (t.issuer x).reg r = y.reg r) ∧
        (let n := (imm20 w).toNat
         let v := y.reg (fB w)
         (t.unit x.unit).pbaseLo = (if n = 5 then v else u.pbaseLo) ∧
         (t.unit x.unit).planBase.toNat =
           (if n = 6 then v.toNat % 2 ^ 28 * 2 ^ 36 + u.pbaseLo.toNat else u.planBase.toNat) ∧
         (t.issuer x).planned = (if n = 7 then v else y.planned) ∧
         (t.issuer x).window.toNat = (if n = 8 then v.toNat % 4096 else y.window.toNat) ∧
         (t.issuer x).prio.toNat = (if n = 9 then v.toNat % 4 else y.prio.toNat)))

/-- R122, R124: PLAN and PLANR set the hand's planned offset and record the slip of this cycle against the plan; the event
0x024 is raised only when slip_last rises above the threshold. -/
def Obligations.PlanCheckpoints : Prop :=
  ∀ (s : State) (x : Issue) (i : Instr) (op : Op), (i, op) = (.plan x, .plan) ∨ (i, op) = (.planr x, .planr) →
    s.issues x op →
    let w := s.scriptWord x
    let y := s.issuer x
    let r := regionOf x.unit
    let p : Word := if op = .plan then y.planned + wd (imm25 w).toNat else y.reg (fB w)
    let lag := (s.cycle x.unit).toNat - ((s.unit x.unit).planBase.toNat + p.toNat)
    let last := min lag (2 ^ 36 - 1)
    let rises := (s.p1 r 4224).toNat < last ∧ (s.p1 r (scrIdx x.unit 1)).toNat ≤ (s.p1 r 4224).toNat
    ∃ t, exec i s = .next t ∧ (t.issuer x).planned = p ∧ (t.issuer x).pc = y.pc + 1 ∧
      (∀ b, (t.issuer x).reg b = y.reg b) ∧ (t.p1 r (scrIdx x.unit 1)).toNat = last ∧
      (t.p1 r (scrIdx x.unit 0)).toNat = max (s.p1 r (scrIdx x.unit 0)).toNat last ∧
      (rises → field (t.p1 r (scrIdx x.unit 2)) 28 1 = 1 ∧ tookRecord r 0x024 x.unit (wd last) s t) ∧
      (¬rises → t.ringSlot r = s.ringSlot r ∧ t.host.events = s.host.events ∧
        t.p1 r (scrIdx x.unit 2) = s.p1 r (scrIdx x.unit 2))

/-- R129, R100, R104: RAISE, and a fetch outside the script store or of a word that is no instruction, halt the hand with
their code, record code, hand and program counter, set fault_seen and hand_halted, raise the code and report it; the registers
stay. -/
def Obligations.HandFaults : Prop :=
  ∀ (s : State) (x : Issue),
    let w := s.scriptWord x
    let y := s.issuer x
    let r := regionOf x.unit
    let faulted (i : Instr) (code : Nat) : Prop := ∃ t, exec i s = .next t ∧ (t.issuer x).st = .halted ∧
      (t.issuer x).pc = y.pc ∧ (∀ b, (t.issuer x).reg b = y.reg b) ∧
      field (t.p1 r (scrIdx x.unit 3)) 0 12 = code ∧ field (t.p1 r (scrIdx x.unit 3)) 12 3 = x.hand ∧
      field (t.p1 r (scrIdx x.unit 3)) 15 15 = y.pc.toNat % 2 ^ 15 ∧ field (t.p1 r (scrIdx x.unit 3)) 30 1 = 1 ∧
      field (t.p1 r (scrIdx x.unit 2)) 30 1 = 1 ∧ field (t.p1 r (scrIdx x.unit 2)) (8 + x.hand) 1 = 1 ∧
      tookRecord r code x.unit (t.p1 r (scrIdx x.unit 3)) s t ∧
      (∃ c ∈ t.seq.reported, c.code = BitVec.ofNat 12 code ∧ c.unit = x.unit ∧ c.hand = x.hand)
    (s.issues x .raise → faulted (.raise x) ((y.reg (fB w)).toNat % 4096)) ∧
    (x.unit < 15360 → x.hand < 8 → ((s.settled x).unit x.unit).chosen x x.hand = true → x.fetch = .clean →
      (32768 ≤ y.pc.toNat → faulted (.invalidInstruction x) 0x132) ∧
      (y.pc.toNat < 32768 → opOf w = none → faulted (.invalidInstruction x) 0x131))

/-- R98: a fetch that corrects a bit counts it, raises 0x026 and the instruction still takes effect; one that finds an
uncorrectable error stops every hand of the unit, raises 0x222, and no register of the hand changes. -/
def Obligations.ScriptStoreChecks : Prop :=
  ∀ (s : State) (x : Issue), s.issues { x with fetch := .clean } .add →
    let w := s.scriptWord x
    let y := s.issuer x
    let r := regionOf x.unit
    (∀ bit, x.fetch = .corrected bit →
      ∃ t, exec (.add x) s = .next t ∧ (t.issuer x).pc = y.pc + 1 ∧
        (fA w ≠ 0 → (t.issuer x).reg (fA w) = y.reg (fB w) + y.reg (fC w)) ∧
        field (t.p1 r (scrIdx x.unit 2)) 16 12 = min (2 ^ 12 - 1) (field (s.p1 r (scrIdx x.unit 2)) 16 12 + 1) ∧
        field (t.p1 r (scrIdx x.unit 2)) 29 1 = 1 ∧ t.ringSlot r = (s.ringSlot r + 1) % 128 ∧
        field (t.p1 r (5632 + 4 * s.ringSlot r)) 0 12 = 0x026) ∧
    (x.fetch = .uncorrectable →
      ∃ t, exec (.add x) s = .next t ∧ (∀ h, h < 8 → ((t.unit x.unit).hand h).st = .idle) ∧
        (∀ b, (t.issuer x).reg b = y.reg b) ∧ tookRecord r 0x222 x.unit 0 s t ∧
        ∃ c ∈ t.seq.reported, c.code = 0x222 ∧ c.unit = x.unit)

/-- R121: when the turn hint of a backed-off plain read of the own scratchpad has expired, the request is presented again
with its own deadline, and at a bank that nothing holds it gives its register the word. -/
def Obligations.BackOffExpires : Prop :=
  ∀ (s : State) (x : Issue) (n : Narrow), x.unit < 15360 → x.hand < 8 → x.ecc = .clean →
    (s.issuer x).st = .backOff → (s.issuer x).narrow = some n → n.unit = x.unit → n.kind = .plainRead → n.rd < 32 →
    s.unitServed n.unit → n.offset < scratchNonets → n.offset % 4 = 0 → s.bankIdle n.unit n.offset →
    ∃ t, exec (.backOffExpiry x) s = .next t ∧ (t.issuer x).st = .ready ∧ (t.issuer x).narrow = none ∧
      (∀ r, (t.issuer x).reg r =
        if r = n.rd ∧ r ≠ 0 then wordOf ((s.unit x.unit).cell (n.offset / 64)).data (n.offset % 64 / 4)
        else (s.issuer x).reg r) ∧
      (∀ v q, (t.unit v).cell q = (s.unit v).cell q) ∧ onlyUnits s t

/-- R99: a load copies image_rows wide rows from image_offset into the script store, word j of row i to word 16i + j, when
all hands are idle and nothing holds the banks; a refused load leaves the store unchanged and raises 0x139. A unit that nothing reaches
does not load (log 56). -/
def Obligations.ScriptLoads : Prop :=
  ∀ (s : State) (u : Nat), u < 15360 → (∀ h, h < 8 → ((s.unit u).hand h).st = .idle) →
    (∀ b, b < 16 → ((s.unit u).bank b).owner = none ∧ ((s.unit u).bank b).waiting = [] ∧ ((s.unit u).bank b).parked = []) →
    s.silent u = false → (s.unit u).loadRows = 0 →
    let r := regionOf u
    let off := field (s.p1 r (ctlIdx u 1)) 0 22
    let n := field (s.p1 r (ctlIdx u 1)) 22 12
    (off % 64 = 0 → 0 < n → n ≤ 2048 → off + 64 * n ≤ scratchNonets →
      ∃ t, exec (.scriptLoad u []) s = .next t ∧ onlyUnit u s t ∧
        (∀ i j, i < n → j < 16 → (t.unit u).script.get 0 (16 * i + j) = wordOf ((s.unit u).cell (off / 64 + i)).data j) ∧
        (∀ k, 16 * n ≤ k → (t.unit u).script.get 0 k = (s.unit u).script.get 0 k) ∧
        ∀ q, (t.unit u).cell q = (s.unit u).cell q) ∧
    (off % 64 ≠ 0 ∨ n = 0 ∨ 2048 < n ∨ scratchNonets < off + 64 * n →
      ∃ t, exec (.scriptLoad u []) s = .next t ∧ t.units = s.units ∧
        tookRecord r 0x139 u (s.p1 r (ctlIdx u 1)) s t)

/-- Tables SCR-8 and SCR-10, R126, R480: go of a unit whose hands are idle clears the registers, slip counters and sequence
numbers and starts hand 0 at start_pc; a stop makes every hand idle and records no fault; rows and script stay. -/
def Obligations.GoAndStop : Prop :=
  ∀ (s : State) (u : Nat), u < 15360 →
    let r := regionOf u
    ((∀ h, h < 8 → ((s.unit u).hand h).st = .idle) → s.silent u = false →
      ∃ t, exec (.go u) s = .next t ∧
        ((t.unit u).hand 0).st = .ready ∧ ((t.unit u).hand 0).pc.toNat = field (s.p1 r (ctlIdx u 0)) 0 15 ∧
        (∀ h, 0 < h → h < 8 → ((t.unit u).hand h).st = .idle) ∧
        (∀ h b, h < 8 → ((t.unit u).hand h).reg b = 0 ∧ ((t.unit u).hand h).base b = 0 ∧
          ((t.unit u).hand h).planned = 0 ∧ ((t.unit u).hand h).window = 16 ∧ ((t.unit u).hand h).prio = 0) ∧
        (t.unit u).planBase = 0 ∧ (t.unit u).mxa.issued = 0 ∧ (t.unit u).stroke.issued = 0 ∧
        (t.unit u).mover.issued = 0 ∧ t.p1 r (scrIdx u 0) = 0 ∧ t.p1 r (scrIdx u 1) = 0 ∧
        field (t.p1 r (scrIdx u 2)) 8 8 = 0 ∧ (t.unit u).rows = (s.unit u).rows ∧ (t.unit u).script = (s.unit u).script ∧ ∀ v, v ≠ u → t.unit v = s.unit v) ∧
    ((∃ h, h < 8 ∧ ((s.unit u).hand h).st ≠ .idle) ∨ s.silent u = true → exec (.go u) s = .next s) ∧
    ∃ t, exec (.unitStop u) s = .next t ∧ onlyUnits s t ∧
      (∀ h, h < 8 → ((t.unit u).hand h).st = .idle ∧ ((t.unit u).hand h).narrow = none ∧
        ∀ b, ((t.unit u).hand h).reg b = ((s.unit u).hand h).reg b) ∧
      (∀ v q, (t.unit v).cell q = (s.unit v).cell q) ∧ ∀ v, (t.unit v).mxa = (s.unit v).mxa

/-- R354: flush empties the queues of all three engines and discards every command not yet completed; the mover keeps its
records and slots, the array its current weight set (log 43), and rows, hands and script stay; the flushed engines' requests and
grants leave the banks of the cluster, and its mover's requests leave the units of other clusters. -/
def Obligations.FlushDiscardsCommands : Prop :=
  ∀ (s : State) (u : Nat), u < 15360 → (∀ v b, ((s.unit v).bank b).waiting = []) →
    ∃ t, exec (.flush u) s = .next t ∧ onlyUnits s t ∧
      (∀ v, v ≠ u → t.unit v = { s.unit v with
        banks := (t.unit v).banks, inbound := (s.unit v).inbound.filter fun m => !mineOf m u }) ∧
      (∀ b, b < 16 → (∀ m ∈ (s.unit u).inbound, mineOf m u = false) →
        (t.unit u).bank b = ((s.unit u).bank b).leave u u [0, 1, 2, 3, 4, 5, 8, 9]) ∧
      (∀ v b, v / 16 ≠ u / 16 → (∃ m ∈ (s.unit v).inbound, mineOf m u = true) → b < 16 →
        (t.unit v).bank b = ((s.unit v).bank b).withdrawMover u) ∧
      (let x := t.unit u
       x.mxa.queue = [] ∧ x.mxa.cur = none ∧ x.mxa.nxt = none ∧ x.mxa.cpls = [] ∧ x.mxa.active = (s.unit u).mxa.active ∧ x.stroke.queue = [] ∧
       x.stroke.cur = none ∧ x.stroke.cpls = [] ∧ x.mover.queue = [] ∧ x.mover.cur = none ∧ x.mover.cpls = [] ∧
       x.mover.records = (s.unit u).mover.records ∧ x.mover.slots = (s.unit u).mover.slots ∧
       x.rows = (s.unit u).rows ∧ x.hands = (s.unit u).hands ∧ x.script = (s.unit u).script)

/-! ### Matrix array (spec/05) -/

/-- R142, R147: the idle array takes the oldest command of its queue when every check passes; it makes no access but the
read of the block, and changes no entry, weight set or row. -/
def Obligations.MatrixArrayTakesCommand : Prop :=
  ∀ (s : State) (u mode : Nat) (i : Instr) (q : Queued) (rest : List Queued), (i, mode) ∈ mxaRows u →
    s.mxaReady u mode q rest →
    let b := (s.rowOf u q.offset).data
    s.unitServed u → s.bankIdle u q.offset → s.mxFaults u b = [] → (mxWMode b = 2 → (s.lineOf u).isSome = true) →
    ∃ t c, exec i s = .next t ∧ onlyUnit u s t ∧ (t.unit u).mxa = { (s.unit u).mxa with queue := rest, cur := some c } ∧
      c.block = b ∧ c.seq = q.seq ∧ c.entered = 0 ∧ c.code = 0 ∧ keepsButMxa (s.unit u) (t.unit u) ∧
      ∀ r, (t.unit u).cell r = (s.unit u).cell r

/-- R142, Table MXA-4: a command that fails a check completes with the lowest code, and the entries, the weight sets and the
scratchpad stay as they were; an offset that is not aligned also sets align_fault_seen (R93). -/
def Obligations.MatrixArrayRejectsCommand : Prop :=
  ∀ (s : State) (u mode : Nat) (i : Instr) (q : Queued) (rest : List Queued), (i, mode) ∈ mxaRows u →
    s.mxaReady u mode q rest →
    let b := (s.rowOf u q.offset).data
    s.unitServed u → s.bankIdle u q.offset → mxWMode b ≠ 2 →
    ∀ code, 0 < code → code ∈ s.mxFaults u b → (∀ c ∈ s.mxFaults u b, code ≤ c) →
    ∃ t p, exec i s = .next t ∧ (∀ v, v ≠ u → t.unit v = s.unit v) ∧ (code ≠ 0x12A → code ≠ 0x12B → onlyUnit u s t) ∧
      (code = 0x12B → field (t.p1 (regionOf u) (spdIdx u 3)) 4 1 = 1) ∧
      (t.unit u).mxa = { (s.unit u).mxa with queue := rest, cpls := (s.unit u).mxa.cpls ++ [p] } ∧
      p.status = BitVec.ofNat 12 code ∧ p.seq = q.seq ∧ p.offset = cplOffset b ∧ p.w1 = 0 ∧ p.w2 = 0 ∧ p.w3 = 0 ∧
      keepsButMxa (s.unit u) (t.unit u) ∧ ∀ r, (t.unit u).cell r = (s.unit u).cell r

/-- R33, R136: the sum that an accumulator of the exact kind holds does not depend on the order in which the terms of a
column arrive, whatever the operands, non-finite ones included. -/
def Obligations.ExactSumIndependentOfOrder : Prop :=
  ∀ (mode : Nat) (acc : Num.Acc) (l l' : List (Num.Val × Num.Val)), l.Perm l' →
    mxColumn mode .exact acc (l.map Prod.fst) (l.map Prod.snd) =
      mxColumn mode .exact acc (l'.map Prod.fst) (l'.map Prod.snd)

/-- R131, R137, R140, R143: activation row i of an ungated command that keeps the weight set enters: column n of entry
acc_base + i takes the terms of the row against the weight rows in ascending K; result rows go to the output queue at
o_offset + 64 x r_out x i; the last row queues the completion. -/
def Obligations.MatrixArrayRowEnters : Prop :=
  ∀ (s : State) (u : Nat) (c : MxaCmd) (set : WSet), u < 15360 → (s.unit u).mxa.cur = some c →
    (s.unit u).mxa.active = some set → (s.unit u).mxa.nxt = none →
    let b := c.block
    let m := (s.unit u).mxa
    let v := mate u (blk b 5 22 4)
    let row := (s.unit v).cell (blk b 5 0 22 / 64 + c.entered)
    let k := kindOf (blk b 5 26 2)
    let old := if mxAccIn b = 0 then Entry.begin (mxKind b) else m.entries.get Entry.reset (mxBase b + c.entered)
    mxWMode b = 0 → mxAccIn b < 2 → mxGate b = false → mxAccOut b = 0 ∨ (s.unit u).mxFull (s.aclkOf (clusterOf u)) = false → c.entered < mxM b →
    s.absent v = false → (s.svc (regionOf v)).withdrawn = false → row.admits k = true →
    s.bankIdle v (blk b 5 0 22 + 64 * c.entered) → (v ≠ u → s.filling v = false) →
    ∃ t, exec (.mxaRowEntry u [] none) s = .next t ∧
      (let m' := (t.unit u).mxa
       let e := m'.entries.get Entry.reset (mxBase b + c.entered)
       e.kind = old.kind ∧ e.started = old.started ∧ e.count = old.count + mxK b ∧
       (∀ n, n < mxK b → e.col n = mxColumn (mxMode b) old.kind (old.col n) (rowVals (mxFmtA b) (mxK b) row.data)
         (set.rows.map fun w => (rowVals set.fmt (mxK b) w).getD n .nan)) ∧
       (∀ j, j ≠ mxBase b + c.entered → m'.entries.get Entry.reset j = m.entries.get Entry.reset j) ∧
       m'.active = some set ∧ m'.queue = m.queue ∧
       (mxAccOut b = 0 → m'.outq = m.outq) ∧
       (mxAccOut b ≠ 0 → m'.outq.map OutRow.offset = m.outq.map OutRow.offset ++
         (List.range (mxResult (s.unit u) b e c.entered).1.length).map fun j =>
           blk b 7 0 22 + 64 * (mxROut b * c.entered + j)) ∧
       (c.entered + 1 < mxM b → ∃ c', m'.cur = some c' ∧ c'.entered = c.entered + 1 ∧ c'.block = b ∧ m'.cpls = m.cpls) ∧
       (c.entered + 1 = mxM b → m'.cur = none ∧ ∃ p, m'.cpls = m.cpls ++ [p] ∧ p.status = 0 ∧ p.seq = c.seq ∧
         p.w1 = wd (mxM b))) ∧
      (t.unit v).cell (blk b 5 0 22 / 64 + c.entered) =
        (if k = .take ∧ row.tagged = true then { row with full := false, nf := false } else row) ∧
      sameRowsBut v (blk b 5 0 22 / 64 + c.entered) s t

/-- R147, R117, R118, R150: the oldest queued result row, unless a completion put is due before it, is written to its offset; the oldest completion of an engine, when no
result row of its command is owed, puts its row and sends its notification; a gated command starts a pass over the run of
full rows once 64 are full or it has waited. -/
def Obligations.ResultsCompletionsAndGate : Prop :=
  (∀ (s : State) (u : Nat) (r : OutRow) (rest : List OutRow), u < 15360 → (s.unit u).mxa.outq = r :: rest →
    s.unitServed u → s.bankIdle u r.offset → (s.unit u).mxPutFirst r.seq = false → (s.rowOf u r.offset).tagged = r.put → (s.rowOf u r.offset).full = false →
    ∃ t, exec (.mxaResultWrite u) s = .next t ∧ onlyUnit u s t ∧ (t.unit u).mxa = { (s.unit u).mxa with outq := rest } ∧
      t.rowOf u r.offset = { data := r.data, tagged := r.put, full := r.put, nf := r.nf } ∧
      sameRowsBut u (r.offset / 64) s t) ∧
  (∀ (s : State) (u e : Nat) (c : Cpl) (rest : List Cpl), u < 15360 → e < 3 → (s.unit u).cplsOf e = c :: rest →
    s.unitServed u → s.bankIdle u c.offset → c.seq ∉ (s.unit u).rowsOwed e → (s.rowOf u c.offset).tagged = true → (s.rowOf u c.offset).full = false →
    ∃ t, exec (.completionPut u e) s = .next t ∧ (t.unit u).cplsOf e = rest ∧
      (let w := t.rowOf u c.offset
       w.full = true ∧ w.nf = c.nf ∧ field (wordOf w.data 0) 0 12 = c.status.toNat ∧
       field (wordOf w.data 0) 12 1 = c.nf.toNat ∧ field (wordOf w.data 0) 16 20 = c.seq.toNat % 2 ^ 20 ∧
       wordOf w.data 1 = c.w1 ∧ wordOf w.data 2 = c.w2 ∧ wordOf w.data 3 = c.w3 ∧
       ∀ j, 4 ≤ j → j < 16 → wordOf w.data j = 0) ∧
      sameRowsBut u (c.offset / 64) s t ∧
      (c.ntf = none → t.net = s.net) ∧
      (∀ o r p, c.ntf = some (o, r, p) → r < 64 → p < 32 → o < 16384 → ∃ m, t.net = s.net ++ [m] ∧ m.dstRegion = r ∧
        m.type = 8 ∧ m.wa = waSync r o ∧ m.operand = 1 ∧ m.sop = p)) ∧
  (∀ (s : State) (u : Nat) (c : MxaCmd) (waited : Bool), u < 15360 → (s.unit u).mxa.cur = some c →
    mxGate c.block = true → c.passLeft = 0 →
    let n := min 64 (mxM c.block - c.entered)
    let run := (s.unit (mate u (blk c.block 5 22 4))).fullRun (blk c.block 5 0 22 / 64 + c.entered) n
    0 < run → run = n ∨ waited = true →
    ∃ t, exec (.fillGatePass u waited) s = .next t ∧ onlyUnit u s t ∧
      (t.unit u).mxa = { (s.unit u).mxa with cur := some { c with passLeft := run, passes := c.passes + 1 } } ∧
      (t.unit u).rows = (s.unit u).rows)

/-! ### Stroke engine (spec/06) -/

/-- R157, R159, R176, R179: the idle engine takes the oldest command of its queue when every check passes and the rows of its
stride-zero streams are usable: it holds the tables, the parameter row and the next block 0, and writes no row. A command
that fails a check completes with the lowest code and executes nothing; an offset that is not aligned also sets align_fault_seen. -/
def Obligations.StrokeTakesCommand : Prop :=
  ∀ (s : State) (u : Nat) (q : Queued) (rest : List Queued), s.strokeReady u q rest → s.clusterFree u →
    let b := (s.rowOf u q.offset).data
    let inT := (s.rowOf u (skStrm b)).data
    let outT := (s.rowOf u (skStrm b + 64)).data
    let par := (s.rowOf u (skParam b)).data
    let g := if skHasGlyph b then (s.rowOf u (skGlyph b)).data else 0
    let k := (s.unit u).stroke
    let rejected (code : Nat) : Prop := ∃ t p, exec (.strokeCommand u []) s = .next t ∧ othersKeep u s t ∧
      (code ≠ 0x12A → code ≠ 0x12B → onlyUnits s t) ∧ (code = 0x12B → field (t.p1 (regionOf u) (spdIdx u 3)) 4 1 = 1) ∧
      (t.unit u).stroke = { k with queue := rest, cpls := k.cpls ++ [p] } ∧ p.status = BitVec.ofNat 12 code ∧
      p.seq = q.seq ∧ p.offset = cplOffset b ∧ p.w1 = 0 ∧ (t.unit u).mxa = (s.unit u).mxa ∧
      (t.unit u).hands = (s.unit u).hands ∧ ∀ r, (t.unit u).cell r = (s.unit u).cell r
    (skEarly b = 0 → s.skFaults u b inT outT par g = [] →
      (∀ d ∈ skIns b inT, d.one = false → ∀ j < rowsFor (min (max d.period 1) 64) d.fmt,
        ((s.unit (mate u d.src)).cell (d.off / 64 + j)).admits (kindOf d.kind) = true) →
      ∃ t c, exec (.strokeCommand u []) s = .next t ∧ onlyUnits s t ∧ othersKeep u s t ∧ c.stage = 2 ∧ c.gotA = [] ∧ c.gotB = [] ∧
        (t.unit u).stroke = { k with queue := rest, cur := some c } ∧ c.block = b ∧ c.seq = q.seq ∧ c.inTab = inT ∧
        c.outTab = outT ∧ c.param = par ∧ c.glyph = g ∧ c.nextBlock = 0 ∧ c.laneRange = false ∧ c.written = 0 ∧
        (t.unit u).mxa = (s.unit u).mxa ∧ (t.unit u).mover = (s.unit u).mover ∧ (t.unit u).hands = (s.unit u).hands ∧
        ∀ r, (t.unit u).cell r = (s.unit u).cell r) ∧
    (∀ code, skEarly b = code → code ≠ 0 → rejected code) ∧
    (∀ code, skEarly b = 0 → 0 < code → code ∈ s.skFaults u b inT outT par g →
      (∀ c ∈ s.skFaults u b inT outT par g, code ≤ c) → rejected code)

/-- R156: outside PERM, what the stages make of a lane depends on no other lane: a block of lanes comes out as each lane alone
does, in the same order, and no lane-range flag is set. -/
def Obligations.LanesAreIndependent : Prop :=
  ∀ (k : List Num.Val) (g m : Row) (ws : List Word) (ls : List Lane), (∀ w ∈ ws, stKind w ≠ 5) →
    (runStages k g m ws ls).2 = false ∧ (runStages k g m ws ls).1.length = ls.length ∧
      ∀ (j : Nat) (l : Lane), ls[j]? = some l → (runStages k g m ws ls).1[j]? = (runStages k g m ws [l]).1[0]?

/-- R154, R166, R176: the next block of a command enters when its rows are usable and the write queue takes its rows. In a chain
without REDUCE, element e of output stream j is rounded once to the stream's format from the slot that PACK names and lies
where R11 puts it; the last block ends the command with VL elements; streams of kind take empty their rows, and no other
row changes. A row of the write queue goes to its offset, a put leaving it full. -/
def Obligations.StrokeBlocksAndRows : Prop :=
  (∀ (s : State) (u : Nat) (c : StrokeCmd), u < 15360 → (s.unit u).stroke.cur = some c →
    c.stage = 2 → c.gotA = [] → c.gotB = [] → s.clusterFree u →
    (s.unit u).stroke.outq.length + skRoom c ≤ 16 → 64 * c.nextBlock < skVl c.block →
    let reads := (s.skBlockReads u c).1 ++ (s.skBlockReads u c).2
    (∀ p ∈ reads, s.unitServed p.unit ∧ ((s.unit p.unit).cell p.row).admits p.kind = true) →
    reads.Pairwise (fun p q => ¬(p.unit = q.unit ∧ p.row = q.row)) →
    let n := blockLen (skVl c.block) c.nextBlock
    ∃ t new, exec (.strokeBlockEntry u [] none) s = .next t ∧
      (t.unit u).stroke.queue = (s.unit u).stroke.queue ∧ (t.unit u).stroke.issued = (s.unit u).stroke.issued ∧
      (t.unit u).stroke.outq = (s.unit u).stroke.outq ++ new ∧ (∀ r ∈ new, r.seq = c.seq) ∧
      (64 * (c.nextBlock + 1) < skVl c.block →
        (t.unit u).stroke.cpls = (s.unit u).stroke.cpls ∧
        ∃ c', (t.unit u).stroke.cur = some c' ∧ c'.block = c.block ∧ c'.nextBlock = c.nextBlock + 1) ∧
      (skVl c.block ≤ 64 * (c.nextBlock + 1) → (t.unit u).stroke.cur = none ∧
        ∃ p, (t.unit u).stroke.cpls = (s.unit u).stroke.cpls ++ [p] ∧ p.status = 0 ∧ p.seq = c.seq ∧
          p.w1 = wd (skVl c.block)) ∧
      (skStage c.block 6 = none → ∀ (j : Nat) (d : Stream), (skOuts c.block c.outTab)[j]? = some d → d.fmt ≤ 4 →
        c.elems.getD j [] = [] → ∀ e < n, ∃ r ∈ new, ∃ l, (s.lanesOut u c)[e]? = some l ∧
          r.offset = d.off + 64 * (c.rowsOut.getD j 0 + e / Num.perRow d.fmt) ∧ r.put = (d.kind == 1) ∧
          Sys2Proof.Machine.elemCode d.fmt r.data (e % Num.perRow d.fmt) =
            (Num.encode d.fmt d.rnd
              ((s.unit u).random d.rnd d.tensor (blk c.param 9 0 28 * 2 ^ 36 + d.idxLo + (64 * c.nextBlock + e)))
              (l.x.getD (stParam ((skStage c.block 8).getD 0) / 4 ^ j % 4) zeroVal)).1) ∧
      (∀ v q, (¬∃ p ∈ reads, p.kind = .take ∧ p.unit = v ∧ p.row = q) →
        (t.unit v).cell q = (s.unit v).cell q)) ∧
  (∀ (s : State) (u : Nat) (r : OutRow) (rest : List OutRow), u < 15360 → (s.unit u).stroke.outq = r :: rest →
    s.unitServed u → s.bankIdle u r.offset → (s.unit u).skPutFirst r.seq = false → (s.rowOf u r.offset).tagged = r.put → (s.rowOf u r.offset).full = false →
    ∃ t, exec (.strokeRowWrite u) s = .next t ∧ onlyUnit u s t ∧ (t.unit u).stroke.outq = rest ∧
      t.rowOf u r.offset = { data := r.data, tagged := r.put, full := r.put, nf := r.nf } ∧
      sameRowsBut u (r.offset / 64) s t)

/-! ### Tensor mover (spec/07) -/

/-- R187, R188, R192 to R194: RECORDS, REGISTER and RELEASE complete. RECORDS loads the records that R188 accepts, none when one of
their places is in use by a registered descriptor, reports how many, and completes with status 0 if it loads them all. REGISTER places
a descriptor that passes every check, its owner table's included, in its slot, and makes the rows of a tagged one tagged and empty; one
that fails leaves slots and rows as they were. RELEASE empties a slot and changes no row. A command whose rows lie outside the
scratchpad, or inside a row, reads none and changes nothing. -/
def Obligations.RecordsAndDescriptors : Prop :=
  (∀ (s : State) (u : Nat) (q : Queued) (rest : List Queued), s.moverReady u 1 q rest →
    let b := (s.rowOf u q.offset).data
    let n := mvNRec b
    let row (i : Nat) : Row := (s.rowOf u (mvRowOffset b + 64 * (i / 4))).data
    let ok (i : Nat) : Prop := i < n ∧ recReservedOk (row i) (i % 4) = true ∧ s.recOk u (row i) (i % 4) = true
    let inUse : Prop := ∃ i < n, (s.unit u).recInUse (mvFirst b + i) = true
    mvRowFaults (mvRowOffset b) ((n + 3) / 4) = [] →
    ((∀ i < n, ok i) → ¬inUse → ∃ t, exec (.records u ⟨[], none⟩) s = .next t ∧ moverDid u q rest s t 0 n 0) ∧
    ∃ t status count, exec (.records u ⟨[], none⟩) s = .next t ∧ moverDid u q rest s t status count 0 ∧
      (t.unit u).mover.slots = (s.unit u).mover.slots ∧
      (∀ i, ok i → ¬inUse → (t.unit u).mover.records.get none (mvFirst b + i) = recOf (row i) (i % 4)) ∧
      (∀ j, inUse ∨ (∀ i, j = mvFirst b + i → ¬ok i) →
        (t.unit u).mover.records.get none j = (s.unit u).mover.records.get none j) ∧
      (inUse → count = 0 ∧ status ≠ 0) ∧ (¬inUse → ((∀ i < n, ok i) ↔ status = 0)) ∧
      ∀ v r, (t.unit v).cell r = (s.unit v).cell r) ∧
  (∀ (s : State) (u : Nat) (q : Queued) (rest : List Queued), s.moverReady u 2 q rest →
    let b := (s.rowOf u q.offset).data
    let d := (s.rowOf u (mvRowOffset b)).data
    let owner := ownerEntries d ((ownerRows d).map fun r => ((s.unit u).cell r).data)
    let faults := s.registerFaults (s.unit u) d (mvSlotA b) owner
    let tagged := !dDistributed d && ((s.unit u).mover.records.get none (dRecord d)).any AllocRec.tagged
    mvRowFaults (mvRowOffset b) 1 = [] →
    (faults = [] → ∃ t, exec (.register u ⟨[], none⟩) s = .next t ∧
      moverDid u q rest s t 0 (if tagged then (dRows d).length else 0) 0 ∧
      (∀ k, (t.unit u).mover.slots.get none k = if k = mvSlotA b then some d else (s.unit u).mover.slots.get none k) ∧
      (t.unit u).mover.records = (s.unit u).mover.records ∧
      (∀ r, (t.unit u).cell r = if tagged = true ∧ r ∈ dRows d then
          { (s.unit u).cell r with tagged := true, full := false } else (s.unit u).cell r) ∧
      ∀ v, v ≠ u → ∀ r, (t.unit v).cell r = (s.unit v).cell r) ∧
    (∀ code, 0 < code → code ∈ faults → (∀ c ∈ faults, code ≤ c) →
      ∃ t, exec (.register u ⟨[], none⟩) s = .next t ∧ moverDid u q rest s t code 0 0 ∧
        (t.unit u).mover.slots = (s.unit u).mover.slots ∧ ∀ v r, (t.unit v).cell r = (s.unit v).cell r)) ∧
  (∀ (s : State) (u : Nat) (q : Queued) (rest : List Queued), s.moverReady u 3 q rest →
    let b := (s.rowOf u q.offset).data
    ∃ t, exec (.release u ⟨[], none⟩) s = .next t ∧ moverDid u q rest s t 0 0 0 ∧
      (∀ k, (t.unit u).mover.slots.get none k = if k = mvSlotA b then none else (s.unit u).mover.slots.get none k) ∧
      (t.unit u).mover.records = (s.unit u).mover.records ∧ ∀ v r, (t.unit v).cell r = (s.unit v).cell r) ∧
  ∀ (s : State) (u op : Nat) (i : Instr) (q : Queued) (rest : List Queued),
    (i, op) ∈ [(Instr.records u ⟨[], none⟩, 1), (.register u ⟨[], none⟩, 2)] → s.moverReady u op q rest →
    let code := (s.unit u).mvEarly (s.rowOf u q.offset).data
    code ≠ 0 → ∃ t, exec i s = .next t ∧ moverDid u q rest s t code 0 0 ∧ (t.unit u).mover.slots = (s.unit u).mover.slots ∧
      (t.unit u).mover.records = (s.unit u).mover.records ∧ ∀ v r, (t.unit v).cell r = (s.unit v).cell r

/-- R196, R199, R200: a COPY within the cluster that passes its checks, takes no row twice and puts none twice, writes destination element n from source element n, or
from the element with its first two indices exchanged under transpose; the last element at an address stands; no row but
those of its operands changes. -/
def Obligations.CopyMovesElements : Prop :=
  ∀ (s : State) (u : Nat) (q : Queued) (rest : List Queued) (src dst : Operand), s.moverReady u 4 q rest →
    let b := (s.rowOf u q.offset).data
    let own := s.ownIndex.toNat
    let n := dCount dst.desc
    let at' (i : Nat) : RowKey × Nat := dst.place own (indicesOf (dSizes dst.desc) i)
    let from' (i : Nat) : RowKey × Nat :=
      src.place own (let l := indicesOf (dSizes dst.desc) i
        if mvTranspose b then swap01 l else l)
    (s.unit u).operand (mvSlotA b) = some src → (s.unit u).operand (mvSlotB b) = some dst →
    src.aligned → dst.aligned → copyFaults b own src dst = [] →
    (∀ i < n, s.rowNear u (from' i).1 ∧ (s.keyRow (from' i).1).admits (kindOf (mvAKind b)) = true) →
    (∀ i < n, s.rowNear u (at' i).1 ∧
      (s.keyRow (at' i).1).takesWrite (mvPut b) (decide (mvAKind b = 2 ∧ ∃ j < n, (from' j).1 = (at' i).1))) →
    (mvAKind b = 2 → (sourceReads none (copyOps b own src dst)).Nodup) →
    (mvPut b = true → (destWrites none (copyOps b own src dst)).Nodup) →
    ∃ t, exec (.copy u [] none) s = .next t ∧ moverDid u q rest s t 0 (min n (2 ^ 36 - 1)) 0 ∧
      (∀ i < n, (∀ j, i < j → j < n → ¬placesMeet (dEsz dst.desc) (at' i) (at' j)) →
        nonets (dEsz dst.desc) (at' i).2 (t.keyRow (at' i).1).data =
          nonets (dEsz dst.desc) (from' i).2 (s.keyRow (from' i).1).data) ∧
      (∀ i < n, ∀ pos < 64, (∀ j < n, (at' j).1 = (at' i).1 → pos < (at' j).2 ∨ (at' j).2 + dEsz dst.desc ≤ pos) →
        nonets 1 pos (t.keyRow (at' i).1).data = nonets 1 pos (s.keyRow (at' i).1).data) ∧
      (∀ v r, (∀ i < n, ¬(waUnit (at' i).1.addr = v ∧ waOffset (at' i).1.addr / 64 = r) ∧
          ¬(mvAKind b = 2 ∧ waUnit (from' i).1.addr = v ∧ waOffset (from' i).1.addr / 64 = r)) →
        (t.unit v).cell r = (s.unit v).cell r)

/-- R206, R207: a GATHER within the cluster that passes its checks writes slice j of the destination, none of whose rows it puts twice, from the table
slice that index j selects under the policy, or with zero nonets where the policy skips it; it stops before the first index that the
error policy rejects, with 0x168, and counts the elements written and the indices that met their policy. -/
def Obligations.GatherCopiesSlices : Prop :=
  ∀ (s : State) (u : Nat) (q : Queued) (rest : List Queued) (table index dst : Operand), s.moverReady u 5 q rest →
    let b := (s.rowOf u q.offset).data
    let own := s.ownIndex.toNat
    let values := s.indexValues own index
    let picked := picksOf (dPolicy index.desc) (dOuter table.desc) values
    let picks := picked.1
    let met := picked.2.1
    let stopped := picked.2.2
    let zs := (dSizes dst.desc).dropLast
    let n := dSlice dst.desc
    let at' (j e : Nat) : RowKey × Nat := dst.place own (indicesOf zs e ++ [j])
    let from' (i e : Nat) : RowKey × Nat := table.place own (indicesOf zs e ++ [i])
    (s.unit u).operand (mvSlotA b) = some table → (s.unit u).operand (mvSlotB b) = some index →
    (s.unit u).operand (mvSlotC b) = some dst → table.aligned → index.aligned → dst.aligned →
    gatherFaults b own u table index dst = [] →
    (∀ i < dSize index.desc 0, s.rowNear u (index.place own [i]).1) →
    (∀ i < dOuter table.desc, ∀ e < n,
      s.rowNear u (from' i e).1 ∧ (s.keyRow (from' i e).1).admits (kindOf (mvAKind b)) = true) →
    (∀ j < dOuter dst.desc, ∀ e < n, s.rowNear u (at' j e).1 ∧ (s.keyRow (at' j e).1).takesWrite (mvPut b) false) →
    (mvPut b = true →
      (destWrites none (picks.zipIdx.flatMap fun p => sliceSteps own false table dst p.2 p.1)).Nodup) →
    ∃ t, exec (.gather u [] none) s = .next t ∧
      moverDid u q rest s t (if stopped then 0x168 else 0) (min (picks.length * n) (2 ^ 36 - 1)) (min met (2 ^ 24 - 1)) ∧
      (∀ (j : Nat) (p : Option Nat) (e : Nat), picks[j]? = some p → e < n →
        (∀ j' e', j' < picks.length → e' < n → (j', e') ≠ (j, e) → ¬placesMeet (dEsz dst.desc) (at' j e) (at' j' e')) →
        nonets (dEsz dst.desc) (at' j e).2 (t.keyRow (at' j e).1).data =
          match p with
          | some i => nonets (dEsz dst.desc) (from' i e).2 (s.keyRow (from' i e).1).data
          | none => 0) ∧
      (∀ v r, (∀ j < dOuter dst.desc, ∀ e < n,
          ¬(waUnit (at' j e).1.addr = v ∧ waOffset (at' j e).1.addr / 64 = r)) →
        (t.unit v).cell r = (s.unit v).cell r)

/-- R207, R208: a SCATTER within the cluster on a table whose elements lie at different places leaves in element e of
table slice i what the updates whose index selects i make of it, applied in index order by s_op; it counts the updates
applied; a stopped command stops as a GATHER does. -/
def Obligations.ScatterAppliesUpdatesInOrder : Prop :=
  ∀ (s : State) (u : Nat) (q : Queued) (rest : List Queued) (src index table : Operand), s.moverReady u 6 q rest →
    let b := (s.rowOf u q.offset).data
    let own := s.ownIndex.toNat
    let values := s.indexValues own index
    let picked := picksOf (dPolicy index.desc) (dOuter table.desc) values
    let picks := picked.1
    let met := picked.2.1
    let stopped := picked.2.2
    let zs := (dSizes table.desc).dropLast
    let n := dSlice table.desc
    let esz := dEsz table.desc
    let at' (i e : Nat) : RowKey × Nat := table.place own (indicesOf zs e ++ [i])
    let from' (j e : Nat) : RowKey × Nat := src.place own (indicesOf zs e ++ [j])
    (s.unit u).operand (mvSlotA b) = some src → (s.unit u).operand (mvSlotB b) = some index →
    (s.unit u).operand (mvSlotC b) = some table → src.aligned → index.aligned → table.aligned →
    scatterFaults b own u src index table = [] →
    (∀ i < dSize index.desc 0, s.rowNear u (index.place own [i]).1) →
    (∀ j < dOuter src.desc, ∀ e < n,
      s.rowNear u (from' j e).1 ∧ (s.keyRow (from' j e).1).admits (kindOf (mvAKind b)) = true) →
    (∀ i < dOuter table.desc, ∀ e < n, s.rowNear u (at' i e).1 ∧
      (s.keyRow (at' i e).1).admits (if table.tagged then .take else .plainRead) = true ∧
      (table.tagged = false → (s.keyRow (at' i e).1).tagged = false)) →
    (∀ i < dOuter table.desc, ∀ e < n, ∀ i' < dOuter table.desc, ∀ e' < n, (i, e) ≠ (i', e') →
      ¬placesMeet esz (at' i e) (at' i' e')) →
    ∃ t, exec (.scatter u [] none) s = .next t ∧
      moverDid u q rest s t (if stopped then 0x168 else 0) ((picks.filter (·.isSome)).length) (min met (2 ^ 24 - 1)) ∧
      (∀ i < dOuter table.desc, ∀ e < n,
        nonets esz (at' i e).2 (t.keyRow (at' i e).1).data =
          (picks.zipIdx.filter (·.1 == some i)).foldl
            (fun v p => (scatterElem (dFmt table.desc) (mvSOp b) v
              (nonets esz (from' p.2 e).2 (s.keyRow (from' p.2 e).1).data)).1)
            (nonets esz (at' i e).2 (s.keyRow (at' i e).1).data)) ∧
      (∀ v r, (∀ i < dOuter table.desc, ∀ e < n,
          ¬(waUnit (at' i e).1.addr = v ∧ waOffset (at' i e).1.addr / 64 = r)) →
        (t.unit v).cell r = (s.unit v).cell r)


/-! ### Network, synchronisation and reduction (spec/08) -/

/-- R52, R185, R225, R252: a read request that nothing rejects is answered with the row of the well, the word of the register or
sync object, the nonets of the host window, or the scratchpad row, which a take empties; a write request writes its rows and is
acknowledged; one that an address fault rejects gets an error response with the lowest code and changes nothing. A request of
another unit's mover is served with the deadline and the hold that it carries. -/
def Obligations.RequestsAreServed : Prop :=
  ∀ (s : State) (m : Msg), s.delivered m →
    let s0 := s.taken m
    let r := m.dstRegion
    let answered (t : State) (type status : Nat) (nf : Bool) (body : List Row) : Prop :=
      ∃ a, t.net = s0.net ++ [a] ∧ a.type = type ∧ a.vc = 2 ∧ a.tag = m.tag ∧ a.status = BitVec.ofNat 12 status ∧
        a.dstRegion = m.srcRegion ∧ a.dstUnit = m.srcUnit ∧ a.dstKind = m.srcKind ∧ a.body = body ∧ a.nf = nf
    let q := 8 * waGranule m.wa + waNonet m.wa / 64
    let c := s.rowOf m.dstUnit (waOffset m.wa)
    let comes (i : Instr) : Prop := i = (if m.type = 0 then .readRequest m [] [] else .writeRequest m [] []) ∨
      ∃ m0 hold deadline, m = { m0 with hold := hold, deadline := deadline } ∧ i = .moverInboundRequest ⟨m0, []⟩ hold deadline .clean
    (m.dstKind = 2 → m.type = 0 → s0.gatewayFault r m.wa 1 = 0 →
      ∃ t, exec (.readRequest m [] []) s = .next t ∧ answered t 2 0 false [(s.well r).rows.get 0 q] ∧
        t.units = s.units ∧ ∀ k i, (t.well k).rows.get 0 i = (s.well k).rows.get 0 i) ∧
    (m.dstKind = 2 → m.type = 1 → s0.gatewayFault r m.wa m.body.length = 0 →
      ∃ t, exec (.writeRequest m [] []) s = .next t ∧ answered t 3 0 false [] ∧
        t = { s with net := t.net, wells := t.wells } ∧
        ∀ k i, (t.well k).rows.get 0 i =
          if k = r ∧ q ≤ i ∧ i < q + m.body.length then m.body.getD (i - q) 0 else (s.well k).rows.get 0 i) ∧
    (m.dstKind = 1 → m.type = 0 → s0.waFault m.wa = 0 → spaceOf m.wa = .sync → waSyncRegion m.wa = r →
      ∃ t, exec (.readRequest m [] []) s = .next t ∧ answered t 2 0 false [(s.readSync m.wa).setWidth 576] ∧
        t = { s with net := t.net, service := t.service }) ∧
    (m.dstKind = 3 → m.type = 0 → s0.windowFault m.wa (windowNonets m) false = 0 →
      ∃ t, exec (.readRequest m [] []) s = .next t ∧ answered t 2 0 false [s.windowRead m.wa (windowNonets m)] ∧
        t = { s with net := t.net }) ∧
    (m.dstKind = 3 → m.type = 1 → s0.windowFault m.wa (windowNonets m) true = 0 →
      ∃ t, exec (.writeRequest m [] []) s = .next t ∧ answered t 3 0 false [] ∧ t = { s with net := t.net, hostMem := t.hostMem }) ∧
    (∀ code, m.dstKind = 2 → m.type = 0 → s0.gatewayFault r m.wa 1 = code → code ≠ 0 →
      ∃ t, exec (.readRequest m [] []) s = .next t ∧ answered t 4 code false [] ∧ t = { s with net := t.net }) ∧
    (∀ (i : Instr) (code : Nat), comes i → m.dstKind = 0 → m.type < 2 → s0.inboundFault m = code → code ≠ 0 →
      ∃ t, exec i s = .next t ∧ answered t 4 code false [] ∧ t = { s with net := t.net, regions := t.regions }) ∧
    (∀ (i : Instr), comes i → m.dstKind = 0 → m.type = 0 →
      m.akind < 3 → s0.inboundFault m = 0 → s.bankIdle m.dstUnit (waOffset m.wa) → (s.unit m.dstUnit).inbound = [] →
      c.admits (kindOf m.akind) = true →
      ∃ t, exec i s = .next t ∧ answered t 2 0 c.nf [c.data] ∧
        t.rowOf m.dstUnit (waOffset m.wa) = (if m.akind = 2 ∧ c.tagged = true then { c with full := false, nf := false } else c) ∧
        sameRowsBut m.dstUnit (waOffset m.wa / 64) s t) ∧
    (∀ (i : Instr) (d : Row), comes i → m.dstKind = 0 → m.type = 1 →
      m.body = [d] → s0.inboundFault m = 0 → s.bankIdle m.dstUnit (waOffset m.wa) → (s.unit m.dstUnit).inbound = [] →
      (c.tagged = true → m.akind = 1 ∧ c.full = false) →
      ∃ t, exec i s = .next t ∧ answered t 3 0 false [] ∧
        t.rowOf m.dstUnit (waOffset m.wa) = { c with data := d, nf := m.nf, full := c.full || c.tagged } ∧
        sameRowsBut m.dstUnit (waOffset m.wa / 64) s t) ∧
    (∀ (i : Instr), comes i → m.dstKind = 0 → m.type = 1 →
      m.body.length ≠ 1 → m.done = 0 → s0.inboundFault m = 0 →
      (∀ j < m.body.length, s.bankIdle m.dstUnit (waOffset m.wa + 64 * j) ∧
        let c := s.rowOf m.dstUnit (waOffset m.wa + 64 * j)
        (c.tagged = true → m.akind = 1 ∧ c.full = false)) →
      ∃ t, exec i s = .next t ∧ answered t 3 0 false [] ∧
        ∀ v k, let c := (s.unit v).cell k
          (t.unit v).cell k =
            if v = m.dstUnit ∧ waOffset m.wa / 64 ≤ k ∧ k < waOffset m.wa / 64 + m.body.length then
              { c with data := m.body.getD (k - waOffset m.wa / 64) 0, nf := m.nf, full := c.full || c.tagged }
            else c)

/-- R225, R231, R232: a message that is diverted is not consumed: while the stray queue of the region that received it has room,
its head flit with the reason becomes the newest entry and is counted, and the message does nothing else; with the queue full
the drop is counted and the queue stays. Removing the oldest entry moves the others up by one. -/
def Obligations.StrayQueue : Prop :=
  (∀ (s : State) (m : Msg) (i : Instr) (reason : Nat), (i, true) ∈ messageRows m → s.arrives m →
    (s.taken m).strayReason m = some reason →
    let r := m.dstRegion
    let w := s.p1 r 5568
    let n := field w 24 9
    ∃ t, exec i s = .next t ∧ t.net = s.net.erase m ∧ t.units = s.units ∧ t.wells = s.wells ∧
      (∀ o, t.syncObj r o = s.syncObj r o) ∧
      (n < 256 → (∀ k < 16, t.p1 r (10240 + 16 * n + k) = (headWords m reason).getD k 0) ∧
        (∀ e < n, ∀ k < 16, t.p1 r (10240 + 16 * e + k) = s.p1 r (10240 + 16 * e + k)) ∧
        field (t.p1 r 5568) 24 9 = n + 1 ∧ field (t.p1 r 5568) 33 1 = 1 ∧
        field (t.p1 r 5568) 0 24 = min (field w 0 24 + 1) (2 ^ 24 - 1) ∧ t.p1 r 5569 = s.p1 r 5569) ∧
      (256 ≤ n → (∀ e < 256, ∀ k < 16, t.p1 r (10240 + 16 * e + k) = s.p1 r (10240 + 16 * e + k)) ∧
        field (t.p1 r 5568) 0 34 = field w 0 34 ∧ field (t.p1 r 5568) 34 1 = 1 ∧
        field (t.p1 r 5569) 0 16 = min (field (s.p1 r 5569) 0 16 + 1) 65535)) ∧
  (∀ (s : State) (r : Nat), r < 48 → 0 < field (s.p1 r 5568) 24 9 → field (s.p1 r 5568) 24 9 ≤ 256 →
    let n := field (s.p1 r 5568) 24 9
    ∃ t, exec (.strayPop r) s = .next t ∧ field (t.p1 r 5568) 24 9 = n - 1 ∧
      (∀ e, e + 1 < n → ∀ k < 16, t.p1 r (10240 + 16 * e + k) = s.p1 r (10240 + 16 * (e + 1) + k)) ∧
      (∀ k < 16, t.p1 r (10240 + 16 * (n - 1) + k) = 0) ∧ t = { s with regions := t.regions } ∧
      ∀ r' i, ¬(r' = r ∧ (i = 5568 ∨ 10240 ≤ i ∧ i < 14336)) → t.p1 r' i = s.p1 r' i)

/-- R100, R114, R198, R213, R237, R481: a read response gives the waiting mover command the row that it asked for, and the command
goes on; one that answers nothing asked changes nothing. The last write acknowledgement completes a command that makes no
further access, with the elements of that write, and one of a command that goes on counts them; an error response to it completes
the command with its status. A sync reply writes rd and lets the hand go on; an acknowledgement frees the slot of its posted SYNC,
and the last one takes the hand that FENCE holds to the next instruction. -/
def Obligations.AnswersReachRequesters : Prop :=
  (∀ (s : State) (m : Msg) (w : MoverWait) (k : RowKey) (i : Instr) (status : Nat) (row : Row) (nf : Bool),
    (i = .readResponse m [] ∧ m.type = 2 ∧ status = 0 ∧ row = m.body.headD 0 ∧ nf = m.nf) ∨
      (i = .errorResponse m [] ∧ m.type = 4 ∧ status = m.status.toNat ∧ row = 0 ∧ nf = false ∧
        ∀ p ∈ w.acks, p.1 = m.tag.toNat → p.2.2 ≠ none) →
    s.delivered m → m.dstKind = 0 → (s.unit m.dstUnit).mover.cur = some w → w.ended = none → w.ask = some (m.tag.toNat, k) →
    w.ans = none → ∃ t, exec i s = .next t ∧ t = (s.taken m).answeredAsk m.dstUnit w status row nf) ∧
  (∀ (s : State) (m : Msg), s.delivered m → m.type = 2 → m.dstKind = 0 →
    (∀ w, (s.unit m.dstUnit).mover.cur = some w → ∀ k, w.ask ≠ some (m.tag.toNat, k)) →
    ∃ t, exec (.readResponse m []) s = .next t ∧ t = s.taken m) ∧
  (∀ (s : State) (m : Msg) (w : MoverWait) (n : Nat), s.delivered m → m.type = 3 → m.dstKind = 0 → s.clusterFree m.dstUnit →
    (s.unit m.dstUnit).mover.cur = some w → w.acks = [(m.tag.toNat, n, none)] →
    ∃ t, exec (.writeAcknowledgement m []) s = .next t ∧ t.net = s.net.erase m ∧ (∀ v r, (t.unit v).cell r = (s.unit v).cell r) ∧
      let v := { w with acks := [], elems := w.elems + n }
      let x := (s.unit m.dstUnit).mover
      (w.ended = none → (t.unit m.dstUnit).mover = { x with cur := some v }) ∧
      (∀ st, w.ended = some st →
        (t.unit m.dstUnit).mover = { x with cur := none, cpls := x.cpls ++ [s.mvCpl m.dstUnit v st] })) ∧
  (∀ (s : State) (m : Msg) (w : MoverWait) (n : Nat), s.delivered m → m.type = 4 → m.dstKind = 0 → s.clusterFree m.dstUnit →
    m.status ≠ 0 → (s.unit m.dstUnit).mover.cur = some w → w.acks = [(m.tag.toNat, n, none)] →
    ∃ t p, exec (.errorResponse m []) s = .next t ∧
      (t.unit m.dstUnit).mover = { (s.unit m.dstUnit).mover with cur := none, cpls := (s.unit m.dstUnit).mover.cpls ++ [p] } ∧
      p.status = m.status ∧ p.w1 = wd (min w.elems (2 ^ 36 - 1)) ∧ p.w2 = wd (min w.met (2 ^ 24 - 1)) ∧ p.nf = w.nf ∧
      t.net = s.net.erase m ∧ ∀ v r, (t.unit v).cell r = (s.unit v).cell r) ∧
  (∀ (s : State) (m : Msg) (rd : Nat) (pc : Word), s.delivered m → m.type = 9 → m.dstKind = 0 → m.status = 0 →
    ((s.unit m.dstUnit).hand (m.tag.toNat % 8)).reply = some (rd, pc) →
    ∃ t, exec (.syncReply m []) s = .next t ∧
      (let y := (s.unit m.dstUnit).hand (m.tag.toNat % 8)
       let y' := (t.unit m.dstUnit).hand (m.tag.toNat % 8)
       (∀ k, y'.reg k = if k = rd ∧ k ≠ 0 then m.operand else y.reg k) ∧ y'.st = .ready ∧ y'.reply = none ∧ y'.pc = y.pc ∧
         y'.posted = y.posted ∧ y'.a = y.a) ∧
      (∀ h, h ≠ m.tag.toNat % 8 → (t.unit m.dstUnit).hand h = (s.unit m.dstUnit).hand h) ∧
      t = { s with net := s.net.erase m, units := t.units }) ∧
  (∀ (s : State) (m : Msg) (k : Nat) (pc : Word), s.delivered m → m.type = 10 → m.dstKind = 0 → m.status = 0 →
    m.tag.toNat = m.tag.toNat % 8 + 8 * k → k < 8 →
    (let y := (s.unit m.dstUnit).hand (m.tag.toNat % 8)
     y.posted.find? (fun p => p.1 == k) = some (k, pc) →
     ∃ t, exec (.syncAcknowledgement m []) s = .next t ∧
      (let y' := (t.unit m.dstUnit).hand (m.tag.toNat % 8)
       y'.posted = y.posted.filter (fun p => p.1 != k) ∧ (∀ r, y'.reg r = y.reg r) ∧
       (y'.st, y'.pc) = if y.st = .replyWait ∧ y.reply = none ∧ y'.posted = [] then (HandState.ready, y.pc + 1) else (y.st, y.pc)) ∧
      t = { s with net := s.net.erase m, units := t.units }))

/-- R233, R234, Table NET-8: READ, ADD, SET, OR and CLEAR give word 0 its new value and answer with the previous one; REARM
zeroes word 0 and the contributions, and sets a target other than 0; INIT sets type, target and link_mode and zeroes the
other words. Each operation but INIT counts in word 3, and no other object changes. -/
def Obligations.SyncValuesAndObjects : Prop :=
  (∀ (s : State) (m : Msg) (i : Instr) (sop : Nat) (f : Word → Word → Word), (i, sop, f) ∈ valueRows m → s.applies m sop →
    let o := s.object m
    ∃ t a rest, exec i s = .next t ∧ t.net = s.net.erase m ++ a :: rest ∧ answers m 0 o.w0 a ∧
      (t.object m).w0 = f o.w0 m.operand ∧ (t.object m).w1 = o.w1 ∧ (t.object m).received = o.received ∧
      (t.object m).w3.toNat = min (o.w3.toNat + 1) (2 ^ 36 - 1) ∧ onlyObject m.dstRegion (waIndex m.wa) s t) ∧
  (∀ (s : State) (m : Msg), s.applies m 27 →
    let o := s.object m
    ∃ t a, exec (.rearm ⟨m, []⟩) s = .next t ∧ t.net = s.net.erase m ++ [a] ∧ answers m 0 o.w0 a ∧ (t.object m).w0 = 0 ∧
      (t.object m).received = 0 ∧ (t.object m).type = o.type ∧ (t.object m).linkMode = o.linkMode ∧
      (t.object m).target = (if field m.operand 0 24 = 0 then o.target else field m.operand 0 24) ∧
      onlyObject m.dstRegion (waIndex m.wa) s t) ∧
  (∀ (s : State) (m : Msg), s.applies m 31 →
    ∃ t a, exec (.syncInit ⟨m, []⟩) s = .next t ∧ t.net = s.net.erase m ++ [a] ∧ answers m 0 (s.object m).w0 a ∧
      (t.object m).w0 = 0 ∧ (t.object m).w2 = 0 ∧ (t.object m).w3 = 0 ∧ (t.object m).type = field m.operand 0 3 ∧
      (t.object m).target = field m.operand 3 24 ∧ (t.object m).linkMode = m.operand.getLsbD 27 ∧
      onlyObject m.dstRegion (waIndex m.wa) s t)

/-- R234, R235, R236: WAIT_GE, WAIT_ANY and AWAIT answer at once when their condition holds, and are else held without an
answer; the arrival that reaches the target starts the next generation and answers every waiter of the object; the
contribution that reaches the target of an object without link_mode decides it; DECIDE decides. A sync operation with a
fault changes no object, and its status goes back with its answer. -/
def Obligations.SyncWaitsAndDecisions : Prop :=
  (∀ (s : State) (m : Msg) (i : Instr) (sop : Nat), (i, sop) ∈ [(.waitGe ⟨m, []⟩, 3), (.waitAny ⟨m, []⟩, 18), (.await ⟨m, []⟩, 25)] →
    s.applies m sop →
    let o := s.object m
    let holds : Prop := (sop = 3 → m.operand.toInt ≤ o.w0.toInt) ∧ (sop = 18 → o.w0 &&& m.operand ≠ 0) ∧
      (sop = 25 → o.decided = true)
    ∃ t, exec i s = .next t ∧ (t.object m).w0 = o.w0 ∧ (t.object m).w1 = o.w1 ∧ onlyObject m.dstRegion (waIndex m.wa) s t ∧
      (holds → (t.region m.dstRegion).waiters = (s.region m.dstRegion).waiters ∧
        ∃ a, t.net = s.net.erase m ++ [a] ∧ answers m 0 o.w0 a) ∧
      (¬holds → t.net = s.net.erase m ∧ (t.region m.dstRegion).waiters = (s.region m.dstRegion).waiters ++
        [{ object := waIndex m.wa, sop := sop, operand := m.operand, msg := m }])) ∧
  (∀ (s : State) (m : Msg), s.applies m 8 →
    let o := s.object m
    let mine := (s.region m.dstRegion).waiters.filter fun w => w.object == waIndex m.wa
    ∃ t, exec (.arrive ⟨m, []⟩) s = .next t ∧ (t.object m).w1 = o.w1 ∧ onlyObject m.dstRegion (waIndex m.wa) s t ∧
      (o.arrivals + 1 = o.target → (t.object m).arrivals = 0 ∧ (t.object m).generation = (o.generation + 1) % 4096 ∧
        (t.region m.dstRegion).waiters = (s.region m.dstRegion).waiters.filter (fun w => w.object != waIndex m.wa) ∧
        ∃ a l, t.net = s.net.erase m ++ a :: l ∧ answers m 0 (wd ((o.generation + 1) % 4096)) a ∧ l.length = mine.length ∧
          ∀ (k : Nat) (w : Waiter) (b : Msg), mine[k]? = some w → l[k]? = some b →
            answers w.msg 0 (wd ((o.generation + 1) % 4096)) b) ∧
      (o.arrivals + 1 ≠ o.target → o.arrivals + 1 < 2 ^ 24 → (t.object m).arrivals = o.arrivals + 1 ∧
        (t.object m).generation = o.generation ∧
        if m.isSyncr then t.net = s.net.erase m ∧ (t.region m.dstRegion).waiters = (s.region m.dstRegion).waiters ++
            [{ object := waIndex m.wa, sop := 8, operand := m.operand, msg := m }]
          else (t.region m.dstRegion).waiters = (s.region m.dstRegion).waiters ∧
            ∃ a, t.net = s.net.erase m ++ [a] ∧ answers m 0 0 a)) ∧
  (∀ (s : State) (m : Msg), s.applies m 24 →
    let o := s.object m
    o.linkMode = false → o.decided = false → o.received < o.target →
    ∃ t, exec (.contribute ⟨m, []⟩) s = .next t ∧ onlyObject m.dstRegion (waIndex m.wa) s t ∧
      (t.object m).verdict = max o.verdict (field m.operand 0 1) ∧ (t.object m).received = o.received + 1 ∧
      ((t.object m).decided = true ↔ o.received + 1 = o.target) ∧
      (o.received + 1 = o.target → ∃ a l, t.net = s.net.erase m ++ a :: l ∧ answers m 0 (t.object m).w0 a ∧
        ∀ w ∈ (t.region m.dstRegion).waiters, w.object = waIndex m.wa → w.sop ≠ 24 ∧ w.sop ≠ 25)) ∧
  (∀ (s : State) (m : Msg), s.applies m 26 → ¬(m.dstRegion = s.verdictRegion ∧ waIndex m.wa = objVerdict) →
    ∃ t a l, exec (.decide ⟨m, []⟩) s = .next t ∧ onlyObject m.dstRegion (waIndex m.wa) s t ∧
      (t.object m).verdict = field m.operand 0 1 ∧ (t.object m).decided = true ∧
      t.net = s.net.erase m ++ a :: l ∧ answers m 0 (t.object m).w0 a ∧
      ∀ w ∈ (t.region m.dstRegion).waiters, w.object = waIndex m.wa → w.sop ≠ 24 ∧ w.sop ≠ 25) ∧
  (∀ (s : State) (m : Msg) (i : Instr) (sop code : Nat), (i, sop) ∈ sopRows m → s.delivered m → m.type = 8 →
    m.dstKind = 1 → m.sop = sop → m.nf = false → (s.taken m).syncOpFault m.dstRegion m = code → code ≠ 0 →
    ∃ t a, exec i s = .next t ∧ t.net = s.net.erase m ++ [a] ∧ answers m code 0 a ∧ t = { s with net := t.net })

/-- R239, R240: the combination of two sibling nodes covers both ranges and is a canonical node again, and two canonical nodes
of one tree whose ranges meet lie one within the other: where nodes form never changes which nodes form. -/
def Obligations.CombinedNodesAreCanonical : Prop :=
  (∀ a b : Msg, mayCombine a b = true → nodeOk (rdLo a) (rdHi a) (rdC a) = true → nodeOk (rdLo b) (rdHi b) (rdC b) = true →
    let c := combine a b
    rdLo c = rdLo a ∧ rdHi c = rdHi b ∧ rdC c = rdC a ∧ rdTensor c = rdTensor a ∧ rdBlock c = rdBlock a ∧
      nodeOk (rdLo c) (rdHi c) (rdC c) = true) ∧
  (∀ lo hi lo' hi' c : Nat, nodeOk lo hi c = true → nodeOk lo' hi' c = true → lo ≤ hi' → lo' ≤ hi →
    (lo ≤ lo' ∧ hi' ≤ hi) ∨ (lo' ≤ lo ∧ hi ≤ hi'))

/-- R220, R241, R242: a contribution that passes a router of its path and has no sibling in the combine buffer there is held while
the buffer has room, and leaves when its window ends; one with a sibling there is combined with it. At an endpoint a contribution
that its plan entry takes and that completes no block is held, combined with its siblings; one that completes a block of a
write-mode entry is written where the entry says: to the region's own well at once, and the block counts; to another well or to a
scratchpad by requests, the block counting with the last answer. One that fails a check is a reduction error and frees the slots that
its entry holds for the block. A unit's contribution that is not in flight is sent with the rows that the unit's scratchpad holds (the
model's choice, log 149), and one with a value that is not finite counts as non-finite (log 159). -/
def Obligations.ReductionContributions : Prop :=
  (∀ (s : State) (p : RedPlace) (m : Msg) (flits : Errs),
    exec (.reductionContribution p m flits) s = exec (.reductionContribution p (s.contribution m) flits) s ∧
      (m.srcKind = 0 → m ∉ s.net →
        (s.contribution m).body = (List.range m.body.length).map fun i => ((s.unit m.srcUnit).cell (m.tag.toNat + i)).data) ∧
      (m.srcKind ≠ 0 ∨ m ∈ s.net → s.contribution m = m)) ∧
  (∀ (s : State) (r place : Nat) (m : Msg) (p : RedPlace) (site : Site),
    (p = .regionRouter r ∧ site = .regionRouter r ∧ place = 20 ∧ r < 48) ∨
      (∃ c, p = .clusterRouter c ∧ site = .router c ∧ c < 960 ∧ r = c / 20 ∧ place = c % 20) →
    s.contribution m = m → msgOk m = true → s.isNext m = true → m.type = 16 → s.seq.phase ≠ 7 →
    (portAt site (s.path m)).isSome = true → s.unreachable m = false →
    let here := (s.region r).combine.filter fun n => n.place == place
    let used := (here.map fun n => flitsOf n.msg).sum
    (field (s.p1 r 5571) 0 8 ≠ 0 → (∀ n ∈ here, mayCombine n.msg m = false ∧ mayCombine m n.msg = false) → used + flitsOf m ≤ 32 →
      ∃ t, exec (.reductionContribution p m []) s = .next t ∧ t.net = s.net.erase m ∧
        (t.region r).combine = (s.region r).combine ++ [{ place := place, entry := 0, msg := m }] ∧
        t = { s with net := t.net, regions := t.regions }) ∧
    (here = [] → field (s.p1 r 5571) 0 8 = 0 ∨ 32 < flitsOf m →
      ∃ t, exec (.reductionContribution p m []) s = .next t ∧ t.net = s.net.erase m ++ [m] ∧
        (t.region r).combine = (s.region r).combine ∧ t = { s with net := t.net, regions := t.regions }) ∧
    (∀ n, here = [n] → mayCombine n.msg m = true → field (s.p1 r 5571) 0 8 ≠ 0 → flitsOf (combine n.msg m) ≤ 32 →
      ∃ t, exec (.reductionContribution p m []) s = .next t ∧ t.net = s.net.erase m ∧
        (t.region r).combine = ((s.region r).combine.filter fun k => k.place != place) ++
          [{ place := place, entry := 0, msg := combine n.msg m }])) ∧
  (∀ (s : State) (r place i : Nat) (p : RedPlace) (n : Node),
    (p = .regionRouter r ∧ place = 20 ∧ r < 48) ∨ (∃ c, p = .clusterRouter c ∧ c < 960 ∧ r = c / 20 ∧ place = c % 20) →
    ((s.region r).combine.filter fun k => k.place == place)[i]? = some n →
    ∃ t, exec (.holdWindowEnd r p i) s = .next t ∧ t.net = s.net ++ [n.msg] ∧
      (t.region r).combine = (s.region r).combine.erase n ∧ t = { s with net := t.net, regions := t.regions }) ∧
  (∀ (s : State) (m : Msg), s.delivered m → s.contribution m = m → m.type = 16 → m.dstKind = 2 → (s.region m.dstRegion).heldIn = [] →
    let r := m.dstRegion
    let s0 := s.taken m
    let k := contributionNf m
    (∀ e, s0.planEntry r k = some e → s0.planCheck r k = 0 → (s.region r).nodes.length < 4096 →
      let held := (s.region r).nodes.filter fun n => n.ofBlock (some e) k
      let others := (s.region r).nodes.filter fun n => !n.ofBlock (some e) k
      let c := (absorb held.length held k).2
      let left := (absorb held.length held k).1
      ((left.map fun n => rdHi n.msg + 1 - rdLo n.msg).sum + (rdHi c + 1 - rdLo c) ≠ s.planHi r e + 1 - s.planLo r e →
        ∃ t, exec (.reductionContribution .endpoint m []) s = .next t ∧ t.net = s.net.erase m ∧
          (t.region r).nodes = others ++ (left ++ [{ place := 21, entry := e, msg := c }]) ∧
          field (t.p1 r 5573) 23 13 = (t.region r).nodes.length ∧ t.units = s.units ∧ t.wells = s.wells) ∧
      (left = [] → rdHi c + 1 - rdLo c = s.planHi r e + 1 - s.planLo r e → s.planForward r e = false →
        let dest := waOf (s.planWord r e 4) (s.planWord r e 5)
        let lin := linOf dest + 64 * s.planRows r e * rdBlock c
        waInvalid dest = [] → (∀ j < c.body.length, s0.blockFault dest (lin + 64 * j) = 0) →
        (spaceOf dest = .well → waWellRegion dest = r →
          ∃ t, exec (.reductionContribution .endpoint m []) s = .next t ∧
            (∀ g i, (t.well g).rows.get 0 i =
              if g = r ∧ lin / 64 ≤ i ∧ i < lin / 64 + c.body.length then c.body.getD (i - lin / 64) 0
              else (s.well g).rows.get 0 i) ∧
            (t.region r).nodes = others ∧
            field (t.p1 r 15369) 0 24 = min (field (s.p1 r 15369) 0 24 + 1) (2 ^ 24 - 1) ∧ t.units = s.units) ∧
        (spaceOf dest = .scratch ∨ (spaceOf dest = .well ∧ waWellRegion dest ≠ r) → c.body ≠ [] →
          ∃ t w, exec (.reductionContribution .endpoint m []) s = .next t ∧
            (t.region r).nodes = others ∧ (t.region r).writing = (s.region r).writing ++ [w] ∧ w.entry = e ∧ w.msg = c ∧
            w.tags.length = c.body.length ∧ t.net.length = (s.net.erase m).length + c.body.length ∧
            (∀ (j : Nat) (b : Row) (g : Nat), c.body[j]? = some b → w.tags[j]? = some g →
              ∃ a ∈ t.net, a.type = 1 ∧ a.body = [b] ∧ a.nf = c.nf ∧ a.tag = BitVec.ofNat 16 g ∧
                a.wa = (rowOfLin (structOf dest) (lin + 64 * j)).1) ∧
            t.p1 r 15369 = s.p1 r 15369 ∧ t.units = s.units ∧ t.wells = s.wells))) ∧
    (∀ code, s0.planCheck r k = code → code ≠ 0 →
      ∃ t, exec (.reductionContribution .endpoint m []) s = .next t ∧
        (t.region r).nodes = (s.region r).nodes.filter (fun n => !n.ofBlock (s0.planEntry r k) k) ∧
        field (t.p1 r 5573) 0 12 = code ∧ field (t.p1 r 5573) 21 2 = 3 ∧
        (∀ e, s0.planEntry r k = some e → field (t.p1 r 5573) 12 9 = e) ∧
        t.seq.reported = s.seq.reported ++ [causeOf code 16383 none] ∧ t.units = s.units ∧ t.wells = s.wells)) ∧
  (∀ (s : State) (m : Msg) (w : BlockWrite) (l l' : List BlockWrite), s.delivered m → m.type = 3 → m.dstKind = 2 →
    let r := m.dstRegion
    (s.region r).writing = l ++ w :: l' → (∀ k ∈ l, m.tag.toNat ∉ k.tags) → w ∉ l → w.tags = [m.tag.toNat] →
    ∃ t, exec (.writeAcknowledgement m []) s = .next t ∧ (t.region r).writing = l ++ l' ∧
      field (t.p1 r 15369) 0 24 = min (field (s.p1 r 15369) 0 24 + 1) (2 ^ 24 - 1) ∧ t.units = s.units ∧ t.net = s.net.erase m)

/-- R56, R228, R230: an epoch update sets the unit's epoch in the one table it reaches; once every table
holds it, and the unit's ink line is idle, the row map takes the column that waited, and nothing of the unit waits any longer; an event record and a
dry nib each raise their event at the region. -/
def Obligations.EpochsAndRegionEvents : Prop :=
  (∀ (s : State) (table : Nat) (m : Msg), table < 1008 → m.type = 11 → field (m.word 7) 0 14 < 15360 →
    let u := field (m.word 7) 0 14
    BitVec.ofNat 12 (field (m.word 7) 14 12) = s.epoch u →
    (∃ w ∈ (s.region (regionOf u)).epochWaits, w.unit = u) →
    msgOk m = true → ∃ t, exec (.epochUpdate table ⟨m, []⟩) s = .next t ∧
      (table < 48 → (t.region table).epochs.get 0 u = s.epoch u ∧
        ∀ r v, ¬(r = table ∧ v = u) → (t.region r).epochs.get 0 v = (s.region r).epochs.get 0 v) ∧
      (48 ≤ table → t.stamp (table - 48) u = s.epoch u ∧
        ∀ c v, c < 960 → v < 15360 → ¬(c = table - 48 ∧ v = u) → t.stamp c v = s.stamp c v) ∧
      t = { s with regions := t.regions, service := t.service, net := s.net.erase m } ∧ ∀ r i, t.p1 r i = s.p1 r i) ∧
  (∀ (s : State) (u : Nat) (w : EpochWait), u < 15360 →
    (s.region (regionOf u)).epochWaits.filter (fun w => w.unit == u) = [w] →
    (s.epochEverywhere u = false ∨ s.onBusyLine u = true → exec (.epochUpdateAcknowledged u) s = .next s) ∧
    (s.epochEverywhere u = true → s.onBusyLine u = false → w.unit = u → w.rowMap = rowMapIndex u → w.spare = none → w.column < 7 → s.seq.phase < 6 →
    ∃ t, exec (.epochUpdateAcknowledged u) s = .next t ∧ t.column u = w.column ∧
      (∀ v < 15360, v ≠ u → t.column v = s.column v) ∧
      (t.region (regionOf u)).epochWaits = (s.region (regionOf u)).epochWaits.filter (fun w => w.unit != u) ∧
      t.units = s.units ∧ t.net = s.net)) ∧
  (∀ (s : State) (m : Msg), s.delivered m → m.type = 12 → m.dstKind = 1 →
    let code := field (m.word 7) 0 12
    ∃ t detail, exec (.eventRecord ⟨m, []⟩) s = .next t ∧
      tookRecord m.dstRegion code (if m.srcKind = 0 then m.srcUnit % 16384 else 16383) detail s t ∧ t.net = s.net.erase m ∧
      t.units = s.units ∧
      (abortCode code = true → t.seq.reported = s.seq.reported ++ [causeOf code 16383 none]) ∧
      (abortCode code = false → t.seq = s.seq)) ∧
  (∀ (s : State) (r place port vc : Nat), r < 48 → place < 43 → port < 8 → vc < 4 →
    ∃ t, exec (.dryNib r place port vc) s = .next t ∧
      (let w := t.p1 r 5570
       field w 0 6 = place ∧ field w 6 3 = port ∧ field w 9 2 = vc ∧ field w 23 2 = 3 ∧
       field w 11 12 = min (field (s.p1 r 5570) 11 12 + 1) 4095 ∧ tookRecord r 0x031 16383 w s t) ∧
      t.units = s.units ∧ t.net = s.net ∧ t.seq = s.seq)

/-! ### Wells and ink lines (spec/09) -/

/-- R250, R251, R256, R257, R258: a refresh changes no data and no register; a patrol read advances its pseudo-channel by one
burst, and counts a pass when every pseudo-channel has ended one; a corrected codeword is counted and raised with its burst, an
uncorrectable one besides starts the targeted scrub and is reported to the sequencer; a scrub that passes ends with no row
repaired, a fourth that passes within 1,000 operating hours counting as one that does not (R351), and one that does not repairs the failing rows, or withdraws the region when the channel has failed. -/
def Obligations.WellUpkeep : Prop :=
  (∀ (s : State) (r c p b : Nat), r < 48 → c < 16 → p < 2 → b < 32 →
    ∃ t, exec (.refresh r c p b) s = .next t ∧ t = { s with wells := t.wells } ∧
      ∀ k, t.well k = { s.well k with refreshed := (t.well k).refreshed }) ∧
  (∀ (s : State) (r c p : Nat) (errs : Errs), r < 48 → c < 16 → p < 2 →
    let n := (s.well r).patrol.get 0 (2 * c + p)
    let b := n % 2 ^ 25 * 32 + p * 16 + c
    ∃ t, exec (.patrolScrub r c p errs) s = .next t ∧
      (∀ k, (t.well r).patrol.get 0 k = if k = 2 * c + p then n + 1 else (s.well r).patrol.get 0 k) ∧
      (∀ k i, (t.well k).rows.get 0 i = (s.well k).rows.get 0 i) ∧ t.units = s.units ∧ t.net = s.net ∧
      t.p1 r 14387 = (if (s.well r).passes < (t.well r).passes then bumpField (s.p1 r 14387) 0 36 else s.p1 r 14387) ∧
      (∀ k bit, k < 8 → errs = [(k, .corrected bit)] → (∀ v ∈ (s.well r).verify, v.1 ≠ b) →
        field (t.p1 r (chanIdx c 0)) 0 24 = min (field (s.p1 r (chanIdx c 0)) 0 24 + 1) (2 ^ 24 - 1) ∧
        field (t.p1 r (chanIdx c 0)) 32 1 = 1 ∧ t.p1 r 14384 = wd (b % 2 ^ 30 + 2 ^ 31) ∧
        tookRecord r 0x027 c (wd (b % 2 ^ 30 + 2 ^ 31)) s t) ∧
      (∀ k, k < 8 → errs = [(k, .uncorrectable)] → (∀ v ∈ (s.well r).verify, v.1 ≠ b) →
        field (t.p1 r (chanIdx c 0)) 24 8 = min (field (s.p1 r (chanIdx c 0)) 24 8 + 1) 255 ∧
        field (t.p1 r (chanIdx c 0)) 33 1 = 1 ∧ field (t.p1 r (chanIdx c 1)) 11 1 = 1 ∧
        t.p1 r 14384 = wd (b % 2 ^ 30 + 2 ^ 30 + 2 ^ 31) ∧ tookRecord r 0x227 c (wd (b % 2 ^ 30 + 2 ^ 30 + 2 ^ 31)) s t ∧
        ∃ k, t.seq.reported = s.seq.reported ++ [k] ∧ k.code = 0x227)) ∧
  (∀ (s : State) (r c : Nat) (found : List (Nat × Nat × Ecc)) (again : List (Nat × Nat)), r < 48 → c < 16 →
    field (s.p1 r (chanIdx c 1)) 11 1 = 1 → s.seq.phase ≠ 7 →
    let here := found.filter fun f => decide (f.1 < 2 ^ 30) && burstChannel f.1 == c && decide (f.2.1 < 8)
    let failing := scrubFailing here again
    ∃ t, exec (.targetedScrub r c found again) s = .next t ∧
      ((s.well r).channelFails c failing = false →
        field (t.p1 r (chanIdx c 1)) 11 1 = 0 ∧ (t.well r).failed = (s.well r).failed ∧
        (t.well r).repaired = (s.well r).repaired ++ failing.map (fun f => (c, f.1, f.2.1, f.2.2)) ∧
        (∀ k i, (t.well k).rows.get 0 i = (s.well k).rows.get 0 i) ∧
        field (t.p1 r (chanIdx c 0)) 0 24 =
          min (field (s.p1 r (chanIdx c 0)) 0 24 + here.countP (fun f => match f.2.2.ofData with | .corrected _ => true | _ => false))
            (2 ^ 24 - 1) ∧
        field (t.p1 r (chanIdx c 1)) 12 1 = (if failing = [] ∧ s.passedThrice { code := 8, region := r, target := c, part := 0 } = false then field (s.p1 r (chanIdx c 1)) 12 1
            else 1)) ∧
      ((s.well r).channelFails c failing = true → (t.svc r).withdrawn = true))

/-- R260, R265, R270: a line or stream entry that keeps the rules is stored, a stream entry in use becoming armed; one that does
not is refused with event 0x172 or 0x171 and changes nothing of the tables. R262, R265: the line's next entry starts when it is
armed, its line idle and its trigger reached, and no entry starts while a step is aborted (R266), unless a unit of the line is absent, which is refused with event 0x173; the
gateway sends the rows of a running stream in order to position 0, with the position that takes them, each when position 0 has a
credit. R263: a row on a unit's ink input enters its buffer or passes to the next position when that has a credit; a row that has
been unable to move for 2^20 ACLK, and a command that has waited as long for rows, is a stall, recorded and raised once for its
episode (R264). -/
def Obligations.InkLinesAndStreams : Prop :=
  (∀ (s : State) (r l : Nat) (ws : List Word), r < 48 → l < 80 →
    ∃ t, exec (.lineEntryWrite r l ws) s = .next t ∧ t.units = s.units ∧ t.wells = s.wells ∧ t.net = s.net ∧
      (s.lineBusy r l = false → s.lineEntryOk r l ws = true → t = { s with regions := t.regions } ∧
        (∀ k < 5, t.p1 r (lineIndex l k) = ws.getD k 0) ∧
        ∀ r' i, ¬(r' = r ∧ ∃ k < 5, i = lineIndex l k) → t.p1 r' i = s.p1 r' i) ∧
      (s.lineBusy r l = true ∨ s.lineEntryOk r l ws = false →
        tookRecord r 0x172 16383 (ws.getD 0 0) s t ∧ sameP1But r ringIndex s t)) ∧
  (∀ (s : State) (r k : Nat) (ws : List Word), r < 48 → k < 64 →
    ∃ t, exec (.streamEntryWrite r k ws) s = .next t ∧ t.units = s.units ∧ t.wells = s.wells ∧ t.net = s.net ∧
      (s.streamEntryOk r ws = true → t = { s with regions := t.regions } ∧
        (∀ i < 4, t.p1 r (streamIndex k i) = ws.getD i 0) ∧ t.p1 r (streamStatus k) = (if stInUse ws then 1 else 0) ∧
        ∀ r' i, ¬(r' = r ∧ (i = streamStatus k ∨ ∃ j < 4, i = streamIndex k j)) → t.p1 r' i = s.p1 r' i) ∧
      (s.streamEntryOk r ws = false → tookRecord r 0x171 16383 (ws.getD 0 0) s t ∧ sameP1But r ringIndex s t)) ∧
  (∀ (s : State) (r k : Nat), r < 48 → k < 64 →
    let ws := s.streamWords r k
    let l := stLine ws
    let absent : Prop := ∃ p < s.lineN r l, s.absent (s.linePos r l p) = true
    stInUse ws = true → s.lineOk r l = true → s.lineBusy r l = false → field (s.p1 r (streamStatus k)) 0 2 = 1 →
    (stThreshold ws).toInt ≤ (s.syncObj r (stTrigger ws)).w0.toInt → s.nextStream r l = some k →
    (s.seq.phase = 7 → exec (.streamStart r k) s = .next s) ∧
    (s.seq.phase ≠ 7 → ∃ t, exec (.streamStart r k) s = .next t ∧ t.units = s.units ∧ t.net = s.net ∧
      (¬absent → t.lineBusy r l = true ∧ field (t.p1 r (lineIndex l 5)) 1 7 = k ∧ t.p1 r (streamStatus k) = 2 ∧
        (t.well r).running = (s.well r).running ++
          [{ line := l, stream := k, nextRow := 0, buf := field (s.p1 r 14385) 0 1 == 1 }] ∧
        ∀ i, (t.well r).rows.get 0 i = (s.well r).rows.get 0 i) ∧
      (absent → tookRecord r 0x173 16383 (s.p1 r (streamStatus k)) s t ∧ sameP1But r ringIndex s t ∧ t.wells = s.wells))) ∧
  (∀ (s : State) (r l : Nat) (k : Running), r < 48 → l < 80 → (s.well r).running.find? (fun k => k.line == l) = some k →
    let ws := s.streamWords r k.stream
    let n := stRows ws
    let q := 8 * stBase ws k.buf + k.nextRow
    s.inkCredit (s.linePos r l 0) = true →
    ∃ t m, exec (.streamRow r l []) s = .next t ∧ t.net = s.net ++ [m] ∧ m.type = 20 ∧ m.dstRegion = r ∧ m.dstKind = 0 ∧
      m.dstUnit = s.linePos r l 0 ∧ m.body = [(s.well r).rows.get 0 q] ∧ m.nf = false ∧
      field m.tag 0 6 = k.nextRow % n ∧ m.tag.getLsbD 10 = stBcast ws ∧ m.tag.getLsbD 11 = (k.nextRow % n + 1 == n) ∧
      (stBcast ws = false → s.lineN r l ≤ 16 →
        field m.tag 6 4 = s.lineN r l - 1 - k.nextRow / n % max 1 (s.lineN r l)) ∧
      t.units = s.units ∧ (∀ i, (t.well r).rows.get 0 i = (s.well r).rows.get 0 i) ∧
      (k.nextRow + 1 ≠ stTiles ws * n → ∀ j ∈ (t.well r).running, j.line = l →
        ∃ j' ∈ (s.well r).running, j'.line = l ∧ j = { j' with nextRow := j'.nextRow + 1 }) ∧
      (k.nextRow + 1 = stTiles ws * n → (∀ j ∈ (t.well r).running, j.line ≠ l) ∧
        t.p1 r (streamIndex k.stream 3) = stThreshold ws + wd (stInc ws) ∧
        field (t.p1 r (streamStatus k.stream)) 0 2 = (if stInc ws = 0 then 0 else 1))) ∧
  (∀ (s : State) (u l p : Nat) (k : InkRow) (ks : List InkRow), u < 15360 → (s.unit u).inkIn = k :: ks →
    s.lineOf u = some (l, p) →
    let r := regionOf u
    let takes := k.bcast || k.pos == p
    let passes : Prop := (k.bcast = true ∨ p < k.pos) ∧ p + 1 < s.lineN r l
    let v := s.linePos r l (p + 1)
    (takes = true → (s.unit u).ink.length < 64) → (passes → s.inkCredit v = true) → v ≠ u →
    ∃ t, exec (.inkLineRow u) s = .next t ∧ (t.unit u).inkIn = ks ∧
      (t.unit u).ink = (if takes then (s.unit u).ink ++ [k] else (s.unit u).ink) ∧ (∀ w q, (t.unit w).cell q = (s.unit w).cell q) ∧
      (¬passes → t.net = s.net ∧ ∀ w, w ≠ u → t.unit w = s.unit w) ∧
      (passes → clusterOf u = clusterOf v → (t.unit v).inkIn = (s.unit v).inkIn ++ [k] ∧ t.net = s.net) ∧
      (passes → clusterOf u ≠ clusterOf v → ∃ m, t.net = s.net ++ [m] ∧ m.type = 20 ∧ m.dstUnit = v ∧ m.body = [k.data] ∧
        m.epoch = s.stamp (clusterOf u) v)) ∧
  (∀ (s : State) (r l : Nat), r < 48 → l < 80 → s.lineBusy r l = true → l ∉ (s.well r).stalled → s.inkBlocked r l = true →
    ∃ t, exec (.inkStall r l) s = .next t ∧ (t.well r).stalled = (s.well r).stalled ++ [l] ∧ t.units = s.units ∧
      t.net = s.net ∧
      (let w := t.p1 r 14388
       field w 0 7 = l ∧ field w 7 1 = 1 ∧ field w 20 1 = 1 ∧ field w 8 12 = min (field (s.p1 r 14388) 8 12 + 1) 4095 ∧
       tookRecord r 0x029 16383 w s t)) ∧
  (∀ (s : State) (u l p : Nat) (c : MxaCmd), u < 15360 → s.lineOf u = some (l, p) → (s.unit u).inkWaits = some c →
    (s.unit u).inkStalled = false → c.takenAt + 2 ^ 20 ≤ s.aclkOf (clusterOf u) →
    ∃ t, exec (.inkCommandWait u) s = .next t ∧ t.unit u = { s.unit u with inkStalled := true } ∧ t.net = s.net ∧
      field (t.p1 (regionOf u) 14388) 0 8 = 128 + l ∧ tookRecord (regionOf u) 0x029 16383 (t.p1 (regionOf u) 14388) s t)

/-! ### Training step, digests, abort and repair (spec/10, spec/11, spec/13) -/

/-- R277, R281: the open of a step clears the units' non-finite flags, gives them the step and the seed, arms grad_done with the
served units and the module verdict object with the regions in service, sets the step flag to open, and zeroes the counts; a
micro-batch with too many chunks stops the job instead. R282: a region that has formed everything sends its one verdict
contribution. R283, R287: the system's decision in phase Verdict sets the step flags, and a clean one leads to the update with the
constants of the schedule table, or stops the job past the table's end before any step flag is set. -/
def Obligations.StepOpensAndDecides : Prop :=
  (∀ (s : State) (batches : List (Nat × Nat)), s.seq.phase = 1 → s.seq.running = true →
    ∃ t, exec (.openStep batches) s = .next t ∧ t.seq.sched = s.seq.sched ∧ sameWellRows s t ∧
      ((batches.any fun (c, n) => s.tooManyChunks c n) = true → t.seq.running = false ∧ t.seq.phase = 0) ∧
      ((batches.any fun (c, n) => s.tooManyChunks c n) = false → t.seq.phase = 2 ∧
        ∀ r ∈ s.regionsUp, field (t.p1 r 15367) 0 3 = 2 ∧ field (t.p1 r 15367) 4 1 = 0 ∧ t.p1 r 15369 = 0 ∧
          t.p1 r 15371 = 0 ∧ t.p1 r 15373 = 0 ∧
          (t.syncObj r objGradDone).w0 = 0 ∧ (t.syncObj r objGradDone).type = 2 ∧
          (t.syncObj r objGradDone).target = s.served r ∧ (t.syncObj r objStepFlag).w0 = 1 ∧
          (r = s.verdictRegion → (t.syncObj r objVerdict).w0 = 0 ∧ (t.syncObj r objVerdict).received = 0 ∧
            (t.syncObj r objVerdict).target = s.regionsUp.length ∧ (t.syncObj r objVerdict).linkMode = true) ∧
          ∀ k < 320, t.unit (320 * r + k) =
            { s.unit (320 * r + k) with nf := false, seed := s.seq.sched.jobSeed, step := s.seq.sched.step })) ∧
  (∀ (s : State) (r : Nat), r < 48 → s.seq.running = true → s.seq.phase = 2 → (s.svc r).inService = true →
    (s.svc r).contributed = false → s.regionDone r = true →
    ∃ t m, exec (.regionVerdictContribution r) s = .next t ∧ t.net = s.net ++ [m] ∧ m.type = 8 ∧ m.sop = 24 ∧
      m.dstRegion = s.verdictRegion ∧ m.wa = waSync s.verdictRegion objVerdict ∧ m.isSyncr = false ∧
      m.operand = (if s.regionNf r then 1 else 0) ∧ (t.svc r).contributed = true ∧
      (t.seq.phase = 3 ↔ ∀ k ∈ s.regionsUp, k ≠ r → (s.svc k).contributed = true) ∧ t.units = s.units ∧ t.wells = s.wells) ∧
  (∀ (s : State) (m : Msg), s.applies m 26 → m.dstRegion = s.verdictRegion → waIndex m.wa = objVerdict →
    s.seq.running = true → s.seq.phase = 3 →
    let bit := m.operand.getLsbD 0
    let ended := decide (s.scheduleTable.length ≤ s.seq.sched.updCount.toNat)
    ∃ t, exec (.decide ⟨m, []⟩) s = .next t ∧ (t.object m).decided = true ∧ (t.object m).verdict = bit.toNat ∧
      (bit = true ∨ ended = false →
        ∀ r ∈ s.regionsUp, (t.syncObj r objStepFlag).w0 = (s.syncObj r objStepFlag).w0 ||| (if bit then 6 else 2)) ∧
      (bit = true → t.seq.phase = 6 ∧ t.seq.verdict = true) ∧
      (bit = false → ended = false → t.seq.phase = 4 ∧ t.seq.verdict = false ∧
        t.seq.consts = s.scheduleTable[s.seq.sched.updCount.toNat]?) ∧
      (bit = false → ended = true → t.seq.phase = 0 ∧ t.seq.running = false ∧
        ∀ r, t.syncObj r objStepFlag = s.syncObj r objStepFlag) ∧ t.seq.sched = s.seq.sched)

/-- R288, R289, R290, R292, R293, R310, R312: an updated block is held in its unit until the blot point and changes no well; a
snapshot granule carries the schedule state that the blot point will produce; a module that is ready commits the step when it
is alone on the system path and wins the banks of the blocks that it writes back: the schedule state advances by R285, and the buffers
flip unless the step is skipped; the
digests of the shards that a module owns are written to the host, unless a row cannot be read; then they stay due. What the checks of
these reads find, and whether the host takes the write, are free values (logs 152, 169). Each of the four commands completes under
conditions on the state and its operands alone. -/
def Obligations.UpdateAndBlotPoint : Prop :=
  (∀ (s : State) (shard block u q : Nat),
    shard < 4096 → block < 2 ^ 24 → u < 15360 → q + 104 ≤ scratchRows → s.banksIdle u → s.seq.running = true → s.seq.phase = 4 ∨ s.seq.phase = 5 →
    s.ownShard shard = true → (s.blockPlace shard block).isSome = true → (∀ x ∈ s.seq.updated, ¬(x.1 = shard ∧ x.2.1 = block)) →
    ∃ t, exec (.weightPacket shard block ⟨u, q⟩ []) s = .next t ∧ t.seq.phase = 5 ∧
      t.seq.updated = s.seq.updated ++ [(shard, block, u, q)] ∧ t.seq.sched = s.seq.sched ∧
      t.seq.verdict = s.seq.verdict ∧ sameWellRows s t) ∧
  (∀ (s : State) (shard : Nat), shard < 4096 → s.seq.running = true → 4 ≤ s.seq.phase → s.seq.phase ≠ 7 → s.seq.committed = 0 →
    s.ownShard shard = true → shard ∉ s.seq.sentSnap →
    (s.seq.verdict = false → ∀ b ∈ s.blocksOf shard, ∃ x ∈ s.seq.updated, x.1 = shard ∧ x.2.1 = b) →
    ∃ t, exec (.snapshotGranule shard) s = .next t ∧ t.seq.sentSnap = s.seq.sentSnap ++ [shard] ∧
      t.seq.sched = s.seq.sched ∧
      (s.partnerOf shard = s.ownIndex.toNat → ∃ rows, t.seq.snapIn = s.seq.snapIn ++ [(shard, rows)] ∧
        let next := s.seq.sched.next s.seq.verdict
        let row := rows.getD 0 0
        wordOf row 0 = next.step.setWidth 36 ∧ wordOf row 4 = next.scaleExp ∧ wordOf row 6 = next.updCount ∧
          field (wordOf row 9) 0 1 = s.seq.verdict.toNat ∧ field (wordOf row 9) 1 1 = s.seq.verdict.toNat ∧
          wordOf row 12 = wd shard)) ∧
  (∀ (s : State), s.seq.running = true → 4 ≤ s.seq.phase → s.seq.phase ≠ 7 → s.seq.committed = 0 → s.seq.readySent = false →
    s.snapshotsIn = true → s.seq.carbons = [] → s.seq.reported = [] →
    (s.seq.verdict = false → s.ownerDone = true ∧ ∀ r ∈ s.regionsUp, s.countsWhole r = true) →
    ∃ t, exec .moduleReady s = .next t ∧
      ((∃ l ∈ s.childLinks, ∀ v ∈ s.sys.readies, v.1 ≠ l) → t.seq.phase = 6 ∧ t.seq.readySent = true ∧
        t.sys.ownReady = true ∧ t.seq.sched = s.seq.sched ∧ t.wells = s.wells) ∧
      (s.childLinks = [] → s.isRoot = true → s.members = 1 → s.sys.readies = [] → s.sys.tables = [] →
        s.sys.pendingRoster = none → s.plannedDue = false → (∀ x ∈ s.writeBackBanks, s.banksIdle x.1) →
        t.seq.sched = { s.seq.sched.next s.seq.verdict with jobRingPos := BitVec.ofNat 36 s.jobRingPos } ∧
        ∀ r ∈ s.regionsUp, field (t.p1 r 14385) 0 1 =
          (if s.seq.verdict then field (s.p1 r 14385) 0 1 else 1 - field (s.p1 r 14385) 0 1))) ∧
  (∀ (s : State) (d : Target) (rest : List Target), s.seq.phase = 6 → 5 ≤ s.seq.committed → s.seq.refetch = [] →
    s.dueDigests = d :: rest → (∀ x ∈ s.sys.shards, x.1 < 4096) →
    let reads := (s.shardReads (Config.blotChecks s.root) 0 s.ownShards).2
    ∃ t, exec .digestComplete s = .next t ∧
      (reads.isSome = true → Config.hostWriteOk s.root = true →
        ∀ k ∈ s.ownShards, t.hostRead (d.addr.toNat + 32 * k) 32 = s.shardDigest k (s.shardBlocks k)) ∧
      (Config.hostWriteOk s.root = false → t.hostMem = s.hostMem) ∧
      (reads = none → t.seq.digests = s.seq.digests ∧ t.hostMem = s.hostMem) ∧
      (s.plannedDue = false → sameWellRows s t) ∧ t.seq.sched = s.seq.sched)

/-- R339, R353, R354, R355, R356, R357, R358: a reported code aborts the step: every hand is idle, what the attempt held is discarded,
and the schedule state stands; the eighth abort, or a job fault of the attempt before, ends the job; a module that has reported ready asks
the root with ABORT_UP and keeps its state; once drained the abort passes to the latest state that something is in; a region restored has
its sync objects and streams at their blot-point values. -/
def Obligations.StepAborts : Prop :=
  (∀ (s : State), s.seq.reported ≠ [] → s.seq.running = true → s.seq.phase < 6 → s.seq.readySent = false →
    ∃ t, exec .sequencerAbort s = .next t ∧ t.seq.sched = s.seq.sched ∧ sameWellRows s t ∧ t.seq.reported = [] ∧
      t.seq.updated = [] ∧ t.seq.trailers = [] ∧ t.seq.snapIn = [] ∧ t.seq.aborts = s.seq.aborts + 1 ∧
      (∀ u < 15360, (∀ h < 8, ((t.unit u).hand h).st = .idle) ∧ (t.unit u).mxa.queue = [] ∧ (t.unit u).stroke.queue = [] ∧
        (t.unit u).mover.queue = [] ∧ (t.unit u).ink = []) ∧
      (∀ r < 48, (t.region r).nodes = [] ∧ (t.region r).combine = [] ∧ (t.well r).running = []) ∧
      (s.seq.lastFaults = [] → s.seq.aborts < 7 → s.lossCodes = [] → t.seq.phase = 7 ∧ t.seq.running = true ∧
        (∀ c ∈ s.seq.reported, ∀ k, c.test = some k → k ∈ t.seq.tests) ∧
        t.seq.abortState = (if s.seq.replan || !s.seq.recreate.isEmpty then 5 else if s.repairing then 4
          else if !t.seq.tests.isEmpty then 3 else 2)) ∧
      (s.seq.lastFaults = [] → 7 ≤ s.seq.aborts → t.seq.running = false ∧ field (t.bar 8) 6 12 = 0x80B) ∧
      ((∃ c ∈ s.seq.reported, c.jobFault = true ∧ c ∈ s.seq.lastFaults) → t.seq.running = false ∧ field (t.bar 8) 6 12 = 0x808)) ∧
  (∀ (s : State), s.seq.reported ≠ [] → s.seq.running = true → s.seq.readySent = true → s.seq.committed = 0 → s.seq.abortSent = false →
    s.isRoot = false → s.rootsLost = false →
    ∃ t, exec .sequencerAbort s = .next t ∧ t.seq = { s.seq with abortSent := true, reported := t.seq.reported } ∧
      (∀ c ∈ s.seq.reported, c ∈ t.seq.reported ∧ (c.unit < 15360 → ∀ h < 8, ((t.unit c.unit).hand h).st = .idle)) ∧
      sameWellRows s t) ∧
  (∀ (s : State), s.seq.phase = 7 → s.seq.drained = false → s.drained = true →
    let stage := if s.seq.replan || !s.seq.recreate.isEmpty then 5 else if s.repairing then 4
      else if !s.seq.tests.isEmpty || !s.seq.reported.isEmpty then 3 else 6
    ∃ t, exec .drainComplete s = .next t ∧ t.seq.sched = s.seq.sched ∧
      (stage < 6 ∨ (∃ r ∈ s.regionsUp, (s.svc r).restored = false) → t.seq.drained = true ∧ t.seq.abortState = stage ∧
        ∀ q ∈ s.copyRings, ∀ d ∈ (s.ring q).taken, d.finished = none → t.completed q d.index 0x707 0)) ∧
  (∀ (s : State) (r : Nat), r < 48 → s.seq.phase = 7 → s.seq.abortState = 6 → (s.svc r).inService = true →
    (s.svc r).restored = false → (∃ k ∈ s.regionsUp, k ≠ r ∧ (s.svc k).restored = false) →
    ∃ t, exec (.regionRestore r) s = .next t ∧ (t.svc r).restored = true ∧ (t.region r).waiters = [] ∧
      (∀ o, t.syncObj r o = (s.imageSync r).get SyncObj.reset o) ∧
      (∀ i, 15040 ≤ i → i < 15360 → t.p1 r i = (s.region r).blot.get 0 i) ∧ (∀ l < 80, t.lineBusy r l = false) ∧
      (∀ l, (t.well r).lastStream.get 0 l = (s.well r).blotLast.get 0 l) ∧
      t.seq.sched = s.seq.sched ∧ ((∀ u ∈ s.seq.scripts, regionOf u ≠ r) → t.net = s.net))

/-- R348, R350, R351, R359, R360, R364, R368, R370: a self-test that passes records a transient error, one that fails, or passes for the
fourth time, retires the unit, whose
epoch goes up before its row map changes; a spare wakes, is tested and takes the resident image from the well, and one that fails
makes its unit absent; a carbon is written to its wells and accepted by its digest, or copied once more, and what a lost well held is no
longer due once it has come; a verify read that is clean is transient, one that repeats
the error plans the unit's sparing, and an uncorrectable one is reported. -/
def Obligations.TestsAndRepairs : Prop :=
  (∀ (s : State) (k : TestTarget) (pass : Bool) (wires : List (Nat × Nat)) (errs : Errs), k ∈ s.seq.tests → k.region < 48 → 3 ≤ k.code → k.code ≤ 4 →
    k.target < 15360 → regionOf k.target = k.region → s.seq.phase = 7 → s.seq.tests.erase k ≠ [] →
    let bad := pass = false ∨ s.passedThrice k = true ∨ k ∈ s.seq.failing
    ∃ t, exec (.selfTestResult k ⟨pass, wires, errs⟩) s = .next t ∧ t.seq.tests = s.seq.tests.erase k ∧
      (¬bad → field (t.p1 k.region 82) 0 12 = min (field (s.p1 k.region 82) 0 12 + 1) 4095 ∧
        (t.region k.region).epochWaits = (s.region k.region).epochWaits ∧ t.units = s.units) ∧
      (bad → field (t.p1 k.region 82) 12 12 = min (field (s.p1 k.region 82) 12 12 + 1) 4095 ∧
        (s.absent k.target = false → s.spareState k.target = (0, 0) →
          (∀ w ∈ (s.region k.region).epochWaits, w.unit ≠ k.target) →
          t.epoch k.target = s.epoch k.target + 1 ∧ t.column k.target = s.column k.target ∧
          (t.region k.region).epochWaits = (s.region k.region).epochWaits ++
            [{ unit := k.target, rowMap := rowMapIndex k.target, column := 4, spare := some (1, k.target % 4) }]))) ∧
  (∀ (s : State) (r m : Nat) (f : Fill), r < 48 → m < 80 → s.fillOf r m .waking = some f →
    ∃ t, exec (.spareWake r m) s = .next t ∧
      (t.svc r).fills = (s.svc r).fills.map (fun g => if g.rowMap = m then { g with stage := .testing } else g) ∧
      t = { s with service := t.service }) ∧
  (∀ (s : State) (r m : Nat) (pass : Bool) (f : Fill), r < 48 → m < 80 → s.fillOf r m .testing = some f →
    (∀ g ∈ (s.svc r).fills, g.lc < 4) → s.banksIdle (fillUnit r f) →
    let ok := pass && !s.passedThrice { code := 10, region := r, target := fillUnit r f, part := 0 }
    ∃ t, exec (.spareTestResult r m pass) s = .next t ∧ field (t.p1 r 81) 0 4 = 10 ∧ field (t.p1 r 81) 18 1 = ok.toNat ∧
      (ok = true → field (t.p1 r 82) 0 12 = min (field (s.p1 r 82) 0 12 + 1) 4095 ∧
        (t.svc r).fills = (s.svc r).fills.map (fun g => if g.rowMap = m then { g with stage := .loading } else g)) ∧
      (ok = false → field (t.p1 r 82) 12 12 = min (field (s.p1 r 82) 12 12 + 1) 4095 ∧ (∀ g ∈ (t.svc r).fills, g.rowMap ≠ m) ∧
        ∃ w ∈ (t.region r).epochWaits, w.column = 7 ∧ w.spare.map Prod.fst = some 3)) ∧
  (∀ (s : State) (r m : Nat) (errs : Errs) (f : Fill), r < 48 → m < 80 → s.fillOf r m .loading = some f →
    (∀ w ∈ (s.region r).epochWaits, w.unit ≠ fillUnit r f) → s.banksIdle (fillUnit r f) →
    let u := fillUnit r f
    let ok := s.imageGood u errs
    ∃ t, exec (.spareLoadComplete r m errs) s = .next t ∧
      (ok → regionOf u = r → (t.region r).epochWaits = (s.region r).epochWaits ++
        [{ unit := u, rowMap := rowMapIndex u, column := 4, spare := some (2, f.lc) }]) ∧
      (ok → ∀ g, s.imageOf u = some g →
        ∀ e ∈ imageCells g ((imageRows g).map fun q => (s.well (regionOf u)).rows.get 0 q),
          (g.rows.map (·.1)).Nodup → (t.unit u).cell e.1 = e.2) ∧
      (¬ok → f.failedOnce = false →
        (t.svc r).fills = (s.svc r).fills.map (fun g => if g.rowMap = m then { g with failedOnce := true } else g)) ∧
      (¬ok → f.failedOnce = true → t.seq.running = false ∧ ∀ g ∈ (t.svc r).fills, g.rowMap ≠ m)) ∧
  (∀ (s : State) (shard : Nat) (blocks : List (Nat × List Row)) (owner : List Octet) (once : Bool), shard < 4096 →
    s.seq.carbons.find? (fun c => c.1 == shard) = some (shard, once) → (∀ x ∈ s.seq.recreate, x.1 ≠ shard) →
    let rest := s.seq.carbons.filter fun c => c.1 != shard
    let copied := s.carbonRows shard blocks
    let ok : Prop := copied.shardDigest shard (copied.shardBlocks shard) = owner
    ∃ t, exec (.carbonCopy shard ⟨blocks, owner, []⟩) s = .next t ∧ sameWellRows copied t ∧
      (ok → t.seq = { s.seq with carbons := rest }) ∧
      (¬ok → once = false → t.seq.carbons = rest ++ [(shard, true)] ∧ t.seq.running = s.seq.running) ∧
      (¬ok → once = true → t.seq.running = false)) ∧
  (∀ (s : State) (shard : Nat) (copy : CarbonData), shard < 4096 → (∃ x ∈ s.seq.recreate, x.1 = shard) → s.plannedDue = false →
    ∃ t, exec (.carbonCopy shard copy) s = .next t ∧ ∀ x ∈ t.seq.recreate, x ∈ s.seq.recreate ∧
      ∀ y ∈ copy.blocks, ¬(x = (shard, y.1, y.2.length == 8))) ∧
  (∀ (s : State) (u q bit : Nat) (e : Ecc), u < 15360 → q < 49152 → s.bankIdle u (64 * q) →
    (s.svc (regionOf u)).verify.find? (fun v => v.1 == u && v.2.1 == q) = some (u, q, bit) →
    ∃ t, exec (.verifyRead u q e) s = .next t ∧ (t.unit u).cell q = (s.unit u).cell q ∧
      (e = .clean → s.passedThrice { code := 11, region := regionOf u, target := u, part := 0 } = false →
        field (t.p1 (regionOf u) 82) 0 12 = min (field (s.p1 (regionOf u) 82) 0 12 + 1) 4095 ∧
        (t.svc (regionOf u)).verify = ((s.svc (regionOf u)).verify.erase (u, q, bit)).filter (fun k => k != (u, q, bit))) ∧
      (e = .corrected bit ∨ (e = .clean ∧ s.passedThrice { code := 11, region := regionOf u, target := u, part := 0 } = true) → field (t.p1 (regionOf u) 82) 12 12 = min (field (s.p1 (regionOf u) 82) 12 12 + 1) 4095 ∧
        u ∈ (t.svc (regionOf u)).planned) ∧
      (e = .uncorrectable → ∃ k ∈ t.seq.reported, k.code = 0x221))

/-! ### Apnen links and the system control path (spec/12) -/

/-- R319, R327, R329, R330, R332, R341, R344: an accepted flit moves the expected number on; one for another module goes on with one
hop fewer, or is dropped with the lower of 0x402 and 0x404; well requests are checked and sent to the gateway; answers go back to the
requester; contributions go to the endpoint; a granule goes to its place by its kind, as a write of the link engine, or is dropped with
0x408, and counts once the write has been acknowledged; a multicast one also goes on to the links of its entry. -/
def Obligations.FlitsAreDelivered : Prop :=
  (∀ (s : State) (l : Nat) (f : Flit), s.accepts l f → ∀ p ∈ flitRows l f, fType f = p.2 →
    ∃ t, exec p.1 s = .next t ∧ (t.link l).rxNext = (s.link l).rxNext + 1 ∧ (t.link l).nakOpen = false ∧
      (fDst f ≠ s.ownIndex.toNat → ¬(fType f = 7 ∧ fMcast f = true) →
        t.net = s.net ∧ t.wells = s.wells ∧ t.units = s.units ∧ (s.routeLink (fSrc f) (fDst f) = none → t.reports 0x402) ∧
        (fTtl f = 0 → s.routeLink (fSrc f) (fDst f) ≠ none → t.reports 0x404) ∧
        ∀ o, fTtl f ≠ 0 → s.routeLink (fSrc f) (fDst f) = some o → s.lnkState o = 3 →
          ∃ g, t.outbound o g ∧ fTtl g = fTtl f - 1 ∧ fDst g = fDst f ∧ fSrc g = fSrc f ∧ hf g 80 144 = hf f 80 144 ∧
            g.payload = f.payload)) ∧
  (∀ (s : State) (l : Nat) (f : Flit) (write : Bool), s.accepts l f → fType f = (if write then 3 else 1) →
    fDst f = s.ownIndex.toNat →
    ∃ t, exec (if write then .wwr l f else .wrd l f) s = .next t ∧ t.wells = s.wells ∧
      (8 < fFirst f + fRows f ∨ s.windowOk (fRegion f) (fGranule f) write = false → t.net = s.net) ∧
      (fFirst f + fRows f ≤ 8 → s.windowOk (fRegion f) (fGranule f) write = false →
        field (t.bar 0x30810) 16 16 = min (field (s.bar 0x30810) 16 16 + 1) 65535 ∧ field (t.bar 0x3080C) 3 1 = 1) ∧
      (fFirst f + fRows f ≤ 8 → s.windowOk (fRegion f) (fGranule f) write = true →
        waInvalid (waWell (fRegion f) (fGranule f)) = [] →
        t.net.length = s.net.length + (if write then 1 else fRows f) ∧
        ∀ i < (if write then 1 else fRows f), ∃ m ∈ t.net, m.type = (if write then 1 else 0) ∧ m.vc = 1 ∧ m.dstKind = 2 ∧
          m.dstRegion = fRegion f ∧ m.srcKind = 4 ∧ m.srcModule.toNat = fSrc f ∧ m.epoch = 0 ∧ m.nf = fNf f ∧
          waWellRegion m.wa = fRegion f ∧ waGranule m.wa = fGranule f ∧ waNonet m.wa = 64 * (fFirst f + i) ∧
          (write = true → m.body = (f.payload.drop (fFirst f)).take (fRows f)))) ∧
  (∀ (s : State) (l : Nat) (f : Flit) (c : Instr) (ty : Nat) (m : Msg), s.accepts l f → fDst f = s.ownIndex.toNat →
    s.sys.remote.find? (fun p => p.1 == fTag f) = some (fTag f, m) →
    (c, fType f, ty) ∈ [(Instr.wrs l f, 2, 2), (.wak l f, 4, 3), (.wer l f, 5, 4)] →
    ∃ t a, exec c s = .next t ∧ t.net = s.net ++ [a] ∧ a.type = ty ∧ a.vc = 2 ∧ a.dstRegion = m.srcRegion ∧
      a.dstUnit = m.srcUnit ∧ a.tag = m.tag ∧ a.nf = fNf f ∧ a.status.toNat = (if ty = 4 then fStatus f else 0) ∧
      a.body = (if ty = 2 then (f.payload.drop (fFirst f)).take (fRows f) else []) ∧
      ∀ p ∈ t.sys.remote, p.1 ≠ fTag f) ∧
  (∀ (s : State) (l : Nat) (f : Flit), s.accepts l f → fType f = 6 → fDst f = s.ownIndex.toNat → hf f 215 6 < 48 →
    ∃ t m, exec (.red l f) s = .next t ∧ t.net = s.net ++ [m] ∧ m.type = 16 ∧ m.vc = 3 ∧ m.dstKind = 2 ∧
      m.dstRegion = hf f 215 6 ∧ m.body = f.payload.take (hf f 211 4) ∧ m.nf = fNf f) ∧
  (∀ (s : State) (l : Nat) (f : Flit), s.accepts l f → fType f = 7 → fMcast f = false → fDst f = s.ownIndex.toNat →
    s.seq.restoring = none →
    ∃ t, exec (.wgt l f) s = .next t ∧
      (fStep16 f ≠ s.seq.sched.step.toNat % 65536 → t.reports 0x408 ∧ t.wells = s.wells ∧ t.units = s.units) ∧
      (fStep16 f = s.seq.sched.step.toNat % 65536 →
        (fGkind f = 13 → t.seq.snapIn = s.seq.snapIn ++ [(fShard f, f.payload)] ∧ t.wells = s.wells) ∧
        (fGkind f = 0 → s.landing 0 (fShard f) (fBlock f) = none → t.reports 0x408 ∧ t.wells = s.wells) ∧
        (fGkind f = 0 → ∀ e, s.landing 0 (fShard f) (fBlock f) = some e → e.region < 48 →
          landsBy s t f { dstRegion := e.region, dstUnit := 0, dstKind := 2 }
            (waWell e.region ((if s.curBuf e.region = 0 then field e.w3 0 27 else field e.w2 0 27) + (fBlock f - e.first))) ∧
          t.wells = s.wells ∧ t.units = s.units) ∧
        (1 ≤ fGkind f → fGkind f ≤ 12 → s.landing 1 (fShard f) (fBlock f) = none → t.reports 0x408 ∧ t.units = s.units) ∧
        (1 ≤ fGkind f → fGkind f ≤ 12 → ∀ e, s.landing 1 (fShard f) (fBlock f) = some e →
          let wa := e.carbonAt (fBlock f) (fGkind f)
          s.waFault wa = 0 → spaceOf wa = .scratch →
          landsBy s t f { dstRegion := regionOf (waUnit wa), dstUnit := waUnit wa, dstKind := 0 } wa ∧
            t.wells = s.wells ∧ t.units = s.units))) ∧
  (∀ (s : State) (l : Nat) (f : Flit), s.accepts l f → fType f = 7 → fMcast f = true → fTtl f ≠ 0 →
    let e := s.sys.mcast.get 0 (fShard f)
    ∃ t, exec (.wgt l f) s = .next t ∧ (field e 25 1 = 0 → t.reports 0x408 ∧ t.net = s.net) ∧
      (field e 25 1 = 1 → ∀ k < 24, e.toNat.testBit k = true → s.lnkState k = 3 →
        ∃ g, t.outbound k g ∧ fTtl g = fTtl f - 1 ∧ hf g 80 144 = hf f 80 144 ∧ g.payload = f.payload)) ∧
  (∀ (s : State) (m : Msg) (k : Landed), s.delivered m → m.dstKind = 4 → s.servedFor m = none → s.seq.restoring = none →
    s.sys.granules.find? (fun g => g.tag == m.tag.toNat) = some k →
    (m.type = 3 → ∃ t, exec (.writeAcknowledgement m []) s = .next t ∧ t.sys.granules = s.sys.granules.erase k ∧
      (k.gkind = 0 → field (t.p1 k.region 15371) 0 27 = min (field (s.p1 k.region 15371) 0 27 + 1) (2 ^ 27 - 1)) ∧
      (k.gkind ≠ 0 → t.seq.trailers = s.seq.trailers ++ [(k.shard, k.block, k.gkind, k.unit, k.row)] ∧
        field (t.p1 k.region 15373) 0 27 = min (field (s.p1 k.region 15373) 0 27 + 1) (2 ^ 27 - 1)) ∧ t.units = s.units) ∧
    (m.type = 4 → m.status ≠ 0 → ∃ t, exec (.errorResponse m []) s = .next t ∧ t.sys.granules = s.sys.granules.erase k ∧
      t.reports m.status.toNat ∧ t.units = s.units ∧ t.wells = s.wells))

/-- R314, R316, R318, R319, R320, R322, R324, R326, R334, R348: a flit that does not decode or fails its CRC starts one retry episode and has no
other effect, and corrected octets are counted; acknowledgements free the retry buffer; a nak, a timeout and a retrain replay it in order; a suspect lane pauses the link, is tested by the peer, and is resumed, replaced by
the spare, or dropped, and a new map sets the direction that it names (log 141); a virtual channel that starves, for want of credits or behind a replay, is recorded once for an episode. -/
def Obligations.RetryAndLanes : Prop :=
  (∀ (s : State) (l : Nat) (f : Flit), l < 24 → s.lnkLive l = true →
    ∀ octets, flitReceived f (s.rxLanes l).length = .lost octets ∨ flitReceived f (s.rxLanes l).length = .crcFail octets →
    ∀ c ∈ (flitRows l f).map Prod.fst ++ (sysRows l f).map Prod.fst ++ rawRows l f,
    let lost := flitReceived f (s.rxLanes l).length = .lost octets
    let crcs := field (s.bar (lnkReg l 0x14)) 16 16
    ∃ t, exec c s = .next t ∧ t.net = s.net ∧ t.seq = s.seq ∧ t.sys = s.sys ∧ t.units = s.units ∧
      (t.bar (lnkReg l 0x10)).toNat = min ((s.bar (lnkReg l 0x10)).toNat + octets.length) (2 ^ 32 - 1) ∧
      (lost → field (t.bar (lnkReg l 0x14)) 16 16 = crcs) ∧ (¬lost → field (t.bar (lnkReg l 0x14)) 16 16 = min (crcs + 1) 65535) ∧
      ((s.link l).nakOpen = true → octets = [] → t = { s with bar0 := t.bar0 } ∧ (lost → t = s)) ∧
      ((s.link l).nakOpen = false → (t.link l).nakOpen = true ∧ raisedOne s t 0x041 2 l ∧
        (∃ g, Out.flit l g ∈ t.out ∧ fType g = 0 ∧ fNak g = true ∧ hf g 20 12 = (s.link l).rxNext.toNat) ∧
        field (t.bar (lnkReg l 0x14)) 0 16 = min (field (s.bar (lnkReg l 0x14)) 0 16 + 1) 65535 ∧
        field (t.bar (lnkReg l 0xC)) 0 1 = 1 ∧
        (octets = [] → t.link l = { s.link l with nakOpen := true } ∧ ∃ g, t.out = s.out ++ [Out.flit l g]))) ∧
  (∀ (s : State) (l : Nat) (f g : Flit) (octets : List Nat), l < 24 → s.lnkLive l = true →
    flitReceived f (s.rxLanes l).length = .good g octets → fType g = 0 → fNak g = false →
    ∃ t, exec (.idle l f) s = .next t ∧
      (t.bar (lnkReg l 0x10)).toNat = min ((s.bar (lnkReg l 0x10)).toNat + octets.length) (2 ^ 32 - 1)) ∧
  (∀ (s : State) (l : Nat) (f : Flit), l < 24 → s.lnkLive l = true → flitGood f → fType f = 0 → (s.link l).queue = [] →
    let k := s.link l
    (fNak f = false → (fAck f + 1 - k.txAcked).toNat ≤ k.buffer.length → k.floors.get 64 (hf f 62 3) ≤ 64 →
      ∃ t, exec (.idle l f) s = .next t ∧ (t.link l).buffer = k.buffer.drop (fAck f + 1 - k.txAcked).toNat ∧
        (t.link l).txAcked = fAck f + 1 ∧
        (t.link l).floors.get 64 (hf f 62 3) = min 64 (k.floors.get 64 (hf f 62 3) + hf f 65 6) ∧
        (t.link l).rxNext = k.rxNext ∧ t.out = s.out) ∧
    (fNak f = true → (fAck f - k.txAcked).toNat < k.buffer.length → k.replays < 15 →
      ∃ t, exec (.nak l f) s = .next t ∧ (t.link l).txAcked = fAck f ∧
        (t.link l).buffer.map fSeq = (k.buffer.drop (fAck f - k.txAcked).toNat).map fSeq ∧
        t.out = s.out ++ (t.link l).buffer.map (Out.flit l))) ∧
  (∀ (s : State) (l : Nat), l < 24 → s.lnkLive l = true → (s.link l).buffer ≠ [] →
    ∃ t, exec (.replayTimeout l) s = .next t ∧ (t.link l).buffer.map fSeq = (s.link l).buffer.map fSeq ∧
      (t.link l).replays = (s.link l).replays + 1 ∧ (∀ g ∈ (t.link l).buffer, Out.flit l g ∈ t.out) ∧
      ((s.link l).replays = 15 → t.lnkState l = 4) ∧ ((s.link l).replays < 15 → t.lnkState l = s.lnkState l)) ∧
  (∀ (s : State) (l : Nat), l < 24 → s.lnkLive l = true → (s.link l).queue = [] →
    ((∀ p ∈ mapLanes (s.bar (lnkReg l 8)) ++ mapLanes (s.link l).txMap, p < 9) → ∃ t, exec (.retrain l (BitVec.allOnes 9) (BitVec.allOnes 9)) s = .next t ∧
      t.lnkState l = (if s.joined l then 3 else 2) ∧ (t.link l).suspect = 0 ∧
      (t.link l).buffer.map fSeq = (s.link l).buffer.map fSeq ∧
      ∃ tell, t.out = s.out ++ tell ++ (t.link l).buffer.map (Out.flit l) ∧
        ∀ o ∈ tell, ∃ g, o = Out.flit l g ∧ fType g = 9 ∧ mntOp g ≤ 1) ∧
    (mapLanes (s.bar (lnkReg l 8)) ≠ [] → 1 ≤ s.minWidth l →
      ∃ t, exec (.retrain l (BitVec.allOnes 9) 0) s = .next t ∧ leftService s t l)) ∧
  (∀ (s : State) (l : Nat) (f : Flit), l < 24 → s.lnkLive l = true → flitGood f → fType f = 9 → fNak f = false →
    s.admits l f = true →
    (mntOp f = 0 → ∃ t, exec (.pause l f) s = .next t ∧ t.lnkState l = 4) ∧
    (s.lnkState l = 4 → mntOp f = 1 → ∃ t, exec (.resume l f) s = .next t ∧
      t.lnkState l = (if s.joined l then 3 else 2) ∧ (t.link l).suspect = 0 ∧ (t.link l).testing = []) ∧
    (s.lnkState l = 4 → mntOp f = 2 →
      ∃ t, exec (.laneTestStart l f) s = .next t ∧ (t.link l).testing = (s.link l).testing ++ [fLane f]) ∧
    (s.lnkState l = 4 → mntOp f = 4 → ∃ t, exec (.setLaneMap l f) s = .next t ∧
      ((mapLanes (fMap f)).length < s.minWidth l → leftService s t l) ∧
      (s.minWidth l ≤ (mapLanes (fMap f)).length → t.lnkState l = 4 ∧
        (fPass f = true → t.bar (lnkReg l 8) = fMap f ∧ (t.link l).txMap = (s.link l).txMap ∧
          field (t.bar (lnkReg l 4)) 7 4 = (mapLanes (fMap f)).length) ∧
        (fPass f = false → (t.link l).txMap = fMap f ∧ t.bar (lnkReg l 8) = s.bar (lnkReg l 8) ∧
          field (t.bar (lnkReg l 4)) 3 4 = (mapLanes (fMap f)).length)))) ∧
  (∀ (s : State) (l p : Nat) (r : TestResult), l < 24 → p < 9 → s.lnkState l = 4 → p ∈ (s.link l).testing →
    ∃ t g, exec (.selfTestResult { code := 9, region := 0, target := 16 * l + p, part := 0 } r) s = .next t ∧
      (t.link l).testing = (s.link l).testing.erase p ∧ t.out = s.out ++ [Out.flit l g] ∧ fType g = 9 ∧ mntOp g = 3 ∧
      fLane g = p ∧ fPass g = r.pass) ∧
  (∀ (s : State) (l : Nat) (f : Flit) (spare : Bool), l < 24 → s.lnkState l = 4 → flitGood f → fType f = 9 → mntOp f = 3 →
    fNak f = false → s.admits l f = true → (s.link l).suspect.getLsbD (fLane f) = true →
    let old := mapLanes (s.bar (lnkReg l 8))
    let good := fPass f && !s.passedThrice (laneTarget l (fLane f) true)
    let state := if putField (s.link l).suspect (fLane f) 1 0 ≠ 0 then 4 else if s.joined l then 3 else 2
    let count (v : State) (k : Nat) := field (v.p1 (linkRegion l) 82) k 12
    ∃ t, exec (.laneTestResult l f spare) s = .next t ∧ (t.link l).suspect.getLsbD (fLane f) = false ∧
      let new := mapLanes (t.bar (lnkReg l 8))
      (good = true → new = old ∧ t.lnkState l = state ∧ (∃ e ∈ t.host.events, e.code = 0x045 ∧ e.source = 2 ∧ e.subject = l) ∧
        count t 0 = min (count s 0 + 1) 4095) ∧
      (good = false → fLane f ∈ old → spare = true → 8 ∉ old → (s.link l).rxRetired.getLsbD 8 = false →
        s.minWidth l ≤ old.length →
        new = old.map (fun q => if q = fLane f then 8 else q) ∧ t.lnkState l = state ∧
          (∃ e ∈ t.host.events, e.code = 0x042 ∧ e.source = 2 ∧ e.subject = l) ∧
          (t.link l).rxRetired.getLsbD (fLane f) = true ∧ count t 12 = min (count s 12 + 1) 4095) ∧
      (good = false → fLane f ∈ old → spare = false →
        new.Perm (old.filter fun q => q != fLane f) ∧ new.Pairwise (· ≤ ·) ∧ (new.length < s.minWidth l → leftService s t l))) ∧
  (∀ (s : State) (l lane : Nat), l < 24 → lane < 9 → s.lnkLive l = true → lane ∈ mapLanes (s.bar (lnkReg l 8)) →
    ∃ t, exec (.laneLockLoss l lane) s = .next t ∧ t.lnkState l = 4 ∧ (t.link l).suspect.getLsbD lane = true) ∧
  (∀ (s : State) (l v : Nat), l < 24 → v < 8 →
    ((s.link l).starved.getLsbD v = true → exec (.linkStarvation l v) s = .next s) ∧
    ((s.link l).starved.getLsbD v = false → (∃ g ∈ (s.link l).queue, fLvc g = v) →
      (s.link l).replays ≠ 0 ∨ ((s.link l).floors.get 64 v = 0 ∧ (s.link l).shared = 0) → ∃ t, exec (.linkStarvation l v) s = .next t ∧ (t.link l).starved.getLsbD v = true ∧
        field (t.bar (lnkReg l 0x18)) 16 3 = v ∧
        field (t.bar (lnkReg l 0x18)) 19 12 = min (field (s.bar (lnkReg l 0x18)) 19 12 + 1) 4095 ∧
        field (t.bar (lnkReg l 0xC)) 3 1 = 1 ∧ raisedOne s t 0x044 2 l))

/-- R334, R335, R337, R338, R339, R340, R343: a stale system control flit has no effect; verdicts and ready reports are gathered, the
root decides, and a decision is forwarded and reaches the verdict object; the commit runs at a ready module; an abort advances
the attempt, and a lost subject is marked removed; the loss of the root brings the deputy tree into use, and that of root and deputy ends
the job; a link trains, exchanges HELLO, and comes up or stays fenced. -/
def Obligations.SystemControlPath : Prop :=
  (∀ (s : State) (l : Nat) (f : Flit), s.accepts l f → fType f = 8 → ∀ p ∈ sysRows l f, p.2 < 7 → fCmd f = p.2 →
    (s.sysStale f = true → ∃ t, exec p.1 s = .next t ∧ t.seq = s.seq ∧ t.sys = s.sys ∧ t.net = s.net ∧
      field (t.bar 0x30810) 0 16 = min (field (s.bar 0x30810) 0 16 + 1) 65535 ∧ raisedOne s t 0x047 2 0xFFFF) ∧
    (s.sysStale f = false → hf f 170 1 = 1 → ∃ t, exec p.1 s = .next t ∧ t.onDeputy = true)) ∧
  (∀ (s : State) (l : Nat) (f : Flit), s.acceptsSys l f 0 → l ∈ s.childLinks →
    let vs := (s.sys.verdicts.filter fun v => v.1 != l) ++ [(l, fBit f, fCount f)]
    let n := 1 + (vs.map fun v => v.2.2).sum
    let whole := ∀ k ∈ s.childLinks, ∃ v ∈ vs, v.1 = k
    ∃ t, exec (.verdictUp l f) s = .next t ∧
      (s.sys.ownBit = none → t.sys.verdicts = vs ∧ t.net = s.net) ∧
      (∀ own, s.sys.ownBit = some own → whole → t.sys.ownBit = none ∧
        (s.isRoot = true → n = s.members → ∃ a, t.net = s.net ++ [a] ∧ a.type = 8 ∧ a.sop = 26 ∧
          a.wa = waSync s.verdictRegion objVerdict ∧ a.operand.getLsbD 0 = (own || vs.any fun v => v.2.1)) ∧
        (s.isRoot = true → n ≠ s.members → t.net = s.net ∧ t.reports 0x801) ∧
        (s.isRoot = false → s.lnkState s.tree.parent = 3 → t.net = s.net ∧ ∃ g, t.outbound s.tree.parent g ∧ fType g = 8 ∧
          fCmd g = 0 ∧ fBit g = (own || vs.any fun v => v.2.1) ∧ fCount g = n % 8192))) ∧
  (∀ (s : State) (l : Nat) (f : Flit), s.acceptsSys l f 1 →
    ∃ t a, exec (.decideDown l f) s = .next t ∧ t.net = s.net ++ [a] ∧ a.type = 8 ∧ a.sop = 26 ∧
      a.wa = waSync s.verdictRegion objVerdict ∧ a.operand.getLsbD 0 = fBit f ∧ t.seq = s.seq ∧
      ∀ k ∈ s.childLinks, s.lnkState k = 3 → ∃ g, t.outbound k g ∧ fType g = 8 ∧ fCmd g = 1 ∧ fBit g = fBit f) ∧
  (∀ (s : State) (l : Nat) (f : Flit), s.acceptsSys l f 2 → l ∈ s.childLinks → s.sys.ownReady = false →
    ∃ t, exec (.readyUp l ⟨f, []⟩) s = .next t ∧ t.seq = s.seq ∧
      t.sys = { s.sys with readies := (s.sys.readies.filter fun v => v.1 != l) ++ [(l, fCount f)] }) ∧
  (∀ (s : State) (l : Nat) (f : Flit), s.acceptsSys l f 3 →
    ∃ t, exec (.commitDown l ⟨f, []⟩) s = .next t ∧
      (s.seq.phase = 6 → s.seq.readySent = true →
        (∀ x ∈ s.writeBackBanks, s.banksIdle x.1) →
        t.seq.sched = { s.seq.sched.next s.seq.verdict with jobRingPos := BitVec.ofNat 36 s.jobRingPos }) ∧
      (s.seq.phase = 7 → s.seq.abortState = 7 → s.seq.tailAbort = false → t.seq.phase = 1 ∧ t.seq.sched = s.seq.sched) ∧
      (s.seq.phase ≠ 7 → ¬(s.seq.phase = 6 ∧ s.seq.readySent = true) → t.seq = s.seq)) ∧
  (∀ (s : State) (l : Nat) (f : Flit),
    (s.acceptsSys l f 4 → ∃ t, exec (.abortUp l f) s = .next t ∧ t.seq.sched = s.seq.sched ∧
      (s.rootsLost = true → s.seq.running = true → t.seq.running = false ∧ field (t.bar 8) 6 12 = 0x40B) ∧
      (s.rootsLost = false →
        (s.isRoot = true → s.sys.committed = false → t.attempt = (s.attempt + 1) % 256) ∧
        (s.isRoot = true → s.sys.committed = true → t.seq = s.seq ∧ t.attempt = s.attempt ∧ raisedOne s t 0x047 2 0xFFFF) ∧
        (s.isRoot = false → t.seq = s.seq))) ∧
    (s.acceptsSys l f 5 → ∃ t, exec (.abortDown l f) s = .next t ∧ t.attempt = (s.attempt + 1) % 256 ∧
      t.seq.sched = s.seq.sched ∧ (s.seq.running = true → s.seq.phase ≠ 7 → t.seq.running = false ∨ t.seq.phase = 7) ∧
      (fSubject f ≠ 4095 → (t.sys.roster.get RosterEntry.reset (fSubject f)).state = 3)) ∧
    (s.acceptsSys l f 6 →
      let u := { s with sys := { s.sys with lossUp := s.sys.lossUp ++ [fSubject f] } }
      ∃ t, exec (.lossUp l f) s = .next t ∧ t.seq.sched = s.seq.sched ∧
        (fSubject f = field (s.bar 0x30804) 0 12 → t.onDeputy = true) ∧
        (u.rootsLost = true → s.seq.running = true → t.seq.running = false) ∧
        (u.rootsLost = false → fSubject f ≠ field (s.bar 0x30804) 0 12 →
          (s.isRoot = true → s.sys.committed = false → t.attempt = (s.attempt + 1) % 256 ∧
            (t.sys.roster.get RosterEntry.reset (fSubject f)).state = 3) ∧
          (s.isRoot = false → t.seq = s.seq)))) ∧
  (∀ (s : State) (peer : Nat), peer < 4096 → s.isMember peer = true → peer ≠ s.ownIndex.toNat → s.isRoot = true →
    s.sys.committed = false → peer ≠ field (s.bar 0x30804) 0 12 →
    { s with sys := { s.sys with lossUp := s.sys.lossUp ++ [peer] } }.rootsLost = false →
    ∃ t, exec (.peerLossTimeout peer) s = .next t ∧
      (t.sys.roster.get RosterEntry.reset peer).state = 3 ∧ (∃ e ∈ t.host.events, e.code = 0x407 ∧ e.subject = peer) ∧
      t.attempt = (s.attempt + 1) % 256) ∧
  (∀ (s : State) (l : Nat) (f : Flit), l < 24 → s.lnkLive l = true → flitGood f → fNak f = false →
    hf f 8 12 = (s.link l).rxNext.toNat → fType f = 8 → s.admits l f = true →
    (fCmd f = 7 → ∃ t g, exec (.hello l f) s = .next t ∧ t.outbound l g ∧ fType g = 8 ∧ fCmd g = 8 ∧
      (s.helloStatus f = 0 → fBit g = true ∧ (t.link l).helloIn = true ∧ t.lnkPeer l = helloField f 13 2 ∧
        t.host.events = s.host.events) ∧
      (s.helloStatus f ≠ 0 → fBit g = false ∧ (t.link l).helloIn = (s.link l).helloIn ∧ t.lnkState l = s.lnkState l ∧
        raisedOne s t (s.helloStatus f) 2 l ∧ field (t.bar (lnkReg l 0xC)) 5 1 = 1)) ∧
    (fCmd f = 8 → ∃ t, exec (.helloAck l f) s = .next t ∧ (fBit f = false → (t.link l).helloOut = (s.link l).helloOut) ∧
      (fBit f = true → (t.link l).helloOut = true ∧
        (s.lnkState l = 2 → (s.link l).helloIn = true → s.isMember (s.lnkPeer l) = true → s.ownMember = true → t.lnkState l = 3)))) ∧
  (∀ (s : State) (l : Nat), l < 24 → s.lnkState l = 1 →
    ∃ t g, exec (.linkTrainingComplete l) s = .next t ∧ t.lnkState l = 2 ∧ t.outbound l g ∧ fType g = 8 ∧ fCmd g = 7 ∧
      field (t.bar (lnkReg l 4)) 7 4 = (mapLanes (s.bar (lnkReg l 8))).length) ∧
  (∀ (s : State) (l : Nat) (v : Reg32), l < 24 →
    ∃ t, exec (.linkEnable (hostWrite4 (lnkReg l 0) v)) s = .next t ∧ t.seq.sched = s.seq.sched ∧
      (field (s.bar (lnkReg l 0)) 0 1 = 0 → field v 0 1 = 1 → s.onService = false → s.lnkState l = 0 ∨ s.lnkState l = 5 → t.lnkState l = 1) ∧
      (field (s.bar (lnkReg l 0)) 0 1 = 1 → field v 0 1 = 0 → s.lnkLive l = true →
        leftService s t l))

/-! ### Host interface and set-up registers (spec/14, spec/17) -/

/-- R380-R387, R390, R393-R395, R377, R384, R389: enabling a ring takes its tail as head, paused while the step is aborted if it copies, or stops it with
0x709; a poll takes descriptors in order within the ring's limits or stops the ring with 0x702, and uses nothing of a read that fails; copies move a well row byte for byte; a completion is written to the
descriptor's slot; the timer interrupts; event records reach the rings that take them, or are counted as dropped. -/
def Obligations.RingsAndCopies : Prop :=
  (∀ (s : State) (q : Nat) (v : Reg32), q < 32 →
    let k := field v 2 5
    let bad := k < 4 ∨ 16 < k ∨ (field v 1 1 = 1 ∧ ∃ p < 32, p ≠ q ∧ s.ringEnabled p = true ∧ s.ringJob p = true)
    ∃ t, exec (.ringEnable (hostWrite4 (ringReg q 0x10) v)) s = .next t ∧ t.hostMem = s.hostMem ∧
      (s.ringEnabled q = false → field v 0 1 = 1 → t.ringEnabled q = true ∧ (t.ring q).phase = true ∧
        t.ringHead q = (s.dbWord (q / 16) (q % 16)).1 ∧ (¬bad → t.ringState q = if s.seq.phase = 7 ∧ field v 1 1 = 0 then 2 else 1) ∧
        (bad → t.ringState q = 3 ∧ field (t.bar (ringReg q 0x18)) 18 12 = 0x709)) ∧
      (s.ringEnabled q = true → field v 0 1 = 1 → t.bar (ringReg q 0x10) = s.bar (ringReg q 0x10) ∧
        field (t.bar 0x14) 2 1 = 1 ∧ field (t.bar 0x18) 0 20 = ringReg q 0x10 ∧ field (t.bar 0x18) 20 3 = 1) ∧
      (s.ringEnabled q = true → field v 0 1 = 0 → t.ringEnabled q = false ∧
        ((s.ring q).taken = [] → t.ringState q = 0))) ∧
  (∀ (s : State), field (s.bar 0xC) 0 1 = 1 → s.host.d3 = false → ∃ t, exec (.doorbellPoll ⟨true, true⟩) s = .next t ∧
    ∀ q < 32, s.ringState q = 1 → s.ringEnabled q = true → s.dbEnabled (q / 16) = true →
      let tail := (s.dbWord (q / 16) (q % 16)).1
      let cpl := (s.dbWord (q / 16) (q % 16)).2
      let ahead := (tail + 65536 - s.ringHead q) % 65536
      let free := s.ringSize q - (s.ringHead q + 65536 - cpl) % 65536
      let n := min (min ahead free) (min 8 ((if s.ringJob q then 1 else 4) - (s.inFlight q).length))
      (s.ringSize q < ahead → t.ringState q = 3 ∧ field (t.bar (ringReg q 0x18)) 18 12 = 0x702 ∧ t.ring q = s.ring q) ∧
      (ahead ≤ s.ringSize q → t.ringHead q = (s.ringHead q + n) % 65536 ∧
        (t.ring q).taken.length = (s.ring q).taken.length + n ∧
        ∀ i < n, ∃ d, (t.ring q).taken[(s.ring q).taken.length + i]? = some d ∧
          d.index = (s.ringHead q + i) % 65536 % s.ringSize q ∧ d.octets = s.descOctets q d.index ∧
          d.finished = (if descOk (s.ringJob q) d.octets then none else some (0x701, false, 0)))) ∧
  (∀ (s : State) (read : Bool), exec (.doorbellPoll ⟨false, read⟩) s = .next s) ∧
  (∀ (s : State) (q : Nat) (d : Taken) (ok : Bool), s.copyReady q 1 d → oneWellRow d →
    let c := copyDesc d.octets
    ∃ t, exec (.copyIn q [] ok) s = .next t ∧
      (ok = true → t.completed q d.index 0 64 ∧
        rowOctets ((t.well (waWellRegion c.wa)).rows.get 0 (c.lin 0 / 64)) = s.hostRead c.host 72 ∧
        ∀ r i, ¬(r = waWellRegion c.wa ∧ i = c.lin 0 / 64) → (t.well r).rows.get 0 i = (s.well r).rows.get 0 i) ∧
      (ok = false → t.completed q d.index 0x703 0 ∧ t.wells = s.wells)) ∧
  (∀ (s : State) (q : Nat) (d : Taken) (ok : Bool), s.copyReady q 2 d → oneWellRow d →
    let c := copyDesc d.octets
    ∃ t, exec (.copyOut q [] ok) s = .next t ∧
      (ok = true → t.completed q d.index 0 64 ∧
        t.hostRead c.host 72 = rowOctets ((s.well (waWellRegion c.wa)).rows.get 0 (c.lin 0 / 64))) ∧
      (ok = false → t.completed q d.index 0x704 0 ∧ t.hostMem = s.hostMem)) ∧
  (∀ (s : State) (q : Nat) (d : Taken), q < 32 →
    (s.inFlight q).find? (fun e => [0x01, 0x10, 0x14, 0x15].contains (dOp e.octets) && s.seq.restoring != some (q, e.index)) = some d →
    ∃ t, exec (.completionTimeout q) s = .next t ∧ t.completed q d.index 0x703 0 ∧ t.wells = s.wells ∧ t.seq = s.seq ∧
      ∀ e, e ∈ t.sys.tables ↔ e ∈ s.sys.tables ∧ ¬(e.1 = q ∧ e.2.1 = d.index)) ∧
  (∀ (s : State) (q : Nat) (d : Taken) (rest : List Taken) (st : BitVec 12) (nf : Bool) (res : BitVec 64), q < 32 →
    (s.ring q).taken = d :: rest → d.finished = some (st, nf, res) →
    let a := s.base64 (ringReg q 8) + 16 * d.index
    ∃ t, exec (.completionWrite q true) s = .next t ∧ (t.ring q).taken = rest ∧
      (t.hostRead a 4 = (List.range 4).map fun i => d.octets.getD (4 + i) 0) ∧
      leNat (t.hostRead (a + 4) 2) = st.toNat + nf.toNat * 2 ^ 12 + (s.ring q).phase.toNat * 2 ^ 15 ∧
      leNat (t.hostRead (a + 6) 2) = d.index % 65536 ∧ leNat (t.hostRead (a + 8) 8) = res.toNat ∧
      (t.ring q).phase = ((s.ring q).phase != decide (d.index + 1 = s.ringSize q)) ∧
      (s.ringEnabled q = false → rest = [] → t.ringState q = 0)) ∧
  (∀ (s : State) (q : Nat), q < 32 → (s.ring q).timer = true →
    let v := field (s.bar (ringReg q 0x10)) 7 6
    ∃ t, exec (.interruptTimer q) s = .next t ∧ (t.ring q).irqs = 0 ∧ (t.ring q).timer = false ∧
      (s.msixMasked v = false → s.host.d3 = false → messageSent v s t) ∧
      (s.msixMasked v = true → t.out = s.out ∧ field (t.bar (pbaReg v)) (v % 32) 1 = 1)) ∧
  (∀ (s : State) (e : Nat) (r : EvRec) (rest : List EvRec), e < 4 → s.host.events = r :: rest →
    (∀ k < 4, k ≠ e → s.evtEnabled k = false) → s.evtEnabled e = true → s.evtMasked e r.code = true →
    (s.evRing e).dropped = 0 →
    ∃ t, exec .hostEventRecord s = .next t ∧ t.host.events = rest ∧
      (s.evtFull e = false → t.evtTail e = (s.evtTail e + 1) % 65536 ∧
        t.hostRead (s.base64 (evtReg e 0) + 32 * (s.evtTail e % s.evtSize e)) 32 = recordOctets r (s.evRing e).phase) ∧
      (s.evtFull e = true → t.hostMem = s.hostMem ∧ t.evtTail e = s.evtTail e ∧ field (t.bar 0x14) 1 1 = 1 ∧
        field (t.bar (evtReg e 0xC)) 16 16 = min (field (s.bar (evtReg e 0xC)) 16 16 + 1) 65535)) ∧
  (∀ (s : State) (e : Nat) (v : Reg32), e < 4 → s.evtEnabled e = false → field v 0 1 = 1 →
    ∃ t, exec (.eventRingEnable (hostWrite4 (evtReg e 8) v)) s = .next t ∧ t.evtEnabled e = true ∧ (t.evRing e).phase = true ∧
      t.evtSize e = 2 ^ field v 1 5) ∧
  (∀ (s : State) (v : Reg32), ∃ t, exec (.engineEnable (hostWrite4 0xC v)) s = .next t ∧ field (t.bar 0xC) 0 1 = field v 0 1 ∧
    field (t.bar 0xC) 1 31 = field (s.bar 0xC) 1 31)

/-- R312, R371, R372, R391, R392, Table HST-7: each job command is carried out in the phases that the table permits, and completes with
its code otherwise; a STOP stops the job after the next commit or at once; a table set is read from the host's memory, each record with
its header of 16 octets, and takes effect at once while the abort or the Blot phase awaits it, else at the commit. -/
def Obligations.JobCommands : Prop :=
  (∀ (s : State) (q : Nat) (d : Taken) (img : JobImage), s.jobReady q 0x10 d →
    (∀ g ∈ img.units, s.banksIdle g.unit) →
    let cls := field (s.bar 4) 0 16
    ∃ t, exec (.loadImage q img true) s = .next t ∧
      (s.seq.running = true → t.completed q d.index 0x708 0 ∧ t.host.image = s.host.image) ∧
      (s.seq.running = false → img.detClass.toNat ≠ cls → t.completed q d.index 0x806 0 ∧ t.host.image = s.host.image) ∧
      (s.seq.running = false → img.detClass.toNat = cls → img.digestOk = false →
        t.completed q d.index 0x70D 0 ∧ t.host.image = s.host.image) ∧
      (s.seq.running = false → img.detClass.toNat = cls → img.digestOk = true → img.tables.all tableRecOk = true →
        t.completed q d.index 0 img.octets ∧ t.host.image = some img ∧ t.seq.sched.step = img.step ∧
          t.seq.sched.jobSeed = img.jobSeed ∧ field (t.bar 8) 4 1 = 1 ∧ field (t.bar 8) 18 1 = 0)) ∧
  (∀ (s : State) (q : Nat) (d : Taken), s.jobReady q 0x11 d →
    ∃ t, exec (.start q) s = .next t ∧
      (s.holding = false → s.seq.running = false → s.host.image.isSome = true →
        t.completed q d.index 0 s.seq.sched.step.toNat ∧ t.seq.running = true ∧ t.seq.phase = 1 ∧
          t.seq.sched = s.seq.sched ∧ field (t.bar 8) 18 1 = 0) ∧
      (s.holding = false → (s.seq.running = true ∨ s.host.image = none) → t.completed q d.index 0x708 0 ∧ t.seq = s.seq) ∧
      (s.holding = true → s.seq.phase = 6 → 5 ≤ s.seq.committed → s.seq.running = true → s.seq.refetch = [] → s.dueDigests = [] →
        s.dueCheckpoints = [] → s.seq.transfer = none → s.plannedDue = false → s.repairing = false → s.seq.tests = [] →
        s.seq.stopAfter = none → s.seq.replan = false → s.seq.recreate = [] → t.seq.phase = 1 ∧ t.seq.held = false ∧ t.completed q d.index 0 s.seq.sched.step.toNat)) ∧
  (∀ (s : State) (q : Nat) (d : Taken), s.jobReady q 0x12 d → dOp d.octets = 0x12 →
    ∃ t, exec (.stop q) s = .next t ∧
      (s.seq.running = false → t.completed q d.index 0x708 0) ∧
      (s.seq.running = true → s.inFlight q = [d] → s.holding = true ∨ (jArg d % 2 = 1 ∧ s.seq.phase = 7) →
        t.completed q d.index 0 (s.seq.sched.step.toNat - 1)) ∧
      (s.seq.running = true → s.holding = true ∨ jArg d % 2 = 1 → t.hasCompleted q d.index ∧ t.seq.running = false ∧
        t.seq.phase = 0 ∧ t.seq.sched = s.seq.sched ∧ field (t.bar 8) 18 1 = 1) ∧
      (s.seq.running = true → s.holding = false → jArg d % 2 = 0 → s.seq.phase ≠ 6 →
        t = { s with seq := { s.seq with stopAfter := s.seq.stopAfter.or (some 0) } })) ∧
  (∀ (s : State) (q op : Nat) (d : Taken), s.jobReady q op d → op = 0x13 ∨ op = 0x16 →
    let pend := if op = 0x13 then s.seq.checkpoints else s.seq.digests
    (∀ c ∈ pend, ¬(c.ring = q ∧ c.index = d.index)) →
    ∃ t, exec (if op = 0x13 then .checkpoint q else .digest q) s = .next t ∧
      (s.jobRuns = false → t.completed q d.index 0x708 0 ∧ t.seq = s.seq) ∧
      (s.jobRuns = true → jStep d < s.seq.sched.step → t.completed q d.index 0x807 0 ∧ t.seq = s.seq) ∧
      (s.jobRuns = true → s.seq.sched.step ≤ jStep d → op = 0x13 → jLength d < s.checkpointSize →
        t.completed q d.index 0x70E 0 ∧ t.seq = s.seq) ∧
      (s.jobRuns = true → s.seq.sched.step ≤ jStep d → (op = 0x13 → s.checkpointSize ≤ jLength d) →
        ∃ c : Target, c.ring = q ∧ c.index = d.index ∧ c.step = jStep d ∧ c.addr = BitVec.ofNat 64 (jHost d) ∧
          (op = 0x13 → t.seq.checkpoints = s.seq.checkpoints ++ [c]) ∧ (op = 0x16 → t.seq.digests = s.seq.digests ++ [c]))) ∧
  (∀ (s : State) (c : Target) (e : Taken), s.seq.transfer = some c → e ∈ (s.ring c.ring).taken → e.index = c.index →
    e.finished = none →
    let os := s.checkpointOctets (s.ownShards.map fun k => (k, s.shardBlocks k))
    (os.length ≤ c.room → os.length < 2 ^ 64 → ∃ t, exec (.checkpointTransferComplete ⟨true, []⟩) s = .next t ∧
      t.hostRead c.addr.toNat os.length = os ∧ t.completed c.ring c.index 0 os.length) ∧
    ∃ t, exec (.checkpointTransferComplete ⟨false, []⟩) s = .next t ∧ t.completed c.ring c.index 0x704 0 ∧
      t.hostMem = s.hostMem) ∧
  (∀ (s : State) (q : Nat) (d : Taken) (ck : Checkpoint), s.jobReady q 0x14 d → s.seq.restoring = none →
    let written := s.restoredRows ck
    let same := written.digestsMatch ck (s.ownShards.map fun k => (k, written.shardBlocks k))
    ∃ t, exec (.restore q ck ⟨[], true⟩) s = .next t ∧
      (s.seq.running = true ∨ s.host.image = none → t.completed q d.index 0x708 0 ∧ t.seq = s.seq) ∧
      (s.seq.running = false → s.host.image.isSome = true → ck.detClass.toNat ≠ field (s.bar 4) 0 16 →
        t.completed q d.index 0x806 0 ∧ t.seq = s.seq ∧ t.wells = s.wells) ∧
      (s.seq.running = false → s.host.image.isSome = true → ck.detClass.toNat = field (s.bar 4) 0 16 → same = false →
        t.completed q d.index 0x80D 0 ∧ t.seq = s.seq) ∧
      (s.seq.running = false → s.host.image.isSome = true → ck.detClass.toNat = field (s.bar 4) 0 16 → same = true →
        t.seq.sched.step = ck.step ∧ t.seq.sched.jobSeed = ck.jobSeed ∧ t.seq.sched.updCount = BitVec.ofNat 36 ck.updCount ∧
          t.seq.sched.scaleMin = BitVec.ofInt 9 ck.scaleMin ∧ t.seq.sched.cleanLimit = BitVec.ofNat 24 ck.cleanLimit ∧
          t.seq.sched.skipLimit = BitVec.ofNat 12 ck.skipLimit ∧ t.seq.carried = ck.carried ∧ (t.seq.restoring = none → t.completed q d.index 0 ck.step.toNat))) ∧
  (∀ (s : State) (q : Nat) (d : Taken) (os : List Octet) (superseded : Bool), s.jobReady q 0x15 d →
    (∀ e ∈ s.sys.tables, ¬(e.1 = q ∧ e.2.1 = d.index)) →
    let read := (s.hostWrite (jHost d) os).readSet d
    ∃ t, exec (.redistribute q os true superseded) s = .next t ∧
      (s.jobRuns = false → t.completed q d.index 0x708 0 ∧ t.sys = s.sys) ∧
      (s.jobRuns = true → read = none → t.completed q d.index 0x70F 0 ∧ t.sys = s.sys) ∧
      (s.jobRuns = true → read ≠ none → superseded = true → t.completed q d.index 0x80C 0 ∧ t.sys = s.sys) ∧
      (s.jobRuns = true → superseded = false → ∀ set, read = some set →
        let awaited := s.seq.replan = true ∧ (s.seq.phase = 7 ∨ s.inTail = true)
        (awaited → t.hasCompleted q d.index) ∧
        (¬awaited → t.seq = s.seq ∧ t.sys = { s.sys with tables := s.sys.tables ++ [(q, d.index, set)] }))) ∧
  (∀ (r : TableRec), r.kind < 256 → r.region < 256 → r.first < 2 ^ 32 → r.count < 2 ^ 32 → 8 * r.words.length < 2 ^ 32 →
    ∀ n, setRecords (n + 1) (leOctets 1 r.kind ++ leOctets 1 r.region ++ leOctets 2 0 ++ leOctets 4 r.first ++ leOctets 4 r.count ++
      leOctets 4 (8 * r.words.length) ++ r.words.flatMap fun w => leOctets 8 w.toNat) = some [r])

/-- R6, R376, R378, R379, R432, R453, R457-R460, R462, R465: resets of the function, its power states, configuration requests, and reads of
and writes to BAR0 with their refusals; ttl_init reads as written, and takes effect at once only while Idle; page 1 clears reach only W1C bits; the summaries mirror their sources. -/
def Obligations.EndpointAndRegisters : Prop :=
  (∀ (s : State), s.seq.phase ≠ 6 → ∀ c ∈ [Instr.flr, .hotReset, .perst], ∃ t, exec c s = .next t ∧
    (∀ off, off < 0x10000 → off ≠ 0 → off ≠ 4 → t.bar off = barReset off) ∧ t.host.rings = [] ∧ t.host.d3 = false ∧
      t.seq.held = s.seq.running ∧ t.seq.running = s.seq.running ∧ t.seq.sched = s.seq.sched) ∧
  (∀ (s : State), exec .d3hot s = .next { s with host := { s.host with d3 := true } } ∧
    ∃ t, exec .d0 s = .next t ∧ t.host.d3 = false ∧ ∀ v < 64, field (s.bar (pbaReg v)) (v % 32) 1 = 1 →
      s.msixMasked v = false → field (t.bar (pbaReg v)) (v % 32) 1 = 0 ∧ ∃ a x, Out.msix v a x ∈ t.out) ∧
  (∀ (s : State) (a : BitVec 12) (w : Option Reg32),
    (s.host.ready = false → exec (.configurationRequest a w) s = .next (s.emit (.config true 0))) ∧
    (s.host.ready = true → w = none → ∃ v, exec (.configurationRequest a w) s = .next (s.emit (.config false v)) ∧
      (a.toNat < 4 → field v 16 16 = 0x4816) ∧ (a.toNat / 4 = 4 → field v 0 20 = 4) ∧
      (6 ≤ a.toNat / 4 → a.toNat / 4 < 10 → v = 0)) ∧
    (s.host.ready = true → w ≠ none → ∃ t l, exec (.configurationRequest a w) s = .next t ∧
      t.out = s.out ++ l ++ [.config false 0] ∧ ∀ o ∈ l, ∃ v x y, o = Out.msix v x y)) ∧
  (∀ (s : State) (v : Nat) (x : Reg32), v < 64 → field x 0 1 = 0 → s.host.fnMask = false → s.host.d3 = false →
    field (s.bar (pbaReg v)) (v % 32) 1 = 1 → ∃ t, exec (.msixEntryWrite (hostWrite4 (msixReg v 0xC) x)) s = .next t ∧
      t.msixMasked v = false ∧ field (t.bar (pbaReg v)) (v % 32) 1 = 0 ∧ ∃ a y, Out.msix v a y ∈ t.out) ∧
  (∀ (s : State) (w : BarWrite), (w.fullBe = false ∨ (w.size ≠ 4 ∧ w.size ≠ 8) ∨ w.offset % w.size ≠ 0) →
    exec (.registerWrite w) s = .next (s.emit .unsupported)) ∧
  (∀ (s : State) (off : Nat), (∀ size, size ≠ 4 → size ≠ 8 → s.barRead off size = none) ∧
    (off % 4 ≠ 0 → s.barRead off 4 = none) ∧ (off < 2 ^ 20 → off % 4 = 0 → s.barRead off 4 = some [s.bar off]) ∧
    (off < 2 ^ 20 → off % 8 = 0 → s.barRead off 8 = some [s.bar off, s.bar (off + 4)])) ∧
  (∀ (s : State) (v : Reg32), ∃ t, exec (.registerWrite (hostWrite4 0x30808 v)) s = .next t ∧
    field (t.bar 0x30808) 0 5 = field v 0 5 ∧ t.ttlInit = (if s.seqIdle then field v 0 5 else s.ttlInit)) ∧
  (∀ (s : State) (w : BarWrite), w.fullBe = true → w.size = 4 → w.offset % 4 = 0 → controlReg w.offset = true → w.writer ≠ .host →
    writerCode w.writer ≠ s.penHolder → ∃ t, exec (.registerWrite w) s = .next t ∧ t.bar w.offset = s.bar w.offset ∧
      field (t.bar mgtErr) 1 1 = 1 ∧ raisedOne s t 0x061 4 (writerCode w.writer)) ∧
  (∀ (s : State) (v : Reg32), (∃ t, exec (.registerWrite (hostWrite4 0x10 v)) s = .next t ∧
      field (t.bar 0x10) 0 16 = max 250 (field v 0 16)) ∧
    (∃ t, exec (.registerWrite (hostWrite4 0x1000C v)) s = .next t ∧ field (t.bar 0x1000C) 16 16 = max 12000 (field v 16 16) ∧
      field (t.bar 0x1000C) 0 16 = field (s.bar 0x1000C) 0 16) ∧
    ∀ off, off % 4 = 0 → 0x50804 ≤ off → off < 2 ^ 20 → exec (.registerWrite (hostWrite4 off v)) s = .next s) ∧
  (∀ (s : State) (v : Reg32), field v 24 1 = 1 →
    let r := field v 14 6
    let i := field v 0 14
    let mask := wd ((s.bar 0x20).toNat + field v 20 4 * 2 ^ 32)
    ∃ t, exec (.p1clrSend (hostWrite4 0x24 v)) s = .next t ∧
      ((s.svc r).inService = false → (∀ k j, t.p1 k j = s.p1 k j) ∧ field (t.bar 0x18) 0 20 = 0x24 ∧ field (t.bar 0x18) 20 3 = 2) ∧
      ((s.svc r).inService = true → p1Defined i = false → (∀ k j, t.p1 k j = s.p1 k j) ∧ field (t.bar 0x18) 20 3 = 3) ∧
      ((s.svc r).inService = true → p1Defined i = true → ¬(i = 5569 ∧ mask.getLsbD 16 = true) →
        t.p1 r i = s.p1 r i &&& ~~~(p1W1c i &&& mask) ∧ ∀ k j, ¬(k = r ∧ j = i) → t.p1 k j = s.p1 k j)) ∧
  (∀ (s : State) (r : Nat) (v : Reg32), r < 48 → ∃ t, exec (.summaryClear (hostWrite4 (welReg r 0x18) v)) s = .next t ∧
    ((s.svc r).inService = true → v.getLsbD 0 = true → ∀ c < 16, field (t.p1 r (14352 + 2 * c)) 32 1 = 0) ∧
    ((s.svc r).inService = true → v.getLsbD 3 = true → field (t.p1 r 14388) 20 1 = 0) ∧
    ((s.svc r).inService = false → v.getLsbD 3 = true → field (t.bar (welReg r 0x18)) 3 1 = 0 ∧ ∀ k j, t.p1 k j = s.p1 k j)) ∧
  (∀ (s : State) (r : Nat), r < 48 → ∃ t, exec (.summaryRefresh r) s = .next t ∧ (∀ k j, t.p1 k j = s.p1 k j) ∧
    ((s.svc r).inService = true → field (t.bar (welReg r 8)) 17 1 = 1 ∧
      field (t.bar (welReg r 8)) 19 1 = field (s.p1 r 14385) 0 1 ∧ (t.bar (netReg r 4)).toNat = field (s.p1 r 5568) 0 24 ∧
      field (t.bar (netReg r 0x14)) 0 13 = field (s.p1 r 5573) 23 13) ∧
    ((s.svc r).inService = false → field (t.bar (welReg r 8)) 17 1 = 0 ∧ t.bar (welReg r 0x10) = s.bar (welReg r 0x10)))

/-! ### Power, clocks and heat (spec/15) -/

/-- R399 to R402, R472: the interlock connects the first source and holds any other off until the first is gone and the rail has fallen;
one feed of two lost or restored changes no rail; the last one lost, both lost, or the service connector unseated, leave the module
without power, but for the management controllers while a source that was held off is present. -/
def Obligations.PowerSources : Prop :=
  (∀ (s : State) (src : Source) (both : Bool), s.hasSource src = false →
    ∃ t, exec (.sourceConnect src both) s = .next t ∧ t.hasSource src = true ∧
      (s.power.connected = sourceKind src → t.power.connected = sourceKind src ∧ t.power.heldOff = s.power.heldOff ∧
        t.host = s.host) ∧
      (s.power.connected = 0 → both = false → s.power.heldOff = false → t.power.connected = sourceKind src ∧
        t.power.heldOff = false ∧ field (t.bar 0x10000) 0 2 = sourceKind src ∧ t.host = s.host) ∧
      (s.power.connected ≠ sourceKind src → (s.power.connected ≠ 0 ∨ both = true ∨ s.power.heldOff = true) →
        t.power.connected = s.power.connected ∧ t.power.heldOff = true ∧ field (t.bar 0x10000) 5 1 = 1 ∧
        field (t.bar pwrErr) 11 1 = 1 ∧ raisedOne s t 0x05B 4 0xFFFF)) ∧
  (∀ (s : State), s.power.heldOff = true → s.power.connected = 0 → (s.power.feedA || s.power.feedB) ≠ s.power.service →
    ∃ t, exec .interlockRelease s = .next t ∧ t.power.heldOff = false ∧
      t.power.connected = (if s.power.service then 2 else 1) ∧ field (t.bar 0x10000) 0 2 = t.power.connected ∧
      field (t.bar 0x10000) 5 1 = 0) ∧
  (∀ (s : State) (src : Source), src ≠ .service → s.hasSource src = true →
    let last := s.power.connected = 1 ∧ ¬(s.power.feedA = true ∧ s.power.feedB = true)
    ∃ t, exec (.feedLoss src) s = .next t ∧ t.hasSource src = false ∧ field (t.bar 0x10000) (feedBit src) 1 = 0 ∧
      (¬last → t.power.connected = s.power.connected ∧ t.seq = s.seq ∧ t.clusters = s.clusters ∧ field (t.bar pwrErr) 0 1 = 1 ∧
        raisedOne s t 0x050 4 0xFFFF) ∧
      (last → t.power.connected = 0 ∧ t.units = [] ∧ t.seq = Sequencer.reset ∧ t.power.faultLog.getLast? = some 0x505)) ∧
  (∀ (s : State) (src : Source), src ≠ .service → s.hasSource src = false → s.power.connected = 1 →
    ∃ t, exec (.feedRestore src) s = .next t ∧ t.hasSource src = true ∧ t.power.connected = 1 ∧ t.seq = s.seq ∧
      t.clusters = s.clusters ∧ field (t.bar 0x10000) (feedBit src) 1 = 1 ∧ raisedOne s t 0x051 4 0xFFFF) ∧
  (∀ (s : State), ∃ t, exec .bothFeedsLost s = .next t ∧ t.power.feedA = false ∧ t.power.feedB = false ∧
    (s.power.connected = 1 → t.power.connected = 0 ∧ t.units = [] ∧ t.seq = Sequencer.reset ∧ t.net = [] ∧
      (s.power.faultLog.length < 64 → t.power.faultLog = s.power.faultLog ++ [0x505]) ∧
      t.mgmt.flashA = s.mgmt.flashA ∧ t.mgmt.flashB = s.mgmt.flashB ∧ t.hostMem = s.hostMem ∧
      (s.power.service = true → t.penHolder = s.penHolder ∧ t.penGen = s.penGen ∧ t.mgmt.journal = s.mgmt.journal)) ∧
    (s.power.connected ≠ 1 → t.power.connected = s.power.connected ∧ t.units = s.units ∧ t.seq = s.seq) ∧
    (s.power.connected = 2 → t.power.heldOff = false)) ∧
  (∀ (s : State), ∃ t, exec .serviceConnectorRemoval s = .next t ∧ t.power.service = false ∧
    (s.power.connected = 2 → t.power.connected = 0 ∧ t.units = [] ∧ t.seq = Sequencer.reset) ∧
    (s.power.connected = 1 → t.power.connected = 1 ∧ t.power.heldOff = false ∧ t.units = s.units ∧ t.seq = s.seq))

/-- R58, R407 to R412, R417, R474, Tables PWR-3 and PWR-6: lost phases hold a cluster at ÷6 or darken it and gate its clock; a droop lengthens
the clock's periods, for a time that is a free value but for the 100 ns at its end (log 98); a short isolates its region and aborts
the step; the routers around it leave its ports; a lock loss isolates the regions of its die, and so does
the failure of its controller (log 144). -/
def Obligations.RailsAndIsolation : Prop :=
  (∀ (s : State) (c p : Nat), c < 960 → p < 8 → (s.bar (pwrCluster c)).getLsbD (8 + p) = true →
    field (s.bar (pwrCluster c)) 22 1 = 0 →
    (∀ v, v / 16 = c → ∀ b, ∀ q ∈ ((s.unit v).bank b).waiting ++ ((s.unit v).bank b).parked, q.acc.unit = v) →
    ∃ t, exec (.phaseLoss c p) s = .next t ∧ (t.bar (pwrCluster c)).getLsbD (8 + p) = false ∧ field (t.bar pwrErr) 1 1 = 1 ∧
      (t.cluster c).lost.getLsbD p = true ∧
      (7 ≤ s.workingPhases c → raisedOne s t 0x052 0 (c % 20) ∧ t.cluster c = { s.cluster c with lost := (t.cluster c).lost } ∧
        (∀ k ≠ c, t.cluster k = s.cluster k) ∧ t.seq = s.seq) ∧
      (s.workingPhases c = 6 → (t.cluster c).phaseFloor = 6 ∧ 6 ≤ t.divTarget c ∧ t.followsFloors c ∧ t.seq = s.seq) ∧
      (s.workingPhases c ≤ 5 → field (t.bar (pwrCluster c)) 22 1 = 1 ∧ (t.cluster c).stopped = true ∧
        (∀ u, u / 16 = c → t.unit u = Unit.reset ∧
          (s.column u ≠ 7 → ∃ w ∈ (t.region (c / 20)).epochWaits, w.unit = u ∧ w.column = 7)) ∧
        (s.seq.running = true → t.reports 0x501))) ∧
  (∀ (s : State) (c : Nat), c < 960 → ∃ t, exec (.droop c) s = .next t ∧
    field (t.bar (pwrCluster c + 4)) 16 8 = min (field (s.bar (pwrCluster c + 4)) 16 8 + 1) 255 ∧
    field (t.bar pwrErr) 10 1 = 1 ∧ s.root + 720 ≤ (t.cluster c).stretched ∧ t.aclkOf c = s.aclkOf c ∧
    (field (s.bar pwrErr) 10 1 = 0 → raisedOne s t 0x059 0 (c % 20)) ∧
    (field (s.bar pwrErr) 10 1 = 1 → t.host = s.host)) ∧
  (∀ (s : State) (r : Nat) (t3 : Bool), r < 48 → s.switchClosed r = true →
    ∃ t, exec (.isolationTrip r t3) s = .next t ∧ (t.svc r).isoLow = true ∧ t.regionState r = 3 ∧
      field (t.bar pwrErr) 5 1 = 1 ∧ (t3 = true → field (t.bar (pwrRegion r)) 4 1 = 1 ∧ field (t.bar pwrErr) 4 1 = 1) ∧
      (t3 = false → raisedOne s t 0x502 4 0xFFFF) ∧ (s.seq.running = true → t.reports 0x502)) ∧
  (∀ (s : State) (r : Nat), r < 48 → (s.svc r).isoLow = true → (s.svc r).gated = false →
    ∀ queued, ∃ t, exec (.detourSwitch ⟨r, queued⟩) s = .next t ∧ (t.svc r).gated = true ∧ (t.svc r).withdrawn = true ∧
      (∀ c, c / 20 = r → (t.cluster c).stopped = true ∧ (t.cluster c).cycBase = s.aclkOf c) ∧
      ∀ n < 48, adjacent n r = true → (s.svc n).gated = false → (t.region n).portOff.getLsbD (portToward n r) = true ∧
        ((s.region n).detour = none → (t.region n).detour = some r) ∧
        ∀ d, (s.region n).detour = some d → (t.region n).detour = some d) ∧
  (∀ (s : State) (d : Nat), d < 12 → field (s.bar (pwrPll d)) 0 1 = 1 →
    ∃ t, exec (.pllLockLoss (.lock d)) s = .next t ∧ field (t.bar (pwrPll d)) 0 1 = 0 ∧
      field (t.bar (pwrPll d)) 8 8 = min (field (s.bar (pwrPll d)) 8 8 + 1) 255 ∧ raisedOne s t 0x504 4 0xFFFF ∧
      (s.seq.running = true → t.reports 0x504) ∧
      ∀ r < 48, r / 4 = d → s.switchClosed r = true →
        (t.svc r).isoLow = true ∧ t.regionState r = 5) ∧
  (∀ (s : State) (d : Nat), d < 12 → ∃ t, exec (.pllLockLoss (.controller d)) s = .next t ∧ t.bar (pwrPll d) = s.bar (pwrPll d) ∧ t.seq = s.seq ∧
    t.host = s.host ∧ ∀ r < 48, r / 4 = d → s.switchClosed r = true →
      (t.svc r).isoLow = true ∧ t.regionState r = 5) ∧
  (∀ (s : State) (d : Nat), d < 12 → ∃ t, exec (.isolationSwitchOpen d) s = .next t ∧
    ∀ r < 48, r / 4 = d → (s.svc r).isoLow = true → s.regionState r = 5 → (t.svc r).switchOpen = true) ∧
  (∀ (s : State), (∀ d < 12, field (s.bar (pwrPll d)) 0 1 = 1) → ∃ t, exec .referenceClockLoss s = .next t ∧
    (∀ d < 12, field (t.bar (pwrPll d)) 0 1 = 0) ∧
    ∀ r < 48, s.switchClosed r = true →
      (t.svc r).isoLow = true ∧ (t.svc r).gated = true ∧ (t.svc r).withdrawn = true)

/-- R415, R416, R418 to R426, Table PWR-5: temperatures, the power cap and the peak guard move the floors that dividers follow; T2 marks a
region and T3 isolates it; the hour's record of each cluster goes to the field notes, in a layout of the model's (log 165); the margin plan, which a write to
its run bit also asks for, takes the first setting with 10 percent of slack and 15 mV of guard, at once on an idle
module and at the next blot point otherwise, and spares the rows of a cluster that has none. -/
def Obligations.HeatPowerAndPlan : Prop :=
  (∀ (s : State) (r : Nat) (l : List (Sensor × Nat)), r < 48 → s.regionState r = 2 → (s.svc r).isoLow = false →
    ∃ t, exec (.thermalReading r l) s = .next t ∧
      (∀ i < 20, ∀ v, hotter l i = some v → let c := 20 * r + i
        field (t.bar (pwrCluster c + 4)) 0 8 = min v 255 ∧
        field (t.bar (pwrCluster c + 4)) 8 8 = max (field (s.bar (pwrCluster c + 4)) 8 8) (min v 255) ∧
        (v < 95 → (t.cluster c).thermalFloor = (s.cluster c).thermalFloor) ∧
        (95 ≤ v → (s.cluster c).thermalFloor < 6 → (∀ b, (s.cluster c).floorStep = some b → b + rootMs ≤ s.root) →
          (t.cluster c).thermalFloor = (s.cluster c).thermalFloor + 1 ∧ t.followsFloors c ∧ field (t.bar pwrErr) 2 1 = 1)) ∧
      (((∃ i < 20, ∃ v, hotter l i = some v ∧ 105 ≤ v) ∨ ∃ w, wellReading l = some w ∧ 95 ≤ w) →
        t.t2Pending r = true ∧ (∀ i < 20, 6 ≤ t.divTarget (20 * r + i)) ∧
        (s.t2Pending r = false → (∀ i < 20, t.followsFloors (20 * r + i)) ∧
          (s.seq.phase ≠ 6 → (t.svc r).plannedWithdraw = true) ∧
          (s.seq.phase = 6 → (t.svc r).plannedWithdraw = (s.svc r).plannedWithdraw))) ∧
      ((∃ i < 20, ∃ v, hotter l i = some v ∧ 115 ≤ v) → (t.svc r).isoLow = true ∧ t.regionState r = 4 ∧
        field (t.bar pwrErr) 4 1 = 1 ∧ (s.seq.running = true → t.reports 0x503)) ∧
      ((∀ i < 20, ∀ v, hotter l i = some v → v < 115) → (t.svc r).isoLow = false ∧ t.seq = s.seq)) ∧
  (∀ (s : State) (c : Nat), c < 960 → 4 < (s.cluster c).thermalFloor → s.tenMsSince (s.cluster c).hotAt = true →
    s.tenMsSince (s.cluster c).backAt = true →
    ∃ t, exec (.thermalStepBack c) s = .next t ∧ (t.cluster c).thermalFloor = (s.cluster c).thermalFloor - 1 ∧
      t.followsFloors c ∧ raisedOne s t 0x055 0 (c % 20)) ∧
  (∀ (s : State) (draw : Nat) (up down : Bool), s.penHolder ≠ 0 →
    let cap := field (s.bar 0x1000C) 16 16
    ∃ t, exec (.powerCapComparison draw up down) s = .next t ∧ field (t.bar 0x1000C) 0 16 = min draw 65535 ∧
      (cap < draw → up = true → s.power.capFloor < 6 → t.power.capFloor = s.power.capFloor + 1 ∧
        raisedOne s t 0x057 4 0xFFFF ∧ ∀ c < 960, t.followsFloors c) ∧
      (draw + 1000 < cap → down = true → 4 < s.power.capFloor → t.power.capFloor = s.power.capFloor - 1 ∧
        raisedOne s t 0x057 4 0xFFFF ∧ ∀ c < 960, t.followsFloors c) ∧
      (¬(cap < draw ∧ up = true ∧ s.power.capFloor < 6) → ¬(draw + 1000 < cap ∧ down = true ∧ 4 < s.power.capFloor) →
        t.power = s.power ∧ t.clusters = s.clusters ∧ t.host = s.host)) ∧
  (∀ (s : State), s.power.peakFloor ≠ 6 → ∃ t, exec .peakGuard s = .next t ∧ raisedOne s t 0x058 4 0xFFFF ∧
    ∀ c < 960, 6 ≤ t.divTarget c ∧ t.followsFloors c) ∧
  (∀ (s : State), ∃ t, exec .peakGuardRelease s = .next t ∧ t.power = { s.power with peakFloor := 4 } ∧ t.host = s.host ∧
    ∀ c < 960, t.followsFloors c) ∧
  (∀ (s : State) (c d : Nat), c < 960 → (s.cluster c).newDiv = some d →
    ∃ t, exec (.dividerChange c) s = .next t ∧ (t.cluster c).div = d ∧ (t.cluster c).newDiv = none ∧
      t.aclkOf c = s.aclkOf c ∧ field (t.bar (pwrCluster c)) 0 3 = d % 8 ∧
      field (t.bar (pwrCluster c)) 16 6 = (if s.onService then 10 else (s.cluster c).planCode % 64) ∧
      ∀ k ≠ c, t.cluster k = s.cluster k) ∧
  (∀ (s : State) (r : Nat) (l : List (Nat × Int × Int)), r < 48 → (l.map (·.1)).Nodup →
    ∃ t, exec (.slackMeasurement r l) s = .next t ∧ t = { s with clusters := t.clusters } ∧
      ∀ e ∈ l, e.1 < 20 → t.cluster (20 * r + e.1) =
        let k := s.cluster (20 * r + e.1)
        { k with
          slackMxa := e.2.1, slackSpd := e.2.2, slackSum := k.slackSum + e.2.1 + e.2.2, slackNum := k.slackNum + 2
          slackMin := if k.slackNum = 0 then min e.2.1 e.2.2 else min k.slackMin (min e.2.1 e.2.2) }) ∧
  (∀ (s : State) (osc : List (Nat × List Nat)), s.penHolder ≠ 0 → s.power.connected ≠ 0 →
    ∃ t, exec (.hourlyAgeingRecord osc) s = .next t ∧
      field (t.bar 0x1001C) 2 16 = min (field (s.bar 0x1001C) 2 16 + 1) 65535 ∧
      (∃ e, t.mgmt.journal = s.mgmt.journal ++ [e] ∧ e.payload.length = 2 + 16 * 960 ∧ e.payload.take 2 = leOctets 2 9 ∧
        ∀ c < 960, (e.payload.drop (2 + 16 * c)).take 16 = (s.cluster c).hourRecord (((osc.find? fun x => x.1 == c).map (·.2)).getD [])) ∧
      ∀ c < 960, (t.cluster c).hourPeak = 0 ∧ (t.cluster c).slackNum = 0 ∧ ((s.cluster c).hourPeak ≠ 0 →
        (t.cluster c).peaks = ((s.cluster c).hourPeak :: (s.cluster c).peaks).take 500)) ∧
  (∀ (s : State), s.penHolder ≠ 0 → ∃ t, exec .marginPlan s = .next t ∧ (∃ e ∈ t.host.events, e.code = 0x05A) ∧
    (∀ c d v, s.planned c → s.firstSetting c d v →
      (s.seq.running = true → ∃ l, t.power.plan = some l ∧ (c, d, min (v + 3) 60) ∈ l) ∧
      (s.seq.running = false → s.t2Pending (c / 20) = false →
        (t.cluster c).planDiv = d ∧ (t.cluster c).planCode = min (v + 3) 60)) ∧
    (∀ c, s.planned c → (∀ d v, d = 4 ∨ d = 5 ∨ d = 6 → v ≤ 60 → s.slackAt c d v < 1000) →
      (s.seq.running = true → c ∈ t.power.retire) ∧
      (s.seq.running = false → (s.svc (c / 20)).inService = true → ∀ u, u / 16 = c → s.column u ≠ 7 →
        ∃ w ∈ (t.region (c / 20)).epochWaits, w.unit = u ∧ w.column = 7)) ∧
    field (t.bar 0x1001C) 2 16 = 0 ∧ field (t.bar 0x1001C) 1 1 = s.seq.running.toNat ∧
    (s.seq.running = false → t.power.plan = none)) ∧
  (∀ (s : State) (v : Reg32), field v 0 1 = 1 → exec (.registerWrite (hostWrite4 0x1001C v)) s = exec .marginPlan s)

/-! ### Management (spec/16) -/

/-- R430 to R434, R436, R437, R439, Table MGT-1: the pen moves only by a compare-and-set that finds what it expects; a third missed heartbeat,
a release and a pen of none pass it on, and no step is touched; a takeover uses the value of the pen that the follower last read; a boot
halts with its code or makes the module ready, and leaves the pen with a controller that holds it already (log 170); a warm reset is a
boot over a wafer that kept its power. -/
def Obligations.PenAndBoot : Prop :=
  (∀ (s : State) (who : Writer) (holder new : Nat) (gen : BitVec 16), who ≠ .host →
    ∃ t, exec (.penCompareAndSet who holder gen new) s = .next t ∧ sent s t (.pen (s.bar 0x20000)) ∧ t.seq = s.seq ∧
      (s.penHolder ≠ holder ∨ s.penGen ≠ gen.toNat → t.bar 0x20000 = s.bar 0x20000 ∧ t.mgmt = s.mgmt) ∧
      (s.penHolder = holder → s.penGen = gen.toNat → new ≤ 2 →
        t.penHolder = new ∧ t.penGen = (s.penGen + 1) % 65536)) ∧
  (∀ (s : State), s.penHolder ≠ 0 → ∃ t, exec .heartbeat s = .next t ∧
    field (t.bar 0x20004) 0 16 = (field (s.bar 0x20004) 0 16 + 1) % 65536 ∧ t.bar 0x20000 = s.bar 0x20000 ∧
    ∀ p, (p = 1 ∨ p = 2) → s.penHolder = 3 - p → s.mcState p = 5 ∨ s.mcState p = 6 → t.mcState p = 3 ∧ t.lastEvent 0x064 ∧
      (t.flash p).imageA = (s.flash (3 - p)).imageA ∧ (t.flash p).imageB = (s.flash (3 - p)).imageB) ∧
  (∀ (s : State) (holder me : Nat), s.follows holder me →
    let hb := BitVec.ofNat 16 (field (s.bar 0x20004) 0 16)
    let missed := field (s.bar 0x20004) 16 2
    let third := s.mgmt.sample = some hb ∧ 2 ≤ missed
    ∃ t, exec .heartbeatSample s = .next t ∧ t.seq = s.seq ∧
      (s.mgmt.sample ≠ some hb → field (t.bar 0x20004) 16 2 = 0 ∧ t.mgmt.sample = some hb ∧ t.bar 0x20000 = s.bar 0x20000) ∧
      (s.mgmt.sample = some hb → missed < 2 → field (t.bar 0x20004) 16 2 = missed + 1 ∧ t.bar 0x20000 = s.bar 0x20000) ∧
      (third → s.mgmt.seenPen ≠ s.bar 0x20000 → t.bar 0x20000 = s.bar 0x20000 ∧ t.mgmt.seenPen = s.bar 0x20000 ∧ t.mcState me = 3) ∧
      (third → s.mgmt.seenPen = s.bar 0x20000 → t.penHolder = me ∧ t.penGen = (s.penGen + 1) % 65536 ∧ t.mcState me = 4 ∧
        (s.mcState holder = 4 → t.mcState holder = 3) ∧ t.closedSpdm s ∧ t.lastEvent 0x060 ∧
        field (t.bar mgtErr) 0 1 = 1 ∧ field (t.bar 0x20004) 16 2 = 3)) ∧
  (∀ (s : State) (holder me : Nat), s.follows holder me → ∃ t, exec .penRelease s = .next t ∧ t.penHolder = me ∧
    t.penGen = (s.penGen + 2) % 65536 ∧ t.mcState me = 4 ∧ t.closedSpdm s ∧ t.lastEvent 0x062 ∧ t.seq = s.seq) ∧
  (∀ (s : State), s.penHolder ≠ 0 → s.mcState (3 - s.penHolder) ≠ 3 → exec .penRelease s = .next s) ∧
  (∀ (s : State) (who : Writer), who ≠ .host → s.penHolder = 0 → s.mcState (writerCode who) = 3 ∨ s.mcState (writerCode who) = 4 →
    ∃ t, exec (.penNoneTimeout who) s = .next t ∧ t.penHolder = writerCode who ∧ t.penGen = (s.penGen + 1) % 65536 ∧
      t.mcState (writerCode who) = 4) ∧
  (∀ (s : State) (f : BootFacts), s.power.connected ≠ 0 → s.ready = false → ∃ t, exec (.boot f) s = .next t ∧
    (f.imageA = false → f.imageB = false → field (t.bar 0x20010) 4 12 = 0x601 ∧ field (t.bar 0x20010) 16 1 = 1 ∧ t.ready = false) ∧
    (∀ code, bootHaltCode f = some code → field (t.bar 0x20010) 4 12 = code ∧ field (t.bar 0x20010) 16 1 = 1 ∧
      field (t.bar 0x20010) 0 4 = 1 ∧ t.ready = false) ∧
    ∀ r, bootsRegion f r → s.noFailedChannel r → s.onService = false → (s.svc r).retired = false → (s.svc r).isoLow = false →
      ((s.svc r).shorted = true → f.railOk.getLsbD r = true) →
      s.booted t f s.penHolder s.penGen ∧ (t.svc r).inService = true ∧ t.regionState r = 2) ∧
  (∀ (s : State) (f : BootFacts), s.seqIdle = false → exec (.warmReset f) s = .next s) ∧
  (∀ (s : State) (f : BootFacts), s.power.connected ≠ 0 → s.seqIdle = true → ∃ t, exec (.warmReset f) s = .next t ∧
    sameWellRows s t ∧ t.units = s.units ∧ t.mgmt.identity = (s.mgmt.identity || (bootHaltCode f).isNone) ∧
    ∀ r, bootsRegion f r → s.noFailedChannel r → s.regionState r = 2 → (s.svc r).retired = false → s.booted t f 0 0 ∧ (t.svc r).inService = true)

/-- R432, R438, R441, R443, R448, R449: a controller in ROM recovery takes an image in ascending chunks and commits it to slot A on trial; an
update stages an image in the inactive slot of both flashes and activates it on trial; field notes are signed and mirrored, and
only the pen holder writes them. -/
def Obligations.FlashRecoveryAndUpdate : Prop :=
  (∀ (s : State) (who : Writer), who ≠ .host → s.mcState (writerCode who) = 6 →
    let w := writerCode who
    let r := s.recovery w
    (∃ t, exec (.recoveryStatus who) s = .next t ∧
      t = s.emit (.mctp (leOctets 1 r.state ++ leOctets 4 r.octets.length ++ leOctets 2 r.status.toNat))) ∧
    (∀ n, ∃ t, exec (.recoveryBegin who n) s = .next t ∧
      (1 ≤ n → n ≤ 134217728 → recoveryAnswered s t w 0 ∧ (t.recovery w).state = 1 ∧ (t.recovery w).length = n ∧
        (t.recovery w).octets = [] ∧ (t.flash w).imageA = none) ∧
      (n = 0 ∨ 134217728 < n → recoveryAnswered s t w 0x60C ∧ t.flash w = s.flash w)) ∧
    (∀ off data, ∃ t, exec (.recoveryData who off data) s = .next t ∧ t.flash w = s.flash w ∧
      (r.state = 1 → off = r.octets.length → 1 ≤ data.length → data.length ≤ 1024 → off + data.length ≤ r.length →
        recoveryAnswered s t w 0 ∧ (t.recovery w).octets = r.octets ++ data) ∧
      (off ≠ r.octets.length ∨ r.length < off + data.length →
        recoveryAnswered s t w 0x60C ∧ (t.recovery w).octets = r.octets)) ∧
    (∀ good, ∃ t, exec (.recoveryCommit who good) s = .next t ∧
      (r.state = 1 → r.octets.length = r.length → good = true → recoveryAnswered s t w 0 ∧ (t.recovery w).state = 3 ∧
        t.mcState w = 1 ∧ (t.flash w).active = false ∧ (t.flash w).trial = true ∧
        (t.flash w).imageA.map (·.octets) = some r.octets) ∧
      (good = false → recoveryAnswered s t w 0x60C ∧ (t.recovery w).state = 4 ∧ (t.flash w).imageA = none)) ∧
    (∃ t, exec (.recoveryAbort who) s = .next t ∧ recoveryAnswered s t w 0 ∧ (t.recovery w).state = 0 ∧
      (t.recovery w).octets = [] ∧ (t.flash w).imageA = none)) ∧
  (∀ (s : State) (os : List Octet) (rel cls : BitVec 16) (good : Bool), ∃ t, exec (.stage os rel cls good) s = .next t ∧
    (s.updatable = false → field (t.bar 0x2003C) 5 12 = 0x608 ∧ t.mgmt = s.mgmt) ∧
    (s.updatable = true → good = false → field (t.bar 0x2003C) 5 12 = 0x607 ∧ field (t.bar 0x2003C) 2 3 = 5 ∧ t.mgmt = s.mgmt) ∧
    (s.updatable = true → good = true → t.lastEvent 0x066 ∧ field (t.bar 0x2003C) 2 3 = 3 ∧
      ∃ g : Image, g.octets = os ∧ g.release = rel ∧ g.detClass = cls ∧ g.digest = Sha.sha256 os ∧ t.mgmt.staged = some g ∧
        ∀ w, w = 1 ∨ w = 2 → t.flash w = if (s.flash w).active then { s.flash w with imageA := some g } else
          { s.flash w with imageB := some g })) ∧
  (∀ (s : State), s.updatable = true → s.mgmt.staged.isSome = true → ∃ t, exec .activate s = .next t ∧
    t.mcState 1 = 1 ∧ t.mcState 2 = 1 ∧ field (t.bar 0x2003C) 2 3 = 4 ∧ t.wells = s.wells ∧
    ∀ w, w = 1 ∨ w = 2 → (t.flash w).active = !(s.flash w).active ∧ (t.flash w).trial = true ∧
      (t.flash w).imageA = (s.flash w).imageA ∧ (t.flash w).imageB = (s.flash w).imageB) ∧
  (∀ (s : State), s.updatable = false → ∃ t, exec .activate s = .next t ∧ field (t.bar 0x2003C) 5 12 = 0x608 ∧ t.mgmt = s.mgmt) ∧
  (∀ (s : State), s.penHolder ≠ 0 → s.mgmt.staged.isSome = true → ∃ t, exec .cancel s = .next t ∧ t.mgmt = { s.mgmt with staged := none } ∧
    field (t.bar 0x2003C) 2 3 = 0) ∧
  (∀ (s : State) (who : Writer), who ≠ .host → s.ready = false → (s.flash (writerCode who)).trial = true →
    ∃ t, exec (.trialTimeout who) s = .next t ∧ t.flash (writerCode who) = { s.flash (writerCode who) with revert := true }) ∧
  (∀ (s : State) (os : List Octet) (ok : Bool), s.penHolder = 1 ∨ s.penHolder = 2 →
    let h := s.penHolder
    (∀ who kind, who ≠ .host → writerCode who ≠ h → ∃ t, exec (.flashRecordWrite ⟨who, kind⟩ os ok) s = .next t ∧
      t.mgmt = s.mgmt ∧ t.lastEvent 0x061 ∧ field (t.bar mgtErr) 1 1 = 1) ∧
    ∀ who, writerCode who = h → ∃ t, exec (.flashRecordWrite ⟨who, 0x10⟩ os ok) s = .next t ∧
      t.mgmt.noteSeq = s.mgmt.noteSeq + 1 ∧
      (ok = true → (t.flash h).retiredBlocks = (s.flash h).retiredBlocks) ∧
      (ok = false → (t.flash h).retiredBlocks = (s.flash h).retiredBlocks + 1 ∧ field (t.bar mgtErr) 4 1 = 1) ∧
      ∃ e : FlashRec, e.kind = 0x10 ∧ e.payload = os ∧ e.seq = s.mgmt.noteSeq + 1 ∧ e.key = 1 ∧
        e.sig = Config.ecdsaSign (Sha.sha256 (recordHead e)) e.seq ∧ e ∈ (t.flash h).notes ∧
        (s.mcState (3 - h) = 3 → e ∈ (t.flash (3 - h)).notes) ∧ (s.mcState (3 - h) ≠ 3 → e ∈ t.mgmt.journal))

/-- R434, R447, Table MGT-5: the pen holder answers each SPDM request at the stage of the connection that it needs; only certificate slot 0, only
ECDSA P-256 with SHA-256; a connection that a handover has ended begins again (log 166). The codes of the messages are those of the SPDM standard, presumed (log 23). -/
def Obligations.AttestationResponses : Prop :=
  (∀ (s : State) (c : Instr) (stage : Nat), s.penHolder ≠ 0 → spdmRow c stage → stage ≠ 0 → s.mgmt.spdm.resynch = true →
    ∃ t, exec c s = .next t ∧ sent s t (.spdm 0x7F [0x43]) ∧ t.mgmt.spdm.resynch = true) ∧
  (∀ (s : State) (c : Instr) (stage : Nat), s.penHolder ≠ 0 → spdmRow c stage → s.mgmt.spdm.resynch = false →
    s.mgmt.spdm.stage < stage → ∃ t, exec c s = .next t ∧ sent s t (.spdm 0x7F [0x04]) ∧ t.mgmt.spdm.stage = s.mgmt.spdm.stage) ∧
  (∀ (s : State), s.penHolder ≠ 0 → ∃ t, exec .getVersion s = .next t ∧ sent s t (.spdm 0x04 [0, 1, 0, 0x12]) ∧
    t.mgmt.spdm.stage = 1 ∧ t.mgmt.spdm.session = false ∧ t.mgmt.spdm.resynch = false) ∧
  (∀ (s : State), s.penHolder ≠ 0 → s.mgmt.spdm.resynch = false → 1 ≤ s.mgmt.spdm.stage → ∃ t os, exec .getCapabilities s = .next t ∧
    sent s t (.spdm 0x61 os) ∧ t.mgmt.spdm.stage = max s.mgmt.spdm.stage 2) ∧
  (∀ (s : State) (asym hash : Nat), s.penHolder ≠ 0 → s.mgmt.spdm.resynch = false → 2 ≤ s.mgmt.spdm.stage →
    ∃ t, exec (.negotiateAlgorithms asym hash) s = .next t ∧
      (asym.testBit 4 = true → hash.testBit 0 = true → sent s t (.spdm 0x63 [0x10, 0, 0, 0, 1, 0, 0, 0]) ∧
        t.mgmt.spdm.stage = max s.mgmt.spdm.stage 3) ∧
      (asym.testBit 4 = false ∨ hash.testBit 0 = false → sent s t (.spdm 0x7F [0x01]) ∧
        t.mgmt.spdm.stage = s.mgmt.spdm.stage)) ∧
  (∀ (s : State), s.penHolder ≠ 0 → s.mgmt.spdm.resynch = false → 3 ≤ s.mgmt.spdm.stage →
    (∃ t, exec .getDigests s = .next t ∧ sent s t (.spdm 0x01 ([1] ++ Sha.digestOctets (Sha.sha256 chain)))) ∧
    (∀ off n, off < Config.chainLength → ∃ t, exec (.getCertificate 0 off n) s = .next t ∧
      let part := (chain.drop off).take n
      sent s t (.spdm 0x02 (leOctets 2 part.length ++ leOctets 2 (Config.chainLength - off - part.length) ++ part))) ∧
    (∀ slot off n, slot ≠ 0 → ∃ t, exec (.getCertificate slot off n) s = .next t ∧ sent s t (.spdm 0x7F [0x01])) ∧
    (∀ nonce, ∃ t fresh, exec (.challenge 0 nonce) s = .next t ∧ fresh.length = 32 ∧
      let os := Sha.digestOctets (Sha.sha256 chain) ++ fresh
      sent s t (.spdm 0x03 (os ++ s.spdmSign (os ++ Sha.digestOctets nonce)))) ∧
    (∀ slot nonce, slot ≠ 0 → ∃ t, exec (.challenge slot nonce) s = .next t ∧ sent s t (.spdm 0x7F [0x01])) ∧
    (∃ t, exec (.getMeasurements 0) s = .next t ∧ sent s t (.spdm 0x60 [6])) ∧
    (∀ i, 1 ≤ i → i ≤ 6 → ∃ t, exec (.getMeasurements i) s = .next t ∧
      let os := leOctets 1 i ++ leOctets 2 (s.measurement i).length ++ s.measurement i
      sent s t (.spdm 0x60 (os ++ s.spdmSign os))) ∧
    (∀ i, 6 < i → i ≠ 0xFF → ∃ t, exec (.getMeasurements i) s = .next t ∧ sent s t (.spdm 0x7F [0x01])) ∧
    (∀ key, ∃ t os, exec (.keyExchange key) s = .next t ∧ sent s t (.spdm 0x64 os) ∧ os.length = 128 ∧
      t.mgmt.spdm.session = true ∧ t.mgmt.spdm.secured = false) ∧
    (∀ good, ∃ t, exec (.finish good) s = .next t ∧
      (s.mgmt.spdm.session = false → sent s t (.spdm 0x7F [0x04])) ∧
      (s.mgmt.spdm.session = true → good = true → t.mgmt.spdm.secured = true ∧ t.mgmt.spdm.session = true) ∧
      (s.mgmt.spdm.session = true → good = false → sent s t (.spdm 0x7F [0x06]) ∧ t.mgmt.spdm.session = false))) ∧
  (∀ (s : State) (os : List Octet), s.penHolder ≠ 0 → s.mgmt.spdm.resynch = false →
    (s.mgmt.spdm.secured = false → ∃ t, exec (.ideKmRequest os) s = .next t ∧ sent s t (.spdm 0x7F [0x04]) ∧
      t.mgmt.spdm.ideKeys = s.mgmt.spdm.ideKeys) ∧
    (s.mgmt.spdm.secured = true →
      (∃ t, exec (.ideKmRequest (2 :: os)) s = .next t ∧ t.mgmt.spdm.ideKeys = s.mgmt.spdm.ideKeys ++ [os]) ∧
      (∃ t, exec (.ideKmRequest (4 :: os)) s = .next t ∧ t.mgmt.spdm.ideActive = decide (s.mgmt.spdm.ideKeys ≠ [])) ∧
      ∃ t, exec (.ideKmRequest (5 :: os)) s = .next t ∧ t.mgmt.spdm.ideActive = false))

/-! ### Reset and every step -/

/-- R44, R73, R74, R82, R126, R281, R400, R430, Tables HST-3, LNK-8, MGT-6, PWR-7, REG-5 to REG-8: what cold reset leaves, where the spec gives
a value: rows free and not full, hands idle, row maps of their own columns, no source, no pen holder, an idle sequencer, the stated
register values. The invariant holds there. -/
def Obligations.ColdReset : Prop :=
  (∀ u q, let c := (State.reset.unit u).cell q; c.tagged = false ∧ c.full = false ∧ c.nf = false) ∧
  (∀ u h, ((State.reset.unit u).hand h).st = .idle) ∧
  (∀ u, u < 15360 → State.reset.column u = u % 4) ∧ (∀ u, State.reset.cycle u = 0) ∧
  (∀ r, State.reset.p1 r 4224 = wd (2 ^ 20) ∧ State.reset.p1 r 5571 = 32 ∧ State.reset.p1 r 14386 = 16 ∧
    State.reset.p1 r 80 = 0) ∧
  State.reset.bar 0 = 0x00004816 ∧ State.reset.ready = false ∧ State.reset.bar 0x10 = 1000 ∧
  (∀ v < 64, State.reset.msixMasked v = true) ∧ (∀ q < 32, State.reset.ringEnabled q = false) ∧
  (∀ e < 4, State.reset.evtEnabled e = false) ∧
  field (State.reset.bar 0x1000C) 16 16 = 24000 ∧ State.reset.bar pwrErr = 0 ∧ (∀ r < 48, State.reset.regionState r = 0) ∧
  (∀ c < 960, field (State.reset.bar (pwrCluster c)) 0 3 = 6 ∧ (State.reset.cluster c).div = 6) ∧
  State.reset.power.connected = 0 ∧ State.reset.penHolder = 0 ∧ State.reset.penGen = 0 ∧ State.reset.mcState 1 = 0 ∧
  (∀ l < 24, State.reset.lnkState l = 0 ∧ State.reset.bar (lnkReg l 8) = 0x76543210) ∧
  State.reset.seq.phase = 0 ∧ State.reset.pending = [] ∧ State.reset.Inv

/-- Every step keeps the invariant: what waits stays well-formed, and every table of the state, the scratchpad rows and well rows
included, stays in canonical form. -/
def Obligations.StepKeepsInvariant : Prop :=
  ∀ s t : State, s.Inv → step s = .next t → t.Inv
end

