-- ==== Sys2Proof/Laws/Sparse.lean ====
section
/-! SUPPORT. Sparse tables: a read after a write, and that every operation keeps the canonical form. -/

namespace Sys2Proof

variable {α : Type}

@[simp] theorem Sparse.get_nil (d : α) (k : Nat) : Sparse.get d [] k = d := rfl

theorem Sparse.get_cons (d : α) (k : Nat) (v : α) (m : Sparse α) (key : Nat) :
    Sparse.get d ((k, v) :: m) key = if k = key then v else Sparse.get d m key := by
  simp [Sparse.get]

theorem Sparse.get_erase_same (d : α) (m : Sparse α) (key : Nat) : (m.erase key).get d key = d := by
  induction m with
  | nil => rfl
  | cons e m ih =>
    obtain ⟨k, v⟩ := e
    by_cases h : k = key
    · simp [Sparse.erase, h, ih]
    · simp [Sparse.erase, h, Sparse.get_cons, ih]

theorem Sparse.get_erase_other (d : α) (m : Sparse α) {key j : Nat} (hj : j ≠ key) :
    (m.erase key).get d j = m.get d j := by
  induction m with
  | nil => rfl
  | cons e m ih =>
    obtain ⟨k, v⟩ := e
    by_cases h : k = key
    · subst h
      simp [Sparse.erase, Sparse.get_cons, ih, Ne.symm hj]
    · simp [Sparse.erase, h, Sparse.get_cons, ih]

theorem Sparse.get_insert_same (d : α) (m : Sparse α) (key : Nat) (x : α) : (m.insert key x).get d key = x := by
  induction m with
  | nil => simp [Sparse.insert, Sparse.get_cons]
  | cons e m ih =>
    obtain ⟨k, v⟩ := e
    simp only [Sparse.insert]
    split
    · simp [Sparse.get_cons]
    · split
      · simp [Sparse.get_cons]
      · rename_i h1 h2
        have : k ≠ key := by simpa using h2
        simp [Sparse.get_cons, this, ih]

theorem Sparse.get_insert_other (d : α) (m : Sparse α) {key j : Nat} (x : α) (hj : j ≠ key) :
    (m.insert key x).get d j = m.get d j := by
  induction m with
  | nil => simp [Sparse.insert, Sparse.get_cons, Ne.symm hj]
  | cons e m ih =>
    obtain ⟨k, v⟩ := e
    simp only [Sparse.insert]
    split
    · simp [Sparse.get_cons, Ne.symm hj]
    · split
      · rename_i h1 h2
        have : k = key := by simpa using h2
        subst this
        simp [Sparse.get_cons, Ne.symm hj]
      · simp [Sparse.get_cons, ih]

variable [DecidableEq α]

/-- A read of the key just written gives the value written. -/
@[simp] theorem Sparse.get_set_same (d : α) (m : Sparse α) (key : Nat) (x : α) : (m.set d key x).get d key = x := by
  unfold Sparse.set
  split
  · rename_i h; rw [Sparse.get_erase_same, h]
  · exact Sparse.get_insert_same d m key x

/-- A write leaves every other key alone, whatever that key reads as when unlisted. -/
theorem Sparse.get_set_other (d d' : α) (m : Sparse α) {key j : Nat} (x : α) (hj : j ≠ key) :
    (m.set d key x).get d' j = m.get d' j := by
  unfold Sparse.set
  split
  · exact Sparse.get_erase_other d' m hj
  · exact Sparse.get_insert_other d' m x hj

/-! ### The canonical form -/

omit [DecidableEq α] in
theorem Sparse.rising_mono {b b' : Nat} {m : Sparse α} (h : Sparse.rising b m = true) (hb : b' ≤ b) :
    Sparse.rising b' m = true := by
  cases m with
  | nil => rfl
  | cons e m =>
    obtain ⟨k, v⟩ := e
    simp only [Sparse.rising, Bool.and_eq_true, decide_eq_true_eq] at *
    exact ⟨by omega, h.2⟩

omit [DecidableEq α] in
theorem Sparse.rising_erase {b : Nat} {m : Sparse α} (key : Nat) (h : Sparse.rising b m = true) :
    Sparse.rising b (m.erase key) = true := by
  induction m generalizing b with
  | nil => rfl
  | cons e m ih =>
    obtain ⟨k, v⟩ := e
    simp only [Sparse.rising, Bool.and_eq_true, decide_eq_true_eq] at h
    simp only [Sparse.erase]
    split
    · exact Sparse.rising_mono (ih h.2) (by omega)
    · simp only [Sparse.rising, Bool.and_eq_true, decide_eq_true_eq]
      exact ⟨h.1, ih h.2⟩

omit [DecidableEq α] in
theorem Sparse.rising_insert {b : Nat} {m : Sparse α} {key : Nat} (x : α) (hb : b ≤ key)
    (h : Sparse.rising b m = true) : Sparse.rising b (m.insert key x) = true := by
  induction m generalizing b with
  | nil => simp [Sparse.insert, Sparse.rising, hb]
  | cons e m ih =>
    obtain ⟨k, v⟩ := e
    simp only [Sparse.rising, Bool.and_eq_true, decide_eq_true_eq] at h
    simp only [Sparse.insert]
    split
    · simp only [Sparse.rising, Bool.and_eq_true, decide_eq_true_eq]
      exact ⟨hb, by omega, h.2⟩
    · split
      · rename_i h1 h2
        have : k = key := by simpa using h2
        subst this
        simp only [Sparse.rising, Bool.and_eq_true, decide_eq_true_eq]
        exact h
      · rename_i h1 h2
        have : k ≠ key := by simpa using h2
        simp only [Sparse.rising, Bool.and_eq_true, decide_eq_true_eq]
        exact ⟨h.1, ih (by omega) h.2⟩

omit [DecidableEq α] in
theorem Sparse.mem_erase {m : Sparse α} {key : Nat} {e : Nat × α} (h : e ∈ m.erase key) : e ∈ m := by
  induction m with
  | nil => exact h
  | cons f m ih =>
    obtain ⟨k, v⟩ := f
    simp only [Sparse.erase] at h
    split at h
    · exact List.mem_cons_of_mem _ (ih h)
    · rcases List.mem_cons.mp h with h | h
      · exact h ▸ List.mem_cons_self
      · exact List.mem_cons_of_mem _ (ih h)

omit [DecidableEq α] in
theorem Sparse.mem_insert {m : Sparse α} {key : Nat} {x : α} {e : Nat × α} (h : e ∈ m.insert key x) :
    e = (key, x) ∨ e ∈ m := by
  induction m with
  | nil => exact .inl (by simpa [Sparse.insert] using h)
  | cons f m ih =>
    obtain ⟨k, v⟩ := f
    simp only [Sparse.insert] at h
    split at h
    · rcases List.mem_cons.mp h with h | h
      · exact .inl h
      · exact .inr h
    · split at h
      · rcases List.mem_cons.mp h with h | h
        · exact .inl h
        · exact .inr (List.mem_cons_of_mem _ h)
      · rcases List.mem_cons.mp h with h | h
        · exact .inr (h ▸ List.mem_cons_self)
        · rcases ih h with h | h
          · exact .inl h
          · exact .inr (List.mem_cons_of_mem _ h)

@[simp] theorem Sparse.wf_nil (d : Nat → α) : Sparse.wf d [] = true := rfl

/-- A write keeps the canonical form. -/
theorem Sparse.wf_set {d : Nat → α} {m : Sparse α} (key : Nat) (x : α) (h : m.wf d = true) :
    (m.set (d key) key x).wf d = true := by
  simp only [Sparse.wf, Bool.and_eq_true, List.all_eq_true, decide_eq_true_eq] at *
  unfold Sparse.set
  split
  · exact ⟨Sparse.rising_erase key h.1, fun e he => h.2 e (Sparse.mem_erase he)⟩
  · rename_i hx
    refine ⟨Sparse.rising_insert x (Nat.zero_le _) h.1, fun e he => ?_⟩
    rcases Sparse.mem_insert he with he | he
    · subst he; exact hx
    · exact h.2 e he

/-- A write keeps the canonical form of a table whose unlisted keys all read as one value. -/
theorem Sparse.wf_set_const {d : α} {m : Sparse α} (key : Nat) (x : α) (h : m.wf (fun _ => d) = true) :
    (m.set d key x).wf (fun _ => d) = true :=
  Sparse.wf_set (d := fun _ => d) key x h

omit [DecidableEq α] in
theorem Sparse.rising_filterMap {β : Type} {b : Nat} {m : Sparse α} (f : Nat × α → Option (Nat × β))
    (hf : ∀ e g, f e = some g → g.1 = e.1) (h : Sparse.rising b m = true) : Sparse.rising b (m.filterMap f) = true := by
  induction m generalizing b with
  | nil => rfl
  | cons e m ih =>
    simp only [Sparse.rising, Bool.and_eq_true, decide_eq_true_eq] at h
    rw [List.filterMap_cons]
    split
    · exact Sparse.rising_mono (ih h.2) (by omega)
    · rename_i g hg
      have := hf e g hg
      simp only [Sparse.rising, Bool.and_eq_true, decide_eq_true_eq]
      exact ⟨by omega, this ▸ ih h.2⟩

/-- A table of which entries are dropped or replaced under their key, none by what an unlisted key reads as. -/
theorem Sparse.wf_filterMap {β : Type} [DecidableEq β] {d : Nat → α} {d' : Nat → β} {m : Sparse α} {f : Nat × α → Option (Nat × β)}
    (h : m.wf d = true) (hk : ∀ e g, f e = some g → g.1 = e.1) (hv : ∀ e g, e.2 ≠ d e.1 → f e = some g → g.2 ≠ d' g.1) :
    Sparse.wf d' (m.filterMap f) = true := by
  simp only [Sparse.wf, Bool.and_eq_true, List.all_eq_true, decide_eq_true_eq] at *
  refine ⟨Sparse.rising_filterMap f hk h.1, fun g hg => ?_⟩
  obtain ⟨e, he, x⟩ := List.mem_filterMap.mp hg
  exact hv e g (h.2 e he) x

theorem Sparse.wf_filter {d : Nat → α} {m : Sparse α} (p : Nat × α → Bool) (h : m.wf d = true) :
    Sparse.wf d (m.filter p) = true := by
  rw [← List.filterMap_eq_filter]
  refine Sparse.wf_filterMap h (fun e g x => ?_) fun e g k x => ?_
  all_goals
    simp only [Option.guard] at x
    split at x <;> cases x
  · rfl
  · exact k

/-- A table whose values are replaced, and which drops those that then read as an unlisted key does. -/
theorem Sparse.wf_mapped {β : Type} [DecidableEq β] {d : Nat → α} {d' : β} {m : Sparse α} (g : Nat × α → Nat × β)
    (hg : ∀ e, (g e).1 = e.1) (h : m.wf d = true) :
    Sparse.wf (fun _ => d') ((m.map g).filter fun e => decide (e.2 ≠ d')) = true := by
  rw [← List.filterMap_eq_filter, List.filterMap_map]
  refine Sparse.wf_filterMap h (fun e f x => ?_) fun e f k x => ?_
  all_goals
    simp only [Function.comp, Option.guard] at x
    split at x <;> cases x
  · exact hg e
  · rename_i c
    simpa using c

end Sys2Proof
end

