-- ==== Sys2Proof/Laws/State.lean ====
section
/-! SUPPORT. What each update of the state leaves as it was, and reads after writes. -/

namespace Sys2Proof.Machine

variable (s : State)

@[simp] theorem State.setUnit_pending (u : Nat) (x : Unit) : (s.setUnit u x).pending = s.pending := rfl
@[simp] theorem State.setUnit_root (u : Nat) (x : Unit) : (s.setUnit u x).root = s.root := rfl
@[simp] theorem State.setUnit_regions (u : Nat) (x : Unit) : (s.setUnit u x).regions = s.regions := rfl
@[simp] theorem State.setUnit_wells (u : Nat) (x : Unit) : (s.setUnit u x).wells = s.wells := rfl
@[simp] theorem State.setUnit_service (u : Nat) (x : Unit) : (s.setUnit u x).service = s.service := rfl
@[simp] theorem State.setUnit_clusters (u : Nat) (x : Unit) : (s.setUnit u x).clusters = s.clusters := rfl
@[simp] theorem State.setUnit_links (u : Nat) (x : Unit) : (s.setUnit u x).links = s.links := rfl
@[simp] theorem State.setUnit_bar0 (u : Nat) (x : Unit) : (s.setUnit u x).bar0 = s.bar0 := rfl
@[simp] theorem State.setUnit_seq (u : Nat) (x : Unit) : (s.setUnit u x).seq = s.seq := rfl
@[simp] theorem State.setUnit_sys (u : Nat) (x : Unit) : (s.setUnit u x).sys = s.sys := rfl
@[simp] theorem State.setUnit_host (u : Nat) (x : Unit) : (s.setUnit u x).host = s.host := rfl
@[simp] theorem State.setUnit_power (u : Nat) (x : Unit) : (s.setUnit u x).power = s.power := rfl
@[simp] theorem State.setUnit_mgmt (u : Nat) (x : Unit) : (s.setUnit u x).mgmt = s.mgmt := rfl
@[simp] theorem State.setUnit_net (u : Nat) (x : Unit) : (s.setUnit u x).net = s.net := rfl
@[simp] theorem State.setUnit_out (u : Nat) (x : Unit) : (s.setUnit u x).out = s.out := rfl
@[simp] theorem State.setUnit_hostMem (u : Nat) (x : Unit) : (s.setUnit u x).hostMem = s.hostMem := rfl

@[simp] theorem State.updUnit_pending (u : Nat) (f : Unit → Unit) : (s.updUnit u f).pending = s.pending := rfl
@[simp] theorem State.updUnit_root (u : Nat) (f : Unit → Unit) : (s.updUnit u f).root = s.root := rfl
@[simp] theorem State.updUnit_regions (u : Nat) (f : Unit → Unit) : (s.updUnit u f).regions = s.regions := rfl
@[simp] theorem State.updUnit_wells (u : Nat) (f : Unit → Unit) : (s.updUnit u f).wells = s.wells := rfl
@[simp] theorem State.updUnit_service (u : Nat) (f : Unit → Unit) : (s.updUnit u f).service = s.service := rfl
@[simp] theorem State.updUnit_clusters (u : Nat) (f : Unit → Unit) : (s.updUnit u f).clusters = s.clusters := rfl
@[simp] theorem State.updUnit_links (u : Nat) (f : Unit → Unit) : (s.updUnit u f).links = s.links := rfl
@[simp] theorem State.updUnit_bar0 (u : Nat) (f : Unit → Unit) : (s.updUnit u f).bar0 = s.bar0 := rfl
@[simp] theorem State.updUnit_seq (u : Nat) (f : Unit → Unit) : (s.updUnit u f).seq = s.seq := rfl
@[simp] theorem State.updUnit_sys (u : Nat) (f : Unit → Unit) : (s.updUnit u f).sys = s.sys := rfl
@[simp] theorem State.updUnit_host (u : Nat) (f : Unit → Unit) : (s.updUnit u f).host = s.host := rfl
@[simp] theorem State.updUnit_power (u : Nat) (f : Unit → Unit) : (s.updUnit u f).power = s.power := rfl
@[simp] theorem State.updUnit_mgmt (u : Nat) (f : Unit → Unit) : (s.updUnit u f).mgmt = s.mgmt := rfl
@[simp] theorem State.updUnit_net (u : Nat) (f : Unit → Unit) : (s.updUnit u f).net = s.net := rfl
@[simp] theorem State.updUnit_out (u : Nat) (f : Unit → Unit) : (s.updUnit u f).out = s.out := rfl
@[simp] theorem State.updUnit_hostMem (u : Nat) (f : Unit → Unit) : (s.updUnit u f).hostMem = s.hostMem := rfl

@[simp] theorem State.setRegion_pending (r : Nat) (x : Region) : (s.setRegion r x).pending = s.pending := rfl
@[simp] theorem State.setRegion_root (r : Nat) (x : Region) : (s.setRegion r x).root = s.root := rfl
@[simp] theorem State.setRegion_units (r : Nat) (x : Region) : (s.setRegion r x).units = s.units := rfl
@[simp] theorem State.setRegion_wells (r : Nat) (x : Region) : (s.setRegion r x).wells = s.wells := rfl
@[simp] theorem State.setRegion_service (r : Nat) (x : Region) : (s.setRegion r x).service = s.service := rfl
@[simp] theorem State.setRegion_clusters (r : Nat) (x : Region) : (s.setRegion r x).clusters = s.clusters := rfl
@[simp] theorem State.setRegion_links (r : Nat) (x : Region) : (s.setRegion r x).links = s.links := rfl
@[simp] theorem State.setRegion_bar0 (r : Nat) (x : Region) : (s.setRegion r x).bar0 = s.bar0 := rfl
@[simp] theorem State.setRegion_seq (r : Nat) (x : Region) : (s.setRegion r x).seq = s.seq := rfl
@[simp] theorem State.setRegion_sys (r : Nat) (x : Region) : (s.setRegion r x).sys = s.sys := rfl
@[simp] theorem State.setRegion_host (r : Nat) (x : Region) : (s.setRegion r x).host = s.host := rfl
@[simp] theorem State.setRegion_power (r : Nat) (x : Region) : (s.setRegion r x).power = s.power := rfl
@[simp] theorem State.setRegion_mgmt (r : Nat) (x : Region) : (s.setRegion r x).mgmt = s.mgmt := rfl
@[simp] theorem State.setRegion_net (r : Nat) (x : Region) : (s.setRegion r x).net = s.net := rfl
@[simp] theorem State.setRegion_out (r : Nat) (x : Region) : (s.setRegion r x).out = s.out := rfl
@[simp] theorem State.setRegion_hostMem (r : Nat) (x : Region) : (s.setRegion r x).hostMem = s.hostMem := rfl

@[simp] theorem State.updRegion_pending (r : Nat) (f : Region → Region) : (s.updRegion r f).pending = s.pending := rfl
@[simp] theorem State.updRegion_root (r : Nat) (f : Region → Region) : (s.updRegion r f).root = s.root := rfl
@[simp] theorem State.updRegion_units (r : Nat) (f : Region → Region) : (s.updRegion r f).units = s.units := rfl
@[simp] theorem State.updRegion_wells (r : Nat) (f : Region → Region) : (s.updRegion r f).wells = s.wells := rfl
@[simp] theorem State.updRegion_service (r : Nat) (f : Region → Region) : (s.updRegion r f).service = s.service := rfl
@[simp] theorem State.updRegion_clusters (r : Nat) (f : Region → Region) : (s.updRegion r f).clusters = s.clusters := rfl
@[simp] theorem State.updRegion_links (r : Nat) (f : Region → Region) : (s.updRegion r f).links = s.links := rfl
@[simp] theorem State.updRegion_bar0 (r : Nat) (f : Region → Region) : (s.updRegion r f).bar0 = s.bar0 := rfl
@[simp] theorem State.updRegion_seq (r : Nat) (f : Region → Region) : (s.updRegion r f).seq = s.seq := rfl
@[simp] theorem State.updRegion_sys (r : Nat) (f : Region → Region) : (s.updRegion r f).sys = s.sys := rfl
@[simp] theorem State.updRegion_host (r : Nat) (f : Region → Region) : (s.updRegion r f).host = s.host := rfl
@[simp] theorem State.updRegion_power (r : Nat) (f : Region → Region) : (s.updRegion r f).power = s.power := rfl
@[simp] theorem State.updRegion_mgmt (r : Nat) (f : Region → Region) : (s.updRegion r f).mgmt = s.mgmt := rfl
@[simp] theorem State.updRegion_net (r : Nat) (f : Region → Region) : (s.updRegion r f).net = s.net := rfl
@[simp] theorem State.updRegion_out (r : Nat) (f : Region → Region) : (s.updRegion r f).out = s.out := rfl
@[simp] theorem State.updRegion_hostMem (r : Nat) (f : Region → Region) : (s.updRegion r f).hostMem = s.hostMem := rfl

@[simp] theorem State.setWell_pending (r : Nat) (x : Well) : (s.setWell r x).pending = s.pending := rfl
@[simp] theorem State.setWell_root (r : Nat) (x : Well) : (s.setWell r x).root = s.root := rfl
@[simp] theorem State.setWell_units (r : Nat) (x : Well) : (s.setWell r x).units = s.units := rfl
@[simp] theorem State.setWell_regions (r : Nat) (x : Well) : (s.setWell r x).regions = s.regions := rfl
@[simp] theorem State.setWell_service (r : Nat) (x : Well) : (s.setWell r x).service = s.service := rfl
@[simp] theorem State.setWell_clusters (r : Nat) (x : Well) : (s.setWell r x).clusters = s.clusters := rfl
@[simp] theorem State.setWell_links (r : Nat) (x : Well) : (s.setWell r x).links = s.links := rfl
@[simp] theorem State.setWell_bar0 (r : Nat) (x : Well) : (s.setWell r x).bar0 = s.bar0 := rfl
@[simp] theorem State.setWell_seq (r : Nat) (x : Well) : (s.setWell r x).seq = s.seq := rfl
@[simp] theorem State.setWell_sys (r : Nat) (x : Well) : (s.setWell r x).sys = s.sys := rfl
@[simp] theorem State.setWell_host (r : Nat) (x : Well) : (s.setWell r x).host = s.host := rfl
@[simp] theorem State.setWell_power (r : Nat) (x : Well) : (s.setWell r x).power = s.power := rfl
@[simp] theorem State.setWell_mgmt (r : Nat) (x : Well) : (s.setWell r x).mgmt = s.mgmt := rfl
@[simp] theorem State.setWell_net (r : Nat) (x : Well) : (s.setWell r x).net = s.net := rfl
@[simp] theorem State.setWell_out (r : Nat) (x : Well) : (s.setWell r x).out = s.out := rfl
@[simp] theorem State.setWell_hostMem (r : Nat) (x : Well) : (s.setWell r x).hostMem = s.hostMem := rfl

@[simp] theorem State.updWell_pending (r : Nat) (f : Well → Well) : (s.updWell r f).pending = s.pending := rfl
@[simp] theorem State.updWell_root (r : Nat) (f : Well → Well) : (s.updWell r f).root = s.root := rfl
@[simp] theorem State.updWell_units (r : Nat) (f : Well → Well) : (s.updWell r f).units = s.units := rfl
@[simp] theorem State.updWell_regions (r : Nat) (f : Well → Well) : (s.updWell r f).regions = s.regions := rfl
@[simp] theorem State.updWell_service (r : Nat) (f : Well → Well) : (s.updWell r f).service = s.service := rfl
@[simp] theorem State.updWell_clusters (r : Nat) (f : Well → Well) : (s.updWell r f).clusters = s.clusters := rfl
@[simp] theorem State.updWell_links (r : Nat) (f : Well → Well) : (s.updWell r f).links = s.links := rfl
@[simp] theorem State.updWell_bar0 (r : Nat) (f : Well → Well) : (s.updWell r f).bar0 = s.bar0 := rfl
@[simp] theorem State.updWell_seq (r : Nat) (f : Well → Well) : (s.updWell r f).seq = s.seq := rfl
@[simp] theorem State.updWell_sys (r : Nat) (f : Well → Well) : (s.updWell r f).sys = s.sys := rfl
@[simp] theorem State.updWell_host (r : Nat) (f : Well → Well) : (s.updWell r f).host = s.host := rfl
@[simp] theorem State.updWell_power (r : Nat) (f : Well → Well) : (s.updWell r f).power = s.power := rfl
@[simp] theorem State.updWell_mgmt (r : Nat) (f : Well → Well) : (s.updWell r f).mgmt = s.mgmt := rfl
@[simp] theorem State.updWell_net (r : Nat) (f : Well → Well) : (s.updWell r f).net = s.net := rfl
@[simp] theorem State.updWell_out (r : Nat) (f : Well → Well) : (s.updWell r f).out = s.out := rfl
@[simp] theorem State.updWell_hostMem (r : Nat) (f : Well → Well) : (s.updWell r f).hostMem = s.hostMem := rfl

@[simp] theorem State.setSvc_pending (r : Nat) (x : Service) : (s.setSvc r x).pending = s.pending := rfl
@[simp] theorem State.setSvc_root (r : Nat) (x : Service) : (s.setSvc r x).root = s.root := rfl
@[simp] theorem State.setSvc_units (r : Nat) (x : Service) : (s.setSvc r x).units = s.units := rfl
@[simp] theorem State.setSvc_regions (r : Nat) (x : Service) : (s.setSvc r x).regions = s.regions := rfl
@[simp] theorem State.setSvc_wells (r : Nat) (x : Service) : (s.setSvc r x).wells = s.wells := rfl
@[simp] theorem State.setSvc_clusters (r : Nat) (x : Service) : (s.setSvc r x).clusters = s.clusters := rfl
@[simp] theorem State.setSvc_links (r : Nat) (x : Service) : (s.setSvc r x).links = s.links := rfl
@[simp] theorem State.setSvc_bar0 (r : Nat) (x : Service) : (s.setSvc r x).bar0 = s.bar0 := rfl
@[simp] theorem State.setSvc_seq (r : Nat) (x : Service) : (s.setSvc r x).seq = s.seq := rfl
@[simp] theorem State.setSvc_sys (r : Nat) (x : Service) : (s.setSvc r x).sys = s.sys := rfl
@[simp] theorem State.setSvc_host (r : Nat) (x : Service) : (s.setSvc r x).host = s.host := rfl
@[simp] theorem State.setSvc_power (r : Nat) (x : Service) : (s.setSvc r x).power = s.power := rfl
@[simp] theorem State.setSvc_mgmt (r : Nat) (x : Service) : (s.setSvc r x).mgmt = s.mgmt := rfl
@[simp] theorem State.setSvc_net (r : Nat) (x : Service) : (s.setSvc r x).net = s.net := rfl
@[simp] theorem State.setSvc_out (r : Nat) (x : Service) : (s.setSvc r x).out = s.out := rfl
@[simp] theorem State.setSvc_hostMem (r : Nat) (x : Service) : (s.setSvc r x).hostMem = s.hostMem := rfl

@[simp] theorem State.updSvc_pending (r : Nat) (f : Service → Service) : (s.updSvc r f).pending = s.pending := rfl
@[simp] theorem State.updSvc_root (r : Nat) (f : Service → Service) : (s.updSvc r f).root = s.root := rfl
@[simp] theorem State.updSvc_units (r : Nat) (f : Service → Service) : (s.updSvc r f).units = s.units := rfl
@[simp] theorem State.updSvc_regions (r : Nat) (f : Service → Service) : (s.updSvc r f).regions = s.regions := rfl
@[simp] theorem State.updSvc_wells (r : Nat) (f : Service → Service) : (s.updSvc r f).wells = s.wells := rfl
@[simp] theorem State.updSvc_clusters (r : Nat) (f : Service → Service) : (s.updSvc r f).clusters = s.clusters := rfl
@[simp] theorem State.updSvc_links (r : Nat) (f : Service → Service) : (s.updSvc r f).links = s.links := rfl
@[simp] theorem State.updSvc_bar0 (r : Nat) (f : Service → Service) : (s.updSvc r f).bar0 = s.bar0 := rfl
@[simp] theorem State.updSvc_seq (r : Nat) (f : Service → Service) : (s.updSvc r f).seq = s.seq := rfl
@[simp] theorem State.updSvc_sys (r : Nat) (f : Service → Service) : (s.updSvc r f).sys = s.sys := rfl
@[simp] theorem State.updSvc_host (r : Nat) (f : Service → Service) : (s.updSvc r f).host = s.host := rfl
@[simp] theorem State.updSvc_power (r : Nat) (f : Service → Service) : (s.updSvc r f).power = s.power := rfl
@[simp] theorem State.updSvc_mgmt (r : Nat) (f : Service → Service) : (s.updSvc r f).mgmt = s.mgmt := rfl
@[simp] theorem State.updSvc_net (r : Nat) (f : Service → Service) : (s.updSvc r f).net = s.net := rfl
@[simp] theorem State.updSvc_out (r : Nat) (f : Service → Service) : (s.updSvc r f).out = s.out := rfl
@[simp] theorem State.updSvc_hostMem (r : Nat) (f : Service → Service) : (s.updSvc r f).hostMem = s.hostMem := rfl

@[simp] theorem State.setCluster_pending (c : Nat) (x : Cluster) : (s.setCluster c x).pending = s.pending := rfl
@[simp] theorem State.setCluster_root (c : Nat) (x : Cluster) : (s.setCluster c x).root = s.root := rfl
@[simp] theorem State.setCluster_units (c : Nat) (x : Cluster) : (s.setCluster c x).units = s.units := rfl
@[simp] theorem State.setCluster_regions (c : Nat) (x : Cluster) : (s.setCluster c x).regions = s.regions := rfl
@[simp] theorem State.setCluster_wells (c : Nat) (x : Cluster) : (s.setCluster c x).wells = s.wells := rfl
@[simp] theorem State.setCluster_service (c : Nat) (x : Cluster) : (s.setCluster c x).service = s.service := rfl
@[simp] theorem State.setCluster_links (c : Nat) (x : Cluster) : (s.setCluster c x).links = s.links := rfl
@[simp] theorem State.setCluster_bar0 (c : Nat) (x : Cluster) : (s.setCluster c x).bar0 = s.bar0 := rfl
@[simp] theorem State.setCluster_seq (c : Nat) (x : Cluster) : (s.setCluster c x).seq = s.seq := rfl
@[simp] theorem State.setCluster_sys (c : Nat) (x : Cluster) : (s.setCluster c x).sys = s.sys := rfl
@[simp] theorem State.setCluster_host (c : Nat) (x : Cluster) : (s.setCluster c x).host = s.host := rfl
@[simp] theorem State.setCluster_power (c : Nat) (x : Cluster) : (s.setCluster c x).power = s.power := rfl
@[simp] theorem State.setCluster_mgmt (c : Nat) (x : Cluster) : (s.setCluster c x).mgmt = s.mgmt := rfl
@[simp] theorem State.setCluster_net (c : Nat) (x : Cluster) : (s.setCluster c x).net = s.net := rfl
@[simp] theorem State.setCluster_out (c : Nat) (x : Cluster) : (s.setCluster c x).out = s.out := rfl
@[simp] theorem State.setCluster_hostMem (c : Nat) (x : Cluster) : (s.setCluster c x).hostMem = s.hostMem := rfl

@[simp] theorem State.updCluster_pending (c : Nat) (f : Cluster → Cluster) : (s.updCluster c f).pending = s.pending := rfl
@[simp] theorem State.updCluster_root (c : Nat) (f : Cluster → Cluster) : (s.updCluster c f).root = s.root := rfl
@[simp] theorem State.updCluster_units (c : Nat) (f : Cluster → Cluster) : (s.updCluster c f).units = s.units := rfl
@[simp] theorem State.updCluster_regions (c : Nat) (f : Cluster → Cluster) : (s.updCluster c f).regions = s.regions := rfl
@[simp] theorem State.updCluster_wells (c : Nat) (f : Cluster → Cluster) : (s.updCluster c f).wells = s.wells := rfl
@[simp] theorem State.updCluster_service (c : Nat) (f : Cluster → Cluster) : (s.updCluster c f).service = s.service := rfl
@[simp] theorem State.updCluster_links (c : Nat) (f : Cluster → Cluster) : (s.updCluster c f).links = s.links := rfl
@[simp] theorem State.updCluster_bar0 (c : Nat) (f : Cluster → Cluster) : (s.updCluster c f).bar0 = s.bar0 := rfl
@[simp] theorem State.updCluster_seq (c : Nat) (f : Cluster → Cluster) : (s.updCluster c f).seq = s.seq := rfl
@[simp] theorem State.updCluster_sys (c : Nat) (f : Cluster → Cluster) : (s.updCluster c f).sys = s.sys := rfl
@[simp] theorem State.updCluster_host (c : Nat) (f : Cluster → Cluster) : (s.updCluster c f).host = s.host := rfl
@[simp] theorem State.updCluster_power (c : Nat) (f : Cluster → Cluster) : (s.updCluster c f).power = s.power := rfl
@[simp] theorem State.updCluster_mgmt (c : Nat) (f : Cluster → Cluster) : (s.updCluster c f).mgmt = s.mgmt := rfl
@[simp] theorem State.updCluster_net (c : Nat) (f : Cluster → Cluster) : (s.updCluster c f).net = s.net := rfl
@[simp] theorem State.updCluster_out (c : Nat) (f : Cluster → Cluster) : (s.updCluster c f).out = s.out := rfl
@[simp] theorem State.updCluster_hostMem (c : Nat) (f : Cluster → Cluster) : (s.updCluster c f).hostMem = s.hostMem := rfl

@[simp] theorem State.setLink_pending (l : Nat) (x : Link) : (s.setLink l x).pending = s.pending := rfl
@[simp] theorem State.setLink_root (l : Nat) (x : Link) : (s.setLink l x).root = s.root := rfl
@[simp] theorem State.setLink_units (l : Nat) (x : Link) : (s.setLink l x).units = s.units := rfl
@[simp] theorem State.setLink_regions (l : Nat) (x : Link) : (s.setLink l x).regions = s.regions := rfl
@[simp] theorem State.setLink_wells (l : Nat) (x : Link) : (s.setLink l x).wells = s.wells := rfl
@[simp] theorem State.setLink_service (l : Nat) (x : Link) : (s.setLink l x).service = s.service := rfl
@[simp] theorem State.setLink_clusters (l : Nat) (x : Link) : (s.setLink l x).clusters = s.clusters := rfl
@[simp] theorem State.setLink_bar0 (l : Nat) (x : Link) : (s.setLink l x).bar0 = s.bar0 := rfl
@[simp] theorem State.setLink_seq (l : Nat) (x : Link) : (s.setLink l x).seq = s.seq := rfl
@[simp] theorem State.setLink_sys (l : Nat) (x : Link) : (s.setLink l x).sys = s.sys := rfl
@[simp] theorem State.setLink_host (l : Nat) (x : Link) : (s.setLink l x).host = s.host := rfl
@[simp] theorem State.setLink_power (l : Nat) (x : Link) : (s.setLink l x).power = s.power := rfl
@[simp] theorem State.setLink_mgmt (l : Nat) (x : Link) : (s.setLink l x).mgmt = s.mgmt := rfl
@[simp] theorem State.setLink_net (l : Nat) (x : Link) : (s.setLink l x).net = s.net := rfl
@[simp] theorem State.setLink_out (l : Nat) (x : Link) : (s.setLink l x).out = s.out := rfl
@[simp] theorem State.setLink_hostMem (l : Nat) (x : Link) : (s.setLink l x).hostMem = s.hostMem := rfl

@[simp] theorem State.updLink_pending (l : Nat) (f : Link → Link) : (s.updLink l f).pending = s.pending := rfl
@[simp] theorem State.updLink_root (l : Nat) (f : Link → Link) : (s.updLink l f).root = s.root := rfl
@[simp] theorem State.updLink_units (l : Nat) (f : Link → Link) : (s.updLink l f).units = s.units := rfl
@[simp] theorem State.updLink_regions (l : Nat) (f : Link → Link) : (s.updLink l f).regions = s.regions := rfl
@[simp] theorem State.updLink_wells (l : Nat) (f : Link → Link) : (s.updLink l f).wells = s.wells := rfl
@[simp] theorem State.updLink_service (l : Nat) (f : Link → Link) : (s.updLink l f).service = s.service := rfl
@[simp] theorem State.updLink_clusters (l : Nat) (f : Link → Link) : (s.updLink l f).clusters = s.clusters := rfl
@[simp] theorem State.updLink_bar0 (l : Nat) (f : Link → Link) : (s.updLink l f).bar0 = s.bar0 := rfl
@[simp] theorem State.updLink_seq (l : Nat) (f : Link → Link) : (s.updLink l f).seq = s.seq := rfl
@[simp] theorem State.updLink_sys (l : Nat) (f : Link → Link) : (s.updLink l f).sys = s.sys := rfl
@[simp] theorem State.updLink_host (l : Nat) (f : Link → Link) : (s.updLink l f).host = s.host := rfl
@[simp] theorem State.updLink_power (l : Nat) (f : Link → Link) : (s.updLink l f).power = s.power := rfl
@[simp] theorem State.updLink_mgmt (l : Nat) (f : Link → Link) : (s.updLink l f).mgmt = s.mgmt := rfl
@[simp] theorem State.updLink_net (l : Nat) (f : Link → Link) : (s.updLink l f).net = s.net := rfl
@[simp] theorem State.updLink_out (l : Nat) (f : Link → Link) : (s.updLink l f).out = s.out := rfl
@[simp] theorem State.updLink_hostMem (l : Nat) (f : Link → Link) : (s.updLink l f).hostMem = s.hostMem := rfl

@[simp] theorem State.setP1_pending (r i : Nat) (w : Word) : (s.setP1 r i w).pending = s.pending := rfl
@[simp] theorem State.setP1_root (r i : Nat) (w : Word) : (s.setP1 r i w).root = s.root := rfl
@[simp] theorem State.setP1_units (r i : Nat) (w : Word) : (s.setP1 r i w).units = s.units := rfl
@[simp] theorem State.setP1_wells (r i : Nat) (w : Word) : (s.setP1 r i w).wells = s.wells := rfl
@[simp] theorem State.setP1_service (r i : Nat) (w : Word) : (s.setP1 r i w).service = s.service := rfl
@[simp] theorem State.setP1_clusters (r i : Nat) (w : Word) : (s.setP1 r i w).clusters = s.clusters := rfl
@[simp] theorem State.setP1_links (r i : Nat) (w : Word) : (s.setP1 r i w).links = s.links := rfl
@[simp] theorem State.setP1_bar0 (r i : Nat) (w : Word) : (s.setP1 r i w).bar0 = s.bar0 := rfl
@[simp] theorem State.setP1_seq (r i : Nat) (w : Word) : (s.setP1 r i w).seq = s.seq := rfl
@[simp] theorem State.setP1_sys (r i : Nat) (w : Word) : (s.setP1 r i w).sys = s.sys := rfl
@[simp] theorem State.setP1_host (r i : Nat) (w : Word) : (s.setP1 r i w).host = s.host := rfl
@[simp] theorem State.setP1_power (r i : Nat) (w : Word) : (s.setP1 r i w).power = s.power := rfl
@[simp] theorem State.setP1_mgmt (r i : Nat) (w : Word) : (s.setP1 r i w).mgmt = s.mgmt := rfl
@[simp] theorem State.setP1_net (r i : Nat) (w : Word) : (s.setP1 r i w).net = s.net := rfl
@[simp] theorem State.setP1_out (r i : Nat) (w : Word) : (s.setP1 r i w).out = s.out := rfl
@[simp] theorem State.setP1_hostMem (r i : Nat) (w : Word) : (s.setP1 r i w).hostMem = s.hostMem := rfl

@[simp] theorem State.updP1_pending (r i : Nat) (f : Word → Word) : (s.updP1 r i f).pending = s.pending := rfl
@[simp] theorem State.updP1_root (r i : Nat) (f : Word → Word) : (s.updP1 r i f).root = s.root := rfl
@[simp] theorem State.updP1_units (r i : Nat) (f : Word → Word) : (s.updP1 r i f).units = s.units := rfl
@[simp] theorem State.updP1_wells (r i : Nat) (f : Word → Word) : (s.updP1 r i f).wells = s.wells := rfl
@[simp] theorem State.updP1_service (r i : Nat) (f : Word → Word) : (s.updP1 r i f).service = s.service := rfl
@[simp] theorem State.updP1_clusters (r i : Nat) (f : Word → Word) : (s.updP1 r i f).clusters = s.clusters := rfl
@[simp] theorem State.updP1_links (r i : Nat) (f : Word → Word) : (s.updP1 r i f).links = s.links := rfl
@[simp] theorem State.updP1_bar0 (r i : Nat) (f : Word → Word) : (s.updP1 r i f).bar0 = s.bar0 := rfl
@[simp] theorem State.updP1_seq (r i : Nat) (f : Word → Word) : (s.updP1 r i f).seq = s.seq := rfl
@[simp] theorem State.updP1_sys (r i : Nat) (f : Word → Word) : (s.updP1 r i f).sys = s.sys := rfl
@[simp] theorem State.updP1_host (r i : Nat) (f : Word → Word) : (s.updP1 r i f).host = s.host := rfl
@[simp] theorem State.updP1_power (r i : Nat) (f : Word → Word) : (s.updP1 r i f).power = s.power := rfl
@[simp] theorem State.updP1_mgmt (r i : Nat) (f : Word → Word) : (s.updP1 r i f).mgmt = s.mgmt := rfl
@[simp] theorem State.updP1_net (r i : Nat) (f : Word → Word) : (s.updP1 r i f).net = s.net := rfl
@[simp] theorem State.updP1_out (r i : Nat) (f : Word → Word) : (s.updP1 r i f).out = s.out := rfl
@[simp] theorem State.updP1_hostMem (r i : Nat) (f : Word → Word) : (s.updP1 r i f).hostMem = s.hostMem := rfl

@[simp] theorem State.seeP1_pending (r i b : Nat) : (s.seeP1 r i b).pending = s.pending := rfl
@[simp] theorem State.seeP1_root (r i b : Nat) : (s.seeP1 r i b).root = s.root := rfl
@[simp] theorem State.seeP1_units (r i b : Nat) : (s.seeP1 r i b).units = s.units := rfl
@[simp] theorem State.seeP1_wells (r i b : Nat) : (s.seeP1 r i b).wells = s.wells := rfl
@[simp] theorem State.seeP1_service (r i b : Nat) : (s.seeP1 r i b).service = s.service := rfl
@[simp] theorem State.seeP1_clusters (r i b : Nat) : (s.seeP1 r i b).clusters = s.clusters := rfl
@[simp] theorem State.seeP1_links (r i b : Nat) : (s.seeP1 r i b).links = s.links := rfl
@[simp] theorem State.seeP1_bar0 (r i b : Nat) : (s.seeP1 r i b).bar0 = s.bar0 := rfl
@[simp] theorem State.seeP1_seq (r i b : Nat) : (s.seeP1 r i b).seq = s.seq := rfl
@[simp] theorem State.seeP1_sys (r i b : Nat) : (s.seeP1 r i b).sys = s.sys := rfl
@[simp] theorem State.seeP1_host (r i b : Nat) : (s.seeP1 r i b).host = s.host := rfl
@[simp] theorem State.seeP1_power (r i b : Nat) : (s.seeP1 r i b).power = s.power := rfl
@[simp] theorem State.seeP1_mgmt (r i b : Nat) : (s.seeP1 r i b).mgmt = s.mgmt := rfl
@[simp] theorem State.seeP1_net (r i b : Nat) : (s.seeP1 r i b).net = s.net := rfl
@[simp] theorem State.seeP1_out (r i b : Nat) : (s.seeP1 r i b).out = s.out := rfl
@[simp] theorem State.seeP1_hostMem (r i b : Nat) : (s.seeP1 r i b).hostMem = s.hostMem := rfl

@[simp] theorem State.setBar_pending (o : Nat) (w : Reg32) : (s.setBar o w).pending = s.pending := rfl
@[simp] theorem State.setBar_root (o : Nat) (w : Reg32) : (s.setBar o w).root = s.root := rfl
@[simp] theorem State.setBar_units (o : Nat) (w : Reg32) : (s.setBar o w).units = s.units := rfl
@[simp] theorem State.setBar_regions (o : Nat) (w : Reg32) : (s.setBar o w).regions = s.regions := rfl
@[simp] theorem State.setBar_wells (o : Nat) (w : Reg32) : (s.setBar o w).wells = s.wells := rfl
@[simp] theorem State.setBar_service (o : Nat) (w : Reg32) : (s.setBar o w).service = s.service := rfl
@[simp] theorem State.setBar_clusters (o : Nat) (w : Reg32) : (s.setBar o w).clusters = s.clusters := rfl
@[simp] theorem State.setBar_links (o : Nat) (w : Reg32) : (s.setBar o w).links = s.links := rfl
@[simp] theorem State.setBar_seq (o : Nat) (w : Reg32) : (s.setBar o w).seq = s.seq := rfl
@[simp] theorem State.setBar_sys (o : Nat) (w : Reg32) : (s.setBar o w).sys = s.sys := rfl
@[simp] theorem State.setBar_host (o : Nat) (w : Reg32) : (s.setBar o w).host = s.host := rfl
@[simp] theorem State.setBar_power (o : Nat) (w : Reg32) : (s.setBar o w).power = s.power := rfl
@[simp] theorem State.setBar_mgmt (o : Nat) (w : Reg32) : (s.setBar o w).mgmt = s.mgmt := rfl
@[simp] theorem State.setBar_net (o : Nat) (w : Reg32) : (s.setBar o w).net = s.net := rfl
@[simp] theorem State.setBar_out (o : Nat) (w : Reg32) : (s.setBar o w).out = s.out := rfl
@[simp] theorem State.setBar_hostMem (o : Nat) (w : Reg32) : (s.setBar o w).hostMem = s.hostMem := rfl

@[simp] theorem State.updBar_pending (o : Nat) (f : Reg32 → Reg32) : (s.updBar o f).pending = s.pending := rfl
@[simp] theorem State.updBar_root (o : Nat) (f : Reg32 → Reg32) : (s.updBar o f).root = s.root := rfl
@[simp] theorem State.updBar_units (o : Nat) (f : Reg32 → Reg32) : (s.updBar o f).units = s.units := rfl
@[simp] theorem State.updBar_regions (o : Nat) (f : Reg32 → Reg32) : (s.updBar o f).regions = s.regions := rfl
@[simp] theorem State.updBar_wells (o : Nat) (f : Reg32 → Reg32) : (s.updBar o f).wells = s.wells := rfl
@[simp] theorem State.updBar_service (o : Nat) (f : Reg32 → Reg32) : (s.updBar o f).service = s.service := rfl
@[simp] theorem State.updBar_clusters (o : Nat) (f : Reg32 → Reg32) : (s.updBar o f).clusters = s.clusters := rfl
@[simp] theorem State.updBar_links (o : Nat) (f : Reg32 → Reg32) : (s.updBar o f).links = s.links := rfl
@[simp] theorem State.updBar_seq (o : Nat) (f : Reg32 → Reg32) : (s.updBar o f).seq = s.seq := rfl
@[simp] theorem State.updBar_sys (o : Nat) (f : Reg32 → Reg32) : (s.updBar o f).sys = s.sys := rfl
@[simp] theorem State.updBar_host (o : Nat) (f : Reg32 → Reg32) : (s.updBar o f).host = s.host := rfl
@[simp] theorem State.updBar_power (o : Nat) (f : Reg32 → Reg32) : (s.updBar o f).power = s.power := rfl
@[simp] theorem State.updBar_mgmt (o : Nat) (f : Reg32 → Reg32) : (s.updBar o f).mgmt = s.mgmt := rfl
@[simp] theorem State.updBar_net (o : Nat) (f : Reg32 → Reg32) : (s.updBar o f).net = s.net := rfl
@[simp] theorem State.updBar_out (o : Nat) (f : Reg32 → Reg32) : (s.updBar o f).out = s.out := rfl
@[simp] theorem State.updBar_hostMem (o : Nat) (f : Reg32 → Reg32) : (s.updBar o f).hostMem = s.hostMem := rfl

@[simp] theorem State.seeBar_pending (o b : Nat) : (s.seeBar o b).pending = s.pending := rfl
@[simp] theorem State.seeBar_root (o b : Nat) : (s.seeBar o b).root = s.root := rfl
@[simp] theorem State.seeBar_units (o b : Nat) : (s.seeBar o b).units = s.units := rfl
@[simp] theorem State.seeBar_regions (o b : Nat) : (s.seeBar o b).regions = s.regions := rfl
@[simp] theorem State.seeBar_wells (o b : Nat) : (s.seeBar o b).wells = s.wells := rfl
@[simp] theorem State.seeBar_service (o b : Nat) : (s.seeBar o b).service = s.service := rfl
@[simp] theorem State.seeBar_clusters (o b : Nat) : (s.seeBar o b).clusters = s.clusters := rfl
@[simp] theorem State.seeBar_links (o b : Nat) : (s.seeBar o b).links = s.links := rfl
@[simp] theorem State.seeBar_seq (o b : Nat) : (s.seeBar o b).seq = s.seq := rfl
@[simp] theorem State.seeBar_sys (o b : Nat) : (s.seeBar o b).sys = s.sys := rfl
@[simp] theorem State.seeBar_host (o b : Nat) : (s.seeBar o b).host = s.host := rfl
@[simp] theorem State.seeBar_power (o b : Nat) : (s.seeBar o b).power = s.power := rfl
@[simp] theorem State.seeBar_mgmt (o b : Nat) : (s.seeBar o b).mgmt = s.mgmt := rfl
@[simp] theorem State.seeBar_net (o b : Nat) : (s.seeBar o b).net = s.net := rfl
@[simp] theorem State.seeBar_out (o b : Nat) : (s.seeBar o b).out = s.out := rfl
@[simp] theorem State.seeBar_hostMem (o b : Nat) : (s.seeBar o b).hostMem = s.hostMem := rfl

@[simp] theorem State.forward_pending (e : EvRec) : (s.forward e).pending = s.pending := rfl
@[simp] theorem State.forward_root (e : EvRec) : (s.forward e).root = s.root := rfl
@[simp] theorem State.forward_units (e : EvRec) : (s.forward e).units = s.units := rfl
@[simp] theorem State.forward_regions (e : EvRec) : (s.forward e).regions = s.regions := rfl
@[simp] theorem State.forward_wells (e : EvRec) : (s.forward e).wells = s.wells := rfl
@[simp] theorem State.forward_service (e : EvRec) : (s.forward e).service = s.service := rfl
@[simp] theorem State.forward_clusters (e : EvRec) : (s.forward e).clusters = s.clusters := rfl
@[simp] theorem State.forward_links (e : EvRec) : (s.forward e).links = s.links := rfl
@[simp] theorem State.forward_bar0 (e : EvRec) : (s.forward e).bar0 = s.bar0 := rfl
@[simp] theorem State.forward_seq (e : EvRec) : (s.forward e).seq = s.seq := rfl
@[simp] theorem State.forward_sys (e : EvRec) : (s.forward e).sys = s.sys := rfl
@[simp] theorem State.forward_power (e : EvRec) : (s.forward e).power = s.power := rfl
@[simp] theorem State.forward_mgmt (e : EvRec) : (s.forward e).mgmt = s.mgmt := rfl
@[simp] theorem State.forward_net (e : EvRec) : (s.forward e).net = s.net := rfl
@[simp] theorem State.forward_out (e : EvRec) : (s.forward e).out = s.out := rfl
@[simp] theorem State.forward_hostMem (e : EvRec) : (s.forward e).hostMem = s.hostMem := rfl

@[simp] theorem State.report_pending (c : Cause) : (s.report c).pending = s.pending := rfl
@[simp] theorem State.report_root (c : Cause) : (s.report c).root = s.root := rfl
@[simp] theorem State.report_units (c : Cause) : (s.report c).units = s.units := rfl
@[simp] theorem State.report_regions (c : Cause) : (s.report c).regions = s.regions := rfl
@[simp] theorem State.report_wells (c : Cause) : (s.report c).wells = s.wells := rfl
@[simp] theorem State.report_service (c : Cause) : (s.report c).service = s.service := rfl
@[simp] theorem State.report_clusters (c : Cause) : (s.report c).clusters = s.clusters := rfl
@[simp] theorem State.report_links (c : Cause) : (s.report c).links = s.links := rfl
@[simp] theorem State.report_bar0 (c : Cause) : (s.report c).bar0 = s.bar0 := rfl
@[simp] theorem State.report_sys (c : Cause) : (s.report c).sys = s.sys := rfl
@[simp] theorem State.report_host (c : Cause) : (s.report c).host = s.host := rfl
@[simp] theorem State.report_power (c : Cause) : (s.report c).power = s.power := rfl
@[simp] theorem State.report_mgmt (c : Cause) : (s.report c).mgmt = s.mgmt := rfl
@[simp] theorem State.report_net (c : Cause) : (s.report c).net = s.net := rfl
@[simp] theorem State.report_out (c : Cause) : (s.report c).out = s.out := rfl
@[simp] theorem State.report_hostMem (c : Cause) : (s.report c).hostMem = s.hostMem := rfl

@[simp] theorem State.send_pending (m : Msg) : (s.send m).pending = s.pending := rfl
@[simp] theorem State.send_root (m : Msg) : (s.send m).root = s.root := rfl
@[simp] theorem State.send_units (m : Msg) : (s.send m).units = s.units := rfl
@[simp] theorem State.send_regions (m : Msg) : (s.send m).regions = s.regions := rfl
@[simp] theorem State.send_wells (m : Msg) : (s.send m).wells = s.wells := rfl
@[simp] theorem State.send_service (m : Msg) : (s.send m).service = s.service := rfl
@[simp] theorem State.send_clusters (m : Msg) : (s.send m).clusters = s.clusters := rfl
@[simp] theorem State.send_links (m : Msg) : (s.send m).links = s.links := rfl
@[simp] theorem State.send_bar0 (m : Msg) : (s.send m).bar0 = s.bar0 := rfl
@[simp] theorem State.send_seq (m : Msg) : (s.send m).seq = s.seq := rfl
@[simp] theorem State.send_sys (m : Msg) : (s.send m).sys = s.sys := rfl
@[simp] theorem State.send_host (m : Msg) : (s.send m).host = s.host := rfl
@[simp] theorem State.send_power (m : Msg) : (s.send m).power = s.power := rfl
@[simp] theorem State.send_mgmt (m : Msg) : (s.send m).mgmt = s.mgmt := rfl
@[simp] theorem State.send_out (m : Msg) : (s.send m).out = s.out := rfl
@[simp] theorem State.send_hostMem (m : Msg) : (s.send m).hostMem = s.hostMem := rfl

@[simp] theorem State.emit_pending (o : Out) : (s.emit o).pending = s.pending := rfl
@[simp] theorem State.emit_root (o : Out) : (s.emit o).root = s.root := rfl
@[simp] theorem State.emit_units (o : Out) : (s.emit o).units = s.units := rfl
@[simp] theorem State.emit_regions (o : Out) : (s.emit o).regions = s.regions := rfl
@[simp] theorem State.emit_wells (o : Out) : (s.emit o).wells = s.wells := rfl
@[simp] theorem State.emit_service (o : Out) : (s.emit o).service = s.service := rfl
@[simp] theorem State.emit_clusters (o : Out) : (s.emit o).clusters = s.clusters := rfl
@[simp] theorem State.emit_links (o : Out) : (s.emit o).links = s.links := rfl
@[simp] theorem State.emit_bar0 (o : Out) : (s.emit o).bar0 = s.bar0 := rfl
@[simp] theorem State.emit_seq (o : Out) : (s.emit o).seq = s.seq := rfl
@[simp] theorem State.emit_sys (o : Out) : (s.emit o).sys = s.sys := rfl
@[simp] theorem State.emit_host (o : Out) : (s.emit o).host = s.host := rfl
@[simp] theorem State.emit_power (o : Out) : (s.emit o).power = s.power := rfl
@[simp] theorem State.emit_mgmt (o : Out) : (s.emit o).mgmt = s.mgmt := rfl
@[simp] theorem State.emit_net (o : Out) : (s.emit o).net = s.net := rfl
@[simp] theorem State.emit_hostMem (o : Out) : (s.emit o).hostMem = s.hostMem := rfl

/-! ### Reads after writes -/

@[simp] theorem State.unit_setUnit_same (k : Nat) (x : Unit) : (s.setUnit k x).unit k = x := by simp [State.unit, State.setUnit]
theorem State.unit_setUnit_other {j k : Nat} (x : Unit) (h : j ≠ k) : (s.setUnit k x).unit j = s.unit j := by
  simp [State.unit, State.setUnit, Sparse.get_set_other _ _ _ _ h]
@[simp] theorem State.unit_updUnit_same (k : Nat) (f : Unit → Unit) : (s.updUnit k f).unit k = f (s.unit k) := by simp [State.updUnit]
theorem State.unit_updUnit_other {j k : Nat} (f : Unit → Unit) (h : j ≠ k) : (s.updUnit k f).unit j = s.unit j :=
  s.unit_setUnit_other _ h

@[simp] theorem State.setRegion_unit (k : Nat) (r : Nat) (x : Region) : (s.setRegion r x).unit k = s.unit k := rfl
@[simp] theorem State.updRegion_unit (k : Nat) (r : Nat) (f : Region → Region) : (s.updRegion r f).unit k = s.unit k := rfl
@[simp] theorem State.setWell_unit (k : Nat) (r : Nat) (x : Well) : (s.setWell r x).unit k = s.unit k := rfl
@[simp] theorem State.updWell_unit (k : Nat) (r : Nat) (f : Well → Well) : (s.updWell r f).unit k = s.unit k := rfl
@[simp] theorem State.setSvc_unit (k : Nat) (r : Nat) (x : Service) : (s.setSvc r x).unit k = s.unit k := rfl
@[simp] theorem State.updSvc_unit (k : Nat) (r : Nat) (f : Service → Service) : (s.updSvc r f).unit k = s.unit k := rfl
@[simp] theorem State.setCluster_unit (k : Nat) (c : Nat) (x : Cluster) : (s.setCluster c x).unit k = s.unit k := rfl
@[simp] theorem State.updCluster_unit (k : Nat) (c : Nat) (f : Cluster → Cluster) : (s.updCluster c f).unit k = s.unit k := rfl
@[simp] theorem State.setLink_unit (k : Nat) (l : Nat) (x : Link) : (s.setLink l x).unit k = s.unit k := rfl
@[simp] theorem State.updLink_unit (k : Nat) (l : Nat) (f : Link → Link) : (s.updLink l f).unit k = s.unit k := rfl
@[simp] theorem State.setP1_unit (k : Nat) (r i : Nat) (w : Word) : (s.setP1 r i w).unit k = s.unit k := rfl
@[simp] theorem State.updP1_unit (k : Nat) (r i : Nat) (f : Word → Word) : (s.updP1 r i f).unit k = s.unit k := rfl
@[simp] theorem State.seeP1_unit (k : Nat) (r i b : Nat) : (s.seeP1 r i b).unit k = s.unit k := rfl
@[simp] theorem State.setBar_unit (k : Nat) (o : Nat) (w : Reg32) : (s.setBar o w).unit k = s.unit k := rfl
@[simp] theorem State.updBar_unit (k : Nat) (o : Nat) (f : Reg32 → Reg32) : (s.updBar o f).unit k = s.unit k := rfl
@[simp] theorem State.seeBar_unit (k : Nat) (o b : Nat) : (s.seeBar o b).unit k = s.unit k := rfl
@[simp] theorem State.forward_unit (k : Nat) (e : EvRec) : (s.forward e).unit k = s.unit k := rfl
@[simp] theorem State.report_unit (k : Nat) (c : Cause) : (s.report c).unit k = s.unit k := rfl
@[simp] theorem State.send_unit (k : Nat) (m : Msg) : (s.send m).unit k = s.unit k := rfl
@[simp] theorem State.emit_unit (k : Nat) (o : Out) : (s.emit o).unit k = s.unit k := rfl

@[simp] theorem State.region_setRegion_same (k : Nat) (x : Region) : (s.setRegion k x).region k = x := by simp [State.region, State.setRegion]
theorem State.region_setRegion_other {j k : Nat} (x : Region) (h : j ≠ k) : (s.setRegion k x).region j = s.region j := by
  simp [State.region, State.setRegion, Sparse.get_set_other _ _ _ _ h]
@[simp] theorem State.region_updRegion_same (k : Nat) (f : Region → Region) : (s.updRegion k f).region k = f (s.region k) := by simp [State.updRegion]
theorem State.region_updRegion_other {j k : Nat} (f : Region → Region) (h : j ≠ k) : (s.updRegion k f).region j = s.region j :=
  s.region_setRegion_other _ h

@[simp] theorem State.setUnit_region (k : Nat) (u : Nat) (x : Unit) : (s.setUnit u x).region k = s.region k := rfl
@[simp] theorem State.updUnit_region (k : Nat) (u : Nat) (f : Unit → Unit) : (s.updUnit u f).region k = s.region k := rfl
@[simp] theorem State.setWell_region (k : Nat) (r : Nat) (x : Well) : (s.setWell r x).region k = s.region k := rfl
@[simp] theorem State.updWell_region (k : Nat) (r : Nat) (f : Well → Well) : (s.updWell r f).region k = s.region k := rfl
@[simp] theorem State.setSvc_region (k : Nat) (r : Nat) (x : Service) : (s.setSvc r x).region k = s.region k := rfl
@[simp] theorem State.updSvc_region (k : Nat) (r : Nat) (f : Service → Service) : (s.updSvc r f).region k = s.region k := rfl
@[simp] theorem State.setCluster_region (k : Nat) (c : Nat) (x : Cluster) : (s.setCluster c x).region k = s.region k := rfl
@[simp] theorem State.updCluster_region (k : Nat) (c : Nat) (f : Cluster → Cluster) : (s.updCluster c f).region k = s.region k := rfl
@[simp] theorem State.setLink_region (k : Nat) (l : Nat) (x : Link) : (s.setLink l x).region k = s.region k := rfl
@[simp] theorem State.updLink_region (k : Nat) (l : Nat) (f : Link → Link) : (s.updLink l f).region k = s.region k := rfl
@[simp] theorem State.setBar_region (k : Nat) (o : Nat) (w : Reg32) : (s.setBar o w).region k = s.region k := rfl
@[simp] theorem State.updBar_region (k : Nat) (o : Nat) (f : Reg32 → Reg32) : (s.updBar o f).region k = s.region k := rfl
@[simp] theorem State.seeBar_region (k : Nat) (o b : Nat) : (s.seeBar o b).region k = s.region k := rfl
@[simp] theorem State.forward_region (k : Nat) (e : EvRec) : (s.forward e).region k = s.region k := rfl
@[simp] theorem State.report_region (k : Nat) (c : Cause) : (s.report c).region k = s.region k := rfl
@[simp] theorem State.send_region (k : Nat) (m : Msg) : (s.send m).region k = s.region k := rfl
@[simp] theorem State.emit_region (k : Nat) (o : Out) : (s.emit o).region k = s.region k := rfl

@[simp] theorem State.well_setWell_same (k : Nat) (x : Well) : (s.setWell k x).well k = x := by simp [State.well, State.setWell]
theorem State.well_setWell_other {j k : Nat} (x : Well) (h : j ≠ k) : (s.setWell k x).well j = s.well j := by
  simp [State.well, State.setWell, Sparse.get_set_other _ _ _ _ h]
@[simp] theorem State.well_updWell_same (k : Nat) (f : Well → Well) : (s.updWell k f).well k = f (s.well k) := by simp [State.updWell]
theorem State.well_updWell_other {j k : Nat} (f : Well → Well) (h : j ≠ k) : (s.updWell k f).well j = s.well j :=
  s.well_setWell_other _ h

@[simp] theorem State.setUnit_well (k : Nat) (u : Nat) (x : Unit) : (s.setUnit u x).well k = s.well k := rfl
@[simp] theorem State.updUnit_well (k : Nat) (u : Nat) (f : Unit → Unit) : (s.updUnit u f).well k = s.well k := rfl
@[simp] theorem State.setRegion_well (k : Nat) (r : Nat) (x : Region) : (s.setRegion r x).well k = s.well k := rfl
@[simp] theorem State.updRegion_well (k : Nat) (r : Nat) (f : Region → Region) : (s.updRegion r f).well k = s.well k := rfl
@[simp] theorem State.setSvc_well (k : Nat) (r : Nat) (x : Service) : (s.setSvc r x).well k = s.well k := rfl
@[simp] theorem State.updSvc_well (k : Nat) (r : Nat) (f : Service → Service) : (s.updSvc r f).well k = s.well k := rfl
@[simp] theorem State.setCluster_well (k : Nat) (c : Nat) (x : Cluster) : (s.setCluster c x).well k = s.well k := rfl
@[simp] theorem State.updCluster_well (k : Nat) (c : Nat) (f : Cluster → Cluster) : (s.updCluster c f).well k = s.well k := rfl
@[simp] theorem State.setLink_well (k : Nat) (l : Nat) (x : Link) : (s.setLink l x).well k = s.well k := rfl
@[simp] theorem State.updLink_well (k : Nat) (l : Nat) (f : Link → Link) : (s.updLink l f).well k = s.well k := rfl
@[simp] theorem State.setP1_well (k : Nat) (r i : Nat) (w : Word) : (s.setP1 r i w).well k = s.well k := rfl
@[simp] theorem State.updP1_well (k : Nat) (r i : Nat) (f : Word → Word) : (s.updP1 r i f).well k = s.well k := rfl
@[simp] theorem State.seeP1_well (k : Nat) (r i b : Nat) : (s.seeP1 r i b).well k = s.well k := rfl
@[simp] theorem State.setBar_well (k : Nat) (o : Nat) (w : Reg32) : (s.setBar o w).well k = s.well k := rfl
@[simp] theorem State.updBar_well (k : Nat) (o : Nat) (f : Reg32 → Reg32) : (s.updBar o f).well k = s.well k := rfl
@[simp] theorem State.seeBar_well (k : Nat) (o b : Nat) : (s.seeBar o b).well k = s.well k := rfl
@[simp] theorem State.forward_well (k : Nat) (e : EvRec) : (s.forward e).well k = s.well k := rfl
@[simp] theorem State.report_well (k : Nat) (c : Cause) : (s.report c).well k = s.well k := rfl
@[simp] theorem State.send_well (k : Nat) (m : Msg) : (s.send m).well k = s.well k := rfl
@[simp] theorem State.emit_well (k : Nat) (o : Out) : (s.emit o).well k = s.well k := rfl

@[simp] theorem State.svc_setSvc_same (k : Nat) (x : Service) : (s.setSvc k x).svc k = x := by simp [State.svc, State.setSvc]
theorem State.svc_setSvc_other {j k : Nat} (x : Service) (h : j ≠ k) : (s.setSvc k x).svc j = s.svc j := by
  simp [State.svc, State.setSvc, Sparse.get_set_other _ _ _ _ h]
@[simp] theorem State.svc_updSvc_same (k : Nat) (f : Service → Service) : (s.updSvc k f).svc k = f (s.svc k) := by simp [State.updSvc]
theorem State.svc_updSvc_other {j k : Nat} (f : Service → Service) (h : j ≠ k) : (s.updSvc k f).svc j = s.svc j :=
  s.svc_setSvc_other _ h

@[simp] theorem State.setUnit_svc (k : Nat) (u : Nat) (x : Unit) : (s.setUnit u x).svc k = s.svc k := rfl
@[simp] theorem State.updUnit_svc (k : Nat) (u : Nat) (f : Unit → Unit) : (s.updUnit u f).svc k = s.svc k := rfl
@[simp] theorem State.setRegion_svc (k : Nat) (r : Nat) (x : Region) : (s.setRegion r x).svc k = s.svc k := rfl
@[simp] theorem State.updRegion_svc (k : Nat) (r : Nat) (f : Region → Region) : (s.updRegion r f).svc k = s.svc k := rfl
@[simp] theorem State.setWell_svc (k : Nat) (r : Nat) (x : Well) : (s.setWell r x).svc k = s.svc k := rfl
@[simp] theorem State.updWell_svc (k : Nat) (r : Nat) (f : Well → Well) : (s.updWell r f).svc k = s.svc k := rfl
@[simp] theorem State.setCluster_svc (k : Nat) (c : Nat) (x : Cluster) : (s.setCluster c x).svc k = s.svc k := rfl
@[simp] theorem State.updCluster_svc (k : Nat) (c : Nat) (f : Cluster → Cluster) : (s.updCluster c f).svc k = s.svc k := rfl
@[simp] theorem State.setLink_svc (k : Nat) (l : Nat) (x : Link) : (s.setLink l x).svc k = s.svc k := rfl
@[simp] theorem State.updLink_svc (k : Nat) (l : Nat) (f : Link → Link) : (s.updLink l f).svc k = s.svc k := rfl
@[simp] theorem State.setP1_svc (k : Nat) (r i : Nat) (w : Word) : (s.setP1 r i w).svc k = s.svc k := rfl
@[simp] theorem State.updP1_svc (k : Nat) (r i : Nat) (f : Word → Word) : (s.updP1 r i f).svc k = s.svc k := rfl
@[simp] theorem State.seeP1_svc (k : Nat) (r i b : Nat) : (s.seeP1 r i b).svc k = s.svc k := rfl
@[simp] theorem State.setBar_svc (k : Nat) (o : Nat) (w : Reg32) : (s.setBar o w).svc k = s.svc k := rfl
@[simp] theorem State.updBar_svc (k : Nat) (o : Nat) (f : Reg32 → Reg32) : (s.updBar o f).svc k = s.svc k := rfl
@[simp] theorem State.seeBar_svc (k : Nat) (o b : Nat) : (s.seeBar o b).svc k = s.svc k := rfl
@[simp] theorem State.forward_svc (k : Nat) (e : EvRec) : (s.forward e).svc k = s.svc k := rfl
@[simp] theorem State.report_svc (k : Nat) (c : Cause) : (s.report c).svc k = s.svc k := rfl
@[simp] theorem State.send_svc (k : Nat) (m : Msg) : (s.send m).svc k = s.svc k := rfl
@[simp] theorem State.emit_svc (k : Nat) (o : Out) : (s.emit o).svc k = s.svc k := rfl

@[simp] theorem State.cluster_setCluster_same (k : Nat) (x : Cluster) : (s.setCluster k x).cluster k = x := by simp [State.cluster, State.setCluster]
theorem State.cluster_setCluster_other {j k : Nat} (x : Cluster) (h : j ≠ k) : (s.setCluster k x).cluster j = s.cluster j := by
  simp [State.cluster, State.setCluster, Sparse.get_set_other _ _ _ _ h]
@[simp] theorem State.cluster_updCluster_same (k : Nat) (f : Cluster → Cluster) : (s.updCluster k f).cluster k = f (s.cluster k) := by simp [State.updCluster]
theorem State.cluster_updCluster_other {j k : Nat} (f : Cluster → Cluster) (h : j ≠ k) : (s.updCluster k f).cluster j = s.cluster j :=
  s.cluster_setCluster_other _ h

@[simp] theorem State.setUnit_cluster (k : Nat) (u : Nat) (x : Unit) : (s.setUnit u x).cluster k = s.cluster k := rfl
@[simp] theorem State.updUnit_cluster (k : Nat) (u : Nat) (f : Unit → Unit) : (s.updUnit u f).cluster k = s.cluster k := rfl
@[simp] theorem State.setRegion_cluster (k : Nat) (r : Nat) (x : Region) : (s.setRegion r x).cluster k = s.cluster k := rfl
@[simp] theorem State.updRegion_cluster (k : Nat) (r : Nat) (f : Region → Region) : (s.updRegion r f).cluster k = s.cluster k := rfl
@[simp] theorem State.setWell_cluster (k : Nat) (r : Nat) (x : Well) : (s.setWell r x).cluster k = s.cluster k := rfl
@[simp] theorem State.updWell_cluster (k : Nat) (r : Nat) (f : Well → Well) : (s.updWell r f).cluster k = s.cluster k := rfl
@[simp] theorem State.setSvc_cluster (k : Nat) (r : Nat) (x : Service) : (s.setSvc r x).cluster k = s.cluster k := rfl
@[simp] theorem State.updSvc_cluster (k : Nat) (r : Nat) (f : Service → Service) : (s.updSvc r f).cluster k = s.cluster k := rfl
@[simp] theorem State.setLink_cluster (k : Nat) (l : Nat) (x : Link) : (s.setLink l x).cluster k = s.cluster k := rfl
@[simp] theorem State.updLink_cluster (k : Nat) (l : Nat) (f : Link → Link) : (s.updLink l f).cluster k = s.cluster k := rfl
@[simp] theorem State.setP1_cluster (k : Nat) (r i : Nat) (w : Word) : (s.setP1 r i w).cluster k = s.cluster k := rfl
@[simp] theorem State.updP1_cluster (k : Nat) (r i : Nat) (f : Word → Word) : (s.updP1 r i f).cluster k = s.cluster k := rfl
@[simp] theorem State.seeP1_cluster (k : Nat) (r i b : Nat) : (s.seeP1 r i b).cluster k = s.cluster k := rfl
@[simp] theorem State.setBar_cluster (k : Nat) (o : Nat) (w : Reg32) : (s.setBar o w).cluster k = s.cluster k := rfl
@[simp] theorem State.updBar_cluster (k : Nat) (o : Nat) (f : Reg32 → Reg32) : (s.updBar o f).cluster k = s.cluster k := rfl
@[simp] theorem State.seeBar_cluster (k : Nat) (o b : Nat) : (s.seeBar o b).cluster k = s.cluster k := rfl
@[simp] theorem State.forward_cluster (k : Nat) (e : EvRec) : (s.forward e).cluster k = s.cluster k := rfl
@[simp] theorem State.report_cluster (k : Nat) (c : Cause) : (s.report c).cluster k = s.cluster k := rfl
@[simp] theorem State.send_cluster (k : Nat) (m : Msg) : (s.send m).cluster k = s.cluster k := rfl
@[simp] theorem State.emit_cluster (k : Nat) (o : Out) : (s.emit o).cluster k = s.cluster k := rfl

@[simp] theorem State.link_setLink_same (k : Nat) (x : Link) : (s.setLink k x).link k = x := by simp [State.link, State.setLink]
theorem State.link_setLink_other {j k : Nat} (x : Link) (h : j ≠ k) : (s.setLink k x).link j = s.link j := by
  simp [State.link, State.setLink, Sparse.get_set_other _ _ _ _ h]
@[simp] theorem State.link_updLink_same (k : Nat) (f : Link → Link) : (s.updLink k f).link k = f (s.link k) := by simp [State.updLink]
theorem State.link_updLink_other {j k : Nat} (f : Link → Link) (h : j ≠ k) : (s.updLink k f).link j = s.link j :=
  s.link_setLink_other _ h

@[simp] theorem State.setUnit_link (k : Nat) (u : Nat) (x : Unit) : (s.setUnit u x).link k = s.link k := rfl
@[simp] theorem State.updUnit_link (k : Nat) (u : Nat) (f : Unit → Unit) : (s.updUnit u f).link k = s.link k := rfl
@[simp] theorem State.setRegion_link (k : Nat) (r : Nat) (x : Region) : (s.setRegion r x).link k = s.link k := rfl
@[simp] theorem State.updRegion_link (k : Nat) (r : Nat) (f : Region → Region) : (s.updRegion r f).link k = s.link k := rfl
@[simp] theorem State.setWell_link (k : Nat) (r : Nat) (x : Well) : (s.setWell r x).link k = s.link k := rfl
@[simp] theorem State.updWell_link (k : Nat) (r : Nat) (f : Well → Well) : (s.updWell r f).link k = s.link k := rfl
@[simp] theorem State.setSvc_link (k : Nat) (r : Nat) (x : Service) : (s.setSvc r x).link k = s.link k := rfl
@[simp] theorem State.updSvc_link (k : Nat) (r : Nat) (f : Service → Service) : (s.updSvc r f).link k = s.link k := rfl
@[simp] theorem State.setCluster_link (k : Nat) (c : Nat) (x : Cluster) : (s.setCluster c x).link k = s.link k := rfl
@[simp] theorem State.updCluster_link (k : Nat) (c : Nat) (f : Cluster → Cluster) : (s.updCluster c f).link k = s.link k := rfl
@[simp] theorem State.setP1_link (k : Nat) (r i : Nat) (w : Word) : (s.setP1 r i w).link k = s.link k := rfl
@[simp] theorem State.updP1_link (k : Nat) (r i : Nat) (f : Word → Word) : (s.updP1 r i f).link k = s.link k := rfl
@[simp] theorem State.seeP1_link (k : Nat) (r i b : Nat) : (s.seeP1 r i b).link k = s.link k := rfl
@[simp] theorem State.setBar_link (k : Nat) (o : Nat) (w : Reg32) : (s.setBar o w).link k = s.link k := rfl
@[simp] theorem State.updBar_link (k : Nat) (o : Nat) (f : Reg32 → Reg32) : (s.updBar o f).link k = s.link k := rfl
@[simp] theorem State.seeBar_link (k : Nat) (o b : Nat) : (s.seeBar o b).link k = s.link k := rfl
@[simp] theorem State.forward_link (k : Nat) (e : EvRec) : (s.forward e).link k = s.link k := rfl
@[simp] theorem State.report_link (k : Nat) (c : Cause) : (s.report c).link k = s.link k := rfl
@[simp] theorem State.send_link (k : Nat) (m : Msg) : (s.send m).link k = s.link k := rfl
@[simp] theorem State.emit_link (k : Nat) (o : Out) : (s.emit o).link k = s.link k := rfl

@[simp] theorem State.setUnit_p1 (q j : Nat) (u : Nat) (x : Unit) : (s.setUnit u x).p1 q j = s.p1 q j := rfl
@[simp] theorem State.setUnit_bar (j : Nat) (u : Nat) (x : Unit) : (s.setUnit u x).bar j = s.bar j := rfl
@[simp] theorem State.updUnit_p1 (q j : Nat) (u : Nat) (f : Unit → Unit) : (s.updUnit u f).p1 q j = s.p1 q j := rfl
@[simp] theorem State.updUnit_bar (j : Nat) (u : Nat) (f : Unit → Unit) : (s.updUnit u f).bar j = s.bar j := rfl
@[simp] theorem State.setRegion_bar (j : Nat) (r : Nat) (x : Region) : (s.setRegion r x).bar j = s.bar j := rfl
@[simp] theorem State.updRegion_bar (j : Nat) (r : Nat) (f : Region → Region) : (s.updRegion r f).bar j = s.bar j := rfl
@[simp] theorem State.setWell_p1 (q j : Nat) (r : Nat) (x : Well) : (s.setWell r x).p1 q j = s.p1 q j := rfl
@[simp] theorem State.setWell_bar (j : Nat) (r : Nat) (x : Well) : (s.setWell r x).bar j = s.bar j := rfl
@[simp] theorem State.updWell_p1 (q j : Nat) (r : Nat) (f : Well → Well) : (s.updWell r f).p1 q j = s.p1 q j := rfl
@[simp] theorem State.updWell_bar (j : Nat) (r : Nat) (f : Well → Well) : (s.updWell r f).bar j = s.bar j := rfl
@[simp] theorem State.setSvc_p1 (q j : Nat) (r : Nat) (x : Service) : (s.setSvc r x).p1 q j = s.p1 q j := rfl
@[simp] theorem State.setSvc_bar (j : Nat) (r : Nat) (x : Service) : (s.setSvc r x).bar j = s.bar j := rfl
@[simp] theorem State.updSvc_p1 (q j : Nat) (r : Nat) (f : Service → Service) : (s.updSvc r f).p1 q j = s.p1 q j := rfl
@[simp] theorem State.updSvc_bar (j : Nat) (r : Nat) (f : Service → Service) : (s.updSvc r f).bar j = s.bar j := rfl
@[simp] theorem State.setCluster_p1 (q j : Nat) (c : Nat) (x : Cluster) : (s.setCluster c x).p1 q j = s.p1 q j := rfl
@[simp] theorem State.setCluster_bar (j : Nat) (c : Nat) (x : Cluster) : (s.setCluster c x).bar j = s.bar j := rfl
@[simp] theorem State.updCluster_p1 (q j : Nat) (c : Nat) (f : Cluster → Cluster) : (s.updCluster c f).p1 q j = s.p1 q j := rfl
@[simp] theorem State.updCluster_bar (j : Nat) (c : Nat) (f : Cluster → Cluster) : (s.updCluster c f).bar j = s.bar j := rfl
@[simp] theorem State.setLink_p1 (q j : Nat) (l : Nat) (x : Link) : (s.setLink l x).p1 q j = s.p1 q j := rfl
@[simp] theorem State.setLink_bar (j : Nat) (l : Nat) (x : Link) : (s.setLink l x).bar j = s.bar j := rfl
@[simp] theorem State.updLink_p1 (q j : Nat) (l : Nat) (f : Link → Link) : (s.updLink l f).p1 q j = s.p1 q j := rfl
@[simp] theorem State.updLink_bar (j : Nat) (l : Nat) (f : Link → Link) : (s.updLink l f).bar j = s.bar j := rfl
@[simp] theorem State.setP1_bar (j : Nat) (r i : Nat) (w : Word) : (s.setP1 r i w).bar j = s.bar j := rfl
@[simp] theorem State.updP1_bar (j : Nat) (r i : Nat) (f : Word → Word) : (s.updP1 r i f).bar j = s.bar j := rfl
@[simp] theorem State.seeP1_bar (j : Nat) (r i b : Nat) : (s.seeP1 r i b).bar j = s.bar j := rfl
@[simp] theorem State.setBar_p1 (q j : Nat) (o : Nat) (w : Reg32) : (s.setBar o w).p1 q j = s.p1 q j := rfl
@[simp] theorem State.updBar_p1 (q j : Nat) (o : Nat) (f : Reg32 → Reg32) : (s.updBar o f).p1 q j = s.p1 q j := rfl
@[simp] theorem State.seeBar_p1 (q j : Nat) (o b : Nat) : (s.seeBar o b).p1 q j = s.p1 q j := rfl
@[simp] theorem State.forward_p1 (q j : Nat) (e : EvRec) : (s.forward e).p1 q j = s.p1 q j := rfl
@[simp] theorem State.forward_bar (j : Nat) (e : EvRec) : (s.forward e).bar j = s.bar j := rfl
@[simp] theorem State.report_p1 (q j : Nat) (c : Cause) : (s.report c).p1 q j = s.p1 q j := rfl
@[simp] theorem State.report_bar (j : Nat) (c : Cause) : (s.report c).bar j = s.bar j := rfl
@[simp] theorem State.send_p1 (q j : Nat) (m : Msg) : (s.send m).p1 q j = s.p1 q j := rfl
@[simp] theorem State.send_bar (j : Nat) (m : Msg) : (s.send m).bar j = s.bar j := rfl
@[simp] theorem State.emit_p1 (q j : Nat) (o : Out) : (s.emit o).p1 q j = s.p1 q j := rfl
@[simp] theorem State.emit_bar (j : Nat) (o : Out) : (s.emit o).bar j = s.bar j := rfl

@[simp] theorem State.p1_setP1_same (r i : Nat) (w : Word) : (s.setP1 r i w).p1 r i = w := by
  simp [State.p1, State.setP1]
theorem State.p1_setP1_other {r i r' i' : Nat} (w : Word) (h : r' ≠ r ∨ i' ≠ i) :
    (s.setP1 r i w).p1 r' i' = s.p1 r' i' := by
  by_cases hr : r' = r
  · subst hr
    have hi : i' ≠ i := by simpa using h
    simp [State.p1, State.setP1, Sparse.get_set_other _ _ _ _ hi]
  · simp [State.p1, State.setP1, State.region_updRegion_other _ _ hr]
@[simp] theorem State.p1_updP1_same (r i : Nat) (f : Word → Word) : (s.updP1 r i f).p1 r i = f (s.p1 r i) := by
  simp [State.updP1]
theorem State.p1_updP1_other {r i r' i' : Nat} (f : Word → Word) (h : r' ≠ r ∨ i' ≠ i) :
    (s.updP1 r i f).p1 r' i' = s.p1 r' i' := s.p1_setP1_other _ h
theorem State.p1_seeP1_other {r i b r' i' : Nat} (h : r' ≠ r ∨ i' ≠ i) :
    (s.seeP1 r i b).p1 r' i' = s.p1 r' i' := s.p1_setP1_other _ h
@[simp] theorem State.bar_setBar_same (o : Nat) (w : Reg32) : (s.setBar o w).bar o = w := by
  simp [State.bar, State.setBar]
theorem State.bar_setBar_other {o o' : Nat} (w : Reg32) (h : o' ≠ o) : (s.setBar o w).bar o' = s.bar o' := by
  simp [State.bar, State.setBar, Sparse.get_set_other _ _ _ _ h]
@[simp] theorem State.bar_updBar_same (o : Nat) (f : Reg32 → Reg32) : (s.updBar o f).bar o = f (s.bar o) := by
  simp [State.updBar]
theorem State.bar_updBar_other {o o' : Nat} (f : Reg32 → Reg32) (h : o' ≠ o) : (s.updBar o f).bar o' = s.bar o' :=
  s.bar_setBar_other _ h

/-! ### Hands, rows and banks of a unit -/

variable (x : Unit)

@[simp] theorem Unit.hand_setHand_same (h : Nat) (y : Hand) : (x.setHand h y).hand h = y := by
  simp [Unit.hand, Unit.setHand]
theorem Unit.hand_setHand_other {h h' : Nat} (y : Hand) (e : h' ≠ h) : (x.setHand h y).hand h' = x.hand h' := by
  simp [Unit.hand, Unit.setHand, Sparse.get_set_other _ _ _ _ e]
@[simp] theorem Unit.hand_updHand_same (h : Nat) (f : Hand → Hand) : (x.updHand h f).hand h = f (x.hand h) := by
  simp [Unit.updHand]
theorem Unit.hand_updHand_other {h h' : Nat} (f : Hand → Hand) (e : h' ≠ h) :
    (x.updHand h f).hand h' = x.hand h' := x.hand_setHand_other _ e
@[simp] theorem Unit.cell_setCell_same (q : Nat) (c : Cell) : (x.setCell q c).cell q = c := by
  simp [Unit.cell, Unit.setCell]
theorem Unit.cell_setCell_other {q q' : Nat} (c : Cell) (e : q' ≠ q) : (x.setCell q c).cell q' = x.cell q' := by
  simp [Unit.cell, Unit.setCell, Sparse.get_set_other _ _ _ _ e]
@[simp] theorem Unit.bank_setBank_same (b : Nat) (y : Bank) : (x.setBank b y).bank b = y := by
  simp [Unit.bank, Unit.setBank]
theorem Unit.bank_setBank_other {b b' : Nat} (y : Bank) (e : b' ≠ b) : (x.setBank b y).bank b' = x.bank b' := by
  simp [Unit.bank, Unit.setBank, Sparse.get_set_other _ _ _ _ e]
@[simp] theorem Unit.cell_setHand (h q : Nat) (y : Hand) : (x.setHand h y).cell q = x.cell q := rfl
@[simp] theorem Unit.cell_updHand (h q : Nat) (f : Hand → Hand) : (x.updHand h f).cell q = x.cell q := rfl
@[simp] theorem Unit.cell_setBank (b q : Nat) (y : Bank) : (x.setBank b y).cell q = x.cell q := rfl
@[simp] theorem Unit.hand_setCell (q h : Nat) (c : Cell) : (x.setCell q c).hand h = x.hand h := rfl
@[simp] theorem Unit.hand_setBank (b h : Nat) (y : Bank) : (x.setBank b y).hand h = x.hand h := rfl
@[simp] theorem Unit.bank_setHand (h b : Nat) (y : Hand) : (x.setHand h y).bank b = x.bank b := rfl
@[simp] theorem Unit.bank_updHand (h b : Nat) (f : Hand → Hand) : (x.updHand h f).bank b = x.bank b := rfl
@[simp] theorem Unit.bank_setCell (q b : Nat) (c : Cell) : (x.setCell q c).bank b = x.bank b := rfl

variable (y : Hand)

@[simp] theorem Hand.reg_zero : y.reg 0 = 0 := rfl
@[simp] theorem Hand.setReg_zero (v : Word) : y.setReg 0 v = y := rfl
theorem Hand.reg_setReg_same {r : Nat} (v : Word) (h : r ≠ 0) : (y.setReg r v).reg r = v := by
  simp [Hand.reg, Hand.setReg, h]
theorem Hand.reg_setReg_other {r r' : Nat} (v : Word) (h : r' ≠ r) : (y.setReg r v).reg r' = y.reg r' := by
  unfold Hand.setReg
  split
  · rfl
  · simp [Hand.reg, Sparse.get_set_other _ _ _ _ h]
@[simp] theorem Hand.base_setReg (r a : Nat) (v : Word) : (y.setReg r v).base a = y.base a := by
  unfold Hand.setReg; split <;> rfl
@[simp] theorem Hand.base_setBase_same (a : Nat) (v : WAddr) : (y.setBase a v).base a = v := by
  simp [Hand.base, Hand.setBase]
theorem Hand.base_setBase_other {a a' : Nat} (v : WAddr) (h : a' ≠ a) : (y.setBase a v).base a' = y.base a' := by
  simp [Hand.base, Hand.setBase, Sparse.get_set_other _ _ _ _ h]
@[simp] theorem Hand.reg_setBase (a r : Nat) (v : WAddr) : (y.setBase a v).reg r = y.reg r := rfl

end Sys2Proof.Machine
end

