-- ==== Sys2Proof/Laws/Events.lean ====
section
/-! SUPPORT. What an event, a stop of a unit's hands and a scratchpad access can do, said once for each operation. -/

namespace Sys2Proof.Machine

variable (s : State)

/-! ### Events: only the region's ring, the records on their way to the host and the summaries differ -/

/-- What page 1 writes leave, a record written into a region's ring leaves. -/
theorem State.ringWrite_leaves {α : Type} (f : State → α) (hs : ∀ (t : State) r i w, f (t.setP1 r i w) = f t)
    (hu : ∀ (t : State) r i g, f (t.updP1 r i g) = f t) (r src code subject detail : Nat) :
    f (s.ringWrite r src code subject detail) = f s := by
  unfold State.ringWrite
  dsimp only
  rw [hs, hs, hs, hs, hu]
  cases field (s.p1 r (5632 + 4 * field (s.p1 r 5574) 0 7)) 29 1 == 1
  · rfl
  · exact hu _ _ _ _

/-- What BAR writes leave, a refreshed summary leaves. -/
theorem State.summarise_leaves {α : Type} (f : State → α) (hs : ∀ (t : State) i w, f (t.setBar i w) = f t)
    (hu : ∀ (t : State) i g, f (t.updBar i g) = f t) (r : Nat) : f (s.summarise r) = f s := by
  unfold State.summarise
  dsimp only
  rw [hu]
  cases (s.svc r).inService
  · exact (congrArg f (if_neg Bool.false_ne_true)).trans (hu _ _ _)
  · refine (congrArg f (if_pos rfl)).trans ?_
    unfold State.netRefresh
    dsimp only
    rw [hs, hs, hs, hs, hs, hs]
    unfold State.welRefresh
    dsimp only
    rw [hs, hs, hs, hs, hs, hs, hs, hs]

/-- What an event raised in a region leaves. -/
theorem State.raise_leaves {α : Type} (f : State → α) (hw : ∀ (t : State) e, f (t.forward e) = f t)
    (hr : ∀ (t : State) r src code subject detail, f (t.ringWrite r src code subject detail) = f t)
    (hs : ∀ (t : State) r, f (t.summarise r) = f t) (r code subject detail : Nat) : f (s.raise r code subject detail) = f s := by
  unfold State.raise
  dsimp only
  cases summarised code
  · exact (hw _ _).trans (hr _ _ _ _ _ _)
  · exact (hs _ _).trans ((hw _ _).trans (hr _ _ _ _ _ _))

@[simp] theorem State.ringWrite_pending (r src code subject detail : Nat) :
    (s.ringWrite r src code subject detail).pending = s.pending :=
  s.ringWrite_leaves State.pending (fun _ _ _ _ => rfl) (fun _ _ _ _ => rfl) ..
@[simp] theorem State.ringWrite_root (r src code subject detail : Nat) :
    (s.ringWrite r src code subject detail).root = s.root :=
  s.ringWrite_leaves State.root (fun _ _ _ _ => rfl) (fun _ _ _ _ => rfl) ..
@[simp] theorem State.ringWrite_units (r src code subject detail : Nat) :
    (s.ringWrite r src code subject detail).units = s.units :=
  s.ringWrite_leaves State.units (fun _ _ _ _ => rfl) (fun _ _ _ _ => rfl) ..
@[simp] theorem State.ringWrite_wells (r src code subject detail : Nat) :
    (s.ringWrite r src code subject detail).wells = s.wells :=
  s.ringWrite_leaves State.wells (fun _ _ _ _ => rfl) (fun _ _ _ _ => rfl) ..
@[simp] theorem State.ringWrite_service (r src code subject detail : Nat) :
    (s.ringWrite r src code subject detail).service = s.service :=
  s.ringWrite_leaves State.service (fun _ _ _ _ => rfl) (fun _ _ _ _ => rfl) ..
@[simp] theorem State.ringWrite_clusters (r src code subject detail : Nat) :
    (s.ringWrite r src code subject detail).clusters = s.clusters :=
  s.ringWrite_leaves State.clusters (fun _ _ _ _ => rfl) (fun _ _ _ _ => rfl) ..
@[simp] theorem State.ringWrite_links (r src code subject detail : Nat) :
    (s.ringWrite r src code subject detail).links = s.links :=
  s.ringWrite_leaves State.links (fun _ _ _ _ => rfl) (fun _ _ _ _ => rfl) ..
@[simp] theorem State.ringWrite_bar0 (r src code subject detail : Nat) :
    (s.ringWrite r src code subject detail).bar0 = s.bar0 :=
  s.ringWrite_leaves State.bar0 (fun _ _ _ _ => rfl) (fun _ _ _ _ => rfl) ..
@[simp] theorem State.ringWrite_seq (r src code subject detail : Nat) :
    (s.ringWrite r src code subject detail).seq = s.seq :=
  s.ringWrite_leaves State.seq (fun _ _ _ _ => rfl) (fun _ _ _ _ => rfl) ..
@[simp] theorem State.ringWrite_sys (r src code subject detail : Nat) :
    (s.ringWrite r src code subject detail).sys = s.sys :=
  s.ringWrite_leaves State.sys (fun _ _ _ _ => rfl) (fun _ _ _ _ => rfl) ..
@[simp] theorem State.ringWrite_host (r src code subject detail : Nat) :
    (s.ringWrite r src code subject detail).host = s.host :=
  s.ringWrite_leaves State.host (fun _ _ _ _ => rfl) (fun _ _ _ _ => rfl) ..
@[simp] theorem State.ringWrite_power (r src code subject detail : Nat) :
    (s.ringWrite r src code subject detail).power = s.power :=
  s.ringWrite_leaves State.power (fun _ _ _ _ => rfl) (fun _ _ _ _ => rfl) ..
@[simp] theorem State.ringWrite_mgmt (r src code subject detail : Nat) :
    (s.ringWrite r src code subject detail).mgmt = s.mgmt :=
  s.ringWrite_leaves State.mgmt (fun _ _ _ _ => rfl) (fun _ _ _ _ => rfl) ..
@[simp] theorem State.ringWrite_net (r src code subject detail : Nat) :
    (s.ringWrite r src code subject detail).net = s.net :=
  s.ringWrite_leaves State.net (fun _ _ _ _ => rfl) (fun _ _ _ _ => rfl) ..
@[simp] theorem State.ringWrite_out (r src code subject detail : Nat) :
    (s.ringWrite r src code subject detail).out = s.out :=
  s.ringWrite_leaves State.out (fun _ _ _ _ => rfl) (fun _ _ _ _ => rfl) ..
@[simp] theorem State.ringWrite_hostMem (r src code subject detail : Nat) :
    (s.ringWrite r src code subject detail).hostMem = s.hostMem :=
  s.ringWrite_leaves State.hostMem (fun _ _ _ _ => rfl) (fun _ _ _ _ => rfl) ..

@[simp] theorem State.summarise_pending (r : Nat) : (s.summarise r).pending = s.pending :=
  s.summarise_leaves State.pending (fun _ _ _ => rfl) (fun _ _ _ => rfl) r
@[simp] theorem State.summarise_root (r : Nat) : (s.summarise r).root = s.root :=
  s.summarise_leaves State.root (fun _ _ _ => rfl) (fun _ _ _ => rfl) r
@[simp] theorem State.summarise_units (r : Nat) : (s.summarise r).units = s.units :=
  s.summarise_leaves State.units (fun _ _ _ => rfl) (fun _ _ _ => rfl) r
@[simp] theorem State.summarise_regions (r : Nat) : (s.summarise r).regions = s.regions :=
  s.summarise_leaves State.regions (fun _ _ _ => rfl) (fun _ _ _ => rfl) r
@[simp] theorem State.summarise_wells (r : Nat) : (s.summarise r).wells = s.wells :=
  s.summarise_leaves State.wells (fun _ _ _ => rfl) (fun _ _ _ => rfl) r
@[simp] theorem State.summarise_service (r : Nat) : (s.summarise r).service = s.service :=
  s.summarise_leaves State.service (fun _ _ _ => rfl) (fun _ _ _ => rfl) r
@[simp] theorem State.summarise_clusters (r : Nat) : (s.summarise r).clusters = s.clusters :=
  s.summarise_leaves State.clusters (fun _ _ _ => rfl) (fun _ _ _ => rfl) r
@[simp] theorem State.summarise_links (r : Nat) : (s.summarise r).links = s.links :=
  s.summarise_leaves State.links (fun _ _ _ => rfl) (fun _ _ _ => rfl) r
@[simp] theorem State.summarise_seq (r : Nat) : (s.summarise r).seq = s.seq :=
  s.summarise_leaves State.seq (fun _ _ _ => rfl) (fun _ _ _ => rfl) r
@[simp] theorem State.summarise_sys (r : Nat) : (s.summarise r).sys = s.sys :=
  s.summarise_leaves State.sys (fun _ _ _ => rfl) (fun _ _ _ => rfl) r
@[simp] theorem State.summarise_host (r : Nat) : (s.summarise r).host = s.host :=
  s.summarise_leaves State.host (fun _ _ _ => rfl) (fun _ _ _ => rfl) r
@[simp] theorem State.summarise_power (r : Nat) : (s.summarise r).power = s.power :=
  s.summarise_leaves State.power (fun _ _ _ => rfl) (fun _ _ _ => rfl) r
@[simp] theorem State.summarise_mgmt (r : Nat) : (s.summarise r).mgmt = s.mgmt :=
  s.summarise_leaves State.mgmt (fun _ _ _ => rfl) (fun _ _ _ => rfl) r
@[simp] theorem State.summarise_net (r : Nat) : (s.summarise r).net = s.net :=
  s.summarise_leaves State.net (fun _ _ _ => rfl) (fun _ _ _ => rfl) r
@[simp] theorem State.summarise_out (r : Nat) : (s.summarise r).out = s.out :=
  s.summarise_leaves State.out (fun _ _ _ => rfl) (fun _ _ _ => rfl) r
@[simp] theorem State.summarise_hostMem (r : Nat) : (s.summarise r).hostMem = s.hostMem :=
  s.summarise_leaves State.hostMem (fun _ _ _ => rfl) (fun _ _ _ => rfl) r

@[simp] theorem State.raise_pending (r code subject detail : Nat) : (s.raise r code subject detail).pending = s.pending :=
  s.raise_leaves State.pending (fun _ _ => rfl) (fun t => t.ringWrite_pending) (fun t => t.summarise_pending) ..
@[simp] theorem State.raise_root (r code subject detail : Nat) : (s.raise r code subject detail).root = s.root :=
  s.raise_leaves State.root (fun _ _ => rfl) (fun t => t.ringWrite_root) (fun t => t.summarise_root) ..
@[simp] theorem State.raise_units (r code subject detail : Nat) : (s.raise r code subject detail).units = s.units :=
  s.raise_leaves State.units (fun _ _ => rfl) (fun t => t.ringWrite_units) (fun t => t.summarise_units) ..
@[simp] theorem State.raise_wells (r code subject detail : Nat) : (s.raise r code subject detail).wells = s.wells :=
  s.raise_leaves State.wells (fun _ _ => rfl) (fun t => t.ringWrite_wells) (fun t => t.summarise_wells) ..
@[simp] theorem State.raise_service (r code subject detail : Nat) : (s.raise r code subject detail).service = s.service :=
  s.raise_leaves State.service (fun _ _ => rfl) (fun t => t.ringWrite_service) (fun t => t.summarise_service) ..
@[simp] theorem State.raise_clusters (r code subject detail : Nat) : (s.raise r code subject detail).clusters = s.clusters :=
  s.raise_leaves State.clusters (fun _ _ => rfl) (fun t => t.ringWrite_clusters) (fun t => t.summarise_clusters) ..
@[simp] theorem State.raise_links (r code subject detail : Nat) : (s.raise r code subject detail).links = s.links :=
  s.raise_leaves State.links (fun _ _ => rfl) (fun t => t.ringWrite_links) (fun t => t.summarise_links) ..
@[simp] theorem State.raise_seq (r code subject detail : Nat) : (s.raise r code subject detail).seq = s.seq :=
  s.raise_leaves State.seq (fun _ _ => rfl) (fun t => t.ringWrite_seq) (fun t => t.summarise_seq) ..
@[simp] theorem State.raise_sys (r code subject detail : Nat) : (s.raise r code subject detail).sys = s.sys :=
  s.raise_leaves State.sys (fun _ _ => rfl) (fun t => t.ringWrite_sys) (fun t => t.summarise_sys) ..
@[simp] theorem State.raise_power (r code subject detail : Nat) : (s.raise r code subject detail).power = s.power :=
  s.raise_leaves State.power (fun _ _ => rfl) (fun t => t.ringWrite_power) (fun t => t.summarise_power) ..
@[simp] theorem State.raise_mgmt (r code subject detail : Nat) : (s.raise r code subject detail).mgmt = s.mgmt :=
  s.raise_leaves State.mgmt (fun _ _ => rfl) (fun t => t.ringWrite_mgmt) (fun t => t.summarise_mgmt) ..
@[simp] theorem State.raise_net (r code subject detail : Nat) : (s.raise r code subject detail).net = s.net :=
  s.raise_leaves State.net (fun _ _ => rfl) (fun t => t.ringWrite_net) (fun t => t.summarise_net) ..
@[simp] theorem State.raise_out (r code subject detail : Nat) : (s.raise r code subject detail).out = s.out :=
  s.raise_leaves State.out (fun _ _ => rfl) (fun t => t.ringWrite_out) (fun t => t.summarise_out) ..
@[simp] theorem State.raise_hostMem (r code subject detail : Nat) : (s.raise r code subject detail).hostMem = s.hostMem :=
  s.raise_leaves State.hostMem (fun _ _ => rfl) (fun t => t.ringWrite_hostMem) (fun t => t.summarise_hostMem) ..
@[simp] theorem State.raise_regions (r code subject detail : Nat) :
    (s.raise r code subject detail).regions = (s.ringWrite r srcRegion code subject detail).regions := by
  unfold State.raise
  dsimp only
  cases summarised code
  · rfl
  · exact State.summarise_regions _ _
@[simp] theorem State.raise_unit (r code subject detail u : Nat) : (s.raise r code subject detail).unit u = s.unit u := by
  unfold State.unit; rw [State.raise_units]
/-- The record goes to the host engine behind those that wait (R394). -/
theorem State.raise_events (r code subject detail : Nat) :
    (s.raise r code subject detail).host.events =
      s.host.events ++ [s.evRec srcRegion code r (if subject = 16383 then 0xFFFF else subject) detail] := by
  unfold State.raise
  dsimp only
  generalize s.evRec srcRegion code r (if subject = 16383 then 65535 else subject) detail = e
  cases summarised code
  · rw [if_neg Bool.false_ne_true]
    exact congrArg (fun h => HostEng.events h ++ [e]) (s.ringWrite_host ..)
  · rw [if_pos rfl, State.summarise_host]
    exact congrArg (fun h => HostEng.events h ++ [e]) (s.ringWrite_host ..)

/-- The page 1 registers that an event may change: those of the region's ring. -/
theorem State.ringWrite_p1_other {r src code subject detail r' i : Nat} (h : r' ≠ r ∨ ringIndex i = false)
    (hr : s.ringSlot r < 128) : (s.ringWrite r src code subject detail).p1 r' i = s.p1 r' i := by
  have hs : field (s.p1 r 5574) 0 7 < 128 := hr
  have ne : ∀ j, ringIndex j = true → r' ≠ r ∨ i ≠ j := by
    intro j hj
    rcases h with h | h
    · exact .inl h
    · refine .inr fun e => ?_
      subst e; rw [h] at hj; cases hj
  have ring : ∀ k, k < 4 → ringIndex (5632 + 4 * field (s.p1 r 5574) 0 7 + k) = true := by
    intro k hk; simp [ringIndex]; omega
  unfold State.ringWrite
  dsimp only
  rw [State.p1_setP1_other _ _ (ne _ (ring 3 (by decide))), State.p1_setP1_other _ _ (ne _ (ring 2 (by decide))),
    State.p1_setP1_other _ _ (ne _ (ring 1 (by decide))),
    State.p1_setP1_other _ _ (ne (5632 + 4 * field (s.p1 r 5574) 0 7) (ring 0 (by decide))), State.p1_updP1_other _ _ (ne _ (by decide))]
  split
  · exact State.p1_updP1_other _ _ (ne _ (by decide))
  · rfl

/-! ### The stop of a unit's hands (R480) -/

/-- Every hand below 8 is idle after a stop, and nothing but the hands differs. -/
theorem Unit.stopHands_hand (x : Unit) {h : Nat} (hh : h < 8) : ((x.stopHands).hand h).st = .idle := by
  have step (l : List Nat) : ∀ y : Unit, (h ∈ l ∨ (y.hand h).st = .idle) →
      ((l.foldl (fun y k => y.updHand k Hand.stop) y).hand h).st = .idle := by
    induction l with
    | nil => intro y k; simpa using k
    | cons a l ih =>
      intro y k
      apply ih
      by_cases e : h = a
      · subst e; right; simp [Hand.stop]
      · rcases k with k | k
        · rcases List.mem_cons.mp k with k | k
          · exact absurd k e
          · exact .inl k
        · right; rw [Unit.hand_updHand_other _ _ e]; exact k
  exact step _ x (.inl (by simpa using hh))

theorem Unit.stopHands_only (x : Unit) : x.stopHands = { x with hands := x.stopHands.hands } := by
  have step (l : List Nat) : ∀ y : Unit, l.foldl (fun y k => y.updHand k Hand.stop) y =
      { y with hands := (l.foldl (fun y k => y.updHand k Hand.stop) y).hands } := by
    induction l with
    | nil => exact fun _ => rfl
    | cons a l ih => intro y; rw [List.foldl_cons, ih]; rfl
  exact step _ x

theorem Unit.mapBanks_only (x : Unit) (f : Bank → Bank) : x.mapBanks f = { x with banks := (x.mapBanks f).banks } := by
  have step (l : List Nat) : ∀ y : Unit, l.foldl (fun y b => y.setBank b (f (y.bank b))) y =
      { y with banks := (l.foldl (fun y b => y.setBank b (f (y.bank b))) y).banks } := by
    induction l with
    | nil => exact fun _ => rfl
    | cons a l ih => intro y; rw [List.foldl_cons, ih]; rfl
  exact step _ x

theorem onlyUnits.trans {s t v : State} (h : onlyUnits s t) (k : onlyUnits t v) : onlyUnits s v := by
  unfold onlyUnits at *
  generalize t.units = x at h
  subst h
  exact k

theorem State.updUnit_only (u : Nat) (f : Unit → Unit) : onlyUnits s (s.updUnit u f) := by
  unfold onlyUnits State.updUnit State.setUnit
  rfl

theorem State.foldl_updUnit_only {α : Type} (k : α → Nat) (f : α → Unit → Unit) (l : List α) :
    onlyUnits s (l.foldl (fun t a => t.updUnit (k a) (f a)) s) := by
  induction l generalizing s with
  | nil => exact Eq.refl s
  | cons a l ih => exact (s.updUnit_only _ _).trans (ih _)

/-- A stop changes only the units. -/
theorem State.stopHands_only (u : Nat) : onlyUnits s (s.stopHands u) :=
  (s.updUnit_only _ _).trans ((s.updUnit u Unit.stopHands).foldl_updUnit_only _ _ _)

/-- A stop leaves every row of every unit. -/
theorem State.cell_stopHands (u v q : Nat) : ((s.stopHands u).unit v).cell q = (s.unit v).cell q := by
  have one (t : State) (k : Nat) (f : Unit → Unit) (hf : ∀ x : Unit, (f x).rows = x.rows) :
      ((t.updUnit k f).unit v).cell q = (t.unit v).cell q := by
    by_cases e : v = k
    · subst e; simp [Unit.cell, hf]
    · rw [State.unit_updUnit_other _ _ e]
  have step (l : List Nat) : ∀ t : State,
      ((l.foldl (fun t v => t.updUnit v fun x => x.mapBanks (·.withdraw u)) t).unit v).cell q = (t.unit v).cell q := by
    induction l with
    | nil => exact fun _ => rfl
    | cons a l ih => exact fun t => (ih _).trans (one _ _ _ fun x => by rw [Unit.mapBanks_only])
  exact (step _ _).trans (one _ _ _ fun x => by rw [Unit.stopHands_only])

/-! ### One access (Tables SPD-3 and SPD-4) -/

@[simp] theorem Unit.cell_putCell_same (x : Unit) (q : Nat) (c : Cell) : (x.putCell q c).cell q = c := by
  unfold Unit.putCell Unit.wakeRow
  dsimp only
  split <;> simp
theorem Unit.cell_putCell_other (x : Unit) {q q' : Nat} (c : Cell) (h : q' ≠ q) : (x.putCell q c).cell q' = x.cell q' := by
  unfold Unit.putCell Unit.wakeRow
  dsimp only
  split
  · exact Unit.cell_setCell_other _ _ h
  · rw [Unit.cell_setBank]; exact Unit.cell_setCell_other _ _ h
@[simp] theorem Unit.hand_putCell (x : Unit) (q h : Nat) (c : Cell) : (x.putCell q c).hand h = x.hand h := by
  unfold Unit.putCell Unit.wakeRow
  dsimp only
  split <;> simp

/-- A plain write of a tagged row whose metadata copies agree is rejected, and only the unit's tag_violation_seen differs. -/
theorem State.access_rejected {u q j : Nat} {wide nf : Bool} {d : Row} {e : Ecc} (he : e.ofMeta = false)
    (h : ((s.unit u).cell q).tagged = true) :
    s.access u q .plainWrite wide j d nf e = (s.seeP1 (regionOf u) (spdIdx u 3) 3, .done 0x12C 0 false) := by
  simp [State.access, he, h]

/-- An access that must wait, of a row whose metadata copies agree, changes nothing. -/
theorem State.access_waits {u q j : Nat} {k : AccKind} {wide nf : Bool} {d : Row} {e : Ecc} (he : e.ofMeta = false)
    (hk : k ≠ .plainWrite)
    (h : ((s.unit u).cell q).admits k = false) : s.access u q k wide j d nf e = (s, .wait) := by
  simp [State.access, he, h, hk]

/-- An access without an error that need not wait writes its row and gives what its kind reads. -/
theorem State.access_made {u q j : Nat} {k : AccKind} {wide nf : Bool} {d : Row}
    (hk : k = .plainWrite → ((s.unit u).cell q).tagged = false) (h : ((s.unit u).cell q).admits k = true) :
    let c := (s.unit u).cell q
    let c' := c.after k wide j d nf
    s.access u q k wide j d nf .clean = (s.updUnit u fun x => x.putCell q c',
      if k = .test ∨ k = .seal ∨ k = .tagset then .done 0 (BitVec.ofNat 576 (c'.full.toNat + 2 * c'.tagged.toNat)) c.nf
      else if k.isRead then .done 0 (viewOf wide j c.data) c.nf else .done 0 0 false) := by
  have hk' : ¬(k = .plainWrite ∧ ((s.unit u).cell q).tagged = true) := fun e => by
    have := hk e.1; rw [e.2] at this; cases this
  simp only [State.access, Ecc.ofMeta, Bool.false_eq_true, if_false, if_neg hk', h, Bool.not_true]
  cases checksRow k wide <;> rfl

/-- An uncorrectable row gives nothing, stops the unit's hands and is reported. -/
theorem State.access_failed {u q j : Nat} {k : AccKind} {wide nf : Bool} {d : Row}
    (hk : k = .plainWrite → ((s.unit u).cell q).tagged = false) (h : ((s.unit u).cell q).admits k = true)
    (hc : checksRow k wide = true) : s.access u q k wide j d nf .uncorrectable = (s.eccFailed u q, .done 0x221 0 false) := by
  have hk' : ¬(k = .plainWrite ∧ ((s.unit u).cell q).tagged = true) := fun e => by
    have := hk e.1; rw [e.2] at this; cases this
  simp only [State.access, Ecc.ofMeta, Bool.false_eq_true, if_false, if_neg hk', h, hc, Bool.not_true]
  rfl

end Sys2Proof.Machine
end

