-- ==== Sys2Proof/Laws/Keeps.lean ====
section
/-! SUPPORT. Every shared operation keeps the queue of commands and the canonical form of the tables: one lemma for each, which
the operations built on it cite. -/

namespace Sys2Proof

/-- An entry of a table after a write is the one written or was there before. -/
theorem Sparse.mem_set {α : Type} [DecidableEq α] {d : α} {m : Sparse α} {key : Nat} {x : α} {e : Nat × α}
    (h : e ∈ m.set d key x) : e = (key, x) ∨ e ∈ m := by
  unfold Sparse.set at h
  split at h
  · exact .inr (Sparse.mem_erase h)
  · exact Sparse.mem_insert h

/-- A table reads as its default or as one of its entries. -/
theorem Sparse.get_mem {α : Type} (d : α) (m : Sparse α) (k : Nat) : m.get d k = d ∨ (k, m.get d k) ∈ m := by
  induction m with
  | nil => exact .inl rfl
  | cons e m ih =>
    obtain ⟨j, v⟩ := e
    by_cases hj : j = k
    · subst hj; simp [Sparse.get]
    · rw [Sparse.get_cons, if_neg (by simpa using hj)]
      exact ih.imp id (List.mem_cons_of_mem _)

/-- Rows written one after the other into a table that stays in canonical form. -/
theorem Sparse.wf_foldl_set {α β : Type} [DecidableEq α] {d : α} (f : β → Nat × α) (l : List β) {m : Sparse α}
    (h : m.wf (fun _ => d) = true) : (l.foldl (fun m b => m.set d (f b).1 (f b).2) m).wf (fun _ => d) = true := by
  induction l generalizing m with
  | nil => exact h
  | cons b l ih => exact ih (Sparse.wf_set_const _ _ h)

namespace Machine

variable {s t v : State}

theorem State.keeps_refl : s.keeps s := ⟨rfl, id⟩
theorem State.keeps.trans (h : s.keeps t) (k : t.keeps v) : s.keeps v := ⟨k.1.trans h.1, k.2 ∘ h.2⟩

/-- A fold of operations that each keep. -/
theorem State.keeps.foldl {α : Type} {f : State → α → State} {l : List α} (h : s.keeps t) (hf : ∀ (t : State) (a : α), t.keeps (f t a)) :
    s.keeps (l.foldl f t) := by
  induction l generalizing t with
  | nil => exact h
  | cons a l ih => exact ih (h.trans (hf t a))

/-- A fold of operations that each keep and each also give something. -/
theorem State.keeps.foldFst {α β : Type} {f : State × β → α → State × β} {l : List α} {p : State × β} (h : s.keeps p.1)
    (hf : ∀ (p : State × β) (a : α), p.1.keeps (f p a).1) : s.keeps (l.foldl f p).1 := by
  induction l generalizing p with
  | nil => exact h
  | cons a l ih => exact ih (h.trans (hf p a))

/-- What every operation keeps gives the invariant back. -/
theorem State.keeps.inv (h : s.keeps t) (hs : s.Inv) : t.Inv :=
  ⟨by unfold State.queueOk; rw [h.1]; exact hs.1, h.2 hs.2⟩

/-! ### Canonical rows -/

/-- The rows of a unit are in canonical form. -/
def Unit.rowsOk (x : Unit) : Prop := Sparse.wf (fun _ => Cell.reset) x.rows = true
/-- The rows of a well are in canonical form. -/
def Well.rowsOk (x : Well) : Prop := Sparse.wf (fun _ => (0 : Row)) x.rows = true

theorem State.canonical.unit (h : s.canonical) (u : Nat) : (s.unit u).rowsOk := by
  rcases Sparse.get_mem Unit.reset s.units u with e | e
  · show Sparse.wf _ (s.units.get Unit.reset u).rows = true
    rw [e]; rfl
  · exact h.2.2.2.2.2.2.2.2.1 _ e

theorem State.canonical.well (h : s.canonical) (r : Nat) : (s.well r).rowsOk := by
  rcases Sparse.get_mem Well.reset s.wells r with e | e
  · show Sparse.wf _ (s.wells.get Well.reset r).rows = true
    rw [e]; rfl
  · exact h.2.2.2.2.2.2.2.2.2 _ e

theorem Unit.rowsOk_setCell {x : Unit} (q : Nat) (c : Cell) (h : x.rowsOk) : (x.setCell q c).rowsOk :=
  Sparse.wf_set_const q c h

/-! ### Writes of the tables -/

theorem State.keeps.updUnit {u : Nat} {f : Unit → Unit} (h : s.keeps t) (hf : ∀ x : Unit, x.rowsOk → (f x).rowsOk) :
    s.keeps (t.updUnit u f) := by
  refine h.trans ⟨rfl, fun h => ?_⟩
  have hu := hf _ (h.unit u)
  obtain ⟨h1, h2, h3, h4, h5, h6, h7, h8, h9, h10⟩ := h
  refine ⟨Sparse.wf_set_const _ _ h1, h2, h3, h4, h5, h6, h7, h8, fun e he => ?_, h10⟩
  rcases Sparse.mem_set he with e | e
  · subst e; exact hu
  · exact h9 _ e

/-- A change of a unit that leaves its rows. -/
theorem State.keeps.unitRest {u : Nat} {f : Unit → Unit} (h : s.keeps t) (hf : ∀ x : Unit, (f x).rows = x.rows) :
    s.keeps (t.updUnit u f) :=
  h.updUnit fun x h => by unfold Unit.rowsOk; rw [hf x]; exact h

theorem State.keeps.updWell {r : Nat} {f : Well → Well} (h : s.keeps t) (hf : ∀ x : Well, x.rowsOk → (f x).rowsOk) :
    s.keeps (t.updWell r f) := by
  refine h.trans ⟨rfl, fun h => ?_⟩
  have hu := hf _ (h.well r)
  obtain ⟨h1, h2, h3, h4, h5, h6, h7, h8, h9, h10⟩ := h
  refine ⟨h1, h2, Sparse.wf_set_const _ _ h3, h4, h5, h6, h7, h8, h9, fun e he => ?_⟩
  rcases Sparse.mem_set he with e | e
  · subst e; exact hu
  · exact h10 _ e

/-- A change of a well that leaves its rows. -/
theorem State.keeps.wellRest {r : Nat} {f : Well → Well} (h : s.keeps t) (hf : ∀ x : Well, (f x).rows = x.rows) :
    s.keeps (t.updWell r f) :=
  h.updWell fun x h => by unfold Well.rowsOk; rw [hf x]; exact h

theorem State.keeps.updRegion {r : Nat} {f : Region → Region} (h : s.keeps t) : s.keeps (t.updRegion r f) :=
  h.trans ⟨rfl, fun ⟨h1, h2, h⟩ => ⟨h1, Sparse.wf_set_const _ _ h2, h⟩⟩
theorem State.keeps.updSvc {r : Nat} {f : Service → Service} (h : s.keeps t) : s.keeps (t.updSvc r f) :=
  h.trans ⟨rfl, fun ⟨h1, h2, h3, h4, h⟩ => ⟨h1, h2, h3, Sparse.wf_set_const _ _ h4, h⟩⟩
theorem State.keeps.updCluster {c : Nat} {f : Cluster → Cluster} (h : s.keeps t) : s.keeps (t.updCluster c f) :=
  h.trans ⟨rfl, fun ⟨h1, h2, h3, h4, h5, h⟩ => ⟨h1, h2, h3, h4, Sparse.wf_set_const _ _ h5, h⟩⟩
theorem State.keeps.updLink {l : Nat} {f : Link → Link} (h : s.keeps t) : s.keeps (t.updLink l f) :=
  h.trans ⟨rfl, fun ⟨h1, h2, h3, h4, h5, h6, h⟩ => ⟨h1, h2, h3, h4, h5, Sparse.wf_set_const _ _ h6, h⟩⟩
theorem State.keeps.setBar {o : Nat} {w : Reg32} (h : s.keeps t) : s.keeps (t.setBar o w) :=
  h.trans ⟨rfl, fun ⟨h1, h2, h3, h4, h5, h6, h7, h⟩ => ⟨h1, h2, h3, h4, h5, h6, Sparse.wf_set _ _ h7, h⟩⟩
theorem State.keeps.updBar {o : Nat} {f : Reg32 → Reg32} (h : s.keeps t) : s.keeps (t.updBar o f) := h.setBar
theorem State.keeps.seeBar {o b : Nat} (h : s.keeps t) : s.keeps (t.seeBar o b) := h.setBar
theorem State.keeps.setP1 {r i : Nat} {w : Word} (h : s.keeps t) : s.keeps (t.setP1 r i w) := h.updRegion
theorem State.keeps.updP1 {r i : Nat} {f : Word → Word} (h : s.keeps t) : s.keeps (t.updP1 r i f) := h.updRegion
theorem State.keeps.seeP1 {r i b : Nat} (h : s.keeps t) : s.keeps (t.seeP1 r i b) := h.updRegion
theorem State.keeps.forward {e : EvRec} (h : s.keeps t) : s.keeps (t.forward e) := ⟨h.1, h.2⟩
theorem State.keeps.report {c : Cause} (h : s.keeps t) : s.keeps (t.report c) := ⟨h.1, h.2⟩
theorem State.keeps.send {m : Msg} (h : s.keeps t) : s.keeps (t.send m) := ⟨h.1, h.2⟩
theorem State.keeps.emit {o : Out} (h : s.keeps t) : s.keeps (t.emit o) := ⟨h.1, h.2⟩

/-! ### Events and summaries -/

theorem State.keeps.welRefresh {r : Nat} (h : s.keeps t) : s.keeps (t.welRefresh r) := by
  unfold State.welRefresh
  iterate 8 apply State.keeps.setBar
  exact h

theorem State.keeps.netRefresh {r : Nat} (h : s.keeps t) : s.keeps (t.netRefresh r) := by
  unfold State.netRefresh
  iterate 6 apply State.keeps.setBar
  exact h

theorem State.keeps.summarise {r : Nat} (h : s.keeps t) : s.keeps (t.summarise r) := by
  unfold State.summarise
  apply State.keeps.updBar
  split
  · exact .netRefresh (.welRefresh h)
  · exact .updBar h

theorem State.keeps.ringWrite {r src code subject detail : Nat} (h : s.keeps t) :
    s.keeps (t.ringWrite r src code subject detail) := by
  unfold State.ringWrite
  iterate 5 apply State.keeps.updRegion
  split
  · exact .updP1 h
  · exact h

theorem State.keeps.raise {r code subject detail : Nat} (h : s.keeps t) : s.keeps (t.raise r code subject detail) := by
  unfold State.raise
  dsimp only
  split
  · exact .summarise (.forward (.ringWrite h))
  · exact .forward (.ringWrite h)

theorem State.keeps.raiseFrom {src code subject detail : Nat} (h : s.keeps t) :
    s.keeps (t.raiseFrom src code subject detail) := h.forward
theorem State.keeps.raiseUnit {u code detail : Nat} (h : s.keeps t) : s.keeps (t.raiseUnit u code detail) := h.raise

/-! ### Hands and banks -/

theorem Unit.rows_mapBanks (f : Bank → Bank) (x : Unit) : (x.mapBanks f).rows = x.rows := by
  have h (l : List Nat) : ∀ x : Unit, (l.foldl (fun y b => y.setBank b (f (y.bank b))) x).rows = x.rows := by
    induction l with
    | nil => exact fun _ => rfl
    | cons a l ih => exact fun x => (ih _).trans rfl
  exact h _ x

theorem Unit.rows_stopHands (x : Unit) : x.stopHands.rows = x.rows := by
  have h (l : List Nat) : ∀ x : Unit, (l.foldl (fun y h => y.updHand h Hand.stop) x).rows = x.rows := by
    induction l with
    | nil => exact fun _ => rfl
    | cons a l ih => exact fun x => (ih _).trans rfl
  exact h _ x

theorem State.keeps.stopHands {u : Nat} (h : s.keeps t) : s.keeps (t.stopHands u) :=
  (h.unitRest Unit.rows_stopHands).foldl fun _ _ => State.keeps_refl.unitRest fun x => Unit.rows_mapBanks _ x

theorem Unit.rowsOk_putCell {x : Unit} (q : Nat) (c : Cell) (h : x.rowsOk) : (x.putCell q c).rowsOk := by
  unfold Unit.putCell
  dsimp only
  split
  · exact Unit.rowsOk_setCell q c h
  · exact Unit.rowsOk_setCell q c h

theorem State.keeps.handFault {u hd code : Nat} {pc : Word} (h : s.keeps t) : s.keeps (t.handFault u hd code pc) := by
  unfold State.handFault
  exact .report (.raiseUnit (.seeP1 (.updP1 (.setP1 (.unitRest h (fun _ => rfl))))))

theorem State.keeps.eccCorrected {u q bit : Nat} (h : s.keeps t) : s.keeps (t.eccCorrected u q bit) := by
  unfold State.eccCorrected
  dsimp only
  split
  · exact .raiseUnit (.seeP1 (.setP1 (.updP1 h)))
  · exact .updSvc (.raiseUnit (.seeP1 (.setP1 (.updP1 h))))

theorem State.keeps.eccFailed {u q : Nat} (h : s.keeps t) : s.keeps (t.eccFailed u q) := by
  unfold State.eccFailed
  exact .report (.raiseUnit (.stopHands (.seeP1 (.updP1 h))))

/-! ### Rows of a unit -/

theorem State.keeps.putCell {u q : Nat} {c : Cell} (h : s.keeps t) : s.keeps (t.updUnit u fun x => x.putCell q c) :=
  h.updUnit fun _ k => Unit.rowsOk_putCell q c k

theorem Unit.rows_hintAll (x : Unit) (b left c : Nat) : (x.hintAll b left c).rows = x.rows := by
  have h (l m : List Req) : ∀ y : Unit, (m.foldl (fun y r => y.hint l left c r) y).rows = y.rows := by
    induction m with
    | nil => exact fun _ => rfl
    | cons a m ih => exact fun y => (ih _).trans rfl
  exact h _ _ x

/-! ### Whole parts written back, and rows of wells and of host memory -/

theorem State.keeps.rest {r1 r2 r3 r4 r5 r6 r7 r8} (h : s.keeps t) :
    s.keeps { t with root := r1, seq := r2, sys := r3, host := r4, power := r5, mgmt := r6, net := r7, out := r8 } :=
  ⟨h.1, h.2⟩

/-- The state of a pair, as a match names it. -/
theorem State.keeps.of_fst {α : Type} {x : State × α} {o : α} (h : s.keeps x.1) (e : x = (v, o)) : s.keeps v := by
  rw [e] at h; exact h

theorem State.keeps.setRegion {r : Nat} {x : Region} (h : s.keeps t) : s.keeps (t.setRegion r x) :=
  h.updRegion (f := fun _ => x)
theorem State.keeps.setSvc {r : Nat} {x : Service} (h : s.keeps t) : s.keeps (t.setSvc r x) := h.updSvc (f := fun _ => x)
theorem State.keeps.setCluster {c : Nat} {x : Cluster} (h : s.keeps t) : s.keeps (t.setCluster c x) :=
  h.updCluster (f := fun _ => x)
theorem State.keeps.setLink {l : Nat} {x : Link} (h : s.keeps t) : s.keeps (t.setLink l x) := h.updLink (f := fun _ => x)
/-- A unit written back with its rows as they were. -/
theorem State.keeps.setUnitRest {u : Nat} {x : Unit} (h : s.keeps t) (hx : x.rows = (t.unit u).rows) :
    s.keeps (t.setUnit u x) := by
  have k : s.keeps (t.updUnit u fun y => { x with rows := y.rows }) := .unitRest h fun _ => rfl
  dsimp only [State.updUnit] at k
  rw [← hx] at k
  exact k
theorem State.keeps.setUnitReset {u : Nat} (h : s.keeps t) : s.keeps (t.setUnit u Unit.reset) :=
  h.updUnit (f := fun _ => Unit.reset) fun _ _ => rfl
/-- A well written back with its rows as they were. -/
theorem State.keeps.setWellRest {r : Nat} {x : Well} (h : s.keeps t) (hx : x.rows = (t.well r).rows) :
    s.keeps (t.setWell r x) := by
  have k : s.keeps (t.updWell r fun y => { x with rows := y.rows }) := .wellRest h fun _ => rfl
  dsimp only [State.updWell] at k
  rw [← hx] at k
  exact k

theorem State.keeps.hostWrite {a : Nat} {os : List Octet} (h : s.keeps t) : s.keeps (t.hostWrite a os) := by
  refine h.trans ⟨rfl, fun ⟨h1, h2, h3, h4, h5, h6, h7, h8, k⟩ => ⟨h1, h2, h3, h4, h5, h6, h7, ?_, k⟩⟩
  exact Sparse.wf_foldl_set (fun (e : Octet × Nat) => ((a + e.2) % 2 ^ 64, e.1)) _ h8

theorem State.keeps.wellWrite {r q : Nat} {rows : List Row} (h : s.keeps t) : s.keeps (t.wellWrite r q rows) :=
  .updWell h fun _ k => Sparse.wf_foldl_set (fun (e : Row × Nat) => (q + e.2, e.1)) _ k
theorem State.keeps.writeWell {r g : Nat} {rows : List Row} (h : s.keeps t) : s.keeps (t.writeWell r g rows) :=
  .updWell h fun _ k => Sparse.wf_foldl_set (fun (e : Row × Nat) => (8 * g + e.2, e.1)) _ k

/-! ### Meanings -/

/-- A command about a structure that the module has answers the next state, and any other faults. -/
theorem guardRes_next (ok : Bool) (t v : State) : guardRes ok t = .next v ↔ ok = true ∧ v = t := by
  cases ok <;> simp [guardRes, eq_comm]

/-- The next state of a guarded meaning that keeps. -/
theorem State.keeps.guarded {ok : Bool} (h : s.keeps t) (e : guardRes ok t = .next v) : s.keeps v := by
  obtain ⟨-, rfl⟩ := (guardRes_next ok t v).mp e; exact h

end Machine
end Sys2Proof
end

