-- ==== Sys2Proof/Laws/KeepsUnits.lean ====
section
/-! SUPPORT. The operations of the scribe core and the engines keep the queue and the canonical form (see Laws/Keeps). -/

namespace Sys2Proof.Machine

variable {s t v : State}

theorem State.keeps.setNodes {r : Nat} {ns : List Node} (h : s.keeps t) : s.keeps (t.setNodes r ns) := by
  unfold State.setNodes
  try dsimp only
  repeat'
    first
    | with_reducible exact h | with_reducible assumption | with_reducible apply State.keeps.updP1
    | with_reducible apply State.keeps.updRegion 

theorem State.keeps.divert {r : Nat} {m : Msg} {reason : Nat} (h : s.keeps t) : s.keeps (t.divert r m reason) := by
  unfold State.divert
  try dsimp only
  repeat'
    first
    | with_reducible exact h | with_reducible assumption | with_reducible apply State.keeps.raise
    | with_reducible apply State.keeps.seeP1 | with_reducible apply State.keeps.setP1
    | with_reducible apply State.keeps.updP1
    | (with_reducible refine State.keeps.foldl ?_ ?_; rotate_left; (intro t a; have h : t.keeps t := State.keeps_refl; try dsimp only))
    | split

theorem State.keeps.access_fst {u : Nat} {q : Nat} {k : AccKind} {wide : Bool} {j : Nat} {d : Row} {nf : Bool} {e :
    Ecc} (h : s.keeps t) : s.keeps (t.access u q k wide j d nf e).1 := by
  unfold State.access
  try dsimp only
  repeat'
    first
    | with_reducible exact h | with_reducible assumption | with_reducible apply State.keeps.eccCorrected
    | with_reducible apply State.keeps.eccFailed | with_reducible apply State.keeps.seeP1
    | with_reducible refine State.keeps.putCell ?_ | with_reducible refine State.keeps.unitRest ?_ (fun _ => rfl)
    | (with_reducible refine State.keeps.unitRest ?_ ?_; rotate_left; (intro x; repeat' split; all_goals rfl))
    | split

theorem State.keeps.access_eq {u : Nat} {q : Nat} {k : AccKind} {wide : Bool} {j : Nat} {d : Row} {nf : Bool} {e :
    Ecc} {o : AccOut} (h : s.keeps t) (e : t.access u q k wide j d nf e = (v, o)) : s.keeps v :=
  State.keeps.of_fst h.access_fst e

theorem State.keeps.handDone {u : Nat} {h_ : Nat} {n : Narrow} {wide : Bool} {status : Nat} {data : Row} {nf : Bool}
    (h : s.keeps t) : s.keeps (t.handDone u h_ n wide status data nf) := by
  unfold State.handDone
  try dsimp only
  repeat'
    first
    | with_reducible exact h | with_reducible assumption | with_reducible apply State.keeps.handFault
    | with_reducible refine State.keeps.putCell ?_ | with_reducible refine State.keeps.unitRest ?_ (fun _ => rfl)
    | (with_reducible refine State.keeps.unitRest ?_ ?_; rotate_left; (intro x; repeat' split; all_goals rfl))
    | split

theorem State.keeps.deliverInbound {r : Req} {status : Nat} {data : Row} {nf : Bool} (h : s.keeps t) : s.keeps
    (t.deliverInbound r status data nf) := by
  unfold State.deliverInbound
  try dsimp only
  repeat'
    first
    | with_reducible exact h | with_reducible assumption | with_reducible apply State.keeps.send
    | with_reducible refine State.keeps.putCell ?_ | with_reducible refine State.keeps.unitRest ?_ (fun _ => rfl)
    | (with_reducible refine State.keeps.unitRest ?_ ?_; rotate_left; (intro x; repeat' split; all_goals rfl))
    | split

theorem State.keeps.deliver {r : Req} {status : Nat} {data : Row} {nf : Bool} {own : Option (Nat × Nat × Narrow)} (h
    : s.keeps t) : s.keeps (t.deliver r status data nf own) := by
  unfold State.deliver
  try dsimp only
  repeat'
    first
    | with_reducible exact h | with_reducible assumption | with_reducible apply State.keeps.deliverInbound
    | with_reducible apply State.keeps.handDone | with_reducible refine State.keeps.putCell ?_
    | with_reducible refine State.keeps.unitRest ?_ (fun _ => rfl)
    | (with_reducible refine State.keeps.unitRest ?_ ?_; rotate_left; (intro x; repeat' split; all_goals rfl))
    | split

theorem State.keeps.park {b : Nat} {r : Req} (h : s.keeps t) : s.keeps (t.park b r) := by
  unfold State.park
  try dsimp only
  repeat'
    first
    | with_reducible exact h | with_reducible assumption | with_reducible refine State.keeps.putCell ?_
    | with_reducible refine State.keeps.unitRest ?_ (fun _ => rfl)
    | (with_reducible refine State.keeps.unitRest ?_ ?_; rotate_left; (intro x; repeat' split; all_goals rfl))
    | split | with_reducible refine State.keeps.rest ?_

theorem State.keeps.settleBank {u : Nat} {b : Nat} (h : s.keeps t) : s.keeps (t.settleBank u b) := by
  unfold State.settleBank
  try dsimp only
  repeat'
    first
    | with_reducible exact h | with_reducible assumption | with_reducible apply State.keeps.park
    | (with_reducible refine State.keeps.foldl ?_ ?_; rotate_left; (intro t a; have h : t.keeps t := State.keeps_refl; try dsimp only))
    | (with_reducible refine State.keeps.foldFst ?_ ?_; rotate_left; (intro p a; have h : p.1.keeps p.1 := State.keeps_refl; try dsimp only))
    | split

theorem State.keeps.engage_fst {b : Nat} {r : Req} {g : Option Grant} (h : s.keeps t) : s.keeps (t.engage b r g).1
    := by
  unfold State.engage
  try dsimp only
  repeat'
    first
    | with_reducible exact h | with_reducible assumption | with_reducible apply State.keeps.access_fst
    | (with_reducible refine State.keeps.access_eq ?_ ‹_›) | with_reducible apply State.keeps.park
    | with_reducible refine State.keeps.putCell ?_ | with_reducible refine State.keeps.unitRest ?_ (fun _ => rfl)
    | with_reducible refine State.keeps.unitRest ?_ (fun x => (Unit.rows_hintAll _ _ _ _).trans rfl)
    | (with_reducible refine State.keeps.unitRest ?_ ?_; rotate_left; (intro x; repeat' split; all_goals rfl))
    | split | with_reducible refine State.keeps.rest ?_

theorem State.keeps.engage_eq {b : Nat} {r : Req} {g : Option Grant} {o : AccOut} (h : s.keeps t) (e : t.engage b r
    g = (v, o)) : s.keeps v :=
  State.keeps.of_fst h.engage_fst e

theorem State.keeps.grant {b : Nat} {r : Req} {g : Option Grant} (h : s.keeps t) : s.keeps (t.grant b r g) := by
  unfold State.grant
  try dsimp only
  repeat'
    first
    | with_reducible exact h | with_reducible assumption | with_reducible apply State.keeps.deliver
    | with_reducible apply State.keeps.engage_fst | (with_reducible refine State.keeps.engage_eq ?_ ‹_›)
    | with_reducible refine State.keeps.putCell ?_ | with_reducible refine State.keeps.unitRest ?_ (fun _ => rfl)
    | (with_reducible refine State.keeps.unitRest ?_ ?_; rotate_left; (intro x; repeat' split; all_goals rfl))
    | split

theorem State.keeps.award {b : Nat} {w : Req} (h : s.keeps t) : s.keeps (t.award b w) := by
  unfold State.award
  try dsimp only
  repeat'
    first
    | with_reducible exact h | with_reducible assumption | with_reducible apply State.keeps.grant
    | with_reducible refine State.keeps.putCell ?_ | with_reducible refine State.keeps.unitRest ?_ (fun _ => rfl)
    | with_reducible refine State.keeps.unitRest ?_ (fun x => (Unit.rows_hintAll _ _ _ _).trans rfl)
    | (with_reducible refine State.keeps.unitRest ?_ ?_; rotate_left; (intro x; repeat' split; all_goals rfl))
    | split | with_reducible refine State.keeps.rest ?_

theorem State.keeps.serveBank {u : Nat} {b : Nat} (h : s.keeps t) : s.keeps (t.serveBank u b) := by
  unfold State.serveBank
  try dsimp only
  repeat'
    first
    | with_reducible exact h | with_reducible assumption | with_reducible apply State.keeps.award
    | with_reducible apply State.keeps.settleBank | split

theorem State.keeps.backOff {v_ : Nat} {h_ : Nat} {n : Narrow} {t_ : Nat} (h : s.keeps t) : s.keeps (t.backOff v_ h_
    n t_) := by
  unfold State.backOff
  try dsimp only
  repeat'
    first
    | with_reducible exact h | with_reducible assumption | with_reducible refine State.keeps.putCell ?_
    | with_reducible refine State.keeps.unitRest ?_ (fun _ => rfl)

theorem State.keeps.lose {b : Nat} {r : Req} {left : Nat} (h : s.keeps t) : s.keeps (t.lose b r left) := by
  unfold State.lose
  try dsimp only
  repeat'
    first
    | with_reducible exact h | with_reducible assumption | with_reducible apply State.keeps.backOff
    | with_reducible refine State.keeps.putCell ?_ | with_reducible refine State.keeps.unitRest ?_ (fun _ => rfl)
    | (with_reducible refine State.keeps.unitRest ?_ ?_; rotate_left; (intro x; repeat' split; all_goals rfl))
    | split | with_reducible refine State.keeps.rest ?_

theorem State.keeps.present {r : Req} (h : s.keeps t) : s.keeps (t.present r) := by
  unfold State.present
  try dsimp only
  repeat'
    first
    | with_reducible exact h | with_reducible assumption | with_reducible apply State.keeps.award
    | with_reducible apply State.keeps.grant | with_reducible apply State.keeps.lose
    | with_reducible apply State.keeps.park | with_reducible apply State.keeps.settleBank
    | with_reducible refine State.keeps.putCell ?_ | with_reducible refine State.keeps.unitRest ?_ (fun _ => rfl)
    | (with_reducible refine State.keeps.unitRest ?_ ?_; rotate_left; (intro x; repeat' split; all_goals rfl))
    | split | with_reducible refine State.keeps.rest ?_

theorem State.keeps.noteAlign {u : Nat} {code : Nat} (h : s.keeps t) : s.keeps (t.noteAlign u code) := by
  unfold State.noteAlign
  try dsimp only
  repeat'
    first
    | with_reducible exact h | with_reducible assumption | with_reducible apply State.keeps.seeP1 | split

theorem State.keeps.request {a : Access} {k : AccKind} (h : s.keeps t) : s.keeps (t.request a k) := by
  unfold State.request
  try dsimp only
  repeat'
    first
    | with_reducible exact h | with_reducible assumption | with_reducible apply State.keeps.backOff
    | with_reducible apply State.keeps.deliver | with_reducible apply State.keeps.divert
    | with_reducible apply State.keeps.noteAlign | with_reducible apply State.keeps.present | split

theorem State.keeps.compete_fst {r : Req} (h : s.keeps t) : s.keeps (t.compete r).1 := by
  unfold State.compete
  try dsimp only
  repeat'
    first
    | with_reducible exact h | with_reducible assumption | with_reducible apply State.keeps.award
    | with_reducible apply State.keeps.engage_fst | (with_reducible refine State.keeps.engage_eq ?_ ‹_›)
    | with_reducible apply State.keeps.lose | with_reducible apply State.keeps.park
    | with_reducible apply State.keeps.settleBank | with_reducible refine State.keeps.putCell ?_
    | with_reducible refine State.keeps.unitRest ?_ (fun _ => rfl)
    | (with_reducible refine State.keeps.unitRest ?_ ?_; rotate_left; (intro x; repeat' split; all_goals rfl))
    | split | with_reducible refine State.keeps.rest ?_

theorem State.keeps.compete_eq {r : Req} {o : AccOut} (h : s.keeps t) (e : t.compete r = (v, o)) : s.keeps v :=
  State.keeps.of_fst h.compete_fst e

theorem State.keeps.portAccess_fst {a : Access} {k : AccKind} (h : s.keeps t) : s.keeps (t.portAccess a k).1 := by
  unfold State.portAccess
  try dsimp only
  repeat'
    first
    | with_reducible exact h | with_reducible assumption | with_reducible apply State.keeps.compete_fst
    | (with_reducible refine State.keeps.compete_eq ?_ ‹_›) | with_reducible apply State.keeps.divert
    | with_reducible refine State.keeps.putCell ?_ | with_reducible refine State.keeps.unitRest ?_ (fun _ => rfl)
    | (with_reducible refine State.keeps.unitRest ?_ ?_; rotate_left; (intro x; repeat' split; all_goals rfl))
    | split | with_reducible refine State.keeps.rest ?_

theorem State.keeps.portAccess_eq {a : Access} {k : AccKind} {o : AccOut} (h : s.keeps t) (e : t.portAccess a k =
    (v, o)) : s.keeps v :=
  State.keeps.of_fst h.portAccess_fst e

theorem State.keeps.leavePorts {u : Nat} {ports : List Nat} (h : s.keeps t) : s.keeps (t.leavePorts u ports) :=
  .foldl h fun _ _ => .foldl (.unitRest State.keeps_refl fun x => Unit.rows_mapBanks _ x) fun _ _ => .serveBank State.keeps_refl

theorem State.keeps.winBank_fst {agent : Nat} {u : Nat} {b : Nat} {n : Nat} (h : s.keeps t) : s.keeps (t.winBank
    agent u b n).1 := by
  unfold State.winBank
  try dsimp only
  repeat'
    first
    | with_reducible exact h | with_reducible assumption | with_reducible apply State.keeps.portAccess_fst
    | (with_reducible refine State.keeps.portAccess_eq ?_ ‹_›) | split

theorem State.keeps.winBank_eq {agent : Nat} {u : Nat} {b : Nat} {n : Nat} {o : Bool} (h : s.keeps t) (e : t.winBank
    agent u b n = (v, o)) : s.keeps v :=
  State.keeps.of_fst h.winBank_fst e

theorem State.keeps.winBanks_fst {agent : Nat} {l : List (Nat × Nat × Nat)} (h : s.keeps t) : s.keeps (t.winBanks agent l).1 := by
  induction l generalizing t with
  | nil => exact h
  | cons e l ih =>
    unfold State.winBanks
    split <;> rename_i k
    · exact ih (.winBank_eq h k)
    · exact .winBank_eq h k

theorem State.keeps.winBanks_eq {agent : Nat} {l : List (Nat × Nat × Nat)} {o : Bool} (h : s.keeps t)
    (e : t.winBanks agent l = (v, o)) : s.keeps v :=
  State.keeps.of_fst h.winBanks_fst e

theorem State.keeps.writeCells {u : Nat} {l : List (Nat × Cell)} (h : s.keeps t) : s.keeps (t.writeCells u l) :=
  h.updUnit fun x k => by
    induction l generalizing x with
    | nil => exact k
    | cons e l ih => exact ih _ (Unit.rowsOk_putCell _ _ k)

theorem State.keeps.dropRequests {u : Nat} {code : Nat} (h : s.keeps t) : s.keeps (t.dropRequests u code) := by
  unfold State.dropRequests
  try dsimp only
  repeat'
    first
    | with_reducible exact h | with_reducible assumption | with_reducible apply State.keeps.deliver
    | (with_reducible refine State.keeps.foldl ?_ ?_; rotate_left; (intro t a; have h : t.keeps t := State.keeps_refl; try dsimp only))
    | (with_reducible refine State.keeps.foldFst ?_ ?_; rotate_left; (intro p a; have h : p.1.keeps p.1 := State.keeps_refl; try dsimp only))
    | split

theorem State.keeps.wakeParked {u : Nat} {b : Nat} {i : Nat} {e : Ecc} (h : s.keeps t) : s.keeps (t.wakeParked u b i
    e) := by
  unfold State.wakeParked
  try dsimp only
  repeat'
    first
    | with_reducible exact h | with_reducible assumption | with_reducible apply State.keeps.present
    | with_reducible refine State.keeps.putCell ?_ | with_reducible refine State.keeps.unitRest ?_ (fun _ => rfl)
    | (with_reducible refine State.keeps.unitRest ?_ ?_; rotate_left; (intro x; repeat' split; all_goals rfl))
    | split | with_reducible refine State.keeps.rest ?_

theorem State.keeps.tagWait {u : Nat} {b : Nat} {i : Nat} (h : s.keeps t) : s.keeps (t.tagWait u b i) := by
  unfold State.tagWait
  try dsimp only
  repeat'
    first
    | with_reducible exact h | with_reducible assumption | with_reducible apply State.keeps.raiseUnit
    | with_reducible apply State.keeps.seeP1 | with_reducible refine State.keeps.putCell ?_
    | with_reducible refine State.keeps.unitRest ?_ (fun _ => rfl)
    | (with_reducible refine State.keeps.unitRest ?_ ?_; rotate_left; (intro x; repeat' split; all_goals rfl))
    | split

theorem State.keeps.overhold {u : Nat} {b : Nat} (h : s.keeps t) : s.keeps (t.overhold u b) := by
  unfold State.overhold
  try dsimp only
  repeat'
    first
    | with_reducible exact h | with_reducible assumption | with_reducible apply State.keeps.raiseUnit
    | with_reducible apply State.keeps.seeP1 | with_reducible apply State.keeps.updP1
    | with_reducible refine State.keeps.putCell ?_ | with_reducible refine State.keeps.unitRest ?_ (fun _ => rfl)
    | (with_reducible refine State.keeps.unitRest ?_ ?_; rotate_left; (intro x; repeat' split; all_goals rfl))
    | split

theorem State.keeps.scrub {u b : Nat} {e : Ecc} (h : s.keeps t) : s.keeps (t.scrub u b e) := h.request

theorem State.keeps.tickBank {u : Nat} {b : Nat} (h : s.keeps t) : s.keeps (t.tickBank u b) := by
  unfold State.tickBank
  try dsimp only
  repeat'
    first
    | with_reducible exact h | with_reducible assumption | with_reducible apply State.keeps.serveBank
    | with_reducible apply State.keeps.settleBank | with_reducible refine State.keeps.putCell ?_
    | with_reducible refine State.keeps.unitRest ?_ (fun _ => rfl)
    | with_reducible refine State.keeps.unitRest ?_ (fun x => (Unit.rows_hintAll _ _ _ _).trans rfl)
    | (with_reducible refine State.keeps.unitRest ?_ ?_; rotate_left; (intro x; repeat' split; all_goals rfl))
    | split

theorem State.keeps.tick (h : s.keeps t) : s.keeps (t.tick) := by
  unfold State.tick
  try dsimp only
  repeat'
    first
    | with_reducible exact h | with_reducible assumption | with_reducible apply State.keeps.tickBank
    | (with_reducible refine State.keeps.foldl ?_ ?_; rotate_left; (intro t a; have h : t.keeps t := State.keeps_refl; try dsimp only))
    | split | with_reducible exact State.keeps.rest h 

theorem Unit.rows_settle (x : Unit) (i : Issue) (c : Nat) : (x.settle i c).rows = x.rows := by
  have one (y : Unit) (h : Nat) : (y.settleHand i c h).rows = y.rows := by
    unfold Unit.settleHand
    dsimp only
    repeat' (first | rfl | split)
  have all (l : List Nat) : ∀ y : Unit, (l.foldl (fun y h => y.settleHand i c h) y).rows = y.rows := by
    induction l with
    | nil => exact fun _ => rfl
    | cons a l ih => exact fun y => (ih _).trans (one y a)
  exact all _ x

theorem State.keeps.settled {i : Issue} (h : s.keeps t) : s.keeps (t.settled i) :=
  .unitRest h fun x => Unit.rows_settle x i _

theorem State.keeps.fetched_fst {u : Nat} {h_ : Nat} {e : Ecc} (h : s.keeps t) : s.keeps (t.fetched u h_ e).1 := by
  unfold State.fetched
  try dsimp only
  repeat'
    first
    | with_reducible exact h | with_reducible assumption | with_reducible apply State.keeps.raiseUnit
    | with_reducible apply State.keeps.report | with_reducible apply State.keeps.seeP1
    | with_reducible apply State.keeps.stopHands | with_reducible apply State.keeps.updP1
    | with_reducible apply State.keeps.updSvc | split | with_reducible refine State.keeps.rest ?_

theorem State.keeps.fetched_eq {u : Nat} {h_ : Nat} {e : Ecc} {o : Bool} (h : s.keeps t) (e : t.fetched u h_ e = (v,
    o)) : s.keeps v :=
  State.keeps.of_fst h.fetched_fst e

/-- An instruction that keeps when it issues keeps whatever comes of the issue. -/
theorem State.keeps.issue {i : Issue} {op : Op} {eff : State → Hand → Word → State} (h : s.keeps t)
    (hf : ∀ (v : State) (y : Hand) (w : Word), v.keeps (eff v y w)) : s.keeps (t.issue i op eff) := by
  have h0 : s.keeps (t.settled i) := .settled h
  unfold State.issue
  dsimp only
  split
  · exact h
  split
  · exact h
  split
  · exact .unitRest h0 fun _ => rfl
  split
  · split <;> rename_i e
    · exact .fetched_eq h0 e
    · refine State.keeps.trans ?_ (hf _ _ _)
      exact .unitRest (.fetched_eq h0 e) fun _ => rfl
  · exact h0

theorem State.keeps.setHand {i : Issue} {h_ : Hand} (h : s.keeps t) : s.keeps (t.setHand i h_) := by
  unfold State.setHand
  try dsimp only
  repeat'
    first
    | with_reducible exact h | with_reducible assumption | with_reducible refine State.keeps.putCell ?_
    | with_reducible refine State.keeps.unitRest ?_ (fun _ => rfl)

theorem State.keeps.alu {i : Issue} {op : Op} {f : Word → Word → Word} (h : s.keeps t) : s.keeps (t.alu i op f) := by
  unfold State.alu
  try dsimp only
  repeat'
    first
    | with_reducible exact h | with_reducible assumption | with_reducible apply State.keeps.setHand
    | (with_reducible refine State.keeps.issue ?_ ?_; rotate_left; (intro t y w; have h : t.keeps t := State.keeps_refl; try dsimp only))

theorem State.keeps.multiply {i : Issue} {op : Op} {f : Word → Word → Word} (h : s.keeps t) : s.keeps (t.multiply i
    op f) := by
  unfold State.multiply
  try dsimp only
  repeat'
    first
    | with_reducible exact h | with_reducible assumption | with_reducible apply State.keeps.setHand
    | (with_reducible refine State.keeps.issue ?_ ?_; rotate_left; (intro t y w; have h : t.keeps t := State.keeps_refl; try dsimp only))

theorem State.keeps.aluImm {i : Issue} {op : Op} {f : Word → BitVec 20 → Word} (h : s.keeps t) : s.keeps (t.aluImm i
    op f) := by
  unfold State.aluImm
  try dsimp only
  repeat'
    first
    | with_reducible exact h | with_reducible assumption | with_reducible apply State.keeps.setHand
    | (with_reducible refine State.keeps.issue ?_ ?_; rotate_left; (intro t y w; have h : t.keeps t := State.keeps_refl; try dsimp only))

theorem State.keeps.branch {i : Issue} {op : Op} {c : Word → Word → Bool} (h : s.keeps t) : s.keeps (t.branch i op
    c) := by
  unfold State.branch
  try dsimp only
  repeat'
    first
    | with_reducible exact h | with_reducible assumption | with_reducible apply State.keeps.setHand
    | (with_reducible refine State.keeps.issue ?_ ?_; rotate_left; (intro t y w; have h : t.keeps t := State.keeps_refl; try dsimp only))

theorem State.keeps.memOp {i : Issue} {op : Op} {k : AccKind} {loads : Bool} {data : Hand → Word → Word} (h :
    s.keeps t) : s.keeps (t.memOp i op k loads data) := by
  unfold State.memOp
  try dsimp only
  repeat'
    first
    | with_reducible exact h | with_reducible assumption | with_reducible apply State.keeps.handFault
    | with_reducible apply State.keeps.noteAlign | with_reducible apply State.keeps.request
    | with_reducible apply State.keeps.setHand
    | (with_reducible refine State.keeps.issue ?_ ?_; rotate_left; (intro t y w; have h : t.keeps t := State.keeps_refl; try dsimp only))
    | split

theorem State.keeps.checkpoint {u : Nat} {p : Word} (h : s.keeps t) : s.keeps (t.checkpoint u p) := by
  unfold State.checkpoint
  try dsimp only
  repeat'
    first
    | with_reducible exact h | with_reducible assumption | with_reducible apply State.keeps.raiseUnit
    | with_reducible apply State.keeps.seeP1 | with_reducible apply State.keeps.setP1
    | with_reducible apply State.keeps.updP1 | split

theorem State.keeps.loadScript {k : Nat} : ∀ {t : State} {u q i : Nat} {errs : Errs}, s.keeps t → s.keeps (t.loadScript u q i errs k) := by
  induction k with
  | zero => exact fun h => by unfold State.loadScript; exact .unitRest h fun _ => rfl
  | succ k ih =>
    intro t u q i errs h
    unfold State.loadScript
    dsimp only
    split <;> rename_i e
    · exact ih (.unitRest (.portAccess_eq h e) fun _ => rfl)
    · exact .unitRest (.portAccess_eq h e) fun _ => rfl
    · exact .unitRest (.portAccess_eq h e) fun _ => rfl

theorem State.keeps.scriptLoad {unit : Nat} {errs : Errs} (h : s.keeps t) : s.keeps (t.scriptLoad unit errs) := by
  unfold State.scriptLoad
  dsimp only
  repeat'
    first
    | with_reducible exact h | with_reducible apply State.keeps.loadScript | with_reducible apply State.keeps.raiseUnit
    | with_reducible apply State.keeps.report | split

theorem State.keeps.go {u : Nat} (h : s.keeps t) : s.keeps (t.go u) := by
  unfold State.go
  dsimp only
  split
  · exact h
  · exact .updP1 (.setP1 (.setP1 (.setUnitRest h rfl)))

theorem Unit.rows_withdrawMover (x : Unit) (u : Nat) : (x.withdrawMover u).rows = x.rows := by
  unfold Unit.withdrawMover
  exact Unit.rows_mapBanks _ _

theorem State.keeps.withdrawMover {u : Nat} (h : s.keeps t) : s.keeps (t.withdrawMover u) :=
  .foldl h fun _ _ => .unitRest State.keeps_refl fun x => Unit.rows_withdrawMover x u

theorem State.keeps.flushUnit {u : Nat} (h : s.keeps t) : s.keeps (t.flushUnit u) :=
  .withdrawMover (.leavePorts (.unitRest h fun _ => rfl))

theorem State.keeps.engineAccess_fst {u : Nat} {v_ : Nat} {q : Nat} {k : AccKind} {p : Via} {d : Row} {nf : Bool} {e
    : Ecc} (h : s.keeps t) : s.keeps (t.engineAccess u v_ q k p d nf e).1 := by
  unfold State.engineAccess
  try dsimp only
  repeat'
    first
    | with_reducible exact h | with_reducible assumption | with_reducible apply State.keeps.portAccess_fst
    | (with_reducible refine State.keeps.portAccess_eq ?_ ‹_›) | split

theorem State.keeps.engineAccess_eq {u : Nat} {v_ : Nat} {q : Nat} {k : AccKind} {p : Via} {d : Row} {nf : Bool} {e
    : Ecc} {o : AccOut} (h : s.keeps t) (e : t.engineAccess u v_ q k p d nf e = (v, o)) : s.keeps v :=
  State.keeps.of_fst h.engineAccess_fst e

theorem State.keeps.takeBlock_eq {u eng : Nat} {q : Queued} {e : Ecc} (h : s.keeps t) :
    (t.takeBlock u eng q e = .waits v → s.keeps v) ∧ (t.takeBlock u eng q e = .dropped v → s.keeps v) ∧
      ∀ (b : Row) (c : Nat), t.takeBlock u eng q e = .block v b c → s.keeps v := by
  unfold State.takeBlock
  split <;> rename_i x
  all_goals have k := State.keeps.engineAccess_eq h x
  · split
    · refine ⟨fun y => (by cases y), fun y => ?_, fun _ _ y => (by cases y)⟩
      cases y; exact .report (.raiseUnit (.stopHands k))
    · refine ⟨fun y => (by cases y), fun y => (by cases y), fun _ _ y => ?_⟩
      cases y; exact k
  · refine ⟨fun y => (by cases y), fun y => ?_, fun _ _ y => (by cases y)⟩
    cases y; exact k
  · refine ⟨fun y => ?_, fun y => (by cases y), fun _ _ y => (by cases y)⟩
    cases y; exact k

theorem State.keeps.noteNf {u : Nat} {nf : Bool} (h : s.keeps t) : s.keeps (t.noteNf u nf) := by
  unfold State.noteNf
  split
  · exact .unitRest h fun _ => rfl
  · exact h

theorem Unit.rows_setCpls (x : Unit) (eng : Nat) (l : List Cpl) : (x.setCpls eng l).rows = x.rows := by
  unfold Unit.setCpls
  split <;> rfl

theorem State.keeps.putCompletion {u : Nat} {eng : Nat} (h : s.keeps t) : s.keeps (t.putCompletion u eng) := by
  unfold State.putCompletion
  try dsimp only
  repeat'
    first
    | with_reducible exact h | with_reducible assumption | with_reducible apply State.keeps.engineAccess_fst
    | (with_reducible refine State.keeps.engineAccess_eq ?_ ‹_›) | with_reducible apply State.keeps.send
    | with_reducible refine State.keeps.putCell ?_ | with_reducible refine State.keeps.unitRest ?_ (fun _ => rfl)
    | with_reducible refine State.keeps.unitRest ?_ (fun x => Unit.rows_setCpls x _ _)
    | (with_reducible refine State.keeps.unitRest ?_ ?_; rotate_left; (intro x; repeat' split; all_goals rfl))
    | split

theorem State.keeps.parityStop {u code test idx : Nat} (h : s.keeps t) : s.keeps (t.parityStop u code test idx) := by
  unfold State.parityStop
  exact .report (.raiseUnit (.stopHands h))

/-- The state that an engine's loads leave. -/
def Load.state : Load → State
  | .ready s _ => s
  | .wait s _ => s
  | .fail s _ => s

theorem State.keeps.load_ready {i : Nat} (h : s.keeps t) : s.keeps (Load.ready t i).state := h
theorem State.keeps.load_wait {i : Nat} (h : s.keeps t) : s.keeps (Load.wait t i).state := h
theorem State.keeps.load_fail {i : Nat} (h : s.keeps t) : s.keeps (Load.fail t i).state := h
theorem State.keeps.of_ready {x : Load} {i : Nat} (h : s.keeps x.state) (e : x = .ready v i) : s.keeps v := by
  rw [e] at h; exact h
theorem State.keeps.of_wait {x : Load} {i : Nat} (h : s.keeps x.state) (e : x = .wait v i) : s.keeps v := by
  rw [e] at h; exact h
theorem State.keeps.of_fail {x : Load} {i : Nat} (h : s.keeps x.state) (e : x = .fail v i) : s.keeps v := by
  rw [e] at h; exact h

theorem State.keeps.mxComplete {u : Nat} {c : Cpl} (h : s.keeps t) : s.keeps (t.mxComplete u c) := by
  unfold State.mxComplete
  try dsimp only
  repeat'
    first
    | with_reducible exact h | with_reducible assumption | with_reducible refine State.keeps.putCell ?_
    | with_reducible refine State.keeps.unitRest ?_ (fun _ => rfl)

theorem State.keeps.mxTake {u : Nat} {mode : Nat} {e : Ecc} (h : s.keeps t) : s.keeps (t.mxTake u mode e) := by
  unfold State.mxTake
  try dsimp only
  repeat'
    first
    | with_reducible exact h | with_reducible assumption | with_reducible apply State.keeps.mxComplete
    | with_reducible apply State.keeps.noteAlign | with_reducible apply State.keeps.takeBlock_fst
    | (with_reducible refine State.keeps.takeBlock_eq ?_ ‹_›) | with_reducible refine State.keeps.putCell ?_
    | with_reducible refine State.keeps.unitRest ?_ (fun _ => rfl)
    | (with_reducible refine State.keeps.unitRest ?_ ?_; rotate_left; (intro x; repeat' split; all_goals rfl))
    | exact (State.keeps.takeBlock_eq h).1 ‹_› | exact (State.keeps.takeBlock_eq h).2.1 ‹_›
    | exact (State.keeps.takeBlock_eq h).2.2 _ _ ‹_› | split

theorem State.keeps.mxFail {u : Nat} {c : MxaCmd} {status : Nat} (h : s.keeps t) : s.keeps (t.mxFail u c status) := by
  unfold State.mxFail
  try dsimp only
  repeat'
    first
    | with_reducible exact h | with_reducible assumption | with_reducible apply State.keeps.leavePorts
    | with_reducible refine State.keeps.putCell ?_ | with_reducible refine State.keeps.unitRest ?_ (fun _ => rfl)

theorem State.keeps.mxWeights_load {k : Nat} : ∀ {t : State} {u : Nat} {b : Row} {errs : Errs} {idx : Nat} , s.keeps
    t → s.keeps (t.mxWeights u b errs idx k).state := by
  induction k with
  | zero => exact fun h => by unfold State.mxWeights; exact h
  | succ k ih =>
    intro t u b errs idx  h
    unfold State.mxWeights
    try dsimp only
    repeat'
      first
      | with_reducible exact h | with_reducible assumption | with_reducible apply ih
      | with_reducible apply State.keeps.engineAccess_fst | (with_reducible refine State.keeps.engineAccess_eq ?_ ‹_›)
      | with_reducible refine State.keeps.putCell ?_ | with_reducible refine State.keeps.unitRest ?_ (fun _ => rfl)
      | (with_reducible refine State.keeps.unitRest ?_ ?_; rotate_left; (intro x; repeat' split; all_goals rfl))
      | with_reducible apply State.keeps.load_ready | with_reducible apply State.keeps.load_wait
      | with_reducible apply State.keeps.load_fail | (with_reducible refine State.keeps.of_ready ?_ ‹_›)
      | (with_reducible refine State.keeps.of_wait ?_ ‹_›) | (with_reducible refine State.keeps.of_fail ?_ ‹_›)
      | split

theorem State.keeps.mxInk_load {u : Nat} {b : Row} {idx : Nat} (h : s.keeps t) : s.keeps (t.mxInk u b idx).state := by
  unfold State.mxInk
  try dsimp only
  repeat'
    first
    | with_reducible exact h | with_reducible assumption | with_reducible refine State.keeps.putCell ?_
    | with_reducible refine State.keeps.unitRest ?_ (fun _ => rfl)
    | (with_reducible refine State.keeps.unitRest ?_ ?_; rotate_left; (intro x; repeat' split; all_goals rfl))
    | with_reducible exact State.keeps.setUnitReset h
    | (with_reducible refine State.keeps.setUnitRest ?_ ?_; rotate_left; rfl)
    | with_reducible apply State.keeps.load_ready | with_reducible apply State.keeps.load_wait
    | with_reducible apply State.keeps.load_fail | (with_reducible refine State.keeps.of_ready ?_ ‹_›)
    | (with_reducible refine State.keeps.of_wait ?_ ‹_›) | (with_reducible refine State.keeps.of_fail ?_ ‹_›)
    | split

theorem State.keeps.mxCur {u : Nat} {f : MxaCmd → MxaCmd} (h : s.keeps t) : s.keeps (t.mxCur u f) := by
  unfold State.mxCur
  try dsimp only
  repeat'
    first
    | with_reducible exact h | with_reducible assumption | with_reducible refine State.keeps.putCell ?_
    | with_reducible refine State.keeps.unitRest ?_ (fun _ => rfl)

theorem State.keeps.mxAccs_load {k : Nat} : ∀ {t : State} {u : Nat} {b : Row} {errs : Errs} {idx : Nat} , s.keeps t
    → s.keeps (t.mxAccs u b errs idx k).state := by
  induction k with
  | zero => exact fun h => by unfold State.mxAccs; exact h
  | succ k ih =>
    intro t u b errs idx  h
    unfold State.mxAccs
    try dsimp only
    repeat'
      first
      | with_reducible exact h | with_reducible assumption | with_reducible apply ih
      | with_reducible apply State.keeps.engineAccess_fst | (with_reducible refine State.keeps.engineAccess_eq ?_ ‹_›)
      | with_reducible apply State.keeps.mxCur | with_reducible refine State.keeps.putCell ?_
      | with_reducible refine State.keeps.unitRest ?_ (fun _ => rfl)
      | (with_reducible refine State.keeps.unitRest ?_ ?_; rotate_left; (intro x; repeat' split; all_goals rfl))
      | with_reducible apply State.keeps.load_ready | with_reducible apply State.keeps.load_wait
      | with_reducible apply State.keeps.load_fail | (with_reducible refine State.keeps.of_ready ?_ ‹_›)
      | (with_reducible refine State.keeps.of_wait ?_ ‹_›) | (with_reducible refine State.keeps.of_fail ?_ ‹_›)
      | split

theorem State.keeps.mxPrepare_load {u : Nat} {c : MxaCmd} {errs : Errs} (h : s.keeps t) : s.keeps (t.mxPrepare u c
    errs).state := by
  unfold State.mxPrepare
  try dsimp only
  repeat'
    first
    | with_reducible exact h | with_reducible assumption
    | (with_reducible refine State.keeps.of_ready (State.keeps.mxAccs_load ?_) ‹_›)
    | (with_reducible refine State.keeps.of_wait (State.keeps.mxAccs_load ?_) ‹_›)
    | (with_reducible refine State.keeps.of_fail (State.keeps.mxAccs_load ?_) ‹_›)
    | with_reducible apply State.keeps.mxAccs_load
    | (with_reducible refine State.keeps.of_ready (State.keeps.mxInk_load ?_) ‹_›)
    | (with_reducible refine State.keeps.of_wait (State.keeps.mxInk_load ?_) ‹_›)
    | (with_reducible refine State.keeps.of_fail (State.keeps.mxInk_load ?_) ‹_›)
    | with_reducible apply State.keeps.mxInk_load
    | (with_reducible refine State.keeps.of_ready (State.keeps.mxWeights_load ?_) ‹_›)
    | (with_reducible refine State.keeps.of_wait (State.keeps.mxWeights_load ?_) ‹_›)
    | (with_reducible refine State.keeps.of_fail (State.keeps.mxWeights_load ?_) ‹_›)
    | with_reducible apply State.keeps.mxWeights_load | with_reducible apply State.keeps.load_ready
    | with_reducible apply State.keeps.load_wait | with_reducible apply State.keeps.load_fail
    | (with_reducible refine State.keeps.of_ready ?_ ‹_›) | (with_reducible refine State.keeps.of_wait ?_ ‹_›)
    | (with_reducible refine State.keeps.of_fail ?_ ‹_›) | split

theorem State.keeps.mxFirst {u : Nat} {c : MxaCmd} (h : s.keeps t) : s.keeps (t.mxFirst u c) := by
  unfold State.mxFirst
  try dsimp only
  repeat'
    first
    | with_reducible exact h | with_reducible assumption | with_reducible apply State.keeps.checkpoint
    | with_reducible apply State.keeps.mxCur | with_reducible refine State.keeps.putCell ?_
    | with_reducible refine State.keeps.unitRest ?_ (fun _ => rfl)

theorem State.keeps.mxParity {u : Nat} {c : MxaCmd} {col : Nat} (h : s.keeps t) : s.keeps (t.mxParity u c col) := by
  unfold State.mxParity
  try dsimp only
  repeat'
    first
    | with_reducible exact h | with_reducible assumption | with_reducible apply State.keeps.mxFail
    | with_reducible apply State.keeps.parityStop | with_reducible apply State.keeps.updP1 

theorem State.keeps.mxAdmit {u : Nat} {c : MxaCmd} {d : Row} {nf : Bool} {parity : Option Nat} (h : s.keeps t) :
    s.keeps (t.mxAdmit u c d nf parity) := by
  unfold State.mxAdmit
  try dsimp only
  repeat'
    first
    | with_reducible exact h | with_reducible assumption | with_reducible apply State.keeps.mxCur
    | with_reducible apply State.keeps.mxFirst | with_reducible apply State.keeps.mxParity
    | with_reducible apply State.keeps.noteNf | with_reducible exact State.keeps.setUnitReset h
    | (with_reducible refine State.keeps.setUnitRest ?_ ?_; rotate_left; rfl) | split

theorem State.keeps.mxEnter_fst {u : Nat} {errs : Errs} {parity : Option Nat} (h : s.keeps t) : s.keeps (t.mxEnter u
    errs parity).1 := by
  unfold State.mxEnter
  try dsimp only
  repeat'
    first
    | with_reducible exact h | with_reducible assumption | with_reducible apply State.keeps.engineAccess_fst
    | (with_reducible refine State.keeps.engineAccess_eq ?_ ‹_›) | with_reducible apply State.keeps.leavePorts
    | with_reducible apply State.keeps.mxAdmit | with_reducible apply State.keeps.mxFail
    | (with_reducible refine State.keeps.of_ready (State.keeps.mxPrepare_load ?_) ‹_›)
    | (with_reducible refine State.keeps.of_wait (State.keeps.mxPrepare_load ?_) ‹_›)
    | (with_reducible refine State.keeps.of_fail (State.keeps.mxPrepare_load ?_) ‹_›)
    | with_reducible apply State.keeps.mxPrepare_load | with_reducible apply State.keeps.load_ready
    | with_reducible apply State.keeps.load_wait | with_reducible apply State.keeps.load_fail
    | (with_reducible refine State.keeps.of_ready ?_ ‹_›) | (with_reducible refine State.keeps.of_wait ?_ ‹_›)
    | (with_reducible refine State.keeps.of_fail ?_ ‹_›) | split

theorem State.keeps.mxEnter_eq {u : Nat} {errs : Errs} {parity : Option Nat} {o : Nat} (h : s.keeps t) (e :
    t.mxEnter u errs parity = (v, o)) : s.keeps v :=
  State.keeps.of_fst h.mxEnter_fst e

theorem State.keeps.mxAhead {u : Nat} {errs : Errs} {idx : Nat} (h : s.keeps t) : s.keeps (t.mxAhead u errs idx) := by
  unfold State.mxAhead
  try dsimp only
  repeat'
    first
    | with_reducible exact h | with_reducible assumption | with_reducible apply State.keeps.leavePorts
    | (with_reducible refine State.keeps.of_ready (State.keeps.mxInk_load ?_) ‹_›)
    | (with_reducible refine State.keeps.of_wait (State.keeps.mxInk_load ?_) ‹_›)
    | (with_reducible refine State.keeps.of_fail (State.keeps.mxInk_load ?_) ‹_›)
    | with_reducible apply State.keeps.mxInk_load
    | (with_reducible refine State.keeps.of_ready (State.keeps.mxWeights_load ?_) ‹_›)
    | (with_reducible refine State.keeps.of_wait (State.keeps.mxWeights_load ?_) ‹_›)
    | (with_reducible refine State.keeps.of_fail (State.keeps.mxWeights_load ?_) ‹_›)
    | with_reducible apply State.keeps.mxWeights_load | with_reducible refine State.keeps.putCell ?_
    | with_reducible refine State.keeps.unitRest ?_ (fun _ => rfl)
    | (with_reducible refine State.keeps.unitRest ?_ ?_; rotate_left; (intro x; repeat' split; all_goals rfl))
    | with_reducible apply State.keeps.load_ready | with_reducible apply State.keeps.load_wait
    | with_reducible apply State.keeps.load_fail | (with_reducible refine State.keeps.of_ready ?_ ‹_›)
    | (with_reducible refine State.keeps.of_wait ?_ ‹_›) | (with_reducible refine State.keeps.of_fail ?_ ‹_›)
    | split

theorem State.keeps.mxInputs {u : Nat} {errs : Errs} {parity : Option Nat} (h : s.keeps t) : s.keeps (t.mxInputs u
    errs parity) := by
  unfold State.mxInputs
  try dsimp only
  repeat'
    first
    | with_reducible exact h | with_reducible assumption | with_reducible apply State.keeps.mxAhead
    | with_reducible apply State.keeps.mxEnter_fst 

theorem State.keeps.mxWriteFailed {u : Nat} {seq : Word} {status : Nat} (h : s.keeps t) : s.keeps (t.mxWriteFailed u
    seq status) := by
  unfold State.mxWriteFailed
  try dsimp only
  repeat'
    first
    | with_reducible exact h | with_reducible assumption | with_reducible apply State.keeps.mxFail
    | with_reducible refine State.keeps.putCell ?_ | with_reducible refine State.keeps.unitRest ?_ (fun _ => rfl)
    | (with_reducible refine State.keeps.unitRest ?_ ?_; rotate_left; (intro x; repeat' split; all_goals rfl))
    | split

theorem State.keeps.mxWrite {u : Nat} (h : s.keeps t) : s.keeps (t.mxWrite u) := by
  unfold State.mxWrite
  try dsimp only
  repeat'
    first
    | with_reducible exact h | with_reducible assumption | with_reducible apply State.keeps.engineAccess_fst
    | (with_reducible refine State.keeps.engineAccess_eq ?_ ‹_›) | with_reducible apply State.keeps.mxWriteFailed
    | with_reducible refine State.keeps.putCell ?_ | with_reducible refine State.keeps.unitRest ?_ (fun _ => rfl)
    | (with_reducible refine State.keeps.unitRest ?_ ?_; rotate_left; (intro x; repeat' split; all_goals rfl))
    | split

theorem State.keeps.fillGate {u : Nat} {waited : Bool} (h : s.keeps t) : s.keeps (t.fillGate u waited) := by
  unfold State.fillGate
  try dsimp only
  repeat'
    first
    | with_reducible exact h | with_reducible assumption | with_reducible apply State.keeps.mxCur | split

theorem State.keeps.skGot {u : Nat} {onB : Bool} {p : PortRead} {d : Row} {nf : Bool} (h : s.keeps t) : s.keeps
    (t.skGot u onB p d nf) := by
  unfold State.skGot
  try dsimp only
  repeat'
    first
    | with_reducible exact h | with_reducible assumption | with_reducible apply State.keeps.noteNf
    | with_reducible refine State.keeps.putCell ?_ | with_reducible refine State.keeps.unitRest ?_ (fun _ => rfl)

theorem State.keeps.skPort_load {k : List PortRead} : ∀ {t : State} {u : Nat} {onB : Bool} {hold : BitVec 12} {errs
    : Errs} {idx : Nat} , s.keeps t → s.keeps (t.skPort u onB hold errs idx k).state := by
  induction k with
  | nil => exact fun h => by unfold State.skPort; exact h
  | cons x k ih =>
    intro t u onB hold errs idx  h
    unfold State.skPort
    try dsimp only
    repeat'
      first
      | with_reducible exact h | with_reducible assumption | with_reducible apply ih
      | with_reducible apply State.keeps.engineAccess_fst | (with_reducible refine State.keeps.engineAccess_eq ?_ ‹_›)
      | with_reducible apply State.keeps.skGot | with_reducible apply State.keeps.load_ready
      | with_reducible apply State.keeps.load_wait | with_reducible apply State.keeps.load_fail
      | (with_reducible refine State.keeps.of_ready ?_ ‹_›) | (with_reducible refine State.keeps.of_wait ?_ ‹_›)
      | (with_reducible refine State.keeps.of_fail ?_ ‹_›) | split

theorem State.keeps.skBoth_load {u : Nat} {c : StrokeCmd} {errs : Errs} {idx : Nat} {a : List PortRead} {b : List
    PortRead} (h : s.keeps t) : s.keeps (t.skBoth u c errs idx a b).state := by
  unfold State.skBoth
  try dsimp only
  repeat'
    first
    | with_reducible exact h | with_reducible assumption
    | (with_reducible refine State.keeps.of_ready (State.keeps.skPort_load ?_) ‹_›)
    | (with_reducible refine State.keeps.of_wait (State.keeps.skPort_load ?_) ‹_›)
    | (with_reducible refine State.keeps.of_fail (State.keeps.skPort_load ?_) ‹_›)
    | with_reducible apply State.keeps.skPort_load | with_reducible apply State.keeps.load_ready
    | with_reducible apply State.keeps.load_wait | with_reducible apply State.keeps.load_fail
    | (with_reducible refine State.keeps.of_ready ?_ ‹_›) | (with_reducible refine State.keeps.of_wait ?_ ‹_›)
    | (with_reducible refine State.keeps.of_fail ?_ ‹_›) | split

theorem State.keeps.skReject {u : Nat} {b : Row} {seq : Word} {nf : Bool} {status : Nat} (h : s.keeps t) : s.keeps
    (t.skReject u b seq nf status) := by
  unfold State.skReject
  try dsimp only
  repeat'
    first
    | with_reducible exact h | with_reducible assumption | with_reducible apply State.keeps.leavePorts
    | with_reducible apply State.keeps.noteAlign | with_reducible refine State.keeps.putCell ?_
    | with_reducible refine State.keeps.unitRest ?_ (fun _ => rfl)

theorem State.keeps.skFail {u : Nat} {c : StrokeCmd} {status : Nat} (h : s.keeps t) : s.keeps (t.skFail u c status) := by
  unfold State.skFail
  try dsimp only
  repeat'
    first
    | with_reducible exact h | with_reducible assumption | with_reducible apply State.keeps.leavePorts
    | with_reducible refine State.keeps.putCell ?_ | with_reducible refine State.keeps.unitRest ?_ (fun _ => rfl)

theorem State.keeps.skCur {u : Nat} {f : StrokeCmd → StrokeCmd} (h : s.keeps t) : s.keeps (t.skCur u f) := by
  unfold State.skCur
  try dsimp only
  repeat'
    first
    | with_reducible exact h | with_reducible assumption | with_reducible refine State.keeps.putCell ?_
    | with_reducible refine State.keeps.unitRest ?_ (fun _ => rfl)

theorem State.keeps.skRest {u : Nat} {errs : Errs} {idx : Nat} (h : s.keeps t) : s.keeps (t.skRest u errs idx) := by
  unfold State.skRest
  try dsimp only
  repeat'
    first
    | with_reducible exact h | with_reducible assumption
    | (with_reducible refine State.keeps.of_ready (State.keeps.skBoth_load ?_) ‹_›)
    | (with_reducible refine State.keeps.of_wait (State.keeps.skBoth_load ?_) ‹_›)
    | (with_reducible refine State.keeps.of_fail (State.keeps.skBoth_load ?_) ‹_›)
    | with_reducible apply State.keeps.skBoth_load | with_reducible apply State.keeps.skCur
    | with_reducible apply State.keeps.skFail | with_reducible apply State.keeps.load_ready
    | with_reducible apply State.keeps.load_wait | with_reducible apply State.keeps.load_fail
    | (with_reducible refine State.keeps.of_ready ?_ ‹_›) | (with_reducible refine State.keeps.of_wait ?_ ‹_›)
    | (with_reducible refine State.keeps.of_fail ?_ ‹_›) | split

theorem State.keeps.skPrologue {u : Nat} {errs : Errs} {idx : Nat} (h : s.keeps t) : s.keeps (t.skPrologue u errs
    idx) := by
  unfold State.skPrologue
  try dsimp only
  repeat'
    first
    | with_reducible exact h | with_reducible assumption
    | (with_reducible refine State.keeps.of_ready (State.keeps.skBoth_load ?_) ‹_›)
    | (with_reducible refine State.keeps.of_wait (State.keeps.skBoth_load ?_) ‹_›)
    | (with_reducible refine State.keeps.of_fail (State.keeps.skBoth_load ?_) ‹_›)
    | with_reducible apply State.keeps.skBoth_load | with_reducible apply State.keeps.skCur
    | with_reducible apply State.keeps.skReject | with_reducible apply State.keeps.skRest
    | with_reducible apply State.keeps.load_ready | with_reducible apply State.keeps.load_wait
    | with_reducible apply State.keeps.load_fail | (with_reducible refine State.keeps.of_ready ?_ ‹_›)
    | (with_reducible refine State.keeps.of_wait ?_ ‹_›) | (with_reducible refine State.keeps.of_fail ?_ ‹_›)
    | split

theorem State.keeps.skTake {u : Nat} {errs : Errs} (h : s.keeps t) : s.keeps (t.skTake u errs) := by
  unfold State.skTake
  try dsimp only
  repeat'
    first
    | with_reducible exact h | with_reducible assumption | with_reducible apply State.keeps.skPrologue
    | with_reducible apply State.keeps.skReject | with_reducible apply State.keeps.takeBlock_fst
    | (with_reducible refine State.keeps.takeBlock_eq ?_ ‹_›) | with_reducible refine State.keeps.putCell ?_
    | with_reducible refine State.keeps.unitRest ?_ (fun _ => rfl)
    | (with_reducible refine State.keeps.unitRest ?_ ?_; rotate_left; (intro x; repeat' split; all_goals rfl))
    | exact (State.keeps.takeBlock_eq h).1 ‹_› | exact (State.keeps.takeBlock_eq h).2.1 ‹_›
    | exact (State.keeps.takeBlock_eq h).2.2 _ _ ‹_› | split

theorem State.keeps.skLaneRange {u : Nat} (h : s.keeps t) : s.keeps (t.skLaneRange u) := by
  unfold State.skLaneRange
  try dsimp only
  repeat'
    first
    | with_reducible exact h | with_reducible assumption | with_reducible apply State.keeps.updP1 

theorem State.keeps.skAdmit {u : Nat} {c : StrokeCmd} {parity : Option Nat} (h : s.keeps t) : s.keeps (t.skAdmit u c
    parity) := by
  unfold State.skAdmit
  try dsimp only
  repeat'
    first
    | with_reducible exact h | with_reducible assumption | with_reducible apply State.keeps.checkpoint
    | with_reducible apply State.keeps.noteNf | with_reducible apply State.keeps.parityStop
    | with_reducible apply State.keeps.skFail | with_reducible apply State.keeps.skLaneRange
    | with_reducible apply State.keeps.updP1 | with_reducible refine State.keeps.putCell ?_
    | with_reducible refine State.keeps.unitRest ?_ (fun _ => rfl)
    | (with_reducible refine State.keeps.unitRest ?_ ?_; rotate_left; (intro x; repeat' split; all_goals rfl))
    | split

theorem State.keeps.skEnter {u : Nat} {errs : Errs} {parity : Option Nat} (h : s.keeps t) : s.keeps (t.skEnter u
    errs parity) := by
  unfold State.skEnter
  try dsimp only
  repeat'
    first
    | with_reducible exact h | with_reducible assumption | with_reducible apply State.keeps.skAdmit
    | (with_reducible refine State.keeps.of_ready (State.keeps.skBoth_load ?_) ‹_›)
    | (with_reducible refine State.keeps.of_wait (State.keeps.skBoth_load ?_) ‹_›)
    | (with_reducible refine State.keeps.of_fail (State.keeps.skBoth_load ?_) ‹_›)
    | with_reducible apply State.keeps.skBoth_load | with_reducible apply State.keeps.skFail
    | with_reducible apply State.keeps.load_ready | with_reducible apply State.keeps.load_wait
    | with_reducible apply State.keeps.load_fail | (with_reducible refine State.keeps.of_ready ?_ ‹_›)
    | (with_reducible refine State.keeps.of_wait ?_ ‹_›) | (with_reducible refine State.keeps.of_fail ?_ ‹_›)
    | split

theorem State.keeps.skWriteFailed {u : Nat} {seq : Word} {status : Nat} (h : s.keeps t) : s.keeps (t.skWriteFailed u
    seq status) := by
  unfold State.skWriteFailed
  try dsimp only
  repeat'
    first
    | with_reducible exact h | with_reducible assumption | with_reducible apply State.keeps.skFail
    | with_reducible refine State.keeps.putCell ?_ | with_reducible refine State.keeps.unitRest ?_ (fun _ => rfl)
    | (with_reducible refine State.keeps.unitRest ?_ ?_; rotate_left; (intro x; repeat' split; all_goals rfl))
    | split

theorem State.keeps.skWrite {u : Nat} (h : s.keeps t) : s.keeps (t.skWrite u) := by
  unfold State.skWrite
  try dsimp only
  repeat'
    first
    | with_reducible exact h | with_reducible assumption | with_reducible apply State.keeps.engineAccess_fst
    | (with_reducible refine State.keeps.engineAccess_eq ?_ ‹_›) | with_reducible apply State.keeps.skWriteFailed
    | with_reducible refine State.keeps.putCell ?_ | with_reducible refine State.keeps.unitRest ?_ (fun _ => rfl)
    | (with_reducible refine State.keeps.unitRest ?_ ?_; rotate_left; (intro x; repeat' split; all_goals rfl))
    | split

theorem State.keeps.mvPolicy {u : Nat} (h : s.keeps t) : s.keeps (t.mvPolicy u) := by
  unfold State.mvPolicy
  try dsimp only
  repeat'
    first
    | with_reducible exact h | with_reducible assumption | with_reducible apply State.keeps.updP1 

theorem State.keeps.mvFinish {u : Nat} {w : MoverWait} {status : Nat} (h : s.keeps t) : s.keeps (t.mvFinish u w
    status) := by
  unfold State.mvFinish
  try dsimp only
  repeat'
    first
    | with_reducible exact h | with_reducible assumption | with_reducible apply State.keeps.leavePorts
    | with_reducible apply State.keeps.noteAlign | with_reducible apply State.keeps.seeP1
    | with_reducible refine State.keeps.putCell ?_ | with_reducible refine State.keeps.unitRest ?_ (fun _ => rfl)
    | (with_reducible refine State.keeps.unitRest ?_ ?_; rotate_left; (intro x; repeat' split; all_goals rfl))
    | split

theorem State.keeps.mvSettle {u : Nat} {w : MoverWait} (h : s.keeps t) : s.keeps (t.mvSettle u w) := by
  unfold State.mvSettle
  try dsimp only
  repeat'
    first
    | with_reducible exact h | with_reducible assumption | with_reducible apply State.keeps.mvFinish
    | with_reducible refine State.keeps.putCell ?_ | with_reducible refine State.keeps.unitRest ?_ (fun _ => rfl)
    | (with_reducible refine State.keeps.unitRest ?_ ?_; rotate_left; (intro x; repeat' split; all_goals rfl))
    | split

theorem State.keeps.mvParity {u : Nat} {w : MoverWait} (h : s.keeps t) : s.keeps (t.mvParity u w) := by
  unfold State.mvParity
  try dsimp only
  repeat'
    first
    | with_reducible exact h | with_reducible assumption | with_reducible apply State.keeps.mvFinish
    | with_reducible apply State.keeps.parityStop | with_reducible apply State.keeps.updP1 

theorem State.keeps.loadRecords {u : Nat} {first : Nat} {rows : List Row} {ok : List Nat} (h : s.keeps t) : s.keeps
    (t.loadRecords u first rows ok) := by
  unfold State.loadRecords
  try dsimp only
  repeat'
    first
    | with_reducible exact h | with_reducible assumption | with_reducible refine State.keeps.putCell ?_
    | with_reducible refine State.keeps.unitRest ?_ (fun _ => rfl)

/-- The context that a run of the mover leaves. -/
def MvRes.ctx : MvRes → MvCtx
  | .go c => c
  | .wait c => c
  | .ends c _ => c
  | .mismatch c => c

def MvGot.ctx : MvGot → MvCtx
  | .got c _ _ => c
  | .stop r => r.ctx

theorem State.keeps.of_got {x : MvGot} {c : MvCtx} {d : Row} {nf : Bool} (h : s.keeps x.ctx.s) (e : x = .got c d nf) :
    s.keeps c.s := by rw [e] at h; exact h
theorem State.keeps.of_stop {x : MvGot} {r : MvRes} (h : s.keeps x.ctx.s) (e : x = .stop r) : s.keeps r.ctx.s := by
  rw [e] at h; exact h

theorem State.keeps.andThen {r : MvRes} {f : MvCtx → MvRes} (h : s.keeps r.ctx.s)
    (hf : ∀ d : MvCtx, s.keeps d.s → s.keeps (f d).ctx.s) : s.keeps (r.andThen f).ctx.s := by
  cases r
  · exact hf _ h
  all_goals exact h

theorem State.keeps.mvUse {c : MvCtx} (h : s.keeps c.s) : s.keeps c.use.ctx.s := by
  unfold MvCtx.use
  split <;> exact h

theorem State.keeps.mvStart {c : MvCtx} {u : Nat} (h : s.keeps c.s) : s.keeps (c.start u).s := by
  unfold MvCtx.start
  split
  · exact h
  · exact .checkpoint h

theorem State.keeps.mvPost {c : MvCtx} {u : Nat} {m : Msg} (h : s.keeps c.s) : s.keeps (c.post u m).s :=
  .unitRest (.send h) fun _ => rfl

theorem State.keeps.mvGet {c : MvCtx} {u : Nat} {errs : Errs} {kind : Nat} {k : RowKey} {lo hi : Nat} {next : Option RowKey}
    (h : s.keeps c.s) : s.keeps (mvGet c u errs kind k lo hi next).ctx.s := by
  unfold Machine.mvGet
  dsimp only
  split
  · split <;> rename_i e <;> exact h.engineAccess_eq e
  · split
    · exact .mvPost h
    · exact h
    · split <;> exact h

theorem State.keeps.mvPutRow {c : MvCtx} {u : Nat} {put : Bool} {k : RowKey} {lo hi : Nat} {d : Row} {nf : Bool} {elems : Nat}
    {next : Option RowKey} (h : s.keeps c.s) : s.keeps (mvPutRow c u put k lo hi d nf elems next).ctx.s := by
  unfold Machine.mvPutRow
  dsimp only
  split
  · split <;> rename_i e <;> exact h.engineAccess_eq e
  · exact .mvPost h

theorem State.keeps.mvSource {c : MvCtx} {u : Nat} {p : MvParams} {fresh : Bool} {k : RowKey} {ahead : List MvOp}
    (h : s.keeps c.s) : s.keeps (mvSource c u p fresh k ahead).ctx.s := by
  have hr : s.keeps (mvSource.read c u p k ahead).ctx.s := by
    unfold Machine.mvSource.read
    dsimp only
    split <;> rename_i e
    · exact .of_stop (.mvGet (.mvStart h)) e
    · have k := State.keeps.of_got (.mvGet (.mvStart h)) e
      exact k
  unfold Machine.mvSource
  repeat' (first | exact h | exact hr | split)

theorem State.keeps.mvFlush {c : MvCtx} {u : Nat} {p : MvParams} {ahead : List MvOp} (h : s.keeps c.s) :
    s.keeps (mvFlush c u p ahead).ctx.s := by
  unfold Machine.mvFlush
  dsimp only
  split
  · exact h
  split
  · exact .andThen (.mvPutRow (.mvStart h)) fun _ k => k
  split
  · exact .andThen (.mvPutRow (.mvStart h)) fun _ k => k
  · refine .andThen ?_ fun d k => .andThen (.mvPutRow k) fun _ k => k
    split
    · exact h
    · split <;> rename_i e
      · exact .of_stop (.mvGet (.mvStart h)) e
      · have k := State.keeps.of_got (.mvGet (.mvStart h)) e
        exact k

theorem State.keeps.mvFill {c : MvCtx} {u : Nat} {p : MvParams} {ahead : List MvOp} {dst : Place} {fresh : Bool} {live : Bool}
    {f : MvCtx → MvRes} {g : MvCtx → Nat × Bool} (h : s.keeps c.s) (hf : ∀ d : MvCtx, s.keeps d.s → s.keeps (f d).ctx.s) :
    s.keeps (mvFill c u p ahead dst fresh live f g).ctx.s := by
  unfold Machine.mvFill
  dsimp only
  refine .andThen (.andThen ?_ hf) fun d k => ?_
  · repeat' (first | with_reducible exact .mvFlush h | split)
    all_goals exact h
  · split <;> exact k

theorem State.keeps.mvBack {c : MvCtx} {u : Nat} {p : MvParams} {more : Bool} (h : s.keeps c.s) : s.keeps (mvBack c u p more).ctx.s := by
  unfold Machine.mvBack
  split
  · exact h
  · exact .andThen (.andThen (.mvUse h) fun _ k => .mvPutRow k) fun _ k => k

theorem State.keeps.mvBackAll {c : MvCtx} {u : Nat} {p : MvParams} {n : Nat} (h : s.keeps c.s) :
    s.keeps (mvBackAll c u p n).ctx.s := by
  induction n generalizing c with
  | zero => exact h
  | succ n ih => exact .andThen (.mvBack h) fun _ k => ih k

theorem State.keeps.mvHold {c : MvCtx} {u : Nat} {p : MvParams} {k : RowKey} (h : s.keeps c.s) :
    s.keeps (mvHold c u p k).ctx.s := by
  unfold Machine.mvHold
  split
  · exact h
  · refine .andThen ?_ fun d k => ?_
    · split
      · exact .mvBack h
      · exact h
    · split <;> rename_i e
      · exact .of_stop (.mvGet (.mvStart k)) e
      · have k1 := State.keeps.of_got (.mvGet (.mvStart k)) e
        exact .noteNf k1

theorem State.keeps.mvUpdate {c : MvCtx} {u : Nat} {p : MvParams} {pos spos : Nat} (h : s.keeps c.s) :
    s.keeps (mvUpdate c u p pos spos).ctx.s := by
  unfold Machine.mvUpdate
  split
  · exact .noteNf h
  · exact h

theorem State.keeps.mvStep {c : MvCtx} {u : Nat} {p : MvParams} {ahead : List MvOp} {o : MvOp} (h : s.keeps c.s) :
    s.keeps (mvStep c u p ahead o).ctx.s := by
  unfold Machine.mvStep
  split
  · exact .andThen (.mvSource h) fun _ k => k
  · exact .mvFill h fun _ k => k
  · refine .mvFill h fun d k => ?_
    split
    · exact .mvSource k
    · exact k
  · exact .andThen (.andThen (.mvSource h) fun _ k => .mvHold k) fun _ k => .mvUpdate k

theorem State.keeps.mvSteps {c : MvCtx} {u : Nat} {p : MvParams} {l : List MvOp} (h : s.keeps c.s) :
    s.keeps (mvSteps c u p l).ctx.s := by
  induction l generalizing c with
  | nil => exact h
  | cons o l ih =>
    unfold Machine.mvSteps
    refine .andThen (.andThen (.mvUse h) fun _ k => .mvStep k) fun d k => ?_
    exact ih (c := { d with w := { d.w with pos := d.w.pos + 1 } }) k

theorem State.keeps.mvPick {c : MvCtx} {u own n : Nat} {p : MvParams} {ix : Operand} {scatter : Bool} (h : s.keeps c.s) :
    s.keeps (mvPick c u own n p ix scatter).ctx.s := by
  have row (k : RowKey) (pos : Nat) (x : MvGot) (hx : s.keeps x.ctx.s) : s.keeps (match x with
      | .stop r => r
      | .got d r _ =>
        let w := { d.w with ixRow := some (k, r), pos := 0, src := if scatter then d.w.src else none }
        match pickIndex (dPolicy ix.desc) n (BitVec.ofNat 36 (elemOf 4 r pos)).toInt with
        | (none, _) => .go { d with w := { w with stop := true } }
        | (some x, met) =>
          .go { d with
            s := if met then d.s.mvPolicy u else d.s
            w := { w with pick := some x, met := w.met + met.toNat } }).ctx.s := by
    cases x with
    | stop r => exact hx
    | got d r nf =>
      dsimp only
      split
      · exact hx
      · show s.keeps (if _ then d.s.mvPolicy u else d.s)
        split
        · exact .mvPolicy hx
        · exact hx
  unfold Machine.mvPick
  refine row _ _ _ ?_
  repeat' (first | exact h | exact .mvGet (.mvStart h) | split)

theorem State.keeps.mvIndices {c : MvCtx} {u own n : Nat} {p : MvParams} {ix table other : Operand} {scatter : Bool} {fuel : Nat}
    (h : s.keeps c.s) : s.keeps (mvIndices c u own n p ix table other scatter fuel).ctx.s := by
  induction fuel generalizing c with
  | zero => exact h
  | succ fuel ih =>
    unfold Machine.mvIndices
    split
    · exact h
    · refine .andThen ?_ fun d k => ?_
      · split
        · exact h
        · exact .mvPick h
      · split
        · exact k
        · exact .andThen (.mvSteps k) fun e k => ih (c := { s := e.s, w := _, idx := e.idx, uses := _, parity := _ }) k

theorem State.keeps.mvRows {c : MvCtx} {u : Nat} {errs : Errs} {data : Bool} {l : List Nat} (h : s.keeps c.s) :
    s.keeps (mvRows c u errs data l).ctx.s := by
  induction l generalizing c with
  | nil => exact h
  | cons q qs ih =>
    have h0 : s.keeps (if data then c.start u else c).s := by
      split
      · exact .mvStart h
      · exact h
    unfold Machine.mvRows
    dsimp only
    split <;> rename_i e
    · exact .of_stop (.mvGet h0) e
    · have k := State.keeps.of_got (.mvGet h0) e
      exact ih (c := { s := _, w := _, idx := _, uses := _, parity := _ }) k

theorem State.keeps.mvData {c : MvCtx} {u own : Nat} {b : Row} {errs : Errs} {l : List (Option Operand)} (h : s.keeps c.s) :
    s.keeps (mvData c u own b errs l).ctx.s := by
  unfold Machine.mvData
  dsimp only
  split
  · exact .andThen (.mvSteps h) fun _ k => .mvFlush k
  · refine .andThen ?_ fun d k => ?_
    · split
      · exact .andThen (.mvIndices h) fun _ k => .mvFlush k
      · exact .andThen (.mvIndices h) fun _ k => .mvBackAll k
    · split <;> exact k
  · exact h

theorem State.keeps.mvMain {c : MvCtx} {u : Nat} {errs : Errs} (h : s.keeps c.s) : s.keeps (mvMain c u errs).ctx.s := by
  unfold Machine.mvMain
  dsimp only
  refine .andThen ?_ fun d k => ?_
  · split
    · exact h
    · exact .mvRows h
  · repeat' (first | with_reducible exact .mvData k | split)
    all_goals first | exact k 

theorem State.keeps.mvRecords {c : MvCtx} {u : Nat} {errs : Errs} (h : s.keeps c.s) : s.keeps (mvRecords c u errs).ctx.s := by
  unfold Machine.mvRecords
  dsimp only
  refine .andThen (.mvRows h) fun d k => ?_
  split
  · exact k
  · exact .loadRecords k

theorem State.keeps.mvTagRows {c : MvCtx} {u : Nat} {l : List Nat} (h : s.keeps c.s) : s.keeps (mvTagRows c u l).ctx.s := by
  induction l generalizing c with
  | nil => exact h
  | cons q qs ih =>
    unfold Machine.mvTagRows
    split <;> rename_i e
    · exact State.keeps.engineAccess_eq h e
    · have k := State.keeps.engineAccess_eq h e
      exact ih (c := { s := _, w := _, idx := _, uses := _, parity := _ }) k
    · exact State.keeps.engineAccess_eq h e

theorem State.keeps.mvRegister {c : MvCtx} {u : Nat} {errs : Errs} (h : s.keeps c.s) : s.keeps (mvRegister c u errs).ctx.s := by
  unfold Machine.mvRegister
  dsimp only
  refine .andThen ?_ fun d0 k => ?_
  · split
    · exact .mvRows h
    · exact h
  · refine .andThen ?_ fun d1 k => ?_
    · split
      · exact k
      · exact .mvRows k
    · repeat' (first | with_reducible exact .mvTagRows k | split)
      all_goals first | exact k | exact .mvTagRows k | exact .mvTagRows (.unitRest k fun _ => rfl)

theorem State.keeps.mvRelease {c : MvCtx} {u : Nat} (h : s.keeps c.s) : s.keeps (mvRelease c u).ctx.s :=
  .unitRest (.mvStart h) fun _ => rfl

theorem State.keeps.mvRun {c : MvCtx} {u : Nat} {errs : Errs} (h : s.keeps c.s) : s.keeps (mvRun c u errs).ctx.s := by
  unfold Machine.mvRun
  refine .andThen (.mvUse h) fun d k => ?_
  repeat' (first | exact .mvRecords k | exact .mvRegister k | exact .mvRelease k | exact .mvMain k | split)

theorem State.keeps.mvCommit {r : MvRes} {u : Nat} (h : s.keeps r.ctx.s) : s.keeps (r.commit u) := by
  cases r
  case mismatch c => exact .mvParity h
  all_goals exact .mvSettle h

theorem State.keeps.mvGo {u : Nat} {w : MoverWait} {errs : Errs} {idx : Nat} {parity : Option Nat} (h : s.keeps t) :
    s.keeps (t.mvGo u w errs idx parity) := .mvCommit (.mvRun h)

theorem State.keeps.mvCommand {u : Nat} {row : Nat} {errs : Errs} {parity : Option Nat} (h : s.keeps t) : s.keeps
    (t.mvCommand u row errs parity) := by
  unfold State.mvCommand
  try dsimp only
  repeat'
    first
    | with_reducible exact h | with_reducible assumption | with_reducible apply State.keeps.mvFinish
    | with_reducible apply State.keeps.mvGo | with_reducible apply State.keeps.takeBlock_fst
    | (with_reducible refine State.keeps.takeBlock_eq ?_ ‹_›) | with_reducible refine State.keeps.putCell ?_
    | with_reducible refine State.keeps.unitRest ?_ (fun _ => rfl)
    | (with_reducible refine State.keeps.unitRest ?_ ?_; rotate_left; (intro x; repeat' split; all_goals rfl))
    | exact (State.keeps.takeBlock_eq h).1 ‹_› | exact (State.keeps.takeBlock_eq h).2.1 ‹_›
    | exact (State.keeps.takeBlock_eq h).2.2 _ _ ‹_› | split

theorem State.keeps.holdMsg {m : Msg} (h : s.keeps t) : s.keeps (t.holdMsg m) := by
  unfold State.holdMsg
  try dsimp only
  repeat'
    first
    | with_reducible exact h | with_reducible assumption | split | with_reducible exact State.keeps.rest h

theorem State.keeps.inboundRows {l : List Row} : ∀ {t : State} {u i : Nat} {m : Msg}, s.keeps t →
    s.keeps (t.inboundRows u m i l) := by
  induction l with
  | nil => exact fun h => .send h
  | cons r l ih =>
    intro t u i m h
    unfold State.inboundRows
    dsimp only
    split <;> rename_i e
    · exact ih (.portAccess_eq h e)
    · exact .send (.portAccess_eq h e)
    · exact .holdMsg (.portAccess_eq h e)

theorem State.keeps.inboundRejected {m : Msg} {code : Nat} (h : s.keeps t) : s.keeps (t.inboundRejected m code) :=
  .send (.noteAlign h)

theorem State.keeps.inboundRequest {m : Msg} {e : Ecc} (h : s.keeps t) : s.keeps (t.inboundRequest m e) := by
  unfold State.inboundRequest
  try dsimp only
  repeat'
    first
    | with_reducible exact h | with_reducible assumption | with_reducible apply State.keeps.enlist
    | with_reducible apply State.keeps.holdMsg | with_reducible apply State.keeps.inboundRows
    | with_reducible apply State.keeps.inboundRejected | with_reducible apply State.keeps.noteAlign
    | with_reducible apply State.keeps.request | with_reducible apply State.keeps.send
    | with_reducible refine State.keeps.putCell ?_ | with_reducible refine State.keeps.unitRest ?_ (fun _ => rfl)
    | (with_reducible refine State.keeps.unitRest ?_ ?_; rotate_left; (intro x; repeat' split; all_goals rfl))
    | split

end Sys2Proof.Machine
end

