-- ==== Sys2Proof/Laws/KeepsWafer.lean ====
section
/-! SUPPORT. The operations of the network, the wells, the training step and the repairs keep the queue and the canonical form (see Laws/Keeps). -/

namespace Sys2Proof.Machine

variable {s t v : State}

theorem State.keeps.setSyncObj {r : Nat} {o : Nat} {x : SyncObj} (h : s.keeps t) : s.keeps (t.setSyncObj r o x) := by
  unfold State.setSyncObj
  try dsimp only
  repeat'
    first
    | with_reducible exact h | with_reducible assumption | with_reducible apply State.keeps.updRegion

theorem State.keeps.syncAnswer {m : Msg} {status : Nat} {value : Word} (h : s.keeps t) : s.keeps (t.syncAnswer m
    status value) := by
  unfold State.syncAnswer
  try dsimp only
  repeat'
    first
    | with_reducible exact h | with_reducible assumption | with_reducible apply State.keeps.send | split

theorem State.keeps.countWaiters {r : Nat} {o : Nat} (h : s.keeps t) : s.keeps (t.countWaiters r o) := by
  unfold State.countWaiters
  try dsimp only
  repeat'
    first
    | with_reducible exact h | with_reducible assumption | with_reducible apply State.keeps.setSyncObj

theorem State.keeps.releaseBy {r : Nat} {o : Nat} {f : Waiter → Option Word} (h : s.keeps t) : s.keeps (t.releaseBy
    r o f) := by
  unfold State.releaseBy
  try dsimp only
  repeat'
    first
    | with_reducible exact h | with_reducible assumption | with_reducible apply State.keeps.countWaiters
    | with_reducible apply State.keeps.syncAnswer | with_reducible apply State.keeps.updRegion
    | (with_reducible refine State.keeps.foldl ?_ ?_; rotate_left; (intro t a; have h : t.keeps t := State.keeps_refl; try dsimp only))

theorem State.keeps.release {r : Nat} {o : Nat} (h : s.keeps t) : s.keeps (t.release r o) := by
  unfold State.release
  try dsimp only
  repeat'
    first
    | with_reducible exact h | with_reducible assumption | with_reducible apply State.keeps.releaseBy

theorem State.keeps.holdWaiter {r : Nat} {o : Nat} {m : Msg} (h : s.keeps t) : s.keeps (t.holdWaiter r o m) := by
  unfold State.holdWaiter
  try dsimp only
  repeat'
    first
    | with_reducible exact h | with_reducible assumption | with_reducible apply State.keeps.countWaiters
    | with_reducible apply State.keeps.updRegion

theorem State.keeps.syncDone {m : Msg} {v_ : Word} (h : s.keeps t) : s.keeps (t.syncDone m v_) := by
  unfold State.syncDone
  try dsimp only
  repeat'
    first
    | with_reducible exact h | with_reducible assumption | with_reducible apply State.keeps.syncAnswer

theorem State.keeps.syncValue {r : Nat} {m : Msg} {f : Word → Word} (h : s.keeps t) : s.keeps (t.syncValue r m f) := by
  unfold State.syncValue
  try dsimp only
  repeat'
    first
    | with_reducible exact h | with_reducible assumption | with_reducible apply State.keeps.release
    | with_reducible apply State.keeps.setSyncObj | with_reducible apply State.keeps.syncDone

theorem State.keeps.syncWait {r : Nat} {m : Msg} (h : s.keeps t) : s.keeps (t.syncWait r m) := by
  unfold State.syncWait
  try dsimp only
  repeat'
    first
    | with_reducible exact h | with_reducible assumption | with_reducible apply State.keeps.holdWaiter
    | with_reducible apply State.keeps.setSyncObj | with_reducible apply State.keeps.syncDone | split

theorem State.keeps.syncArrive {r : Nat} {m : Msg} (h : s.keeps t) : s.keeps (t.syncArrive r m) := by
  unfold State.syncArrive
  try dsimp only
  repeat'
    first
    | with_reducible exact h | with_reducible assumption | with_reducible apply State.keeps.holdWaiter
    | with_reducible apply State.keeps.releaseBy | with_reducible apply State.keeps.setSyncObj
    | with_reducible apply State.keeps.syncDone | split

theorem State.keeps.syncContribute_fst {r : Nat} {m : Msg} (h : s.keeps t) : s.keeps (t.syncContribute r m).1 := by
  unfold State.syncContribute
  try dsimp only
  repeat'
    first
    | with_reducible exact h | with_reducible assumption | with_reducible apply State.keeps.holdWaiter
    | with_reducible apply State.keeps.release | with_reducible apply State.keeps.setSyncObj
    | with_reducible apply State.keeps.syncDone | split

theorem State.keeps.syncContribute_eq {r : Nat} {m : Msg} {o : Option Bool × Bool} (h : s.keeps t) (e :
    t.syncContribute r m = (v, o)) : s.keeps v :=
  State.keeps.of_fst h.syncContribute_fst e

theorem State.keeps.syncDecide {r : Nat} {m : Msg} (h : s.keeps t) : s.keeps (t.syncDecide r m) := by
  unfold State.syncDecide
  try dsimp only
  repeat'
    first
    | with_reducible exact h | with_reducible assumption | with_reducible apply State.keeps.release
    | with_reducible apply State.keeps.setSyncObj | with_reducible apply State.keeps.syncDone

theorem State.keeps.syncRearm {r : Nat} {m : Msg} (h : s.keeps t) : s.keeps (t.syncRearm r m) := by
  unfold State.syncRearm
  try dsimp only
  repeat'
    first
    | with_reducible exact h | with_reducible assumption | with_reducible apply State.keeps.setSyncObj
    | with_reducible apply State.keeps.syncDone

theorem State.keeps.syncInit {r : Nat} {m : Msg} (h : s.keeps t) : s.keeps (t.syncInit r m) := by
  unfold State.syncInit
  try dsimp only
  repeat'
    first
    | with_reducible exact h | with_reducible assumption | with_reducible apply State.keeps.setSyncObj
    | with_reducible apply State.keeps.syncDone

theorem State.keeps.putSync {r : Nat} {o : Nat} {f : SyncObj → SyncObj} (h : s.keeps t) : s.keeps (t.putSync r o f) := by
  unfold State.putSync
  try dsimp only
  repeat'
    first
    | with_reducible exact h | with_reducible assumption | with_reducible apply State.keeps.release
    | with_reducible apply State.keeps.setSyncObj

theorem State.keeps.stepFlag {r : Nat} {bits : Word} (h : s.keeps t) : s.keeps (t.stepFlag r bits) := by
  unfold State.stepFlag
  try dsimp only
  repeat'
    first
    | with_reducible exact h | with_reducible assumption | with_reducible apply State.keeps.putSync

theorem State.keeps.writeLine {r : Nat} {l : Nat} {ws : List Word} (h : s.keeps t) : s.keeps (t.writeLine r l ws) := by
  unfold State.writeLine
  try dsimp only
  repeat'
    first
    | with_reducible exact h | with_reducible assumption | with_reducible apply State.keeps.raise
    | with_reducible apply State.keeps.setP1
    | (with_reducible refine State.keeps.foldl ?_ ?_; rotate_left; (intro t a; have h : t.keeps t := State.keeps_refl; try dsimp only))
    | split

theorem State.keeps.writeStream {r : Nat} {t_ : Nat} {ws : List Word} (h : s.keeps t) : s.keeps (t.writeStream r t_
    ws) := by
  unfold State.writeStream
  try dsimp only
  repeat'
    first
    | with_reducible exact h | with_reducible assumption | with_reducible apply State.keeps.raise
    | with_reducible apply State.keeps.setP1
    | (with_reducible refine State.keeps.foldl ?_ ?_; rotate_left; (intro t a; have h : t.keeps t := State.keeps_refl; try dsimp only))
    | split

theorem State.keeps.setParam {r : Nat} {i : Nat} {v_ : Word} (h : s.keeps t) : s.keeps (t.setParam r i v_) := by
  unfold State.setParam
  try dsimp only
  repeat'
    first
    | with_reducible exact h | with_reducible assumption | with_reducible apply State.keeps.setP1
    | with_reducible apply State.keeps.updP1 | split

theorem State.keeps.applyEntry {e : TableRec} {n i : Nat} (h : s.keeps t) : s.keeps (t.applyEntry e n i) := by
  unfold State.applyEntry
  dsimp only
  repeat'
    first
    | with_reducible exact .updBar h | with_reducible exact .writeStream h | with_reducible exact .writeLine h
    | with_reducible exact .setParam h | with_reducible exact .foldl h fun _ _ => .setParam State.keeps_refl
    | with_reducible exact .foldl h fun _ _ => .setP1 State.keeps_refl
    | with_reducible exact .updUnit h fun _ k => Unit.rowsOk_putCell _ _ k | split
  all_goals exact .rest h

theorem State.keeps.loadRoster {t_ : TableRec} (h : s.keeps t) : s.keeps (t.loadRoster t_) := by
  unfold State.loadRoster
  try dsimp only
  repeat'
    first
    | with_reducible exact h | with_reducible assumption
    | (with_reducible refine State.keeps.foldl ?_ ?_; rotate_left; (intro t a; have h : t.keeps t := State.keeps_refl; try dsimp only))
    | split | with_reducible exact State.keeps.rest h

theorem State.keeps.applyTables {l : List TableRec} (h : s.keeps t) : s.keeps (t.applyTables l) := by
  unfold State.applyTables
  try dsimp only
  repeat'
    first
    | with_reducible exact h | with_reducible assumption | with_reducible apply State.keeps.applyEntry
    | with_reducible apply State.keeps.loadRoster
    | (with_reducible refine State.keeps.foldl ?_ ?_; rotate_left; (intro t a; have h : t.keeps t := State.keeps_refl; try dsimp only))
    | split

theorem State.keeps.setLnkState {l : Nat} {v_ : Nat} (h : s.keeps t) : s.keeps (t.setLnkState l v_) := by
  unfold State.setLnkState
  try dsimp only
  repeat'
    first
    | with_reducible exact h | with_reducible assumption | with_reducible apply State.keeps.updBar

theorem State.keeps.raiseLink {l : Nat} {code : Nat} {off : Nat} (h : s.keeps t) : s.keeps (t.raiseLink l code off) := by
  unfold State.raiseLink
  try dsimp only
  repeat'
    first
    | with_reducible exact h | with_reducible assumption | with_reducible apply State.keeps.raiseFrom

theorem State.keeps.linkPump {k : Nat} : ∀ {t : State} {l : Nat} , s.keeps t → s.keeps (t.linkPump l k) := by
  induction k with
  | zero => exact fun h => by unfold State.linkPump; exact h
  | succ k ih =>
    intro t l  h
    unfold State.linkPump
    try dsimp only
    repeat'
      first
      | with_reducible exact h | with_reducible assumption | with_reducible apply ih
      | with_reducible apply State.keeps.emit | with_reducible apply State.keeps.setLink | split

theorem State.keeps.linkPumpAll {l : Nat} (h : s.keeps t) : s.keeps (t.linkPumpAll l) := h.linkPump

theorem State.keeps.linkSend {l : Nat} {f : Flit} (h : s.keeps t) : s.keeps (t.linkSend l f) := by
  unfold State.linkSend
  try dsimp only
  repeat'
    first
    | with_reducible exact h | with_reducible assumption | with_reducible apply State.keeps.linkPumpAll
    | with_reducible apply State.keeps.updLink | split

theorem State.keeps.linkRaw {l : Nat} {h_ : BitVec 224} (h : s.keeps t) : s.keeps (t.linkRaw l h_) := by
  unfold State.linkRaw
  try dsimp only
  repeat'
    first
    | with_reducible exact h | with_reducible assumption | with_reducible apply State.keeps.emit

theorem State.keeps.noRoute {dst : Nat} (h : s.keeps t) : s.keeps (t.noRoute dst) := by
  unfold State.noRoute
  try dsimp only
  repeat'
    first
    | with_reducible exact h | with_reducible assumption | with_reducible apply State.keeps.raiseFrom
    | with_reducible apply State.keeps.report | with_reducible apply State.keeps.seeBar

theorem State.keeps.linkOut {l : Nat} {f : Flit} {d0 : Nat} (h : s.keeps t) : s.keeps (t.linkOut l f d0) := by
  unfold State.linkOut
  try dsimp only
  repeat'
    first
    | with_reducible exact h | with_reducible assumption | with_reducible apply State.keeps.linkSend

theorem State.keeps.linkRoute {f : Flit} (h : s.keeps t) : s.keeps (t.linkRoute f) := by
  unfold State.linkRoute
  try dsimp only
  repeat'
    first
    | with_reducible exact h | with_reducible assumption | with_reducible apply State.keeps.linkOut
    | with_reducible apply State.keeps.noRoute | split

theorem State.keeps.linkInject {ftype : Nat} {cls : Nat} {nf : Bool} {dst : Nat} {kind : Nat} {payload : List Row}
    (h : s.keeps t) : s.keeps (t.linkInject ftype cls nf dst kind payload) := by
  unfold State.linkInject
  try dsimp only
  repeat'
    first
    | with_reducible exact h | with_reducible assumption | with_reducible apply State.keeps.linkRoute

theorem State.keeps.sendMnt {l : Nat} {op : Nat} {lane : Nat} {pass : Bool} {m : BitVec 32} (h : s.keeps t) :
    s.keeps (t.sendMnt l op lane pass m) := by
  unfold State.sendMnt
  try dsimp only
  repeat'
    first
    | with_reducible exact h | with_reducible assumption | with_reducible apply State.keeps.linkRaw

theorem State.keeps.sendSys {l : Nat} {cmd : Nat} {bit : Bool} {subject : Nat} {count : Nat} (h : s.keeps t) :
    s.keeps (t.sendSys l cmd bit subject count) := by
  unfold State.sendSys
  try dsimp only
  repeat'
    first
    | with_reducible exact h | with_reducible assumption | with_reducible apply State.keeps.linkOut

theorem State.keeps.sysDown {cmd : Nat} {bit : Bool} {subject : Nat} (h : s.keeps t) : s.keeps (t.sysDown cmd bit
    subject) := by
  unfold State.sysDown
  try dsimp only
  repeat'
    first
    | with_reducible exact h | with_reducible assumption | with_reducible apply State.keeps.sendSys
    | (with_reducible refine State.keeps.foldl ?_ ?_; rotate_left; (intro t a; have h : t.keeps t := State.keeps_refl; try dsimp only))

theorem State.keeps.sysUp {cmd : Nat} {bit : Bool} {subject : Nat} {count : Nat} (h : s.keeps t) : s.keeps (t.sysUp
    cmd bit subject count) := by
  unfold State.sysUp
  try dsimp only
  repeat'
    first
    | with_reducible exact h | with_reducible assumption | with_reducible apply State.keeps.sendSys | split

theorem State.keeps.switchDeputy (h : s.keeps t) : s.keeps (t.switchDeputy) := by
  unfold State.switchDeputy
  try dsimp only
  repeat'
    first
    | with_reducible exact h | with_reducible assumption | with_reducible apply State.keeps.raiseFrom
    | with_reducible apply State.keeps.seeBar | split

theorem State.keeps.linkDown {l : Nat} (h : s.keeps t) : s.keeps (t.linkDown l) := by
  unfold State.linkDown
  try dsimp only
  repeat'
    first
    | with_reducible exact h | with_reducible assumption | with_reducible apply State.keeps.raiseLink
    | with_reducible apply State.keeps.report | with_reducible apply State.keeps.seeBar
    | with_reducible apply State.keeps.setLnkState | with_reducible apply State.keeps.updLink | split
    | with_reducible refine State.keeps.rest ?_

theorem State.keeps.linkUp {l : Nat} (h : s.keeps t) : s.keeps (t.linkUp l) := by
  unfold State.linkUp
  try dsimp only
  repeat'
    first
    | with_reducible exact h | with_reducible assumption | with_reducible apply State.keeps.linkPumpAll
    | with_reducible apply State.keeps.setLnkState | split

theorem State.keeps.raiseFences (h : s.keeps t) : s.keeps (t.raiseFences) := by
  unfold State.raiseFences
  try dsimp only
  repeat'
    first
    | with_reducible exact h | with_reducible assumption | with_reducible apply State.keeps.linkUp
    | (with_reducible refine State.keeps.foldl ?_ ?_; rotate_left; (intro t a; have h : t.keeps t := State.keeps_refl; try dsimp only))
    | (with_reducible refine State.keeps.foldFst ?_ ?_; rotate_left; (intro p a; have h : p.1.keeps p.1 := State.keeps_refl; try dsimp only))
    | split

theorem State.keeps.takeRoster (h : s.keeps t) : s.keeps (t.takeRoster) := by
  unfold State.takeRoster
  try dsimp only
  repeat'
    first
    | with_reducible exact h | with_reducible assumption | with_reducible apply State.keeps.raiseFences
    | with_reducible apply State.keeps.raiseFrom | with_reducible apply State.keeps.setBar
    | (with_reducible refine State.keeps.foldl ?_ ?_; rotate_left; (intro t a; have h : t.keeps t := State.keeps_refl; try dsimp only))
    | (with_reducible refine State.keeps.foldFst ?_ ?_; rotate_left; (intro p a; have h : p.1.keeps p.1 := State.keeps_refl; try dsimp only))
    | split | with_reducible refine State.keeps.rest ?_

theorem State.keeps.setRing {q : Nat} {r : Ring} (h : s.keeps t) : s.keeps (t.setRing q r) := by
  unfold State.setRing
  try dsimp only
  repeat'
    first
    | with_reducible exact h | with_reducible assumption | split | with_reducible exact State.keeps.rest h

theorem State.keeps.updRing {q : Nat} {f : Ring → Ring} (h : s.keeps t) : s.keeps (t.updRing q f) := by
  unfold State.updRing
  try dsimp only
  repeat'
    first
    | with_reducible exact h | with_reducible assumption | with_reducible apply State.keeps.setRing

theorem State.keeps.setRingState {q : Nat} {v_ : Nat} (h : s.keeps t) : s.keeps (t.setRingState q v_) := by
  unfold State.setRingState
  try dsimp only
  repeat'
    first
    | with_reducible exact h | with_reducible assumption | with_reducible apply State.keeps.updBar

theorem State.keeps.ringStop {q : Nat} {code : Nat} (h : s.keeps t) : s.keeps (t.ringStop q code) := by
  unfold State.ringStop
  try dsimp only
  repeat'
    first
    | with_reducible exact h | with_reducible assumption | with_reducible apply State.keeps.seeBar
    | with_reducible apply State.keeps.updBar

theorem State.keeps.finish {q : Nat} {index : Nat} {status : Nat} {nf : Bool} {result : Nat} (h : s.keeps t) :
    s.keeps (t.finish q index status nf result) := by
  unfold State.finish
  try dsimp only
  repeat'
    first
    | with_reducible exact h | with_reducible assumption | with_reducible apply State.keeps.updRing

theorem State.keeps.finishAll {qs : List Nat} {f : Taken → Option (Nat × Nat)} (h : s.keeps t) : s.keeps
    (t.finishAll qs f) := by
  unfold State.finishAll
  try dsimp only
  repeat'
    first
    | with_reducible exact h | with_reducible assumption | with_reducible apply State.keeps.finish
    | (with_reducible refine State.keeps.foldl ?_ ?_; rotate_left; (intro t a; have h : t.keeps t := State.keeps_refl; try dsimp only))
    | split

theorem State.keeps.setStatus {lo : Nat} {len : Nat} {v_ : Nat} (h : s.keeps t) : s.keeps (t.setStatus lo len v_) := by
  unfold State.setStatus
  try dsimp only
  repeat'
    first
    | with_reducible exact h | with_reducible assumption | with_reducible apply State.keeps.updBar

theorem State.keeps.note {sub : Nat} {items : List Nat} (h : s.keeps t) : s.keeps (t.note sub items) := by
  unfold State.note
  try dsimp only
  repeat'
    first
    | with_reducible exact h | with_reducible assumption | split | with_reducible refine State.keeps.rest ?_

theorem State.keeps.raiseSeq {code : Nat} {detail : Nat} (h : s.keeps t) : s.keeps (t.raiseSeq code detail) := by
  unfold State.raiseSeq
  try dsimp only
  repeat'
    first
    | with_reducible exact h | with_reducible assumption | with_reducible apply State.keeps.raiseFrom
    | with_reducible apply State.keeps.ringWrite
    | (with_reducible refine State.keeps.foldl ?_ ?_; rotate_left; (intro t a; have h : t.keeps t := State.keeps_refl; try dsimp only))

theorem State.keeps.schedCode {r : Nat} {code : Nat} (h : s.keeps t) : s.keeps (t.schedCode r code) := by
  unfold State.schedCode
  try dsimp only
  repeat'
    first
    | with_reducible exact h | with_reducible assumption | with_reducible apply State.keeps.setP1

theorem State.keeps.schedFault {r : Nat} {code : Nat} (h : s.keeps t) : s.keeps (t.schedFault r code) := by
  unfold State.schedFault
  try dsimp only
  repeat'
    first
    | with_reducible exact h | with_reducible assumption | with_reducible apply State.keeps.raise
    | with_reducible apply State.keeps.report | with_reducible apply State.keeps.schedCode

theorem State.keeps.forRegions {f : State → Nat → State} (h : s.keeps t) (hf : ∀ (v : State) (r : Nat), v.keeps (f v r)) :
    s.keeps (t.forRegions f) := .foldl h hf

theorem State.keeps.setPhase {p : Nat} (h : s.keeps t) : s.keeps (t.setPhase p) := by
  unfold State.setPhase
  try dsimp only
  repeat'
    first
    | with_reducible exact h | with_reducible assumption | with_reducible apply State.keeps.setStatus
    | with_reducible apply State.keeps.updP1
    | (with_reducible refine State.keeps.forRegions ?_ ?_; rotate_left; (intro t r; have h : t.keeps t := State.keeps_refl; try dsimp only))
    | split | with_reducible exact State.keeps.rest h

theorem State.keeps.setAbortState {k : Nat} (h : s.keeps t) : s.keeps (t.setAbortState k) := by
  unfold State.setAbortState
  try dsimp only
  repeat'
    first
    | with_reducible exact h | with_reducible assumption | with_reducible apply State.keeps.updP1
    | (with_reducible refine State.keeps.forRegions ?_ ?_; rotate_left; (intro t r; have h : t.keeps t := State.keeps_refl; try dsimp only))
    | split | with_reducible exact State.keeps.rest h

theorem State.keeps.resumeRings (h : s.keeps t) : s.keeps (t.resumeRings) := by
  unfold State.resumeRings
  try dsimp only
  repeat'
    first
    | with_reducible exact h | with_reducible assumption | with_reducible apply State.keeps.setRingState
    | (with_reducible refine State.keeps.foldl ?_ ?_; rotate_left; (intro t a; have h : t.keeps t := State.keeps_refl; try dsimp only))
    | split

theorem State.keeps.jobStop {code : Nat} (h : s.keeps t) : s.keeps (t.jobStop code) := by
  unfold State.jobStop
  have k : s.keeps (if t.seq.phase = 7 then t.finishAll t.copyRings fun _ => some (0x707, 0) else t) := by
    split
    · exact .finishAll h
    · exact h
  refine .setPhase (.setAbortState (.resumeRings (.rest (.raiseFrom ?_))))
  split
  · exact .forRegions (.setStatus (.setStatus (.setStatus (.finishAll k)))) fun _ _ => .schedCode State.keeps_refl
  · exact .setStatus (.setStatus (.setStatus (.finishAll k)))

theorem State.keeps.epochChange {u : Nat} {column : Nat} {spare : Option (Nat × Nat)} (h : s.keeps t) : s.keeps
    (t.epochChange u column spare) := by
  unfold State.epochChange
  try dsimp only
  repeat'
    first
    | with_reducible exact h | with_reducible assumption | with_reducible apply State.keeps.updRegion | split
    | with_reducible refine State.keeps.rest ?_

theorem State.keeps.replanFor {r : Nat} (h : s.keeps t) : s.keeps (t.replanFor r) := by
  unfold State.replanFor
  try dsimp only
  repeat'
    first
    | with_reducible exact h | with_reducible assumption | with_reducible apply State.keeps.updP1 | split
    | with_reducible exact State.keeps.rest h

theorem State.keeps.structural {code : Nat} (h : s.keeps t) : s.keeps (t.structural code) := by
  unfold State.structural
  try dsimp only
  repeat'
    first
    | with_reducible exact h | with_reducible assumption | with_reducible apply State.keeps.report | split

theorem State.keeps.gateClock {c : Nat} (h : s.keeps t) : s.keeps (t.gateClock c) := by
  unfold State.gateClock
  try dsimp only
  repeat'
    first
    | with_reducible exact h | with_reducible assumption | with_reducible apply State.keeps.updCluster | split
    | with_reducible refine State.keeps.rest ?_

theorem State.keeps.darkEvent {c : Nat} {planned : Bool} (h : s.keeps t) : s.keeps (t.darkEvent c planned) := by
  unfold State.darkEvent
  try dsimp only
  repeat'
    first
    | with_reducible exact h | with_reducible assumption | with_reducible apply State.keeps.gateClock
    | with_reducible apply State.keeps.raise | with_reducible apply State.keeps.replanFor
    | with_reducible apply State.keeps.seeP1 | with_reducible apply State.keeps.structural
    | with_reducible apply State.keeps.updBar | split

theorem State.keeps.rowExhausted {u : Nat} (h : s.keeps t) : s.keeps (t.rowExhausted u) := by
  unfold State.rowExhausted
  try dsimp only
  repeat'
    first
    | with_reducible exact h | with_reducible assumption | with_reducible apply State.keeps.darkEvent
    | with_reducible apply State.keeps.raise | with_reducible apply State.keeps.replanFor
    | with_reducible apply State.keeps.seeP1 | with_reducible apply State.keeps.structural | split

theorem State.keeps.vacate {u : Nat} {code : Nat} (h : s.keeps t) : s.keeps (t.vacate u code) := by
  unfold State.vacate
  try dsimp only
  repeat'
    first
    | with_reducible exact h | with_reducible assumption | with_reducible apply State.keeps.dropRequests
    | with_reducible apply State.keeps.setUnitReset | split

theorem State.keeps.startFill {u : Nat} (h : s.keeps t) : s.keeps (t.startFill u) := by
  unfold State.startFill
  try dsimp only
  repeat'
    first
    | with_reducible exact h | with_reducible assumption | with_reducible apply State.keeps.updP1
    | with_reducible apply State.keeps.updSvc | with_reducible apply State.keeps.vacate | split
    | with_reducible refine State.keeps.rest ?_

theorem State.keeps.endFill {r : Nat} {rowMap : Nat} (h : s.keeps t) : s.keeps (t.endFill r rowMap) := by
  unfold State.endFill
  try dsimp only
  repeat'
    first
    | with_reducible exact h | with_reducible assumption | with_reducible apply State.keeps.updP1
    | with_reducible apply State.keeps.updSvc

theorem State.keeps.spareInService {u : Nat} (h : s.keeps t) : s.keeps (t.spareInService u) := by
  unfold State.spareInService
  try dsimp only
  repeat'
    first
    | with_reducible exact h | with_reducible assumption | with_reducible apply State.keeps.endFill
    | with_reducible apply State.keeps.raise | with_reducible apply State.keeps.scriptLoad
    | with_reducible apply State.keeps.updP1

theorem State.keeps.applyWait {w : EpochWait} (h : s.keeps t) : s.keeps (t.applyWait w) := by
  unfold State.applyWait
  try dsimp only
  repeat'
    first
    | with_reducible exact h | with_reducible assumption | with_reducible apply State.keeps.rowExhausted
    | with_reducible apply State.keeps.setP1 | with_reducible apply State.keeps.spareInService
    | with_reducible apply State.keeps.startFill | with_reducible apply State.keeps.vacate | split

theorem State.keeps.failFill {r : Nat} {rowMap : Nat} (h : s.keeps t) : s.keeps (t.failFill r rowMap) := by
  unfold State.failFill
  try dsimp only
  repeat'
    first
    | with_reducible exact h | with_reducible assumption | with_reducible apply State.keeps.endFill
    | with_reducible apply State.keeps.epochChange | with_reducible apply State.keeps.raise
    | with_reducible apply State.keeps.seeP1 | split

theorem State.keeps.retireUnit {u : Nat} {cause : Nat} (h : s.keeps t) : s.keeps (t.retireUnit u cause) := by
  unfold State.retireUnit
  try dsimp only
  repeat'
    first
    | with_reducible exact h | with_reducible assumption | with_reducible apply State.keeps.epochChange
    | with_reducible apply State.keeps.failFill | with_reducible apply State.keeps.note | split

theorem State.keeps.darkenUnit {u : Nat} (h : s.keeps t) : s.keeps (t.darkenUnit u) := by
  unfold State.darkenUnit
  try dsimp only
  repeat'
    first
    | with_reducible exact h | with_reducible assumption | with_reducible apply State.keeps.epochChange
    | with_reducible apply State.keeps.updRegion | with_reducible apply State.keeps.vacate | split
    | with_reducible refine State.keeps.rest ?_

theorem State.keeps.darkenCluster {c : Nat} {planned : Bool} (h : s.keeps t) : s.keeps (t.darkenCluster c planned)
    := by
  unfold State.darkenCluster
  try dsimp only
  repeat'
    first
    | with_reducible exact h | with_reducible assumption | with_reducible apply State.keeps.darkEvent
    | with_reducible apply State.keeps.darkenUnit | with_reducible apply State.keeps.endFill
    | (with_reducible refine State.keeps.foldl ?_ ?_; rotate_left; (intro t a; have h : t.keeps t := State.keeps_refl; try dsimp only))
    | (with_reducible refine State.keeps.foldFst ?_ ?_; rotate_left; (intro p a; have h : p.1.keeps p.1 := State.keeps_refl; try dsimp only))
    | split

theorem State.keeps.retireCluster {c : Nat} (h : s.keeps t) : s.keeps (t.retireCluster c) := by
  unfold State.retireCluster
  try dsimp only
  repeat'
    first
    | with_reducible exact h | with_reducible assumption | with_reducible apply State.keeps.epochChange
    | (with_reducible refine State.keeps.foldl ?_ ?_; rotate_left; (intro t a; have h : t.keeps t := State.keeps_refl; try dsimp only))
    | (with_reducible refine State.keeps.foldFst ?_ ?_; rotate_left; (intro p a; have h : p.1.keeps p.1 := State.keeps_refl; try dsimp only))
    | split

theorem State.keeps.takePlace_fst {r : Nat} {g : Nat} {n : Nat} (h : s.keeps t) : s.keeps (t.takePlace r g n).1 :=
    by
  unfold State.takePlace
  try dsimp only
  repeat'
    first
    | with_reducible exact h | with_reducible assumption
    | with_reducible refine State.keeps.wellRest ?_ (fun _ => rfl)
    | with_reducible refine State.keeps.updWell ?_ (fun _ _ => rfl)
    | (with_reducible refine State.keeps.wellRest ?_ ?_; rotate_left; (intro x; repeat' split; all_goals rfl))
    | split | with_reducible refine State.keeps.rest ?_

theorem State.keeps.takePlace_eq {r : Nat} {g : Nat} {n : Nat} {o : (Nat × Nat)} (h : s.keeps t) (e : t.takePlace r
    g n = (v, o)) : s.keeps v :=
  State.keeps.of_fst h.takePlace_fst e

theorem State.keeps.moveAreas_fst {r : Nat} (h : s.keeps t) : s.keeps (t.moveAreas r).1 := by
  unfold State.moveAreas
  try dsimp only
  repeat'
    first
    | with_reducible exact h | with_reducible assumption | with_reducible apply State.keeps.takePlace_fst
    | (with_reducible refine State.keeps.takePlace_eq ?_ ‹_›)
    | (with_reducible refine State.keeps.foldl ?_ ?_; rotate_left; (intro t a; have h : t.keeps t := State.keeps_refl; try dsimp only))
    | (with_reducible refine State.keeps.foldFst ?_ ?_; rotate_left; (intro p a; have h : p.1.keeps p.1 := State.keeps_refl; try dsimp only))
    | split | with_reducible refine State.keeps.rest ?_

theorem State.keeps.moveAreas_eq {r : Nat} {o : List (Nat × Nat × Nat × Nat × (Nat × Nat))} (h : s.keeps t) (e :
    t.moveAreas r = (v, o)) : s.keeps v :=
  State.keeps.of_fst h.moveAreas_fst e

theorem State.keeps.loseWell {r : Nat} (h : s.keeps t) : s.keeps (t.loseWell r) := by
  have k : s.keeps (t.updWell r fun x => { x with rows := [], running := [], stalled := [] }) :=
    .updWell h fun _ _ => rfl
  unfold State.loseWell
  dsimp only
  split
  · exact .rest (.moveAreas_fst k)
  · exact k

theorem State.keeps.withdraw {r : Nat} {loses planned : Bool} (h : s.keeps t) : s.keeps (t.withdraw r loses planned) := by
  unfold State.withdraw
  split
  · exact h
  · extract_lets s1 s2 s3 s4 s4a s5
    have k5 : s.keeps s5 := by
      have k4 : s.keeps s4a :=
        .foldl (.updRegion (.setNodes (.updSvc (.raise (.updP1 h))))) fun _ _ => .vacate State.keeps_refl
      show s.keeps (if _ then _ else _)
      split
      · exact .loseWell k4
      · exact k4
    clear_value s5
    split
    · repeat'
        first
        | with_reducible exact .rest k5 | with_reducible exact .jobStop (.rest k5) | with_reducible exact .structural (.rest k5) | split
    · exact k5

theorem State.keeps.testWord {t_ : TestTarget} {pass : Bool} (h : s.keeps t) : s.keeps (t.testWord t_ pass) := by
  unfold State.testWord
  try dsimp only
  repeat'
    first
    | with_reducible exact h | with_reducible assumption | with_reducible apply State.keeps.setP1

theorem State.keeps.recordTest {t_ : TestTarget} {pass : Bool} (h : s.keeps t) : s.keeps (t.recordTest t_ pass) :=
    by
  unfold State.recordTest
  try dsimp only
  repeat'
    first
    | with_reducible exact h | with_reducible assumption | with_reducible apply State.keeps.note
    | with_reducible apply State.keeps.raise | with_reducible apply State.keeps.seeP1
    | with_reducible apply State.keeps.testWord | with_reducible apply State.keeps.updP1 | split
    | with_reducible refine State.keeps.rest ?_

theorem State.keeps.meshLinkOut {r : Nat} {p : Nat} (h : s.keeps t) : s.keeps (t.meshLinkOut r p) := by
  unfold State.meshLinkOut
  try dsimp only
  repeat'
    first
    | with_reducible exact h | with_reducible assumption | with_reducible apply State.keeps.seeBar
    | with_reducible apply State.keeps.updRegion

theorem State.keeps.steer {r : Nat} {p : Nat} {g : Nat} {n : Nat} (h : s.keeps t) : s.keeps (t.steer r p g n) := by
  unfold State.steer
  try dsimp only
  repeat'
    first
    | with_reducible exact h | with_reducible assumption | with_reducible apply State.keeps.meshLinkOut
    | with_reducible apply State.keeps.updBar | with_reducible apply State.keeps.updRegion | split
    | with_reducible refine State.keeps.rest ?_

theorem State.keeps.steerGroup {r : Nat} {p : Nat} {g : Nat} {n : Nat} (h : s.keeps t) : s.keeps (t.steerGroup r p g
    n) := by
  unfold State.steerGroup
  try dsimp only
  repeat'
    first
    | with_reducible exact h | with_reducible assumption | with_reducible apply State.keeps.note
    | with_reducible apply State.keeps.steer | split

theorem State.keeps.lastingPort {r : Nat} {port : Nat} {wires : List (Nat × Nat)} (h : s.keeps t) : s.keeps
    (t.lastingPort r port wires) := by
  unfold State.lastingPort
  try dsimp only
  repeat'
    first
    | with_reducible exact h | with_reducible assumption | with_reducible apply State.keeps.darkenCluster
    | with_reducible apply State.keeps.meshLinkOut | with_reducible apply State.keeps.steerGroup
    | with_reducible apply State.keeps.withdraw
    | (with_reducible refine State.keeps.foldl ?_ ?_; rotate_left; (intro t a; have h : t.keeps t := State.keeps_refl; try dsimp only))
    | (with_reducible refine State.keeps.foldFst ?_ ?_; rotate_left; (intro p a; have h : p.1.keeps p.1 := State.keeps_refl; try dsimp only))
    | split

theorem State.keeps.lasting {t_ : TestTarget} {wires : List (Nat × Nat)} (h : s.keeps t) : s.keeps (t.lasting t_
    wires) := by
  unfold State.lasting
  try dsimp only
  repeat'
    first
    | with_reducible exact h | with_reducible assumption | with_reducible apply State.keeps.lastingPort
    | with_reducible apply State.keeps.retireUnit | split

theorem State.keeps.reDivide {c : Nat} (h : s.keeps t) : s.keeps (t.reDivide c) := by
  unfold State.reDivide
  try dsimp only
  repeat'
    first
    | with_reducible exact h | with_reducible assumption | with_reducible apply State.keeps.updCluster

theorem State.keeps.rebase {c : Nat} {f : Cluster → Cluster} (h : s.keeps t) : s.keeps (t.rebase c f) := by
  unfold State.rebase
  try dsimp only
  repeat'
    first
    | with_reducible exact h | with_reducible assumption | with_reducible apply State.keeps.updCluster | split
    | with_reducible refine State.keeps.rest ?_

theorem State.keeps.reDivideAll (h : s.keeps t) : s.keeps (t.reDivideAll) := by
  unfold State.reDivideAll
  try dsimp only
  repeat'
    first
    | with_reducible exact h | with_reducible assumption | with_reducible apply State.keeps.reDivide
    | (with_reducible refine State.keeps.foldl ?_ ?_; rotate_left; (intro t a; have h : t.keeps t := State.keeps_refl; try dsimp only))

theorem State.keeps.dividerChange {c : Nat} (h : s.keeps t) : s.keeps (t.dividerChange c) := by
  unfold State.dividerChange
  try dsimp only
  repeat'
    first
    | with_reducible exact h | with_reducible assumption | with_reducible apply State.keeps.rebase
    | with_reducible apply State.keeps.updBar | split | with_reducible refine State.keeps.rest ?_

theorem State.keeps.planCluster {c : Nat} {div : Nat} {code : Nat} (h : s.keeps t) : s.keeps (t.planCluster c div
    code) := by
  unfold State.planCluster
  try dsimp only
  repeat'
    first
    | with_reducible exact h | with_reducible assumption | with_reducible apply State.keeps.reDivide
    | with_reducible apply State.keeps.updBar | with_reducible apply State.keeps.updCluster

theorem State.keeps.powerCluster {c : Nat} {div : Nat} {code : Nat} {phases : BitVec 8} (h : s.keeps t) : s.keeps
    (t.powerCluster c div code phases) := by
  unfold State.powerCluster
  try dsimp only
  repeat'
    first
    | with_reducible exact h | with_reducible assumption | with_reducible apply State.keeps.rebase
    | with_reducible apply State.keeps.setBar | with_reducible apply State.keeps.updCluster | split
    | with_reducible refine State.keeps.rest ?_

theorem State.keeps.applyPlan (h : s.keeps t) : s.keeps t.applyPlan := by
  unfold State.applyPlan
  split
  · exact h
  refine .setBar (.rest (.foldl (.foldl h fun v a => ?_) fun v c => ?_))
  · dsimp only
    split
    · exact State.keeps_refl
    · exact .planCluster State.keeps_refl
  · split
    · exact .retireCluster State.keeps_refl
    · exact State.keeps_refl

theorem State.keeps.recomputeRoutes (h : s.keeps t) : s.keeps (t.recomputeRoutes) := by
  unfold State.recomputeRoutes
  try dsimp only
  repeat'
    first
    | with_reducible exact h | with_reducible assumption | with_reducible apply State.keeps.updBar
    | with_reducible apply State.keeps.updRegion
    | (with_reducible refine State.keeps.foldl ?_ ?_; rotate_left; (intro t a; have h : t.keeps t := State.keeps_refl; try dsimp only))
    | split

theorem State.keeps.startScrub {r : Nat} {c : Nat} (h : s.keeps t) : s.keeps (t.startScrub r c) := by
  unfold State.startScrub
  try dsimp only
  repeat'
    first
    | with_reducible exact h | with_reducible assumption | with_reducible apply State.keeps.seeP1

theorem State.keeps.lastErr {r : Nat} {b : Nat} {uncorr : Bool} (h : s.keeps t) : s.keeps (t.lastErr r b uncorr) := by
  unfold State.lastErr
  try dsimp only
  repeat'
    first
    | with_reducible exact h | with_reducible assumption | with_reducible apply State.keeps.setP1

theorem State.keeps.wellFixed {r : Nat} {b : Nat} (h : s.keeps t) : s.keeps (t.wellFixed r b) := by
  unfold State.wellFixed
  try dsimp only
  repeat'
    first
    | with_reducible exact h | with_reducible assumption | with_reducible apply State.keeps.lastErr
    | with_reducible apply State.keeps.raise | with_reducible apply State.keeps.seeP1
    | with_reducible apply State.keeps.updP1 | with_reducible refine State.keeps.wellRest ?_ (fun _ => rfl)

theorem State.keeps.lastingBurst {r : Nat} {b : Nat} (h : s.keeps t) : s.keeps (t.lastingBurst r b) := by
  unfold State.lastingBurst
  try dsimp only
  repeat'
    first
    | with_reducible exact h | with_reducible assumption | with_reducible apply State.keeps.note
    | with_reducible apply State.keeps.raise | with_reducible apply State.keeps.seeP1
    | with_reducible apply State.keeps.startScrub | with_reducible apply State.keeps.testWord
    | with_reducible apply State.keeps.updP1 | split

theorem State.keeps.wellCorrected {r : Nat} {b : Nat} {bit : Nat} (h : s.keeps t) : s.keeps (t.wellCorrected r b
    bit) := by
  unfold State.wellCorrected
  try dsimp only
  repeat'
    first
    | with_reducible exact h | with_reducible assumption | with_reducible apply State.keeps.lastingBurst
    | with_reducible apply State.keeps.startScrub | with_reducible apply State.keeps.wellFixed
    | with_reducible refine State.keeps.wellRest ?_ (fun _ => rfl)
    | with_reducible refine State.keeps.updWell ?_ (fun _ _ => rfl)
    | (with_reducible refine State.keeps.wellRest ?_ ?_; rotate_left; (intro x; repeat' split; all_goals rfl))
    | split | with_reducible refine State.keeps.rest ?_

theorem State.keeps.wellLost {r : Nat} {b : Nat} (h : s.keeps t) : s.keeps (t.wellLost r b) := by
  unfold State.wellLost
  try dsimp only
  repeat'
    first
    | with_reducible exact h | with_reducible assumption | with_reducible apply State.keeps.lastErr
    | with_reducible apply State.keeps.raise | with_reducible apply State.keeps.seeP1
    | with_reducible apply State.keeps.updP1

theorem State.keeps.wellFailed {r : Nat} {b : Nat} (h : s.keeps t) : s.keeps (t.wellFailed r b) := by
  unfold State.wellFailed
  try dsimp only
  repeat'
    first
    | with_reducible exact h | with_reducible assumption | with_reducible apply State.keeps.report
    | with_reducible apply State.keeps.startScrub | with_reducible apply State.keeps.wellLost

theorem State.keeps.wellVerified {r : Nat} {b : Nat} {clean : Nat → Bool} (h : s.keeps t) : s.keeps (t.wellVerified
    r b clean) := by
  unfold State.wellVerified
  try dsimp only
  repeat'
    first
    | with_reducible exact h | with_reducible assumption | with_reducible apply State.keeps.lastingBurst
    | with_reducible apply State.keeps.recordTest | with_reducible refine State.keeps.wellRest ?_ (fun _ => rfl)
    | with_reducible refine State.keeps.updWell ?_ (fun _ _ => rfl)
    | (with_reducible refine State.keeps.wellRest ?_ ?_; rotate_left; (intro x; repeat' split; all_goals rfl))
    | split | with_reducible refine State.keeps.rest ?_

theorem State.keeps.wellWord_fst {r : Nat} {b : Nat} {k : Nat} {e : Ecc} (h : s.keeps t) : s.keeps (t.wellWord r b k
    e).1 := by
  unfold State.wellWord
  try dsimp only
  repeat'
    first
    | with_reducible exact h | with_reducible assumption | with_reducible apply State.keeps.wellCorrected
    | with_reducible apply State.keeps.wellFailed | split

theorem State.keeps.wellWord_eq {r : Nat} {b : Nat} {k : Nat} {e : Ecc} {o : Bool} (h : s.keeps t) (e : t.wellWord r
    b k e = (v, o)) : s.keeps v :=
  State.keeps.of_fst h.wellWord_fst e

theorem State.keeps.wellBurst_fst {r b : Nat} {es : List Ecc} (h : s.keeps t) : s.keeps (t.wellBurst r b es).1 := by
  unfold State.wellBurst
  dsimp only
  exact State.keeps.foldFst (p := (_, true)) (.wellVerified h) fun p a => .wellWord_fst State.keeps_refl

theorem State.keeps.wellBurst_eq {r b : Nat} {es : List Ecc} {o : Bool} (h : s.keeps t) (e : t.wellBurst r b es = (v, o)) : s.keeps v :=
  State.keeps.of_fst h.wellBurst_fst e

theorem State.keeps.wellCheck_fst {r : Nat} {bs : List Nat} {errs : Errs} {i : Nat} (h : s.keeps t) :
    s.keeps (t.wellCheck r bs errs i).1 :=
  State.keeps.foldFst (p := (t, true)) h fun p a => .wellBurst_fst State.keeps_refl

theorem State.keeps.wellCheck_eq {r : Nat} {bs : List Nat} {errs : Errs} {i : Nat} {o : Bool} (h : s.keeps t)
    (e : t.wellCheck r bs errs i = (v, o)) : s.keeps v :=
  State.keeps.of_fst h.wellCheck_fst e

theorem State.keeps.wellRead_fst {r : Nat} {q : Nat} {errs : Errs} {i : Nat} (h : s.keeps t) : s.keeps (t.wellRead r
    q errs i).1 := by
  unfold State.wellRead
  try dsimp only
  repeat'
    first
    | with_reducible exact h | with_reducible assumption | with_reducible apply State.keeps.wellCheck_fst
    | (with_reducible refine State.keeps.wellCheck_eq ?_ ‹_›) | split

theorem State.keeps.wellRead_eq {r : Nat} {q : Nat} {errs : Errs} {i : Nat} {o : Nat × Row} (h : s.keeps t) (e :
    t.wellRead r q errs i = (v, o)) : s.keeps v :=
  State.keeps.of_fst h.wellRead_fst e

theorem State.keeps.wellReads_fst {k : List Nat} : ∀ {t : State} {r : Nat} {errs : Errs} {n0 : Nat}, s.keeps t →
    s.keeps (t.wellReads r errs n0 k).1 := by
  induction k with
  | nil => exact fun h => by unfold State.wellReads; exact h
  | cons x k ih =>
    intro t r errs n0 h
    unfold State.wellReads
    try dsimp only
    repeat'
      first
      | with_reducible exact h | with_reducible assumption | with_reducible apply ih
      | with_reducible apply State.keeps.wellRead_fst | (with_reducible refine State.keeps.wellRead_eq ?_ ‹_›) | split

theorem State.keeps.wellReads_eq {r : Nat} {errs : Errs} {n0 : Nat} {k : List Nat} {o : Nat × List Row} (h : s.keeps
    t) (e : t.wellReads r errs n0 k = (v, o)) : s.keeps v :=
  State.keeps.of_fst h.wellReads_fst e

theorem State.keeps.hostPutNonets {base : Nat} {wide : Bool} {o : Nat} {ns : List Nat} (h : s.keeps t) : s.keeps
    (t.hostPutNonets base wide o ns) := by
  unfold State.hostPutNonets
  try dsimp only
  repeat'
    first
    | with_reducible exact h | with_reducible assumption | with_reducible apply State.keeps.hostWrite
    | (with_reducible refine State.keeps.foldl ?_ ?_; rotate_left; (intro t a; have h : t.keeps t := State.keeps_refl; try dsimp only))
    | split

theorem State.keeps.windowWrite {a : WAddr} {n : Nat} {rows : List Row} (h : s.keeps t) : s.keeps (t.windowWrite a n
    rows) := by
  unfold State.windowWrite
  try dsimp only
  repeat'
    first
    | with_reducible exact h | with_reducible assumption | with_reducible apply State.keeps.hostPutNonets

theorem State.keeps.updSeq {f : Sequencer → Sequencer} (h : s.keeps t) : s.keeps (t.updSeq f) := by
  unfold State.updSeq
  try dsimp only
  repeat'
    first
    | with_reducible exact h | with_reducible assumption | split | with_reducible exact State.keeps.rest h

theorem State.keeps.updSys {f : Sys → Sys} (h : s.keeps t) : s.keeps (t.updSys f) := by
  unfold State.updSys
  try dsimp only
  repeat'
    first
    | with_reducible exact h | with_reducible assumption | split | with_reducible exact State.keeps.rest h

theorem State.keeps.copySchedule (h : s.keeps t) : s.keeps (t.copySchedule) := by
  unfold State.copySchedule
  try dsimp only
  repeat'
    first
    | with_reducible exact h | with_reducible assumption | with_reducible apply State.keeps.setP1
    | (with_reducible refine State.keeps.forRegions ?_ ?_; rotate_left; (intro t r; have h : t.keeps t := State.keeps_refl; try dsimp only))

theorem State.keeps.updateSchedule (h : s.keeps t) : s.keeps (t.updateSchedule) := by
  unfold State.updateSchedule
  try dsimp only
  repeat'
    first
    | with_reducible exact h | with_reducible assumption | with_reducible apply State.keeps.copySchedule
    | with_reducible apply State.keeps.raiseSeq | with_reducible apply State.keeps.updSeq | split

theorem State.keeps.openRegion {r : Nat} (h : s.keeps t) : s.keeps (t.openRegion r) := by
  unfold State.openRegion
  try dsimp only
  repeat'
    first
    | with_reducible exact h | with_reducible assumption | with_reducible apply State.keeps.countWaiters
    | with_reducible apply State.keeps.release | with_reducible apply State.keeps.setP1
    | with_reducible apply State.keeps.setSyncObj | with_reducible apply State.keeps.updP1
    | with_reducible apply State.keeps.updRegion | with_reducible apply State.keeps.updSvc
    | with_reducible refine State.keeps.putCell ?_ | with_reducible refine State.keeps.unitRest ?_ (fun _ => rfl)
    | (with_reducible refine State.keeps.unitRest ?_ ?_; rotate_left; (intro x; repeat' split; all_goals rfl))
    | (with_reducible refine State.keeps.foldl ?_ ?_; rotate_left; (intro t a; have h : t.keeps t := State.keeps_refl; try dsimp only))
    | split

theorem State.keeps.toOpen {fresh : Bool} (h : s.keeps t) : s.keeps (t.toOpen fresh) := by
  unfold State.toOpen
  try dsimp only
  repeat'
    first
    | with_reducible exact h | with_reducible assumption
    | (with_reducible refine State.keeps.forRegions ?_ ?_; rotate_left; (intro t r; have h : t.keeps t := State.keeps_refl; try dsimp only))
    | with_reducible apply State.keeps.recomputeRoutes | with_reducible apply State.keeps.resumeRings
    | with_reducible apply State.keeps.setAbortState | with_reducible apply State.keeps.setPhase
    | with_reducible apply State.keeps.setStatus | with_reducible apply State.keeps.updBar
    | with_reducible apply State.keeps.updSeq | with_reducible apply State.keeps.updSvc
    | with_reducible apply State.keeps.updSys
    | (with_reducible refine State.keeps.foldl ?_ ?_; rotate_left; (intro t a; have h : t.keeps t := State.keeps_refl; try dsimp only))
    | split | with_reducible refine State.keeps.rest ?_

theorem State.keeps.gatherVerdict (h : s.keeps t) : s.keeps (t.gatherVerdict) := by
  unfold State.gatherVerdict
  try dsimp only
  repeat'
    first
    | with_reducible exact h | with_reducible assumption | with_reducible apply State.keeps.raiseSeq
    | with_reducible apply State.keeps.report | with_reducible apply State.keeps.schedCode
    | with_reducible apply State.keeps.send | with_reducible apply State.keeps.sysDown
    | with_reducible apply State.keeps.sysUp | with_reducible apply State.keeps.updSys
    | (with_reducible refine State.keeps.forRegions ?_ ?_; rotate_left; (intro t r; have h : t.keeps t := State.keeps_refl; try dsimp only))
    | split

theorem State.keeps.readRows_fst {k : List Nat} : ∀ {t : State} {u : Nat} {errs : Errs} {n0 : Nat}, s.keeps t →
    s.keeps (t.readRows u errs n0 k).1 := by
  induction k with
  | nil => exact fun h => by unfold State.readRows; exact h
  | cons x k ih =>
    intro t u errs n0 h
    unfold State.readRows
    try dsimp only
    repeat'
      first
      | with_reducible exact h | with_reducible assumption | with_reducible apply ih
      | with_reducible apply State.keeps.access_fst | (with_reducible refine State.keeps.access_eq ?_ ‹_›) | split

theorem State.keeps.readRows_eq {u : Nat} {errs : Errs} {n0 : Nat} {k : List Nat} {o : Option (List Row × Bool)} (h
    : s.keeps t) (e : t.readRows u errs n0 k = (v, o)) : s.keeps v :=
  State.keeps.of_fst h.readRows_fst e

theorem State.keeps.saveRows_fst {errs : Errs} {i : Nat} {u : Nat} {q : Nat} {n : Nat} {r : Nat} {g : Nat} (h :
    s.keeps t) : s.keeps (t.saveRows errs i u q n r g).1 := by
  unfold State.saveRows
  try dsimp only
  repeat'
    first
    | with_reducible exact h | with_reducible assumption | with_reducible apply State.keeps.readRows_fst
    | (with_reducible refine State.keeps.readRows_eq ?_ ‹_›) | with_reducible apply State.keeps.writeWell | split

theorem State.keeps.saveRows_eq {errs : Errs} {i : Nat} {u : Nat} {q : Nat} {n : Nat} {r : Nat} {g : Nat} {o : Bool}
    (h : s.keeps t) (e : t.saveRows errs i u q n r g = (v, o)) : s.keeps v :=
  State.keeps.of_fst h.saveRows_fst e

theorem State.keeps.saveMasters_fst {k : List (Nat × Nat × Nat × Nat)} : ∀ {t : State} {errs : Errs} {n0 : Nat},
    s.keeps t → s.keeps (t.saveMasters errs n0 k).1 := by
  induction k with
  | nil => exact fun h => by unfold State.saveMasters; exact h
  | cons x k ih =>
    intro t errs n0 h
    unfold State.saveMasters
    try dsimp only
    repeat'
      first
      | with_reducible exact h | with_reducible assumption | with_reducible apply ih
      | with_reducible apply State.keeps.saveRows_fst | (with_reducible refine State.keeps.saveRows_eq ?_ ‹_›) | split

theorem State.keeps.saveMasters_eq {errs : Errs} {n0 : Nat} {k : List (Nat × Nat × Nat × Nat)} {o : List (Nat ×
    Nat)} (h : s.keeps t) (e : t.saveMasters errs n0 k = (v, o)) : s.keeps v :=
  State.keeps.of_fst h.saveMasters_fst e

theorem State.keeps.saveTrailers_fst {k : List (Nat × Nat × Nat × Nat × Nat)} : ∀ {t : State} {errs : Errs} {n0 :
    Nat}, s.keeps t → s.keeps (t.saveTrailers errs n0 k).1 := by
  induction k with
  | nil => exact fun h => by unfold State.saveTrailers; exact h
  | cons x k ih =>
    intro t errs n0 h
    unfold State.saveTrailers
    try dsimp only
    repeat'
      first
      | with_reducible exact h | with_reducible assumption | with_reducible apply ih
      | with_reducible apply State.keeps.saveRows_fst | (with_reducible refine State.keeps.saveRows_eq ?_ ‹_›) | split

theorem State.keeps.saveTrailers_eq {errs : Errs} {n0 : Nat} {k : List (Nat × Nat × Nat × Nat × Nat)} {o : List Nat}
    (h : s.keeps t) (e : t.saveTrailers errs n0 k = (v, o)) : s.keeps v :=
  State.keeps.of_fst h.saveTrailers_fst e

theorem State.keeps.writeBack {errs : Errs} (h : s.keeps t) : s.keeps (t.writeBack errs) := by
  unfold State.writeBack
  try dsimp only
  repeat'
    first
    | with_reducible exact h | with_reducible assumption | with_reducible apply State.keeps.saveMasters_fst
    | (with_reducible refine State.keeps.saveMasters_eq ?_ ‹_›) | with_reducible apply State.keeps.saveTrailers_fst
    | (with_reducible refine State.keeps.saveTrailers_eq ?_ ‹_›) | with_reducible apply State.keeps.updSeq

theorem State.keeps.loadSet {l : List TableRec} (h : s.keeps t) : s.keeps (t.loadSet l) := by
  unfold State.loadSet
  try dsimp only
  repeat'
    first
    | with_reducible exact h | with_reducible assumption | with_reducible apply State.keeps.applyTables
    | with_reducible apply State.keeps.jobStop | with_reducible apply State.keeps.raiseSeq
    | with_reducible apply State.keeps.takeRoster | with_reducible apply State.keeps.updSeq | split
    | with_reducible refine State.keeps.rest ?_

theorem State.keeps.applySets (h : s.keeps t) : s.keeps (t.applySets) := by
  unfold State.applySets
  try dsimp only
  repeat'
    first
    | with_reducible exact h | with_reducible assumption | with_reducible apply State.keeps.finish
    | with_reducible apply State.keeps.loadSet | with_reducible apply State.keeps.takeRoster
    | with_reducible apply State.keeps.updSys
    | (with_reducible refine State.keeps.foldl ?_ ?_; rotate_left; (intro t a; have h : t.keeps t := State.keeps_refl; try dsimp only))

theorem State.keeps.keepBlot (h : s.keeps t) : s.keeps (t.keepBlot) := by
  unfold State.keepBlot
  try dsimp only
  repeat'
    first
    | with_reducible exact h | with_reducible assumption
    | (with_reducible refine State.keeps.forRegions ?_ ?_; rotate_left; (intro t r; have h : t.keeps t := State.keeps_refl; try dsimp only))
    | with_reducible apply State.keeps.updRegion | with_reducible apply State.keeps.updSeq
    | with_reducible refine State.keeps.wellRest ?_ (fun _ => rfl)
    | with_reducible refine State.keeps.updWell ?_ (fun _ _ => rfl)
    | (with_reducible refine State.keeps.wellRest ?_ ?_; rotate_left; (intro x; repeat' split; all_goals rfl))
    | (with_reducible refine State.keeps.foldl ?_ ?_; rotate_left; (intro t a; have h : t.keeps t := State.keeps_refl; try dsimp only))
    | split | with_reducible refine State.keeps.rest ?_

theorem State.keeps.copyGranules_fst {r i g n : Nat} {p : Nat × Nat} (h : s.keeps t) :
    s.keeps (t.copyGranules r i g n p).1 := by
  unfold State.copyGranules
  split <;> rename_i e
  · exact .writeWell (.wellReads_eq h e)
  · exact State.keeps.wellReads_eq h e

theorem State.keeps.copyGranules_eq {r i g n : Nat} {p : Nat × Nat} {o : Bool} (h : s.keeps t)
    (e : t.copyGranules r i g n p = (v, o)) : s.keeps v :=
  State.keeps.of_fst h.copyGranules_fst e

theorem State.keeps.copyRanges_fst {r : Nat} {l : List (Nat × Nat × (Nat × Nat))} : ∀ {t : State} {i : Nat}, s.keeps t →
    s.keeps (t.copyRanges r i l).1 := by
  induction l with
  | nil => exact fun h => h
  | cons x l ih =>
    intro t i h
    unfold State.copyRanges
    split <;> rename_i e
    · exact ih (.copyGranules_eq h e)
    · exact State.keeps.copyGranules_eq h e

theorem State.keeps.copyRanges_eq {r i : Nat} {l : List (Nat × Nat × (Nat × Nat))} {o : Bool} (h : s.keeps t)
    (e : t.copyRanges r i l = (v, o)) : s.keeps v :=
  State.keeps.of_fst h.copyRanges_fst e

theorem State.keeps.placeWeights_fst {r : Nat} (h : s.keeps t) : s.keeps (t.placeWeights r).1 := by
  unfold State.placeWeights
  try dsimp only
  repeat'
    first
    | with_reducible exact h | with_reducible assumption | with_reducible apply State.keeps.takePlace_fst
    | (with_reducible refine State.keeps.takePlace_eq ?_ ‹_›)
    | (with_reducible refine State.keeps.foldl ?_ ?_; rotate_left; (intro t a; have h : t.keeps t := State.keeps_refl; try dsimp only))
    | (with_reducible refine State.keeps.foldFst ?_ ?_; rotate_left; (intro p a; have h : p.1.keeps p.1 := State.keeps_refl; try dsimp only))
    | split

theorem State.keeps.placeWeights_eq {r : Nat} {o : List (Nat × Nat × (Nat × Nat))} (h : s.keeps t) (e :
    t.placeWeights r = (v, o)) : s.keeps v :=
  State.keeps.of_fst h.placeWeights_fst e

theorem State.keeps.moveOut_fst {r : Nat} (h : s.keeps t) : s.keeps (t.moveOut r).1 := by
  unfold State.moveOut
  split
  · exact h
  · have k1 := State.keeps.placeWeights_fst (r := r) h
    dsimp only
    split <;> rename_i e
    · exact State.keeps.copyRanges_eq k1 e
    · have k3 := State.keeps.moveAreas_fst (r := r) (State.keeps.copyRanges_eq k1 e)
      split <;> rename_i e2
      · exact State.keeps.copyRanges_eq k3 e2
      · exact .rest (.copyRanges_eq k3 e2)

theorem State.keeps.moveOut_eq {r : Nat} {o : Bool} (h : s.keeps t) (e : t.moveOut r = (v, o)) : s.keeps v :=
  State.keeps.of_fst h.moveOut_fst e

theorem State.keeps.planRepairs (h : s.keeps t) : s.keeps t.planRepairs := by
  unfold State.planRepairs
  dsimp only
  refine State.keeps.forRegions (.applyPlan h) fun t r => ?_
  have k : t.keeps ((t.svc r).planned.foldl (fun v u => v.retireUnit u 0x02A) ((t.updSeq fun q => { q with
      tests := q.tests ++ (t.svc r).portTests }).updSvc r fun x => { x with planned := [], portTests := [] })) :=
    .foldl (.updSvc (.updSeq State.keeps_refl)) fun _ _ => .retireUnit State.keeps_refl
  split
  · refine .updBar ?_
    split <;> rename_i e <;> exact .withdraw (.moveOut_eq k e)
  · exact k

theorem State.keeps.blotTail (h : s.keeps t) : s.keeps (t.blotTail) := by
  unfold State.blotTail
  try dsimp only
  repeat'
    first
    | with_reducible exact h | with_reducible assumption | with_reducible apply State.keeps.committed
    | with_reducible apply State.keeps.jobStop | with_reducible apply State.keeps.planRepairs
    | with_reducible apply State.keeps.setStatus | with_reducible apply State.keeps.toOpen
    | with_reducible apply State.keeps.updSeq | split | with_reducible refine State.keeps.rest ?_

theorem State.keeps.commitActions {errs : Errs} (h : s.keeps t) : s.keeps (t.commitActions errs) := by
  unfold State.commitActions
  try dsimp only
  repeat'
    first
    | with_reducible exact h | with_reducible assumption | with_reducible apply State.keeps.applySets
    | with_reducible apply State.keeps.blotTail
    | (with_reducible refine State.keeps.forRegions ?_ ?_; rotate_left; (intro t r; have h : t.keeps t := State.keeps_refl; try dsimp only))
    | with_reducible apply State.keeps.keepBlot | with_reducible apply State.keeps.raiseSeq
    | with_reducible apply State.keeps.stepFlag | with_reducible apply State.keeps.updP1
    | with_reducible apply State.keeps.updSeq | with_reducible apply State.keeps.updateSchedule
    | with_reducible apply State.keeps.writeBack
    | (with_reducible refine State.keeps.foldl ?_ ?_; rotate_left; (intro t a; have h : t.keeps t := State.keeps_refl; try dsimp only))
    | split | with_reducible refine State.keeps.rest ?_

theorem State.keeps.commit {errs : Errs} (h : s.keeps t) : s.keeps (t.commit errs) := by
  unfold State.commit
  try dsimp only
  repeat'
    first
    | with_reducible exact h | with_reducible assumption | with_reducible apply State.keeps.commitActions
    | with_reducible apply State.keeps.updSeq | with_reducible apply State.keeps.winBanks_fst
    | (with_reducible refine State.keeps.winBanks_eq ?_ ‹_›) | split | with_reducible refine State.keeps.rest ?_

theorem State.keeps.commitRetry (h : s.keeps t) : s.keeps (t.commitRetry) := by
  unfold State.commitRetry
  try dsimp only
  repeat'
    first
    | with_reducible exact h | with_reducible assumption | with_reducible apply State.keeps.commit | split

theorem State.keeps.committed {errs : Errs} (h : s.keeps t) : s.keeps (t.committed errs) := by
  unfold State.committed
  try dsimp only
  repeat'
    first
    | with_reducible exact h | with_reducible assumption | with_reducible apply State.keeps.blotTail
    | with_reducible apply State.keeps.commit | with_reducible apply State.keeps.setAbortState
    | with_reducible apply State.keeps.setPhase | with_reducible apply State.keeps.toOpen
    | with_reducible apply State.keeps.updSeq | split

theorem State.keeps.gatherReady {errs : Errs} (h : s.keeps t) : s.keeps (t.gatherReady errs) := by
  unfold State.gatherReady
  try dsimp only
  repeat'
    first
    | with_reducible exact h | with_reducible assumption | with_reducible apply State.keeps.committed
    | with_reducible apply State.keeps.sysDown | with_reducible apply State.keeps.sysUp
    | with_reducible apply State.keeps.updSys | split

theorem State.keeps.reportReady {errs : Errs} (h : s.keeps t) : s.keeps (t.reportReady errs) := by
  unfold State.reportReady
  try dsimp only
  repeat'
    first
    | with_reducible exact h | with_reducible assumption | with_reducible apply State.keeps.gatherReady
    | with_reducible apply State.keeps.updSeq | with_reducible apply State.keeps.updSys

theorem State.keeps.stopCauses (h : s.keeps t) : s.keeps (t.stopCauses) := by
  unfold State.stopCauses
  try dsimp only
  repeat'
    first
    | with_reducible exact h | with_reducible assumption | with_reducible apply State.keeps.flushUnit
    | with_reducible apply State.keeps.stopHands
    | (with_reducible refine State.keeps.foldl ?_ ?_; rotate_left; (intro t a; have h : t.keeps t := State.keeps_refl; try dsimp only))
    | (with_reducible refine State.keeps.foldFst ?_ ?_; rotate_left; (intro p a; have h : p.1.keeps p.1 := State.keeps_refl; try dsimp only))
    | split

theorem State.keeps.stopLowest {codes : List Nat} (h : s.keeps t) : s.keeps (t.stopLowest codes) := by
  unfold State.stopLowest
  try dsimp only
  repeat'
    first
    | with_reducible exact h | with_reducible assumption | with_reducible apply State.keeps.jobStop | split

theorem State.keeps.stopAll (h : s.keeps t) : s.keeps (t.stopAll) := by
  unfold State.stopAll
  try dsimp only
  repeat'
    first
    | with_reducible exact h | with_reducible assumption | with_reducible apply State.keeps.flushUnit
    | with_reducible apply State.keeps.stopHands
    | (with_reducible refine State.keeps.foldl ?_ ?_; rotate_left; (intro t a; have h : t.keeps t := State.keeps_refl; try dsimp only))

theorem State.keeps.stopRegions (h : s.keeps t) : s.keeps (t.stopRegions) := by
  unfold State.stopRegions
  try dsimp only
  repeat'
    first
    | with_reducible exact h | with_reducible assumption | with_reducible apply State.keeps.setNodes
    | with_reducible apply State.keeps.updP1 | with_reducible apply State.keeps.updRegion
    | with_reducible refine State.keeps.wellRest ?_ (fun _ => rfl)
    | (with_reducible refine State.keeps.wellRest ?_ ?_; rotate_left; (intro x; repeat' split; all_goals rfl))
    | (with_reducible refine State.keeps.foldl ?_ ?_; rotate_left; (intro t a; have h : t.keeps t := State.keeps_refl; try dsimp only))
    | split

theorem State.keeps.clearInk (h : s.keeps t) : s.keeps (t.clearInk) := by
  unfold State.clearInk
  try dsimp only
  repeat'
    first
    | with_reducible exact h | with_reducible assumption | with_reducible refine State.keeps.putCell ?_
    | with_reducible refine State.keeps.unitRest ?_ (fun _ => rfl)
    | (with_reducible refine State.keeps.unitRest ?_ ?_; rotate_left; (intro x; repeat' split; all_goals rfl))
    | (with_reducible refine State.keeps.foldl ?_ ?_; rotate_left; (intro t a; have h : t.keeps t := State.keeps_refl; try dsimp only))

theorem State.keeps.showAbort (h : s.keeps t) : s.keeps (t.showAbort) := by
  unfold State.showAbort
  try dsimp only
  repeat'
    first
    | with_reducible exact h | with_reducible assumption
    | (with_reducible refine State.keeps.forRegions ?_ ?_; rotate_left; (intro t r; have h : t.keeps t := State.keeps_refl; try dsimp only))
    | with_reducible apply State.keeps.updP1 | with_reducible apply State.keeps.updSeq
    | (with_reducible refine State.keeps.foldl ?_ ?_; rotate_left; (intro t a; have h : t.keeps t := State.keeps_refl; try dsimp only))
    | split | with_reducible refine State.keeps.rest ?_

theorem State.keeps.abortNext (h : s.keeps t) : s.keeps (t.abortNext) := by
  unfold State.abortNext
  try dsimp only
  repeat'
    first
    | with_reducible exact h | with_reducible assumption | with_reducible apply State.keeps.reportReady
    | with_reducible apply State.keeps.showAbort | split

theorem State.keeps.beginAbort (h : s.keeps t) : s.keeps (t.beginAbort) := by
  unfold State.beginAbort
  try dsimp only
  repeat'
    first
    | with_reducible exact h | with_reducible assumption | with_reducible apply State.keeps.clearInk
    | with_reducible apply State.keeps.committed
    | (with_reducible refine State.keeps.forRegions ?_ ?_; rotate_left; (intro t r; have h : t.keeps t := State.keeps_refl; try dsimp only))
    | with_reducible apply State.keeps.raiseSeq | with_reducible apply State.keeps.setPhase
    | with_reducible apply State.keeps.setRingState | with_reducible apply State.keeps.showAbort
    | with_reducible apply State.keeps.stopAll | with_reducible apply State.keeps.stopRegions
    | with_reducible apply State.keeps.updP1 | with_reducible apply State.keeps.updSeq
    | with_reducible apply State.keeps.updSvc | with_reducible apply State.keeps.updSys
    | (with_reducible refine State.keeps.foldl ?_ ?_; rotate_left; (intro t a; have h : t.keeps t := State.keeps_refl; try dsimp only))
    | (with_reducible refine State.keeps.foldFst ?_ ?_; rotate_left; (intro p a; have h : p.1.keeps p.1 := State.keeps_refl; try dsimp only))
    | split | with_reducible refine State.keeps.rest ?_

theorem State.keeps.enterAbort (h : s.keeps t) : s.keeps (t.enterAbort) := by
  unfold State.enterAbort
  try dsimp only
  repeat'
    first
    | with_reducible exact h | with_reducible assumption | with_reducible apply State.keeps.beginAbort
    | with_reducible apply State.keeps.stopLowest | split

theorem State.keeps.failSpares {causes : List Cause} (h : s.keeps t) : s.keeps (t.failSpares causes) := by
  unfold State.failSpares
  try dsimp only
  repeat'
    first
    | with_reducible exact h | with_reducible assumption | with_reducible apply State.keeps.failFill
    | (with_reducible refine State.keeps.foldl ?_ ?_; rotate_left; (intro t a; have h : t.keeps t := State.keeps_refl; try dsimp only))
    | (with_reducible refine State.keeps.foldFst ?_ ?_; rotate_left; (intro p a; have h : p.1.keeps p.1 := State.keeps_refl; try dsimp only))
    | split

theorem State.keeps.joinAbort (h : s.keeps t) : s.keeps (t.joinAbort) := by
  unfold State.joinAbort
  try dsimp only
  repeat'
    first
    | with_reducible exact h | with_reducible assumption | with_reducible apply State.keeps.failSpares
    | with_reducible apply State.keeps.updSeq | split | with_reducible refine State.keeps.rest ?_

theorem State.keeps.markRemoved {m : Nat} (h : s.keeps t) : s.keeps (t.markRemoved m) := by
  unfold State.markRemoved
  try dsimp only
  repeat'
    first
    | with_reducible exact h | with_reducible assumption | with_reducible apply State.keeps.raiseFrom
    | with_reducible apply State.keeps.seeBar | with_reducible apply State.keeps.switchDeputy
    | with_reducible apply State.keeps.updSeq | with_reducible apply State.keeps.updSys | split
    | with_reducible refine State.keeps.rest ?_

theorem State.keeps.abortDown {subject : Option Nat} (h : s.keeps t) : s.keeps (t.abortDown subject) := by
  unfold State.abortDown
  extract_lets s0 s1 s2 s3 s4 s5
  have k1 : s.keeps s1 := by
    have k0 : s.keeps s0 := .sysDown h
    show s.keeps (if _ then _ else _)
    split
    · exact .beginAbort (.stopCauses k0)
    · exact k0
  clear_value s1
  have k4 : s.keeps s4 := by
    have k3 : s.keeps s3 := .updBar (.updSys k1)
    show s.keeps (if _ then _ else _)
    split
    · exact .joinAbort (.stopCauses k3)
    · exact k3
  clear_value s4
  have k5 : s.keeps s5 := by
    show s.keeps (match subject with | none => s4 | some m => s4.markRemoved m)
    split
    · exact k4
    · exact .markRemoved k4
  split
  · exact .abortNext (.stopLowest k5)
  · exact k5

theorem State.keeps.lossSeen {m : Nat} (h : s.keeps t) : s.keeps (t.lossSeen m) := by
  unfold State.lossSeen
  try dsimp only
  repeat'
    first
    | with_reducible exact h | with_reducible assumption | with_reducible apply State.keeps.switchDeputy
    | with_reducible apply State.keeps.updSys | split | with_reducible refine State.keeps.rest ?_

theorem State.keeps.upToRoot {subject : Option Nat} (h : s.keeps t) : s.keeps (t.upToRoot subject) := by
  unfold State.upToRoot
  try dsimp only
  repeat'
    first
    | with_reducible exact h | with_reducible assumption | with_reducible apply State.keeps.abortDown
    | with_reducible apply State.keeps.committed | with_reducible apply State.keeps.raiseFrom
    | with_reducible apply State.keeps.seeBar | with_reducible apply State.keeps.sysUp
    | with_reducible apply State.keeps.updBar | split

theorem State.keeps.abortUp {subject : Option Nat} (h : s.keeps t) : s.keeps (t.abortUp subject) := by
  unfold State.abortUp
  try dsimp only
  repeat'
    first
    | with_reducible exact h | with_reducible assumption | with_reducible apply State.keeps.jobStop
    | with_reducible apply State.keeps.lossSeen | with_reducible apply State.keeps.upToRoot | split

theorem State.keeps.sequencerAbort (h : s.keeps t) : s.keeps (t.sequencerAbort) := by
  unfold State.sequencerAbort
  try dsimp only
  repeat'
    first
    | with_reducible exact h | with_reducible assumption | with_reducible apply State.keeps.abortNext
    | with_reducible apply State.keeps.abortUp | with_reducible apply State.keeps.committed
    | with_reducible apply State.keeps.enterAbort | with_reducible apply State.keeps.joinAbort
    | with_reducible apply State.keeps.stopCauses | with_reducible apply State.keeps.stopLowest
    | with_reducible apply State.keeps.updSeq | split | with_reducible refine State.keeps.rest ?_

theorem State.keeps.drainComplete (h : s.keeps t) : s.keeps (t.drainComplete) := by
  unfold State.drainComplete
  try dsimp only
  repeat'
    first
    | with_reducible exact h | with_reducible assumption | with_reducible apply State.keeps.abortNext
    | with_reducible apply State.keeps.finishAll | with_reducible apply State.keeps.updSeq | split
    | with_reducible refine State.keeps.rest ?_

theorem State.keeps.goRegion {r : Nat} (h : s.keeps t) : s.keeps (t.goRegion r) := by
  unfold State.goRegion
  try dsimp only
  repeat'
    first
    | with_reducible exact h | with_reducible assumption | with_reducible apply State.keeps.go
    | with_reducible apply State.keeps.scriptLoad | with_reducible apply State.keeps.updSeq
    | (with_reducible refine State.keeps.foldl ?_ ?_; rotate_left; (intro t a; have h : t.keeps t := State.keeps_refl; try dsimp only))

theorem State.keeps.blotRegion {r : Nat} (h : s.keeps t) : s.keeps (t.blotRegion r) := by
  unfold State.blotRegion
  try dsimp only
  repeat'
    first
    | with_reducible exact h | with_reducible assumption | with_reducible apply State.keeps.setP1
    | with_reducible apply State.keeps.updP1 | with_reducible apply State.keeps.updRegion
    | with_reducible refine State.keeps.wellRest ?_ (fun _ => rfl)
    | with_reducible refine State.keeps.updWell ?_ (fun _ _ => rfl)
    | (with_reducible refine State.keeps.wellRest ?_ ?_; rotate_left; (intro x; repeat' split; all_goals rfl))
    | (with_reducible refine State.keeps.foldl ?_ ?_; rotate_left; (intro t a; have h : t.keeps t := State.keeps_refl; try dsimp only))
    | (with_reducible refine State.keeps.foldFst ?_ ?_; rotate_left; (intro p a; have h : p.1.keeps p.1 := State.keeps_refl; try dsimp only))
    | split | with_reducible refine State.keeps.rest ?_

theorem State.keeps.restoreRegion {r : Nat} (h : s.keeps t) : s.keeps (t.restoreRegion r) := by
  unfold State.restoreRegion
  try dsimp only
  repeat'
    first
    | with_reducible exact h | with_reducible assumption | with_reducible apply State.keeps.abortNext
    | with_reducible apply State.keeps.blotRegion | with_reducible apply State.keeps.goRegion
    | with_reducible apply State.keeps.updSvc | split

theorem State.keeps.showDecision {bit : Bool} (h : s.keeps t) : s.keeps (t.showDecision bit) := by
  unfold State.showDecision
  try dsimp only
  repeat'
    first
    | with_reducible exact h | with_reducible assumption | with_reducible apply State.keeps.stepFlag
    | with_reducible apply State.keeps.updP1
    | (with_reducible refine State.keeps.forRegions ?_ ?_; rotate_left; (intro t r; have h : t.keeps t := State.keeps_refl; try dsimp only))

theorem State.keeps.decided {bit : Bool} (h : s.keeps t) : s.keeps (t.decided bit) := by
  unfold State.decided
  try dsimp only
  repeat'
    first
    | with_reducible exact h | with_reducible assumption | with_reducible apply State.keeps.jobStop
    | with_reducible apply State.keeps.setPhase | with_reducible apply State.keeps.showDecision
    | with_reducible apply State.keeps.updSeq | split

theorem State.keeps.imageControl {g : UnitImage} (h : s.keeps t) : s.keeps (t.imageControl g) := by
  unfold State.imageControl
  try dsimp only
  repeat'
    first
    | with_reducible exact h | with_reducible assumption | with_reducible apply State.keeps.setP1 | split

theorem State.keeps.loadStage_fst {u : Nat} {errs : Errs} {i : Nat} (h : s.keeps t) :
    s.keeps (t.loadStage u errs i).1 := by
  unfold State.loadStage
  split
  · exact h
  · split <;> rename_i e
    · exact .imageControl (.writeCells (.wellReads_eq h e))
    · exact State.keeps.wellReads_eq h e

theorem State.keeps.loadStage_eq {u : Nat} {errs : Errs} {i : Nat} {o : Bool} (h : s.keeps t) (e : t.loadStage u
    errs i = (v, o)) : s.keeps v :=
  State.keeps.of_fst h.loadStage_fst e

theorem State.keeps.imageLost {u : Nat} (h : s.keeps t) : s.keeps (t.imageLost u) := by
  unfold State.imageLost
  try dsimp only
  repeat'
    first
    | with_reducible exact h | with_reducible assumption | with_reducible apply State.keeps.jobStop
    | with_reducible apply State.keeps.raise | with_reducible apply State.keeps.seeP1 | split

theorem State.keeps.reload {u : Nat} {errs : Errs} (h : s.keeps t) : s.keeps (t.reload u errs) := by
  unfold State.reload
  try dsimp only
  repeat'
    first
    | with_reducible exact h | with_reducible assumption | with_reducible apply State.keeps.imageLost
    | with_reducible apply State.keeps.loadStage_fst | (with_reducible refine State.keeps.loadStage_eq ?_ ‹_›)
    | split

theorem State.keeps.testRows {u : Nat} {q : Nat} {n : Nat} (h : s.keeps t) : s.keeps (t.testRows u q n) := by
  unfold State.testRows
  try dsimp only
  repeat'
    first
    | with_reducible exact h | with_reducible assumption | with_reducible apply State.keeps.writeCells | split

theorem State.keeps.testWords {u : Nat} (h : s.keeps t) : s.keeps (t.testWords u) := by
  unfold State.testWords
  try dsimp only
  repeat'
    first
    | with_reducible exact h | with_reducible assumption | with_reducible apply State.keeps.testWord
    | with_reducible refine State.keeps.putCell ?_ | with_reducible refine State.keeps.unitRest ?_ (fun _ => rfl)
    | (with_reducible refine State.keeps.unitRest ?_ ?_; rotate_left; (intro x; repeat' split; all_goals rfl))
    | (with_reducible refine State.keeps.foldl ?_ ?_; rotate_left; (intro t a; have h : t.keeps t := State.keeps_refl; try dsimp only))
    | (with_reducible refine State.keeps.foldFst ?_ ?_; rotate_left; (intro p a; have h : p.1.keeps p.1 := State.keeps_refl; try dsimp only))
    | split | with_reducible refine State.keeps.rest ?_

theorem State.keeps.afterTest {t_ : TestTarget} {errs : Errs} (h : s.keeps t) : s.keeps (t.afterTest t_ errs) := by
  unfold State.afterTest
  try dsimp only
  repeat'
    first
    | with_reducible exact h | with_reducible assumption | with_reducible apply State.keeps.reload
    | with_reducible apply State.keeps.testRows | with_reducible apply State.keeps.testWords | split
    | with_reducible refine State.keeps.rest ?_

theorem State.keeps.testResult {t_ : TestTarget} {x : TestResult} (h : s.keeps t) : s.keeps (t.testResult t_ x) :=
    by
  unfold State.testResult
  try dsimp only
  repeat'
    first
    | with_reducible exact h | with_reducible assumption | with_reducible apply State.keeps.afterTest
    | with_reducible apply State.keeps.lasting | with_reducible apply State.keeps.recordTest
    | with_reducible apply State.keeps.updSeq | with_reducible apply State.keeps.winBanks_fst
    | (with_reducible refine State.keeps.winBanks_eq ?_ ‹_›) | split | with_reducible refine State.keeps.rest ?_

theorem State.keeps.strayPop {r : Nat} (h : s.keeps t) : s.keeps (t.strayPop r) := by
  unfold State.strayPop
  try dsimp only
  repeat'
    first
    | with_reducible exact h | with_reducible assumption | with_reducible apply State.keeps.setP1
    | with_reducible apply State.keeps.updP1
    | (with_reducible refine State.keeps.foldl ?_ ?_; rotate_left; (intro t a; have h : t.keeps t := State.keeps_refl; try dsimp only))
    | split

theorem State.keeps.flitCheck {test : TestTarget} {e : Ecc} (h : s.keeps t) : s.keeps (t.flitCheck test e) := by
  unfold State.flitCheck
  try dsimp only
  repeat'
    first
    | with_reducible exact h | with_reducible assumption | with_reducible apply State.keeps.raise
    | with_reducible apply State.keeps.report | with_reducible apply State.keeps.seeP1
    | with_reducible apply State.keeps.updP1 | with_reducible apply State.keeps.updSvc | split

theorem State.keeps.portCheck_fst {k : List Ecc} : ∀ {t : State} {test : TestTarget} , s.keeps t → s.keeps
    (t.portCheck test k).1 := by
  induction k with
  | nil => exact fun h => by unfold State.portCheck; exact h
  | cons x k ih =>
    intro t test  h
    unfold State.portCheck
    try dsimp only
    repeat'
      first
      | with_reducible exact h | with_reducible assumption | with_reducible apply ih
      | with_reducible apply State.keeps.flitCheck | split

theorem State.keeps.portCheck_eq {test : TestTarget} {k : List Ecc} {o : Bool} (h : s.keeps t) (e : t.portCheck test
    k = (v, o)) : s.keeps v :=
  State.keeps.of_fst h.portCheck_fst e

theorem State.keeps.portChecks_fst {k : List TestTarget} : ∀ {t : State} {m : Msg} {errs : Errs} {n0 : Nat}, s.keeps
    t → s.keeps (t.portChecks m errs n0 k).1 := by
  induction k with
  | nil => exact fun h => by unfold State.portChecks; exact h
  | cons x k ih =>
    intro t m errs n0 h
    unfold State.portChecks
    try dsimp only
    repeat'
      first
      | with_reducible exact h | with_reducible assumption | with_reducible apply ih
      | with_reducible apply State.keeps.portCheck_fst | (with_reducible refine State.keeps.portCheck_eq ?_ ‹_›)
      | split

theorem State.keeps.portChecks_eq {m : Msg} {errs : Errs} {n0 : Nat} {k : List TestTarget} {o : Bool} (h : s.keeps
    t) (e : t.portChecks m errs n0 k = (v, o)) : s.keeps v :=
  State.keeps.of_fst h.portChecks_fst e

theorem State.keeps.answerUnreachable {m : Msg} (h : s.keeps t) : s.keeps (t.answerUnreachable m) := by
  unfold State.answerUnreachable
  try dsimp only
  repeat'
    first
    | with_reducible exact h | with_reducible assumption | with_reducible apply State.keeps.send | split
    | with_reducible refine State.keeps.rest ?_

theorem State.keeps.controllerSees {m : Msg} (h : s.keeps t) : s.keeps (t.controllerSees m) := by
  unfold State.controllerSees
  try dsimp only
  repeat'
    first
    | with_reducible exact h | with_reducible assumption | with_reducible apply State.keeps.updSvc | split

theorem State.keeps.arrive {m : Msg} {flits : Errs} {k : State → Option State} (h : s.keeps t)
    (hk : ∀ v w : State, k v = some w → v.keeps w) : s.keeps (t.arrive m flits k) := by
  have h0 : s.keeps { t with net := t.net.erase m } := .rest h
  unfold State.arrive
  dsimp only
  split
  · exact h
  split <;> rename_i e
  · exact .portChecks_eq h0 e
  have h1 := State.keeps.portChecks_eq h0 e
  split
  · exact .answerUnreachable h1
  split
  · exact h1
  split
  · exact .divert h1
  · match e2 : k _ with
    | none => exact h
    | some w => exact .trans (.controllerSees h1) (hk _ w e2)

theorem State.keeps.unitControl {m : Msg} (h : s.keeps t) : s.keeps (t.unitControl m) := by
  unfold State.unitControl
  try dsimp only
  repeat'
    first
    | with_reducible exact h | with_reducible assumption | with_reducible apply State.keeps.flushUnit
    | with_reducible apply State.keeps.go | with_reducible apply State.keeps.scriptLoad
    | with_reducible apply State.keeps.setP1 | with_reducible apply State.keeps.stopHands | split

theorem State.keeps.inkPush {u : Nat} {k : InkRow} (h : s.keeps t) : s.keeps (t.inkPush u k) := by
  unfold State.inkPush
  try dsimp only
  repeat'
    first
    | with_reducible exact h | with_reducible assumption | with_reducible refine State.keeps.putCell ?_
    | with_reducible refine State.keeps.unitRest ?_ (fun _ => rfl)

theorem State.keeps.inkArrive {m : Msg} (h : s.keeps t) : s.keeps (t.inkArrive m) := by
  unfold State.inkArrive
  try dsimp only
  repeat'
    first
    | with_reducible exact h | with_reducible assumption | with_reducible apply State.keeps.inkPush

theorem State.keeps.remoteRequest {m : Msg} (h : s.keeps t) : s.keeps (t.remoteRequest m) := by
  unfold State.remoteRequest
  try dsimp only
  repeat'
    first
    | with_reducible exact h | with_reducible assumption | with_reducible apply State.keeps.linkInject
    | with_reducible apply State.keeps.noRoute | with_reducible apply State.keeps.updSys | split

theorem State.keeps.moverAnswer {u : Nat} {tag : Nat} {status : Nat} {d : Row} {nf : Bool} (h : s.keeps t) : s.keeps
    (t.moverAnswer u tag status d nf) := by
  unfold State.moverAnswer
  try dsimp only
  repeat'
    first
    | with_reducible exact h | with_reducible assumption | with_reducible refine State.keeps.putCell ?_
    | with_reducible refine State.keeps.unitRest ?_ (fun _ => rfl)
    | (with_reducible refine State.keeps.unitRest ?_ ?_; rotate_left; (intro x; repeat' split; all_goals rfl))
    | split | with_reducible refine State.keeps.rest ?_

theorem State.keeps.moverAcked {u : Nat} {tag : Nat} {status : Nat} (h : s.keeps t) : s.keeps (t.moverAcked u tag
    status) := by
  unfold State.moverAcked
  try dsimp only
  repeat'
    first
    | with_reducible exact h | with_reducible assumption | with_reducible apply State.keeps.mvSettle | split

theorem State.keeps.moverError {u : Nat} {tag : Nat} {status : Nat} (h : s.keeps t) : s.keeps (t.moverError u tag
    status) := by
  unfold State.moverError
  try dsimp only
  repeat'
    first
    | with_reducible exact h | with_reducible assumption | with_reducible apply State.keeps.moverAcked
    | with_reducible apply State.keeps.moverAnswer | split

theorem State.keeps.answerServed {v_ : Served} {ftype : Nat} {status : Nat} {rows : List Row} (h : s.keeps t) :
    s.keeps (t.answerServed v_ ftype status rows) := by
  unfold State.answerServed
  try dsimp only
  repeat'
    first
    | with_reducible exact h | with_reducible assumption | with_reducible apply State.keeps.linkInject
    | with_reducible apply State.keeps.updSys

theorem State.keeps.routerContribution {r : Nat} {place : Nat} {m : Msg} {flits : Errs} (h : s.keeps t) : s.keeps
    (t.routerContribution r place m flits) := by
  unfold State.routerContribution
  try dsimp only
  repeat'
    first
    | with_reducible exact h | with_reducible assumption | with_reducible apply State.keeps.portChecks_fst
    | (with_reducible refine State.keeps.portChecks_eq ?_ ‹_›) | with_reducible apply State.keeps.send
    | with_reducible apply State.keeps.updRegion | split | with_reducible exact State.keeps.rest h

theorem State.keeps.windowEnd {r : Nat} {place : Nat} {i : Nat} (h : s.keeps t) : s.keeps (t.windowEnd r place i) := by
  unfold State.windowEnd
  try dsimp only
  repeat'
    first
    | with_reducible exact h | with_reducible assumption | with_reducible apply State.keeps.send
    | with_reducible apply State.keeps.updRegion | split

theorem State.keeps.reduceError {r : Nat} {m : Msg} {code : Nat} {entry : Option Nat} (h : s.keeps t) : s.keeps
    (t.reduceError r m code entry) := by
  unfold State.reduceError
  try dsimp only
  repeat'
    first
    | with_reducible exact h | with_reducible assumption | with_reducible apply State.keeps.raise
    | with_reducible apply State.keeps.report | with_reducible apply State.keeps.setNodes
    | with_reducible apply State.keeps.updP1

theorem State.keeps.blockRows_fst {k : List Row} : ∀ {t : State} {r : Nat} {dest : WAddr} {put : Bool} {nf : Bool}
    {n0 : Nat}, s.keeps t → s.keeps (t.blockRows r dest put nf n0 k).1 := by
  induction k with
  | nil => exact fun h => by unfold State.blockRows; exact h
  | cons x k ih =>
    intro t r dest put nf n0 h
    unfold State.blockRows
    try dsimp only
    repeat'
      first
      | with_reducible exact h | with_reducible assumption | with_reducible apply ih
      | with_reducible apply State.keeps.send | with_reducible apply State.keeps.updRegion
      | with_reducible apply State.keeps.wellWrite | split

theorem State.keeps.blockRows_eq {r : Nat} {dest : WAddr} {put : Bool} {nf : Bool} {n0 : Nat} {k : List Row} {o :
    Nat × List Nat} (h : s.keeps t) (e : t.blockRows r dest put nf n0 k = (v, o)) : s.keeps v :=
  State.keeps.of_fst h.blockRows_fst e

theorem State.keeps.blockCounted {r : Nat} {nf : Bool} (h : s.keeps t) : s.keeps (t.blockCounted r nf) := by
  unfold State.blockCounted
  try dsimp only
  repeat'
    first
    | with_reducible exact h | with_reducible assumption | with_reducible apply State.keeps.schedFault
    | with_reducible apply State.keeps.updP1 | split

theorem State.keeps.writeBlock {r : Nat} {e : Nat} {m : Msg} (h : s.keeps t) : s.keeps (t.writeBlock r e m) := by
  unfold State.writeBlock
  try dsimp only
  repeat'
    first
    | with_reducible exact h | with_reducible assumption | with_reducible apply State.keeps.blockCounted
    | with_reducible apply State.keeps.blockRows_fst | (with_reducible refine State.keeps.blockRows_eq ?_ ‹_›)
    | with_reducible apply State.keeps.noteAlign | with_reducible apply State.keeps.reduceError
    | with_reducible apply State.keeps.updRegion | split | with_reducible refine State.keeps.rest ?_

theorem State.keeps.blockAnswer {r : Nat} {tag : Nat} {status : Nat} (h : s.keeps t) : s.keeps (t.blockAnswer r tag
    status) := by
  unfold State.blockAnswer
  try dsimp only
  repeat'
    first
    | with_reducible exact h | with_reducible assumption | with_reducible apply State.keeps.blockCounted
    | with_reducible apply State.keeps.reduceError | with_reducible apply State.keeps.updRegion | split

theorem State.keeps.forwardNode {r : Nat} {e : Nat} {m : Msg} (h : s.keeps t) : s.keeps (t.forwardNode r e m) := by
  unfold State.forwardNode
  try dsimp only
  repeat'
    first
    | with_reducible exact h | with_reducible assumption | with_reducible apply State.keeps.send

theorem State.keeps.finishBlock {r : Nat} {e : Nat} {mine : List Node} {m : Msg} (h : s.keeps t) : s.keeps
    (t.finishBlock r e mine m) := by
  unfold State.finishBlock
  try dsimp only
  repeat'
    first
    | with_reducible exact h | with_reducible assumption | with_reducible apply State.keeps.forwardNode
    | with_reducible apply State.keeps.setNodes | with_reducible apply State.keeps.writeBlock
    | (with_reducible refine State.keeps.foldl ?_ ?_; rotate_left; (intro t a; have h : t.keeps t := State.keeps_refl; try dsimp only))
    | split

theorem State.keeps.endpointArrival {r : Nat} {m0 : Msg} (h : s.keeps t) : s.keeps (t.endpointArrival r m0) := by
  unfold State.endpointArrival
  try dsimp only
  repeat'
    first
    | with_reducible exact h | with_reducible assumption | with_reducible apply State.keeps.finishBlock
    | with_reducible apply State.keeps.raise | with_reducible apply State.keeps.reduceError
    | with_reducible apply State.keeps.setNodes | with_reducible apply State.keeps.updRegion | split
    | with_reducible refine State.keeps.rest ?_

theorem State.keeps.retryHeld {k : Nat} : ∀ {t : State} {r : Nat} , s.keeps t → s.keeps (t.retryHeld r k) := by
  induction k with
  | zero => exact fun h => by unfold State.retryHeld; exact h
  | succ k ih =>
    intro t r  h
    unfold State.retryHeld
    try dsimp only
    repeat'
      first
      | with_reducible exact h | with_reducible assumption | with_reducible apply ih
      | with_reducible apply State.keeps.endpointArrival | with_reducible apply State.keeps.updRegion | split

theorem State.keeps.redInject {m : Msg} (h : s.keeps t) : s.keeps (t.redInject m) := by
  unfold State.redInject
  try dsimp only
  repeat'
    first
    | with_reducible exact h | with_reducible assumption | with_reducible apply State.keeps.linkInject

theorem State.keeps.endpointContribution {m : Msg} (h : s.keeps t) : s.keeps (t.endpointContribution m) := by
  unfold State.endpointContribution
  try dsimp only
  repeat'
    first
    | with_reducible exact h | with_reducible assumption | with_reducible apply State.keeps.endpointArrival
    | with_reducible apply State.keeps.noRoute | with_reducible apply State.keeps.redInject
    | with_reducible apply State.keeps.retryHeld | split

theorem State.keeps.dryNib {r : Nat} {place : Nat} {port : Nat} {vc : Nat} (h : s.keeps t) : s.keeps (t.dryNib r
    place port vc) := by
  unfold State.dryNib
  try dsimp only
  repeat'
    first
    | with_reducible exact h | with_reducible assumption | with_reducible apply State.keeps.raise
    | with_reducible apply State.keeps.updP1

theorem State.keeps.landSend {g : Landed} {m : Msg} (h : s.keeps t) : s.keeps (t.landSend g m) := by
  unfold State.landSend
  try dsimp only
  repeat'
    first
    | with_reducible exact h | with_reducible assumption | with_reducible apply State.keeps.send
    | with_reducible apply State.keeps.updSys

theorem State.keeps.landingDrop (h : s.keeps t) : s.keeps (t.landingDrop) := by
  unfold State.landingDrop
  try dsimp only
  repeat'
    first
    | with_reducible exact h | with_reducible assumption | with_reducible apply State.keeps.raiseFrom
    | with_reducible apply State.keeps.report | with_reducible apply State.keeps.seeBar

theorem State.keeps.granuleCount {r : Nat} {expected : Nat} {done : Nat} (h : s.keeps t) : s.keeps (t.granuleCount r
    expected done) := by
  unfold State.granuleCount
  try dsimp only
  repeat'
    first
    | with_reducible exact h | with_reducible assumption | with_reducible apply State.keeps.schedFault
    | with_reducible apply State.keeps.updP1 | split

theorem State.keeps.wgtLand {l : Nat} {src : Nat} {nf : Bool} {shard : Nat} {block : Nat} {gkind : Nat} {step : Nat}
    {rows : List Row} (h : s.keeps t) : s.keeps (t.wgtLand l src nf shard block gkind step rows) := by
  unfold State.wgtLand
  try dsimp only
  repeat'
    first
    | with_reducible exact h | with_reducible assumption | with_reducible apply State.keeps.landSend
    | with_reducible apply State.keeps.landingDrop | with_reducible apply State.keeps.updSeq | split
    | with_reducible refine State.keeps.rest ?_

theorem State.keeps.restoreTail (h : s.keeps t) : s.keeps (t.restoreTail) := by
  unfold State.restoreTail
  try dsimp only
  repeat'
    first
    | with_reducible exact h | with_reducible assumption | with_reducible apply State.keeps.finish
    | with_reducible apply State.keeps.setP1 | with_reducible apply State.keeps.updP1
    | with_reducible apply State.keeps.updSeq
    | (with_reducible refine State.keeps.forRegions ?_ ?_; rotate_left; (intro t r; have h : t.keeps t := State.keeps_refl; try dsimp only))
    | split

theorem State.keeps.landAnswer {m : Msg} {status : Nat} (h : s.keeps t) : s.keeps (t.landAnswer m status) := by
  unfold State.landAnswer
  try dsimp only
  repeat'
    first
    | with_reducible exact h | with_reducible assumption | with_reducible apply State.keeps.granuleCount
    | with_reducible apply State.keeps.raiseFrom | with_reducible apply State.keeps.report
    | with_reducible apply State.keeps.restoreTail | with_reducible apply State.keeps.updSeq
    | with_reducible apply State.keeps.updSys | split

theorem State.keeps.wgtMulticast {l : Nat} {f : Flit} {shard : Nat} {block : Nat} {step : Nat} {d0 : Nat → Nat} (h :
    s.keeps t) : s.keeps (t.wgtMulticast l f shard block step d0) := by
  unfold State.wgtMulticast
  try dsimp only
  repeat'
    first
    | with_reducible exact h | with_reducible assumption | with_reducible apply State.keeps.landingDrop
    | with_reducible apply State.keeps.linkOut | with_reducible apply State.keeps.wgtLand
    | (with_reducible refine State.keeps.foldl ?_ ?_; rotate_left; (intro t a; have h : t.keeps t := State.keeps_refl; try dsimp only))
    | (with_reducible refine State.keeps.foldFst ?_ ?_; rotate_left; (intro p a; have h : p.1.keeps p.1 := State.keeps_refl; try dsimp only))
    | split

theorem State.keeps.servedRow {m : Msg} (h : s.keeps t) : s.keeps (t.servedRow m) := by
  unfold State.servedRow
  try dsimp only
  repeat'
    first
    | with_reducible exact h | with_reducible assumption | with_reducible apply State.keeps.answerServed
    | with_reducible apply State.keeps.updSys | split

theorem State.keeps.syncFaulted {u : Nat} {h_ : Nat} {code : Nat} {pc : Word} (h : s.keeps t) : s.keeps
    (t.syncFaulted u h_ code pc) := by
  unfold State.syncFaulted
  try dsimp only
  repeat'
    first
    | with_reducible exact h | with_reducible assumption | with_reducible apply State.keeps.handFault
    | with_reducible refine State.keeps.putCell ?_ | with_reducible refine State.keeps.unitRest ?_ (fun _ => rfl)

theorem State.keeps.syncReply {m : Msg} (h : s.keeps t) : s.keeps (t.syncReply m) := by
  unfold State.syncReply
  try dsimp only
  repeat'
    first
    | with_reducible exact h | with_reducible assumption | with_reducible apply State.keeps.syncFaulted
    | with_reducible refine State.keeps.putCell ?_ | with_reducible refine State.keeps.unitRest ?_ (fun _ => rfl)
    | (with_reducible refine State.keeps.unitRest ?_ ?_; rotate_left; (intro x; repeat' split; all_goals rfl))
    | split

theorem State.keeps.syncAcked {m : Msg} (h : s.keeps t) : s.keeps (t.syncAcked m) := by
  unfold State.syncAcked
  try dsimp only
  repeat'
    first
    | with_reducible exact h | with_reducible assumption | with_reducible apply State.keeps.syncFaulted
    | with_reducible refine State.keeps.putCell ?_ | with_reducible refine State.keeps.unitRest ?_ (fun _ => rfl)
    | (with_reducible refine State.keeps.unitRest ?_ ?_; rotate_left; (intro x; repeat' split; all_goals rfl))
    | split

theorem State.keeps.agentFaulted {m : Msg} (h : s.keeps t) : s.keeps (t.agentFaulted m) := by
  unfold State.agentFaulted
  try dsimp only
  repeat'
    first
    | with_reducible exact h | with_reducible assumption | with_reducible apply State.keeps.raise
    | with_reducible apply State.keeps.raiseFrom | with_reducible apply State.keeps.raiseUnit
    | with_reducible apply State.keeps.report | with_reducible apply State.keeps.stopHands | split

theorem State.keeps.epochUpdate {table : Nat} {m : Msg} (h : s.keeps t) : s.keeps (t.epochUpdate table m) := by
  unfold State.epochUpdate
  try dsimp only
  repeat'
    first
    | with_reducible exact h | with_reducible assumption | with_reducible apply State.keeps.updRegion
    | with_reducible apply State.keeps.updSvc | split

theorem State.keeps.epochAcked {u : Nat} (h : s.keeps t) : s.keeps (t.epochAcked u) := by
  unfold State.epochAcked
  try dsimp only
  repeat'
    first
    | with_reducible exact h | with_reducible assumption | with_reducible apply State.keeps.abortNext
    | with_reducible apply State.keeps.applyWait | with_reducible apply State.keeps.blotTail
    | with_reducible apply State.keeps.updRegion
    | (with_reducible refine State.keeps.foldl ?_ ?_; rotate_left; (intro t a; have h : t.keeps t := State.keeps_refl; try dsimp only))
    | (with_reducible refine State.keeps.foldFst ?_ ?_; rotate_left; (intro p a; have h : p.1.keeps p.1 := State.keeps_refl; try dsimp only))
    | split | with_reducible refine State.keeps.rest ?_

theorem State.keeps.eventRecord {m : Msg} (h : s.keeps t) : s.keeps (t.eventRecord m) := by
  unfold State.eventRecord
  try dsimp only
  repeat'
    first
    | with_reducible exact h | with_reducible assumption | with_reducible apply State.keeps.raise
    | with_reducible apply State.keeps.report | split

theorem State.keeps.syncOp {x : Arrival} {pick : Nat → Bool} {f : State → State} (h : s.keeps t)
    (hf : ∀ v : State, v.keeps (f v)) : s.keeps (t.syncOp x pick f) := by
  unfold State.syncOp
  dsimp only
  split
  · refine .arrive h fun v w e => ?_
    cases e
    split
    · exact .syncAnswer State.keeps_refl
    · exact hf v
  · exact h

theorem State.keeps.contributed {m : Msg} (h : s.keeps t) : s.keeps (t.contributed m) := by
  unfold State.contributed
  try dsimp only
  repeat'
    first
    | with_reducible exact h | with_reducible assumption | with_reducible apply State.keeps.gatherVerdict
    | with_reducible apply State.keeps.schedFault | with_reducible apply State.keeps.syncContribute_fst
    | (with_reducible refine State.keeps.syncContribute_eq ?_ ‹_›) | with_reducible apply State.keeps.updSys | split

theorem State.keeps.refresh {r : Nat} {c : Nat} {p : Nat} {b : Nat} (h : s.keeps t) : s.keeps (t.refresh r c p b) := by
  unfold State.refresh
  try dsimp only
  repeat'
    first
    | with_reducible exact h | with_reducible assumption
    | with_reducible refine State.keeps.wellRest ?_ (fun _ => rfl)

theorem State.keeps.patrolScrub {r : Nat} {c : Nat} {p : Nat} {errs : Errs} (h : s.keeps t) : s.keeps (t.patrolScrub
    r c p errs) := by
  unfold State.patrolScrub
  try dsimp only
  repeat'
    first
    | with_reducible exact h | with_reducible assumption | with_reducible apply State.keeps.updP1
    | with_reducible apply State.keeps.wellCheck_fst | (with_reducible refine State.keeps.wellCheck_eq ?_ ‹_›)
    | with_reducible refine State.keeps.wellRest ?_ (fun _ => rfl)
    | (with_reducible refine State.keeps.wellRest ?_ ?_; rotate_left; (intro x; repeat' split; all_goals rfl))
    | (with_reducible refine State.keeps.setWellRest ?_ ?_; rotate_left; rfl) | split

theorem State.keeps.repairRow {r : Nat} {c : Nat} {f : Nat × Nat × Nat} (h : s.keeps t) : s.keeps (t.repairRow r c
    f) := by
  unfold State.repairRow
  try dsimp only
  repeat'
    first
    | with_reducible exact h | with_reducible assumption | with_reducible apply State.keeps.note
    | with_reducible apply State.keeps.raise | with_reducible apply State.keeps.updP1
    | with_reducible refine State.keeps.wellRest ?_ (fun _ => rfl)

theorem State.keeps.channelFailed {r : Nat} {c : Nat} (h : s.keeps t) : s.keeps (t.channelFailed r c) := by
  unfold State.channelFailed
  try dsimp only
  repeat'
    first
    | with_reducible exact h | with_reducible assumption | with_reducible apply State.keeps.note
    | with_reducible apply State.keeps.raise | with_reducible apply State.keeps.structural
    | with_reducible apply State.keeps.withdraw | with_reducible refine State.keeps.wellRest ?_ (fun _ => rfl)

theorem State.keeps.scrubWord {r : Nat} {again : List (Nat × Nat)} {f : Nat × Nat × Ecc} (h : s.keeps t) :
    s.keeps (t.scrubWord r again f) := by
  unfold State.scrubWord
  try dsimp only
  repeat'
    first
    | with_reducible exact h | with_reducible assumption | with_reducible apply State.keeps.report
    | with_reducible apply State.keeps.wellFixed | with_reducible apply State.keeps.wellLost
    | with_reducible refine State.keeps.wellRest ?_ (fun _ => rfl)
    | (with_reducible refine State.keeps.wellRest ?_ ?_; rotate_left; (intro x; repeat' split; all_goals rfl))
    | split

theorem State.keeps.targetedScrub {r : Nat} {c : Nat} {found : List (Nat × Nat × Ecc)} {again : List (Nat × Nat)} (h
    : s.keeps t) : s.keeps (t.targetedScrub r c found again) := by
  unfold State.targetedScrub
  try dsimp only
  repeat'
    first
    | with_reducible exact h | with_reducible assumption | with_reducible apply State.keeps.abortNext
    | with_reducible apply State.keeps.channelFailed | with_reducible apply State.keeps.recordTest
    | with_reducible apply State.keeps.repairRow | with_reducible apply State.keeps.scrubWord
    | with_reducible apply State.keeps.updP1 | with_reducible apply State.keeps.updSeq
    | (with_reducible refine State.keeps.foldl ?_ ?_; rotate_left; (intro t a; have h : t.keeps t := State.keeps_refl; try dsimp only))
    | (with_reducible refine State.keeps.foldFst ?_ ?_; rotate_left; (intro p a; have h : p.1.keeps p.1 := State.keeps_refl; try dsimp only))
    | split | with_reducible refine State.keeps.rest ?_

theorem State.keeps.streamStart {r : Nat} {t_ : Nat} (h : s.keeps t) : s.keeps (t.streamStart r t_) := by
  unfold State.streamStart
  try dsimp only
  repeat'
    first
    | with_reducible exact h | with_reducible assumption | with_reducible apply State.keeps.raise
    | with_reducible apply State.keeps.setP1 | with_reducible refine State.keeps.wellRest ?_ (fun _ => rfl)
    | with_reducible refine State.keeps.updWell ?_ (fun _ _ => rfl)
    | (with_reducible refine State.keeps.wellRest ?_ ?_; rotate_left; (intro x; repeat' split; all_goals rfl))
    | split | with_reducible refine State.keeps.rest ?_

theorem State.keeps.settleLine {r : Nat} {l : Nat} (h : s.keeps t) : s.keeps (t.settleLine r l) := by
  unfold State.settleLine
  try dsimp only
  repeat'
    first
    | with_reducible exact h | with_reducible assumption | with_reducible apply State.keeps.updP1 | split

theorem State.keeps.streamDone {r : Nat} {l : Nat} {t_ : Nat} (h : s.keeps t) : s.keeps (t.streamDone r l t_) := by
  unfold State.streamDone
  try dsimp only
  repeat'
    first
    | with_reducible exact h | with_reducible assumption | with_reducible apply State.keeps.settleLine
    | with_reducible apply State.keeps.updP1 | with_reducible refine State.keeps.wellRest ?_ (fun _ => rfl)

theorem State.keeps.streamStop {r : Nat} {l : Nat} {t_ : Nat} {code : Nat} (h : s.keeps t) : s.keeps (t.streamStop r
    l t_ code) := by
  unfold State.streamStop
  try dsimp only
  repeat'
    first
    | with_reducible exact h | with_reducible assumption | with_reducible apply State.keeps.settleLine
    | with_reducible apply State.keeps.updP1 | with_reducible refine State.keeps.wellRest ?_ (fun _ => rfl)

theorem State.keeps.streamRow {r : Nat} {l : Nat} {errs : Errs} (h : s.keeps t) : s.keeps (t.streamRow r l errs) := by
  unfold State.streamRow
  try dsimp only
  repeat'
    first
    | with_reducible exact h | with_reducible assumption | with_reducible apply State.keeps.send
    | with_reducible apply State.keeps.streamDone | with_reducible apply State.keeps.streamStop
    | with_reducible apply State.keeps.updP1 | with_reducible apply State.keeps.wellRead_fst
    | (with_reducible refine State.keeps.wellRead_eq ?_ ‹_›)
    | with_reducible refine State.keeps.wellRest ?_ (fun _ => rfl)
    | (with_reducible refine State.keeps.wellRest ?_ ?_; rotate_left; (intro x; repeat' split; all_goals rfl))
    | split

theorem State.keeps.inkForward {u : Nat} {v_ : Nat} {k : InkRow} (h : s.keeps t) : s.keeps (t.inkForward u v_ k) := by
  unfold State.inkForward
  try dsimp only
  repeat'
    first
    | with_reducible exact h | with_reducible assumption | with_reducible apply State.keeps.inkPush
    | with_reducible apply State.keeps.send | split

theorem State.keeps.inkRow {u : Nat} (h : s.keeps t) : s.keeps (t.inkRow u) := by
  unfold State.inkRow
  try dsimp only
  repeat'
    first
    | with_reducible exact h | with_reducible assumption | with_reducible apply State.keeps.inkForward
    | with_reducible apply State.keeps.settleLine | with_reducible refine State.keeps.putCell ?_
    | with_reducible refine State.keeps.unitRest ?_ (fun _ => rfl)
    | (with_reducible refine State.keeps.unitRest ?_ ?_; rotate_left; (intro x; repeat' split; all_goals rfl))
    | with_reducible refine State.keeps.wellRest ?_ (fun _ => rfl)
    | (with_reducible refine State.keeps.wellRest ?_ ?_; rotate_left; (intro x; repeat' split; all_goals rfl))
    | split

theorem State.keeps.stallEvent {r : Nat} {l : Nat} (h : s.keeps t) : s.keeps (t.stallEvent r l) := by
  unfold State.stallEvent
  try dsimp only
  repeat'
    first
    | with_reducible exact h | with_reducible assumption | with_reducible apply State.keeps.raise
    | with_reducible apply State.keeps.updP1

theorem State.keeps.inkStall {r : Nat} {l : Nat} (h : s.keeps t) : s.keeps (t.inkStall r l) := by
  unfold State.inkStall
  try dsimp only
  repeat'
    first
    | with_reducible exact h | with_reducible assumption | with_reducible apply State.keeps.stallEvent
    | with_reducible refine State.keeps.wellRest ?_ (fun _ => rfl)
    | (with_reducible refine State.keeps.wellRest ?_ ?_; rotate_left; (intro x; repeat' split; all_goals rfl))
    | split

theorem State.keeps.inkCommandWait {u : Nat} (h : s.keeps t) : s.keeps (t.inkCommandWait u) := by
  unfold State.inkCommandWait
  try dsimp only
  repeat'
    first
    | with_reducible exact h | with_reducible assumption | with_reducible apply State.keeps.stallEvent
    | with_reducible exact State.keeps.setUnitReset h
    | (with_reducible refine State.keeps.setUnitRest ?_ ?_; rotate_left; rfl) | split

theorem State.keeps.lastingCorrectable {u : Nat} (h : s.keeps t) : s.keeps (t.lastingCorrectable u) := by
  unfold State.lastingCorrectable
  try dsimp only
  repeat'
    first
    | with_reducible exact h | with_reducible assumption | with_reducible apply State.keeps.note
    | with_reducible apply State.keeps.raise | with_reducible apply State.keeps.seeP1
    | with_reducible apply State.keeps.testWord | with_reducible apply State.keeps.updP1
    | with_reducible apply State.keeps.updSvc

theorem State.keeps.transient {u : Nat} (h : s.keeps t) : s.keeps (t.transient u) := by
  unfold State.transient
  try dsimp only
  repeat'
    first
    | with_reducible exact h | with_reducible assumption | with_reducible apply State.keeps.lastingCorrectable
    | with_reducible apply State.keeps.recordTest | split

theorem State.keeps.verified {u : Nat} {q : Nat} {v_ : Nat × Nat × Nat} {e : Ecc} (h : s.keeps t) : s.keeps
    (t.verified u q v_ e) := by
  unfold State.verified
  try dsimp only
  repeat'
    first
    | with_reducible exact h | with_reducible assumption | with_reducible apply State.keeps.lastingCorrectable
    | with_reducible apply State.keeps.transient | with_reducible apply State.keeps.updSvc | split

theorem State.keeps.verifyRow {u : Nat} {q : Nat} {e : Ecc} (h : s.keeps t) : s.keeps (t.verifyRow u q e) := by
  unfold State.verifyRow
  try dsimp only
  repeat'
    first
    | with_reducible exact h | with_reducible assumption | with_reducible apply State.keeps.portAccess_fst
    | (with_reducible refine State.keeps.portAccess_eq ?_ ‹_›) | with_reducible apply State.keeps.verified | split
    | with_reducible refine State.keeps.rest ?_

theorem State.keeps.verifyWord {u : Nat} {k : Nat} {e : Ecc} (h : s.keeps t) : s.keeps (t.verifyWord u k e) := by
  unfold State.verifyWord
  try dsimp only
  repeat'
    first
    | with_reducible exact h | with_reducible assumption | with_reducible apply State.keeps.lastingCorrectable
    | with_reducible apply State.keeps.raiseUnit | with_reducible apply State.keeps.report
    | with_reducible apply State.keeps.stopHands | with_reducible apply State.keeps.transient
    | with_reducible apply State.keeps.updSvc | split

theorem State.keeps.regionVerdict {r : Nat} (h : s.keeps t) : s.keeps (t.regionVerdict r) := by
  unfold State.regionVerdict
  try dsimp only
  repeat'
    first
    | with_reducible exact h | with_reducible assumption | with_reducible apply State.keeps.contributed
    | with_reducible apply State.keeps.send | with_reducible apply State.keeps.setPhase
    | with_reducible apply State.keeps.updSvc | split

theorem State.keeps.toPartner {shard : Nat} {block : Nat} {gkind : Nat} {nf : Bool} {rows : List Row} (h : s.keeps
    t) : s.keeps (t.toPartner shard block gkind nf rows) := by
  unfold State.toPartner
  try dsimp only
  repeat'
    first
    | with_reducible exact h | with_reducible assumption | with_reducible apply State.keeps.linkInject
    | with_reducible apply State.keeps.wgtLand | split

theorem State.keeps.sendPacket {shard : Nat} {block : Nat} {rows : List Row} {nf : Bool} (h : s.keeps t) : s.keeps
    (t.sendPacket shard block rows nf) := by
  unfold State.sendPacket
  try dsimp only
  repeat'
    first
    | with_reducible exact h | with_reducible assumption | with_reducible apply State.keeps.toPartner
    | with_reducible apply State.keeps.wgtMulticast
    | (with_reducible refine State.keeps.foldl ?_ ?_; rotate_left; (intro t a; have h : t.keeps t := State.keeps_refl; try dsimp only))

theorem State.keeps.weightPacket {shard : Nat} {block : Nat} {place : RowPlace} {errs : Errs} (h : s.keeps t) :
    s.keeps (t.weightPacket shard block place errs) := by
  unfold State.weightPacket
  try dsimp only
  repeat'
    first
    | with_reducible exact h | with_reducible assumption | with_reducible apply State.keeps.readRows_fst
    | (with_reducible refine State.keeps.readRows_eq ?_ ‹_›) | with_reducible apply State.keeps.sendPacket
    | with_reducible apply State.keeps.setPhase | with_reducible apply State.keeps.updSeq
    | with_reducible apply State.keeps.winBanks_fst | (with_reducible refine State.keeps.winBanks_eq ?_ ‹_›) | split
    | with_reducible refine State.keeps.rest ?_

theorem State.keeps.snapshotGranule {shard : Nat} (h : s.keeps t) : s.keeps (t.snapshotGranule shard) := by
  unfold State.snapshotGranule
  try dsimp only
  repeat'
    first
    | with_reducible exact h | with_reducible assumption | with_reducible apply State.keeps.committed
    | with_reducible apply State.keeps.toPartner | with_reducible apply State.keeps.updSeq | split

theorem State.keeps.moduleReady {errs : Errs} (h : s.keeps t) : s.keeps (t.moduleReady errs) := by
  unfold State.moduleReady
  try dsimp only
  repeat'
    first
    | with_reducible exact h | with_reducible assumption | with_reducible apply State.keeps.committed
    | with_reducible apply State.keeps.reportReady | with_reducible apply State.keeps.setPhase | split

theorem State.keeps.blockRead_fst {shard : Nat} {b : Nat} {errs : Errs} {i : Nat} (h : s.keeps t) : s.keeps
    (t.blockRead shard b errs i).1 := by
  unfold State.blockRead
  try dsimp only
  repeat'
    first
    | with_reducible exact h | with_reducible assumption | with_reducible apply State.keeps.wellReads_fst
    | (with_reducible refine State.keeps.wellReads_eq ?_ ‹_›) | split

theorem State.keeps.blockRead_eq {shard : Nat} {b : Nat} {errs : Errs} {i : Nat} {o : Option (List Row)} (h :
    s.keeps t) (e : t.blockRead shard b errs i = (v, o)) : s.keeps v :=
  State.keeps.of_fst h.blockRead_fst e

theorem State.keeps.shardRead_fst {k : List Nat} : ∀ {t : State} {shard : Nat} {errs : Errs} {n0 : Nat}, s.keeps t →
    s.keeps (t.shardRead shard errs n0 k).1 := by
  induction k with
  | nil => exact fun h => by unfold State.shardRead; exact h
  | cons x k ih =>
    intro t shard errs n0 h
    unfold State.shardRead
    try dsimp only
    repeat'
      first
      | with_reducible exact h | with_reducible assumption | with_reducible apply ih
      | with_reducible apply State.keeps.blockRead_fst | (with_reducible refine State.keeps.blockRead_eq ?_ ‹_›)
      | split

theorem State.keeps.shardRead_eq {shard : Nat} {errs : Errs} {n0 : Nat} {k : List Nat} {o : Option (List (Nat × List
    Row))} (h : s.keeps t) (e : t.shardRead shard errs n0 k = (v, o)) : s.keeps v :=
  State.keeps.of_fst h.shardRead_fst e

theorem State.keeps.shardReads_fst {k : List Nat} : ∀ {t : State} {errs : Errs} {n0 : Nat}, s.keeps t → s.keeps
    (t.shardReads errs n0 k).1 := by
  induction k with
  | nil => exact fun h => by unfold State.shardReads; exact h
  | cons x k ih =>
    intro t errs n0 h
    unfold State.shardReads
    try dsimp only
    repeat'
      first
      | with_reducible exact h | with_reducible assumption | with_reducible apply ih
      | with_reducible apply State.keeps.shardRead_fst | (with_reducible refine State.keeps.shardRead_eq ?_ ‹_›)
      | split

theorem State.keeps.shardReads_eq {errs : Errs} {n0 : Nat} {k : List Nat} {o : Option (List (Nat × List (Nat × List
    Row)))} (h : s.keeps t) (e : t.shardReads errs n0 k = (v, o)) : s.keeps v :=
  State.keeps.of_fst h.shardReads_fst e

theorem State.keeps.digestOwned (h : s.keeps t) : s.keeps (t.digestOwned) := by
  unfold State.digestOwned
  try dsimp only
  repeat'
    first
    | with_reducible exact h | with_reducible assumption | with_reducible apply State.keeps.shardRead_fst
    | (with_reducible refine State.keeps.shardRead_eq ?_ ‹_›) | with_reducible apply State.keeps.updSeq
    | (with_reducible refine State.keeps.foldl ?_ ?_; rotate_left; (intro t a; have h : t.keeps t := State.keeps_refl; try dsimp only))
    | (with_reducible refine State.keeps.foldFst ?_ ?_; rotate_left; (intro p a; have h : p.1.keeps p.1 := State.keeps_refl; try dsimp only))
    | split | with_reducible refine State.keeps.rest ?_

theorem State.keeps.openStep {batches : List (Nat × Nat)} (h : s.keeps t) : s.keeps (t.openStep batches) := by
  unfold State.openStep
  try dsimp only
  repeat'
    first
    | with_reducible exact h | with_reducible assumption | with_reducible apply State.keeps.digestOwned
    | (with_reducible refine State.keeps.forRegions ?_ ?_; rotate_left; (intro t r; have h : t.keeps t := State.keeps_refl; try dsimp only))
    | with_reducible apply State.keeps.jobStop | with_reducible apply State.keeps.openRegion
    | with_reducible apply State.keeps.setPhase
    | (with_reducible refine State.keeps.foldl ?_ ?_; rotate_left; (intro t a; have h : t.keeps t := State.keeps_refl; try dsimp only))
    | split

theorem State.keeps.digestComplete {errs : Errs} (h : s.keeps t) : s.keeps (t.digestComplete errs) := by
  unfold State.digestComplete
  try dsimp only
  repeat'
    first
    | with_reducible exact h | with_reducible assumption | with_reducible apply State.keeps.blotTail
    | with_reducible apply State.keeps.committed | with_reducible apply State.keeps.finish
    | with_reducible apply State.keeps.hostWrite | with_reducible apply State.keeps.raiseSeq
    | with_reducible apply State.keeps.shardReads_fst | (with_reducible refine State.keeps.shardReads_eq ?_ ‹_›)
    | with_reducible apply State.keeps.updSeq
    | (with_reducible refine State.keeps.foldl ?_ ?_; rotate_left; (intro t a; have h : t.keeps t := State.keeps_refl; try dsimp only))
    | (with_reducible refine State.keeps.foldFst ?_ ?_; rotate_left; (intro p a; have h : p.1.keeps p.1 := State.keeps_refl; try dsimp only))
    | split | with_reducible refine State.keeps.rest ?_

theorem State.keeps.laneTested {l : Nat} {p : Nat} {pass : Bool} (h : s.keeps t) : s.keeps (t.laneTested l p pass)
    := by
  unfold State.laneTested
  try dsimp only
  repeat'
    first
    | with_reducible exact h | with_reducible assumption | with_reducible apply State.keeps.sendMnt
    | with_reducible apply State.keeps.updLink | split | with_reducible refine State.keeps.rest ?_

theorem State.keeps.selfTest {t_ : TestTarget} {x : TestResult} (h : s.keeps t) : s.keeps (t.selfTest t_ x) := by
  unfold State.selfTest
  try dsimp only
  repeat'
    first
    | with_reducible exact h | with_reducible assumption | with_reducible apply State.keeps.abortNext
    | with_reducible apply State.keeps.blotTail | with_reducible apply State.keeps.laneTested
    | with_reducible apply State.keeps.testResult | split

theorem State.keeps.updFill {r : Nat} {rowMap : Nat} {g : Fill → Fill} (h : s.keeps t) : s.keeps (t.updFill r rowMap
    g) := by
  unfold State.updFill
  try dsimp only
  repeat'
    first
    | with_reducible exact h | with_reducible assumption | with_reducible apply State.keeps.updSvc

theorem State.keeps.spareWake {r : Nat} {rowMap : Nat} (h : s.keeps t) : s.keeps (t.spareWake r rowMap) := by
  unfold State.spareWake
  try dsimp only
  repeat'
    first
    | with_reducible exact h | with_reducible assumption | with_reducible apply State.keeps.updFill | split

theorem State.keeps.spareTest {r : Nat} {rowMap : Nat} {pass : Bool} (h : s.keeps t) : s.keeps (t.spareTest r rowMap
    pass) := by
  unfold State.spareTest
  try dsimp only
  repeat'
    first
    | with_reducible exact h | with_reducible assumption | with_reducible apply State.keeps.failFill
    | with_reducible apply State.keeps.recordTest | with_reducible apply State.keeps.testRows
    | with_reducible apply State.keeps.testWords | with_reducible apply State.keeps.updFill
    | with_reducible apply State.keeps.winBanks_fst | (with_reducible refine State.keeps.winBanks_eq ?_ ‹_›) | split
    | with_reducible refine State.keeps.rest ?_

theorem State.keeps.spareLoad {r : Nat} {rowMap : Nat} {errs : Errs} (h : s.keeps t) : s.keeps (t.spareLoad r rowMap
    errs) := by
  unfold State.spareLoad
  try dsimp only
  repeat'
    first
    | with_reducible exact h | with_reducible assumption | with_reducible apply State.keeps.epochChange
    | with_reducible apply State.keeps.failFill | with_reducible apply State.keeps.jobStop
    | with_reducible apply State.keeps.loadStage_fst | (with_reducible refine State.keeps.loadStage_eq ?_ ‹_›)
    | with_reducible apply State.keeps.updFill | with_reducible apply State.keeps.winBanks_fst
    | (with_reducible refine State.keeps.winBanks_eq ?_ ‹_›) | split | with_reducible refine State.keeps.rest ?_

theorem State.keeps.carbonRows {shard : Nat} {blocks : List (Nat × List Row)} (h : s.keeps t) : s.keeps
    (t.carbonRows shard blocks) := by
  unfold State.carbonRows
  try dsimp only
  repeat'
    first
    | with_reducible exact h | with_reducible assumption | with_reducible apply State.keeps.writeWell
    | (with_reducible refine State.keeps.foldl ?_ ?_; rotate_left; (intro t a; have h : t.keeps t := State.keeps_refl; try dsimp only))
    | split

theorem State.keeps.refetched {shard : Nat} {blocks : List (Nat × List Row)} (h : s.keeps t) : s.keeps (t.refetched
    shard blocks) := by
  unfold State.refetched
  try dsimp only
  repeat'
    first
    | with_reducible exact h | with_reducible assumption | with_reducible apply State.keeps.blotTail
    | with_reducible apply State.keeps.carbonRows | with_reducible apply State.keeps.updSeq

theorem State.keeps.recreated {shard : Nat} {blocks : List (Nat × List Row)} (h : s.keeps t) : s.keeps (t.recreated
    shard blocks) := by
  unfold State.recreated
  try dsimp only
  repeat'
    first
    | with_reducible exact h | with_reducible assumption | with_reducible apply State.keeps.abortNext
    | with_reducible apply State.keeps.blotTail | with_reducible apply State.keeps.carbonRows
    | with_reducible apply State.keeps.takePlace_fst | (with_reducible refine State.keeps.takePlace_eq ?_ ‹_›)
    | with_reducible apply State.keeps.updSeq | with_reducible apply State.keeps.writeWell
    | (with_reducible refine State.keeps.foldl ?_ ?_; rotate_left; (intro t a; have h : t.keeps t := State.keeps_refl; try dsimp only))
    | (with_reducible refine State.keeps.foldFst ?_ ?_; rotate_left; (intro p a; have h : p.1.keeps p.1 := State.keeps_refl; try dsimp only))
    | split | with_reducible refine State.keeps.rest ?_

theorem State.keeps.carbonCopy {shard : Nat} {copy : CarbonData} (h : s.keeps t) : s.keeps (t.carbonCopy shard copy)
    := by
  unfold State.carbonCopy
  try dsimp only
  repeat'
    first
    | with_reducible exact h | with_reducible assumption | with_reducible apply State.keeps.carbonRows
    | with_reducible apply State.keeps.jobStop | with_reducible apply State.keeps.raiseSeq
    | with_reducible apply State.keeps.recreated | with_reducible apply State.keeps.refetched
    | with_reducible apply State.keeps.shardRead_fst | (with_reducible refine State.keeps.shardRead_eq ?_ ‹_›)
    | with_reducible apply State.keeps.updSeq | split | with_reducible refine State.keeps.rest ?_

end Sys2Proof.Machine
end

