-- ==== Sys2Proof/Laws/KeepsModule.lean ====
section
/-! SUPPORT. The operations of the links, the host interface, the registers, power and management keep the queue and the canonical form (see Laws/Keeps). -/

namespace Sys2Proof.Machine

variable {s t v : State}

theorem State.keeps.pauseLink {l : Nat} (h : s.keeps t) : s.keeps (t.pauseLink l) := by
  unfold State.pauseLink
  try dsimp only
  repeat'
    first
    | with_reducible exact h | with_reducible assumption | with_reducible apply State.keeps.sendMnt
    | with_reducible apply State.keeps.setLnkState | split

theorem State.keeps.replay {l : Nat} (h : s.keeps t) : s.keeps (t.replay l) := by
  unfold State.replay
  try dsimp only
  repeat'
    first
    | with_reducible exact h | with_reducible assumption | with_reducible apply State.keeps.emit
    | with_reducible apply State.keeps.pauseLink | with_reducible apply State.keeps.setLink
    | (with_reducible refine State.keeps.foldl ?_ ?_; rotate_left; (intro t a; have h : t.keeps t := State.keeps_refl; try dsimp only))
    | split

theorem State.keeps.retryEpisode {l : Nat} (h : s.keeps t) : s.keeps (t.retryEpisode l) := by
  unfold State.retryEpisode
  try dsimp only
  repeat'
    first
    | with_reducible exact h | with_reducible assumption | with_reducible apply State.keeps.emit
    | with_reducible apply State.keeps.raiseLink | with_reducible apply State.keeps.seeBar
    | with_reducible apply State.keeps.setLink | with_reducible apply State.keeps.updBar | split

theorem State.keeps.linkFields {l : Nat} {f : Flit} (h : s.keeps t) : s.keeps (t.linkFields l f) := by
  unfold State.linkFields
  try dsimp only
  repeat'
    first
    | with_reducible exact h | with_reducible assumption | with_reducible apply State.keeps.linkPumpAll
    | with_reducible apply State.keeps.replay | with_reducible apply State.keeps.updLink | split

theorem State.keeps.ackBack {l : Nat} {lvc : Nat} (h : s.keeps t) : s.keeps (t.ackBack l lvc) := by
  unfold State.ackBack
  try dsimp only
  repeat'
    first
    | with_reducible exact h | with_reducible assumption | with_reducible apply State.keeps.linkRaw

theorem State.keeps.flitDrop {l : Nat} (h : s.keeps t) : s.keeps (t.flitDrop l) := by
  unfold State.flitDrop
  try dsimp only
  repeat'
    first
    | with_reducible exact h | with_reducible assumption | with_reducible apply State.keeps.raiseFrom
    | with_reducible apply State.keeps.seeBar

theorem State.keeps.suspectLane {l : Nat} {p : Nat} (h : s.keeps t) : s.keeps (t.suspectLane l p) := by
  unfold State.suspectLane
  try dsimp only
  repeat'
    first
    | with_reducible exact h | with_reducible assumption | with_reducible apply State.keeps.pauseLink
    | with_reducible apply State.keeps.sendMnt | with_reducible apply State.keeps.updLink | split

theorem State.keeps.countCorrected {l : Nat} {octets : List Nat} (h : s.keeps t) : s.keeps (t.countCorrected l
    octets) := by
  unfold State.countCorrected
  try dsimp only
  repeat'
    first
    | with_reducible exact h | with_reducible assumption | with_reducible apply State.keeps.updBar
    | with_reducible apply State.keeps.updLink | split

theorem State.keeps.suspectLanes {l : Nat} {octets : List Nat} (h : s.keeps t) : s.keeps (t.suspectLanes l octets) := by
  unfold State.suspectLanes
  try dsimp only
  repeat'
    first
    | with_reducible exact h | with_reducible assumption | with_reducible apply State.keeps.suspectLane
    | with_reducible apply State.keeps.updLink
    | (with_reducible refine State.keeps.foldl ?_ ?_; rotate_left; (intro t a; have h : t.keeps t := State.keeps_refl; try dsimp only))
    | split

theorem State.keeps.rxGood {l : Nat} {f : Flit} {k : State → State} (h : s.keeps t) (hk : ∀ v : State, v.keeps (k v)) :
    s.keeps (t.rxGood l f k) := by
  have h1 : s.keeps (t.linkFields l f) := .linkFields h
  unfold State.rxGood
  dsimp only
  split
  · split
    · exact .trans h1 (hk _)
    · exact .flitDrop h1
  split
  · exact .retryEpisode h1
  · repeat'
      first
      | with_reducible exact .flitDrop (.ackBack (.updLink h1)) | with_reducible exact .ackBack (.updLink h1)
      | with_reducible exact .trans (.ackBack (.updLink h1)) (hk _) | split

theorem State.keeps.rx {l : Nat} {f : Flit} {takes : Flit → Bool} {k : State → Flit → State} (h : s.keeps t)
    (hk : ∀ (v : State) (g : Flit), v.keeps (k v g)) : s.keeps (t.rx l f takes k) := by
  unfold State.rx
  repeat'
    first
    | with_reducible exact h | with_reducible exact .suspectLanes (.retryEpisode (.countCorrected h))
    | with_reducible exact .suspectLanes (.retryEpisode (.updBar (.countCorrected h)))
    | with_reducible exact .suspectLanes (.rxGood (.countCorrected h) fun v => hk v _) | split

theorem State.keeps.ttlDrop {l : Nat} (h : s.keeps t) : s.keeps (t.ttlDrop l) := by
  unfold State.ttlDrop
  try dsimp only
  repeat'
    first
    | with_reducible exact h | with_reducible assumption | with_reducible apply State.keeps.raiseFrom
    | with_reducible apply State.keeps.report | with_reducible apply State.keeps.seeBar

theorem State.keeps.linkForward {l : Nat} {f : Flit} (h : s.keeps t) : s.keeps (t.linkForward l f) := by
  unfold State.linkForward
  try dsimp only
  repeat'
    first
    | with_reducible exact h | with_reducible assumption | with_reducible apply State.keeps.linkOut
    | with_reducible apply State.keeps.noRoute | with_reducible apply State.keeps.ttlDrop | split

theorem State.keeps.deliverOr {l : Nat} {f : Flit} {k : State → State} (h : s.keeps t) (hk : ∀ v : State, v.keeps (k v)) :
    s.keeps (t.deliverOr l f k) := by
  unfold State.deliverOr
  split
  · exact h.trans (hk t)
  · exact .linkForward h

theorem State.keeps.remoteAccess {l : Nat} {f : Flit} {write : Bool} (h : s.keeps t) : s.keeps (t.remoteAccess l f
    write) := by
  unfold State.remoteAccess
  try dsimp only
  repeat'
    first
    | with_reducible exact h | with_reducible assumption | with_reducible apply State.keeps.answerServed
    | with_reducible apply State.keeps.seeBar | with_reducible apply State.keeps.send
    | with_reducible apply State.keeps.updBar | with_reducible apply State.keeps.updSys
    | (with_reducible refine State.keeps.foldl ?_ ?_; rotate_left; (intro t a; have h : t.keeps t := State.keeps_refl; try dsimp only))
    | split

theorem State.keeps.remoteAnswer {f : Flit} {type : Nat} {status : Nat} {body : List Row} (h : s.keeps t) : s.keeps
    (t.remoteAnswer f type status body) := by
  unfold State.remoteAnswer
  try dsimp only
  repeat'
    first
    | with_reducible exact h | with_reducible assumption | with_reducible apply State.keeps.send
    | with_reducible apply State.keeps.updSys | split

theorem State.keeps.wgtFlit {l : Nat} {f : Flit} (h : s.keeps t) : s.keeps (t.wgtFlit l f) := by
  unfold State.wgtFlit
  try dsimp only
  repeat'
    first
    | with_reducible exact h | with_reducible assumption | (with_reducible refine State.keeps.deliverOr ?_ ?_; rotate_left; (intro t; have h : t.keeps t := State.keeps_refl; try dsimp only))
    | with_reducible apply State.keeps.ttlDrop | with_reducible apply State.keeps.wgtLand
    | with_reducible apply State.keeps.wgtMulticast | split

theorem State.keeps.sysDiscard (h : s.keeps t) : s.keeps (t.sysDiscard) := by
  unfold State.sysDiscard
  try dsimp only
  repeat'
    first
    | with_reducible exact h | with_reducible assumption | with_reducible apply State.keeps.raiseFrom
    | with_reducible apply State.keeps.seeBar | with_reducible apply State.keeps.updBar

theorem State.keeps.sysFlit {l : Nat} {f : Flit} {cmd : Nat} {k : State → Flit → State} (h : s.keeps t)
    (hk : ∀ (v : State) (g : Flit), v.keeps (k v g)) : s.keeps (t.sysFlit l f cmd k) := by
  unfold State.sysFlit
  refine .rx h fun v g => ?_
  split
  · exact .sysDiscard State.keeps_refl
  · refine State.keeps.trans ?_ (hk _ _)
    split
    · exact .switchDeputy State.keeps_refl
    · exact State.keeps_refl

theorem State.keeps.verdictUp {l : Nat} {f : Flit} (h : s.keeps t) : s.keeps (t.verdictUp l f) := by
  unfold State.verdictUp
  try dsimp only
  repeat'
    first
    | with_reducible exact h | with_reducible assumption | with_reducible apply State.keeps.gatherVerdict
    | with_reducible apply State.keeps.updSys | split

theorem State.keeps.readyUp {l : Nat} {f : Flit} {errs : Errs} (h : s.keeps t) : s.keeps (t.readyUp l f errs) := by
  unfold State.readyUp
  try dsimp only
  repeat'
    first
    | with_reducible exact h | with_reducible assumption | with_reducible apply State.keeps.gatherReady
    | with_reducible apply State.keeps.updSys | split

theorem State.keeps.peerLost {peer : Nat} (h : s.keeps t) : s.keeps (t.peerLost peer) := by
  unfold State.peerLost
  try dsimp only
  repeat'
    first
    | with_reducible exact h | with_reducible assumption | with_reducible apply State.keeps.abortUp
    | with_reducible apply State.keeps.switchDeputy | split

theorem State.keeps.hello {l : Nat} {f : Flit} (h : s.keeps t) : s.keeps (t.hello l f) := by
  unfold State.hello
  try dsimp only
  repeat'
    first
    | with_reducible exact h | with_reducible assumption | with_reducible apply State.keeps.linkOut
    | with_reducible apply State.keeps.linkUp | with_reducible apply State.keeps.raiseLink
    | with_reducible apply State.keeps.seeBar | with_reducible apply State.keeps.updBar
    | with_reducible apply State.keeps.updLink | split

theorem State.keeps.setLaneMap {l : Nat} {rx : Bool} {m : BitVec 32} (h : s.keeps t) : s.keeps (t.setLaneMap l rx m) := by
  unfold State.setLaneMap
  try dsimp only
  repeat'
    first
    | with_reducible exact h | with_reducible assumption | with_reducible apply State.keeps.setBar
    | with_reducible apply State.keeps.updBar | with_reducible apply State.keeps.updLink | split

theorem State.keeps.laneFault {l : Nat} {p : Nat} {lasting : Bool} (h : s.keeps t) : s.keeps (t.laneFault l p
    lasting) := by
  unfold State.laneFault
  try dsimp only
  repeat'
    first
    | with_reducible exact h | with_reducible assumption | with_reducible apply State.keeps.updBar

theorem State.keeps.linkLost {l : Nat} (h : s.keeps t) : s.keeps (t.linkLost l) := by
  unfold State.linkLost
  try dsimp only
  repeat'
    first
    | with_reducible exact h | with_reducible assumption | with_reducible apply State.keeps.linkDown
    | with_reducible apply State.keeps.peerLost | split

theorem State.keeps.laneLasting {l : Nat} {rx : Bool} {p : Nat} {spareOk : Bool} (h : s.keeps t) : s.keeps
    (t.laneLasting l rx p spareOk) := by
  unfold State.laneLasting
  try dsimp only
  repeat'
    first
    | with_reducible exact h | with_reducible assumption | with_reducible apply State.keeps.laneFault
    | with_reducible apply State.keeps.linkLost | with_reducible apply State.keeps.note
    | with_reducible apply State.keeps.raiseLink | with_reducible apply State.keeps.seeBar
    | with_reducible apply State.keeps.setLaneMap | with_reducible apply State.keeps.setLink | split
    | with_reducible refine State.keeps.rest ?_

theorem State.keeps.resumeLink {l : Nat} (h : s.keeps t) : s.keeps (t.resumeLink l) := by
  unfold State.resumeLink
  try dsimp only
  repeat'
    first
    | with_reducible exact h | with_reducible assumption | with_reducible apply State.keeps.linkPumpAll
    | with_reducible apply State.keeps.replay | with_reducible apply State.keeps.setLnkState
    | with_reducible apply State.keeps.updLink | split | with_reducible refine State.keeps.rest ?_

theorem State.keeps.resumeBoth {l : Nat} (h : s.keeps t) : s.keeps (t.resumeBoth l) := by
  unfold State.resumeBoth
  try dsimp only
  repeat'
    first
    | with_reducible exact h | with_reducible assumption | with_reducible apply State.keeps.resumeLink
    | with_reducible apply State.keeps.sendMnt | split

theorem State.keeps.tellMap {l : Nat} {p : Nat} {rx : Bool} (h : s.keeps t) : s.keeps (t.tellMap l p rx) := by
  unfold State.tellMap
  try dsimp only
  repeat'
    first
    | with_reducible exact h | with_reducible assumption | with_reducible apply State.keeps.sendMnt | split

theorem State.keeps.laneResult {l : Nat} {p : Nat} {pass : Bool} {sparePass : Bool} (h : s.keeps t) : s.keeps
    (t.laneResult l p pass sparePass) := by
  unfold State.laneResult
  try dsimp only
  repeat'
    first
    | with_reducible exact h | with_reducible assumption | with_reducible apply State.keeps.laneFault
    | with_reducible apply State.keeps.laneLasting | with_reducible apply State.keeps.raiseLink
    | with_reducible apply State.keeps.recordTest | with_reducible apply State.keeps.resumeBoth
    | with_reducible apply State.keeps.tellMap | with_reducible apply State.keeps.updLink | split
    | with_reducible refine State.keeps.rest ?_

theorem State.keeps.takeMap {l : Nat} {f : Flit} (h : s.keeps t) : s.keeps (t.takeMap l f) := by
  unfold State.takeMap
  try dsimp only
  repeat'
    first
    | with_reducible exact h | with_reducible assumption | with_reducible apply State.keeps.linkLost
    | with_reducible apply State.keeps.setLaneMap | split

theorem State.keeps.retrainDir {l : Nat} {rx : Bool} {pass : BitVec 9} (h : s.keeps t) : s.keeps (t.retrainDir l rx
    pass) := by
  unfold State.retrainDir
  try dsimp only
  repeat'
    first
    | with_reducible exact h | with_reducible assumption | with_reducible apply State.keeps.laneLasting
    | (with_reducible refine State.keeps.foldl ?_ ?_; rotate_left; (intro t a; have h : t.keeps t := State.keeps_refl; try dsimp only))
    | split

theorem State.keeps.retrain {l : Nat} {tx : BitVec 9} {rx : BitVec 9} (h : s.keeps t) : s.keeps (t.retrain l tx rx)
    := by
  unfold State.retrain
  try dsimp only
  repeat'
    first
    | with_reducible exact h | with_reducible assumption | with_reducible apply State.keeps.pauseLink
    | with_reducible apply State.keeps.resumeBoth | with_reducible apply State.keeps.retrainDir
    | with_reducible apply State.keeps.tellMap | split

theorem State.keeps.linkStarved {l : Nat} {v_ : Nat} (h : s.keeps t) : s.keeps (t.linkStarved l v_) := by
  unfold State.linkStarved
  try dsimp only
  repeat'
    first
    | with_reducible exact h | with_reducible assumption | with_reducible apply State.keeps.raiseLink
    | with_reducible apply State.keeps.seeBar | with_reducible apply State.keeps.setLink
    | with_reducible apply State.keeps.updBar | split

theorem State.keeps.trained {l : Nat} (h : s.keeps t) : s.keeps (t.trained l) := by
  unfold State.trained
  try dsimp only
  repeat'
    first
    | with_reducible exact h | with_reducible assumption | with_reducible apply State.keeps.linkOut
    | with_reducible apply State.keeps.setLaneMap | with_reducible apply State.keeps.setLnkState | split

theorem State.keeps.linkEnable {l : Nat} {on : Bool} (h : s.keeps t) : s.keeps (t.linkEnable l on) := by
  unfold State.linkEnable
  try dsimp only
  repeat'
    first
    | with_reducible exact h | with_reducible assumption | with_reducible apply State.keeps.linkLost
    | with_reducible apply State.keeps.setLink | with_reducible apply State.keeps.setLnkState | split

theorem State.keeps.msixSend {v_ : Nat} (h : s.keeps t) : s.keeps (t.msixSend v_) := by
  unfold State.msixSend
  try dsimp only
  repeat'
    first
    | with_reducible exact h | with_reducible assumption | with_reducible apply State.keeps.emit

theorem State.keeps.msix {v_ : Nat} (h : s.keeps t) : s.keeps (t.msix v_) := by
  unfold State.msix
  try dsimp only
  repeat'
    first
    | with_reducible exact h | with_reducible assumption | with_reducible apply State.keeps.msixSend
    | with_reducible apply State.keeps.seeBar | split

theorem State.keeps.msixPending (h : s.keeps t) : s.keeps (t.msixPending) := by
  unfold State.msixPending
  try dsimp only
  repeat'
    first
    | with_reducible exact h | with_reducible assumption | with_reducible apply State.keeps.msixSend
    | with_reducible apply State.keeps.updBar
    | (with_reducible refine State.keeps.foldl ?_ ?_; rotate_left; (intro t a; have h : t.keeps t := State.keeps_refl; try dsimp only))
    | split

theorem State.keeps.takeDesc {q : Nat} {ok : Bool} (h : s.keeps t) : s.keeps (t.takeDesc q ok) := by
  unfold State.takeDesc
  try dsimp only
  repeat'
    first
    | with_reducible exact h | with_reducible assumption | with_reducible apply State.keeps.updBar
    | with_reducible apply State.keeps.updRing

theorem State.keeps.pollRing {q : Nat} {ok : Bool} (h : s.keeps t) : s.keeps (t.pollRing q ok) := by
  unfold State.pollRing
  try dsimp only
  repeat'
    first
    | with_reducible exact h | with_reducible assumption | with_reducible apply State.keeps.ringStop
    | with_reducible apply State.keeps.takeDesc
    | (with_reducible refine State.keeps.foldl ?_ ?_; rotate_left; (intro t a; have h : t.keeps t := State.keeps_refl; try dsimp only))
    | split

theorem State.keeps.poll {reads : PollReads} (h : s.keeps t) : s.keeps (t.poll reads) := by
  unfold State.poll
  try dsimp only
  repeat'
    first
    | with_reducible exact h | with_reducible assumption | with_reducible apply State.keeps.pollRing
    | (with_reducible refine State.keeps.foldl ?_ ?_; rotate_left; (intro t a; have h : t.keeps t := State.keeps_refl; try dsimp only))
    | (with_reducible refine State.keeps.foldFst ?_ ?_; rotate_left; (intro p a; have h : p.1.keeps p.1 := State.keeps_refl; try dsimp only))
    | split

theorem State.keeps.copyAccess {c : CopyRun} {a : WAddr} {lin : Nat} {w : Bool} {d : Row} {nf : Bool} {e : Ecc}
    (h : s.keeps c.s) : s.keeps (c.access a lin w d nf e).1.s := by
  unfold CopyRun.access
  dsimp only
  split <;> rename_i x <;> exact State.keeps.portAccess_eq h x

theorem State.keeps.copyRead {c : CopyRun} {a : WAddr} {lin : Nat} {errs : Errs} (h : s.keeps c.s) :
    s.keeps (c.read a lin errs).1.s := by
  unfold CopyRun.read
  split
  · exact .wellRead_fst h
  · exact .copyAccess h

theorem State.keeps.copyWrite {c : CopyRun} {a : WAddr} {lin : Nat} {d : Row} {nf : Bool} (h : s.keeps c.s) :
    s.keeps (c.write a lin d nf).s := by
  unfold CopyRun.write
  split
  · exact .wellWrite h
  · exact .copyAccess h

theorem State.keeps.putPiece {c : CopyRun} {d : CopyDesc} {lin n bad : Nat} {row : Row} {nf : Bool} (h : s.keeps c.s) :
    s.keeps (c.putPiece d lin n bad row nf).s := by
  unfold CopyRun.putPiece
  dsimp only
  split <;> exact .copyWrite h

theorem State.keeps.copyInPiece {c : CopyRun} {d : CopyDesc} {errs : Errs} {p : Nat × (Nat × Nat × Nat) × Bool}
    (h : s.keeps c.s) : s.keeps (copyInPiece d errs c p).s := by
  obtain ⟨r, ⟨lin, n, o⟩, last⟩ := p
  unfold Machine.copyInPiece
  dsimp only
  split
  · exact h
  split
  · exact h
  split
  · exact .putPiece h
  split
  · exact .putPiece h
  split
  · exact .copyRead h
  · exact .putPiece (.copyRead h)

theorem State.keeps.flushRow {c : CopyRun} {d : CopyDesc} {r : Nat} (h : s.keeps c.s) : s.keeps (c.flushRow d r).s := by
  unfold CopyRun.flushRow
  split
  · exact h
  · exact .hostPutNonets h

theorem State.keeps.copyOutPiece {c : CopyRun} {d : CopyDesc} {errs : Errs} {p : Nat × (Nat × Nat × Nat) × Bool}
    (h : s.keeps c.s) : s.keeps (copyOutPiece d errs c p).s := by
  obtain ⟨r, ⟨lin, n, o⟩, last⟩ := p
  unfold Machine.copyOutPiece
  dsimp only
  split
  · exact h
  split
  · exact .flushRow h
  split
  · exact .copyRead h
  split
  · exact .flushRow (.copyRead h)
  split
  · exact .flushRow (.copyRead h)
  · exact .copyRead h

theorem State.keeps.copyReg {c : CopyRun} {d : CopyDesc} {lin i : Nat} (h : s.keeps c.s) : s.keeps (copyReg d lin c i).s := by
  unfold Machine.copyReg
  dsimp only
  repeat' (first | exact h | split)

/-- A fold of the pieces of a copy, each of which keeps. -/
theorem State.keeps.copyFold {α : Type} {f : CopyRun → α → CopyRun} {l : List α} {c : CopyRun} (h : s.keeps c.s)
    (hf : ∀ (c : CopyRun) (a : α), s.keeps c.s → s.keeps (f c a).s) : s.keeps (l.foldl f c).s := by
  induction l generalizing c with
  | nil => exact h
  | cons a l ih => exact ih (hf c a h)

theorem State.keeps.copyRegs {c : CopyRun} {d : CopyDesc} {r : Nat} (h : s.keeps c.s) : s.keeps (copyRegs d c r).s :=
  .flushRow (.copyFold h fun _ _ k => .copyReg k)

theorem State.keeps.copyInRun {d : CopyDesc} {errs : Errs} {got : Copied} (h : s.keeps t) :
    s.keeps (t.copyInRun d errs got).s :=
  .copyFold h fun _ _ k => .copyInPiece k

theorem State.keeps.copyOutRun {d : CopyDesc} {errs : Errs} {got : Copied} (h : s.keeps t) :
    s.keeps (t.copyOutRun d errs got).s := by
  unfold State.copyOutRun
  split
  · exact .copyFold h fun _ _ k => .copyRegs k
  · exact .copyFold h fun _ _ k => .copyOutPiece k

theorem State.keeps.keepCopy {q : Nat} {index : Nat} {got : Copied} (h : s.keeps t) : s.keeps (t.keepCopy q index
    got) := by
  unfold State.keepCopy
  try dsimp only
  repeat'
    first
    | with_reducible exact h | with_reducible assumption | with_reducible apply State.keeps.updRing | split
    | with_reducible refine State.keeps.rest ?_

theorem State.keeps.copyIn {q : Nat} {k : Taken} {errs : Errs} {ok : Bool} (h : s.keeps t) :
    s.keeps (t.copyIn q k errs ok) := by
  unfold State.copyIn
  dsimp only
  repeat' (first | with_reducible exact .finish h | with_reducible exact .keepCopy (.copyInRun h)
                 | with_reducible exact .finish (.copyInRun h) | split)

theorem State.keeps.copyOut {q : Nat} {k : Taken} {errs : Errs} {ok : Bool} (h : s.keeps t) :
    s.keeps (t.copyOut q k errs ok) := by
  have c := h.copyOutRun (d := copyDesc k.octets) (errs := errs) (got := k.copied)
  unfold State.copyOut
  dsimp only
  split
  · exact .finish h
  split
  · exact .keepCopy c
  split
  · refine .finish ⟨c.1, fun k => ?_⟩
    obtain ⟨h1, h2, h3, h4, h5, h6, h7, h8, h9⟩ := c.2 k
    exact ⟨h1, h2, h3, h4, h5, h6, h7, (h.2 k).2.2.2.2.2.2.2.1, h9⟩
  · exact .finish c

theorem State.keeps.copyRow {q op : Nat} {f : Taken → State} (h : s.keeps t) (hf : ∀ d, s.keeps (f d)) :
    s.keeps (t.copyRow q op f) := by
  unfold State.copyRow
  repeat' (first | with_reducible exact h | with_reducible exact hf _ | split)

theorem State.keeps.jobRow {q op : Nat} {f : Taken → State} (h : s.keeps t) (hf : ∀ d, s.keeps (f d)) :
    s.keeps (t.jobRow q op f) := by
  unfold State.jobRow
  repeat' (first | with_reducible exact h | with_reducible exact hf _ | with_reducible exact .finish h | split)

theorem State.keeps.finishSched {q : Nat} {i : Nat} {code : Nat} (h : s.keeps t) : s.keeps (t.finishSched q i code) := by
  unfold State.finishSched
  try dsimp only
  repeat'
    first
    | with_reducible exact h | with_reducible assumption | with_reducible apply State.keeps.finish
    | with_reducible apply State.keeps.schedCode
    | (with_reducible refine State.keeps.forRegions ?_ ?_; rotate_left; (intro t r; have h : t.keeps t := State.keeps_refl; try dsimp only))

theorem State.keeps.loadEpochs {img : JobImage} (h : s.keeps t) : s.keeps (t.loadEpochs img) := by
  unfold State.loadEpochs
  try dsimp only
  repeat'
    first
    | with_reducible exact h | with_reducible assumption | with_reducible apply State.keeps.updRegion
    | (with_reducible refine State.keeps.foldl ?_ ?_; rotate_left; (intro t a; have h : t.keeps t := State.keeps_refl; try dsimp only))

theorem State.keeps.loadExpected {img : JobImage} (h : s.keeps t) : s.keeps (t.loadExpected img) := by
  unfold State.loadExpected
  try dsimp only
  repeat'
    first
    | with_reducible exact h | with_reducible assumption | with_reducible apply State.keeps.setP1
    | (with_reducible refine State.keeps.foldl ?_ ?_; rotate_left; (intro t a; have h : t.keeps t := State.keeps_refl; try dsimp only))
    | (with_reducible refine State.keeps.foldFst ?_ ?_; rotate_left; (intro p a; have h : p.1.keeps p.1 := State.keeps_refl; try dsimp only))
    | split

theorem State.keeps.placeImage {g : UnitImage} (h : s.keeps t) : s.keeps (t.placeImage g) := by
  unfold State.placeImage
  try dsimp only
  repeat'
    first
    | with_reducible exact h | with_reducible assumption | with_reducible apply State.keeps.imageControl
    | with_reducible apply State.keeps.scriptLoad | with_reducible apply State.keeps.writeCells
    | with_reducible apply State.keeps.writeWell | split

theorem State.keeps.takeImage {img : JobImage} (h : s.keeps t) : s.keeps (t.takeImage img) := by
  unfold State.takeImage
  try dsimp only
  repeat'
    first
    | with_reducible exact h | with_reducible assumption | with_reducible apply State.keeps.applyTables
    | with_reducible apply State.keeps.copySchedule | with_reducible apply State.keeps.keepBlot
    | with_reducible apply State.keeps.loadExpected | with_reducible apply State.keeps.placeImage
    | with_reducible apply State.keeps.setStatus | with_reducible apply State.keeps.takeRoster
    | with_reducible apply State.keeps.updRegion | with_reducible apply State.keeps.updSeq
    | with_reducible refine State.keeps.wellRest ?_ (fun _ => rfl)
    | with_reducible refine State.keeps.updWell ?_ (fun _ _ => rfl)
    | (with_reducible refine State.keeps.wellRest ?_ ?_; rotate_left; (intro x; repeat' split; all_goals rfl))
    | (with_reducible refine State.keeps.foldl ?_ ?_; rotate_left; (intro t a; have h : t.keeps t := State.keeps_refl; try dsimp only))
    | (with_reducible refine State.keeps.foldFst ?_ ?_; rotate_left; (intro p a; have h : p.1.keeps p.1 := State.keeps_refl; try dsimp only))
    | split | with_reducible refine State.keeps.rest ?_

theorem State.keeps.loadJob {q : Nat} {t_ : Taken} {img : JobImage} {ok : Bool} (h : s.keeps t) : s.keeps (t.loadJob
    q t_ img ok) := by
  unfold State.loadJob
  try dsimp only
  repeat'
    first
    | with_reducible exact h | with_reducible assumption | with_reducible apply State.keeps.finish
    | with_reducible apply State.keeps.finishSched | with_reducible apply State.keeps.takeImage
    | with_reducible apply State.keeps.winBanks_fst | (with_reducible refine State.keeps.winBanks_eq ?_ ‹_›) | split

theorem State.keeps.startJob {img : JobImage} (h : s.keeps t) : s.keeps (t.startJob img) := by
  unfold State.startJob
  try dsimp only
  repeat'
    first
    | with_reducible exact h | with_reducible assumption | with_reducible apply State.keeps.blotRegion
    | with_reducible apply State.keeps.copySchedule
    | (with_reducible refine State.keeps.forRegions ?_ ?_; rotate_left; (intro t r; have h : t.keeps t := State.keeps_refl; try dsimp only))
    | with_reducible apply State.keeps.goRegion | with_reducible apply State.keeps.loadEpochs
    | with_reducible apply State.keeps.setStatus | with_reducible apply State.keeps.toOpen
    | with_reducible apply State.keeps.updP1 | with_reducible apply State.keeps.updSeq
    | (with_reducible refine State.keeps.foldl ?_ ?_; rotate_left; (intro t a; have h : t.keeps t := State.keeps_refl; try dsimp only))
    | split | with_reducible refine State.keeps.rest ?_

theorem State.keeps.startRow {q : Nat} {t_ : Taken} (h : s.keeps t) : s.keeps (t.startRow q t_) := by
  unfold State.startRow
  try dsimp only
  repeat'
    first
    | with_reducible exact h | with_reducible assumption | with_reducible apply State.keeps.blotTail
    | with_reducible apply State.keeps.finish | with_reducible apply State.keeps.setStatus
    | with_reducible apply State.keeps.startJob | with_reducible apply State.keeps.updSeq | split

theorem State.keeps.stopRow {q : Nat} {t_ : Taken} (h : s.keeps t) : s.keeps (t.stopRow q t_) := by
  unfold State.stopRow
  try dsimp only
  repeat'
    first
    | with_reducible exact h | with_reducible assumption | with_reducible apply State.keeps.abortUp
    | with_reducible apply State.keeps.blotTail | with_reducible apply State.keeps.committed
    | with_reducible apply State.keeps.enterAbort | with_reducible apply State.keeps.finish
    | with_reducible apply State.keeps.jobStop | with_reducible apply State.keeps.updSeq | split

theorem State.keeps.checkpointRow {q : Nat} {t_ : Taken} (h : s.keeps t) : s.keeps (t.checkpointRow q t_) := by
  unfold State.checkpointRow
  try dsimp only
  repeat'
    first
    | with_reducible exact h | with_reducible assumption | with_reducible apply State.keeps.finish
    | with_reducible apply State.keeps.finishSched | with_reducible apply State.keeps.updSeq | split

theorem State.keeps.digestRow {q : Nat} {t_ : Taken} (h : s.keeps t) : s.keeps (t.digestRow q t_) := by
  unfold State.digestRow
  try dsimp only
  repeat'
    first
    | with_reducible exact h | with_reducible assumption | with_reducible apply State.keeps.finish
    | with_reducible apply State.keeps.finishSched | with_reducible apply State.keeps.updSeq | split

theorem State.keeps.transferDone {ok : Bool} {errs : Errs} (h : s.keeps t) : s.keeps (t.transferDone ok errs) := by
  unfold State.transferDone
  try dsimp only
  repeat'
    first
    | with_reducible exact h | with_reducible assumption | with_reducible apply State.keeps.blotTail
    | with_reducible apply State.keeps.finish | with_reducible apply State.keeps.hostWrite
    | with_reducible apply State.keeps.shardReads_fst | (with_reducible refine State.keeps.shardReads_eq ?_ ‹_›)
    | with_reducible apply State.keeps.updSeq | split

theorem State.keeps.sendWeights (h : s.keeps t) : s.keeps (t.sendWeights) := by
  unfold State.sendWeights
  try dsimp only
  repeat'
    first
    | with_reducible exact h | with_reducible assumption | with_reducible apply State.keeps.wgtMulticast
    | (with_reducible refine State.keeps.foldl ?_ ?_; rotate_left; (intro t a; have h : t.keeps t := State.keeps_refl; try dsimp only))
    | split

theorem State.keeps.takeCheckpoint {q : Nat} {i : Nat} {ck : Checkpoint} (h : s.keeps t) : s.keeps (t.takeCheckpoint
    q i ck) := by
  unfold State.takeCheckpoint
  try dsimp only
  repeat'
    first
    | with_reducible exact h | with_reducible assumption | with_reducible apply State.keeps.updSeq | split
    | with_reducible refine State.keeps.rest ?_

theorem State.keeps.restoreJob {q : Nat} {k : Taken} {ck : Checkpoint} {errs : Errs} {ok : Bool} (h : s.keeps t) :
    s.keeps (t.restoreJob q k ck errs ok) := by
  have h1 : s.keeps (ck.rows.foldl (fun v (r, i, d) => v.updWell r fun x => { x with rows := x.rows.set 0 i d }) t) :=
    .foldl h fun _ _ => .updWell State.keeps_refl fun _ k => Sparse.wf_set_const _ _ k
  unfold State.restoreJob
  split
  · exact .finish h
  split
  · exact h
  split
  · exact .finish h
  split
  · exact .finishSched h
  dsimp only
  split <;> rename_i e
  · have h2 := State.keeps.shardReads_eq h1 e
    split
    · exact .restoreTail (.sendWeights (.copySchedule (.takeCheckpoint h2)))
    · exact .finishSched h2
  · exact .finishSched (.shardReads_eq h1 e)

theorem State.keeps.blotStreams {l : List TableRec} (h : s.keeps t) : s.keeps (t.blotStreams l) := by
  unfold State.blotStreams
  try dsimp only
  repeat'
    first
    | with_reducible exact h | with_reducible assumption | with_reducible apply State.keeps.updRegion
    | (with_reducible refine State.keeps.foldl ?_ ?_; rotate_left; (intro t a; have h : t.keeps t := State.keeps_refl; try dsimp only))
    | (with_reducible refine State.keeps.foldFst ?_ ?_; rotate_left; (intro p a; have h : p.1.keeps p.1 := State.keeps_refl; try dsimp only))
    | split | with_reducible refine State.keeps.rest ?_

theorem State.keeps.applyReplan {l : List TableRec} (h : s.keeps t) : s.keeps (t.applyReplan l) := by
  unfold State.applyReplan
  try dsimp only
  repeat'
    first
    | with_reducible exact h | with_reducible assumption | with_reducible apply State.keeps.blotStreams
    | (with_reducible refine State.keeps.forRegions ?_ ?_; rotate_left; (intro t r; have h : t.keeps t := State.keeps_refl; try dsimp only))
    | with_reducible apply State.keeps.loadSet | with_reducible apply State.keeps.updP1
    | with_reducible apply State.keeps.updSeq
    | (with_reducible refine State.keeps.foldl ?_ ?_; rotate_left; (intro t a; have h : t.keeps t := State.keeps_refl; try dsimp only))
    | split | with_reducible refine State.keeps.rest ?_

theorem State.keeps.redistribute {q : Nat} {t_ : Taken} {ok : Bool} {superseded : Bool} (h : s.keeps t) : s.keeps
    (t.redistribute q t_ ok superseded) := by
  unfold State.redistribute
  try dsimp only
  repeat'
    first
    | with_reducible exact h | with_reducible assumption | with_reducible apply State.keeps.abortNext
    | with_reducible apply State.keeps.applyReplan | with_reducible apply State.keeps.blotTail
    | with_reducible apply State.keeps.finish | with_reducible apply State.keeps.finishSched
    | with_reducible apply State.keeps.updSys | split | with_reducible refine State.keeps.rest ?_

theorem State.keeps.readTimeout {q : Nat} (h : s.keeps t) : s.keeps (t.readTimeout q) := by
  unfold State.readTimeout
  try dsimp only
  repeat'
    first
    | with_reducible exact h | with_reducible assumption | with_reducible apply State.keeps.finish
    | with_reducible apply State.keeps.updSys | split | with_reducible refine State.keeps.rest ?_

theorem State.keeps.ringIrq {q : Nat} (h : s.keeps t) : s.keeps (t.ringIrq q) := by
  unfold State.ringIrq
  try dsimp only
  repeat'
    first
    | with_reducible exact h | with_reducible assumption | with_reducible apply State.keeps.msix
    | with_reducible apply State.keeps.updRing | split

theorem State.keeps.writeCompletion {q : Nat} {ok : Bool} (h : s.keeps t) : s.keeps (t.writeCompletion q ok) := by
  unfold State.writeCompletion
  try dsimp only
  repeat'
    first
    | with_reducible exact h | with_reducible assumption | with_reducible apply State.keeps.hostWrite
    | with_reducible apply State.keeps.ringIrq | with_reducible apply State.keeps.setRingState
    | with_reducible apply State.keeps.updRing | split | with_reducible refine State.keeps.rest ?_

theorem State.keeps.ringTimer {q : Nat} (h : s.keeps t) : s.keeps (t.ringTimer q) := by
  unfold State.ringTimer
  try dsimp only
  repeat'
    first
    | with_reducible exact h | with_reducible assumption | with_reducible apply State.keeps.msix
    | with_reducible apply State.keeps.updRing | split

theorem State.keeps.setEvRing {e : Nat} {x : EvRing} (h : s.keeps t) : s.keeps (t.setEvRing e x) := by
  unfold State.setEvRing
  try dsimp only
  repeat'
    first
    | with_reducible exact h | with_reducible assumption | split | with_reducible exact State.keeps.rest h

theorem State.keeps.evtPut {e : Nat} {r : EvRec} (h : s.keeps t) : s.keeps (t.evtPut e r) := by
  unfold State.evtPut
  try dsimp only
  repeat'
    first
    | with_reducible exact h | with_reducible assumption | with_reducible apply State.keeps.hostWrite
    | with_reducible apply State.keeps.msix | with_reducible apply State.keeps.setEvRing
    | with_reducible apply State.keeps.updBar

theorem State.keeps.evtDrop {e : Nat} (h : s.keeps t) : s.keeps (t.evtDrop e) := by
  unfold State.evtDrop
  try dsimp only
  repeat'
    first
    | with_reducible exact h | with_reducible assumption | with_reducible apply State.keeps.seeBar
    | with_reducible apply State.keeps.setEvRing | with_reducible apply State.keeps.updBar

theorem State.keeps.evtOffer {r : EvRec} {e : Nat} (h : s.keeps t) : s.keeps (t.evtOffer r e) := by
  unfold State.evtOffer
  try dsimp only
  repeat'
    first
    | with_reducible exact h | with_reducible assumption | with_reducible apply State.keeps.evtDrop
    | with_reducible apply State.keeps.evtPut | with_reducible apply State.keeps.setEvRing | split

theorem State.keeps.hostRecord (h : s.keeps t) : s.keeps (t.hostRecord) := by
  unfold State.hostRecord
  try dsimp only
  repeat'
    first
    | with_reducible exact h | with_reducible assumption | with_reducible apply State.keeps.evtOffer
    | (with_reducible refine State.keeps.foldl ?_ ?_; rotate_left; (intro t a; have h : t.keeps t := State.keeps_refl; try dsimp only))
    | split | with_reducible exact State.keeps.rest h

theorem State.keeps.drainCopy_fst {k : Taken} (h : s.keeps t) : s.keeps (t.drainCopy k).1 := by
  unfold State.drainCopy
  dsimp only
  split
  · exact h
  · show s.keeps (CopyRun.s (if _ then _ else _))
    split
    · exact .copyOutRun h
    · exact .copyInRun h

theorem State.keeps.drainCopies (h : s.keeps t) : s.keeps t.drainCopies := by
  unfold State.drainCopies
  split
  · exact h
  · exact .foldl (.rest h) fun t k => .rest (.drainCopy_fst State.keeps_refl)

theorem State.keeps.flr (h : s.keeps t) : s.keeps t.flr := by
  unfold State.flr
  dsimp only
  refine .blotTail (.updSeq (.updSys (.drainCopies (.trans h ⟨rfl, fun ⟨h1, h2, h3, h4, h5, h6, h7, h8⟩ => ?_⟩))))
  exact ⟨h1, h2, h3, h4, h5, h6, Sparse.wf_filter _ h7, h8⟩

theorem State.keeps.configRequest {a : BitVec 12} {write : Option Reg32} (h : s.keeps t) : s.keeps (t.configRequest
    a write) := by
  unfold State.configRequest
  try dsimp only
  repeat'
    first
    | with_reducible exact h | with_reducible assumption | with_reducible apply State.keeps.emit
    | with_reducible apply State.keeps.msixPending | split | with_reducible refine State.keeps.rest ?_

theorem State.keeps.idle (h : s.keeps t) : s.keeps (t.idle) := by
  unfold State.idle
  try dsimp only
  repeat'
    first
    | with_reducible exact h | with_reducible assumption | with_reducible apply State.keeps.commitRetry
    | with_reducible apply State.keeps.drainCopies | with_reducible apply State.keeps.tick | split

theorem State.keeps.refused {off : Nat} {reason : Nat} (h : s.keeps t) : s.keeps (t.refused off reason) := by
  unfold State.refused
  try dsimp only
  repeat'
    first
    | with_reducible exact h | with_reducible assumption | with_reducible apply State.keeps.updBar

theorem State.keeps.mgtSeen {b : Nat} {code : Nat} {subject : Nat} (h : s.keeps t) : s.keeps (t.mgtSeen b code
    subject) := by
  unfold State.mgtSeen
  try dsimp only
  repeat'
    first
    | with_reducible exact h | with_reducible assumption | with_reducible apply State.keeps.raiseFrom
    | with_reducible apply State.keeps.seeBar

theorem State.keeps.storeBar {off : Nat} {mask : Nat} {v_ : Reg32} (h : s.keeps t) : s.keeps (t.storeBar off mask
    v_) := by
  unfold State.storeBar
  try dsimp only
  repeat'
    first
    | with_reducible exact h | with_reducible assumption | with_reducible apply State.keeps.updBar

theorem State.keeps.clearBar {off : Nat} {mask : Nat} {v_ : Reg32} (h : s.keeps t) : s.keeps (t.clearBar off mask
    v_) := by
  unfold State.clearBar
  try dsimp only
  repeat'
    first
    | with_reducible exact h | with_reducible assumption | with_reducible apply State.keeps.updBar

theorem State.keeps.lockedStore {locked : Bool} {off : Nat} {mask : Nat} {v_ : Reg32} {reason : Nat} (h : s.keeps t)
    : s.keeps (t.lockedStore locked off mask v_ reason) := by
  unfold State.lockedStore
  try dsimp only
  repeat'
    first
    | with_reducible exact h | with_reducible assumption | with_reducible apply State.keeps.refused
    | with_reducible apply State.keeps.storeBar | split

theorem State.keeps.ringStart {q : Nat} (h : s.keeps t) : s.keeps (t.ringStart q) := by
  unfold State.ringStart
  try dsimp only
  repeat'
    first
    | with_reducible exact h | with_reducible assumption | with_reducible apply State.keeps.ringStop
    | with_reducible apply State.keeps.updBar | with_reducible apply State.keeps.updRing | split
    | with_reducible refine State.keeps.rest ?_

theorem State.keeps.ringClose {q : Nat} (h : s.keeps t) : s.keeps (t.ringClose q) := by
  unfold State.ringClose
  try dsimp only
  repeat'
    first
    | with_reducible exact h | with_reducible assumption | with_reducible apply State.keeps.setRingState
    | with_reducible apply State.keeps.updBar | split

theorem State.keeps.writeRing {locked : Bool} {q : Nat} {o : Nat} {v_ : Reg32} (h : s.keeps t) : s.keeps
    (t.writeRing locked q o v_) := by
  unfold State.writeRing
  try dsimp only
  repeat'
    first
    | with_reducible exact h | with_reducible assumption | with_reducible apply State.keeps.refused
    | with_reducible apply State.keeps.ringClose | with_reducible apply State.keeps.ringStart
    | with_reducible apply State.keeps.seeBar | with_reducible apply State.keeps.storeBar | split

theorem State.keeps.writeEvt {locked : Bool} {e : Nat} {o : Nat} {v_ : Reg32} (h : s.keeps t) : s.keeps (t.writeEvt
    locked e o v_) := by
  unfold State.writeEvt
  try dsimp only
  repeat'
    first
    | with_reducible exact h | with_reducible assumption | with_reducible apply State.keeps.lockedStore
    | with_reducible apply State.keeps.refused | with_reducible apply State.keeps.setEvRing
    | with_reducible apply State.keeps.storeBar | split

theorem State.keeps.writeSlot {locked : Bool} {k : Nat} {o : Nat} {v_ : Reg32} (h : s.keeps t) : s.keeps
    (t.writeSlot locked k o v_) := by
  unfold State.writeSlot
  try dsimp only
  repeat'
    first
    | with_reducible exact h | with_reducible assumption | with_reducible apply State.keeps.refused
    | with_reducible apply State.keeps.storeBar | split

theorem State.keeps.writeDb {locked : Bool} {off : Nat} {v_ : Reg32} (h : s.keeps t) : s.keeps (t.writeDb locked off
    v_) := by
  unfold State.writeDb
  try dsimp only
  repeat'
    first
    | with_reducible exact h | with_reducible assumption | with_reducible apply State.keeps.lockedStore
    | with_reducible apply State.keeps.refused | with_reducible apply State.keeps.storeBar | split

theorem State.keeps.clearP1 {r : Nat} {i : Nat} {mask : Word} (h : s.keeps t) : s.keeps (t.clearP1 r i mask) := by
  unfold State.clearP1
  try dsimp only
  repeat'
    first
    | with_reducible exact h | with_reducible assumption | with_reducible apply State.keeps.updP1

theorem State.keeps.p1clr (h : s.keeps t) : s.keeps (t.p1clr) := by
  unfold State.p1clr
  try dsimp only
  repeat'
    first
    | with_reducible exact h | with_reducible assumption | with_reducible apply State.keeps.clearP1
    | with_reducible apply State.keeps.refused | with_reducible apply State.keeps.strayPop
    | with_reducible apply State.keeps.summarise | split

theorem State.keeps.summaryClear {r : Nat} {off : Nat} {src : List (Nat × List Nat × Nat)} {v_ : Reg32} (h : s.keeps
    t) : s.keeps (t.summaryClear r off src v_) := by
  unfold State.summaryClear
  try dsimp only
  repeat'
    first
    | with_reducible exact h | with_reducible assumption | with_reducible apply State.keeps.clearP1
    | with_reducible apply State.keeps.summarise | with_reducible apply State.keeps.updBar
    | (with_reducible refine State.keeps.foldl ?_ ?_; rotate_left; (intro t a; have h : t.keeps t := State.keeps_refl; try dsimp only))
    | split

theorem State.keeps.writeLnkCtl {l : Nat} {v_ : Reg32} (h : s.keeps t) : s.keeps (t.writeLnkCtl l v_) := by
  unfold State.writeLnkCtl
  try dsimp only
  repeat'
    first
    | with_reducible exact h | with_reducible assumption | with_reducible apply State.keeps.linkEnable
    | with_reducible apply State.keeps.lockedStore | with_reducible apply State.keeps.pauseLink
    | with_reducible apply State.keeps.refused | with_reducible apply State.keeps.storeBar | split

theorem State.keeps.serviceBudget (h : s.keeps t) : s.keeps (t.serviceBudget) := by
  unfold State.serviceBudget
  try dsimp only
  repeat'
    first
    | with_reducible exact h | with_reducible assumption | with_reducible apply State.keeps.raiseFrom
    | with_reducible apply State.keeps.seeBar
    | (with_reducible refine State.keeps.foldl ?_ ?_; rotate_left; (intro t a; have h : t.keeps t := State.keeps_refl; try dsimp only))
    | split | with_reducible exact State.keeps.rest h

theorem State.keeps.serviceOn {r : Nat} (h : s.keeps t) : s.keeps (t.serviceOn r) := by
  unfold State.serviceOn
  try dsimp only
  repeat'
    first
    | with_reducible exact h | with_reducible assumption | with_reducible apply State.keeps.powerCluster
    | with_reducible apply State.keeps.updBar | with_reducible apply State.keeps.updSvc
    | (with_reducible refine State.keeps.foldl ?_ ?_; rotate_left; (intro t a; have h : t.keeps t := State.keeps_refl; try dsimp only))
    | (with_reducible refine State.keeps.foldFst ?_ ?_; rotate_left; (intro p a; have h : p.1.keeps p.1 := State.keeps_refl; try dsimp only))
    | split | with_reducible refine State.keeps.rest ?_

theorem State.keeps.serviceOff {r : Nat} (h : s.keeps t) : s.keeps (t.serviceOff r) :=
  .updWell (.foldl (.foldl (.updSvc (.updBar h)) fun _ _ => .vacate State.keeps_refl) fun _ _ => .gateClock State.keeps_refl)
    fun _ _ => rfl

theorem State.keeps.powerService (h : s.keeps t) : s.keeps (t.powerService) := by
  unfold State.powerService
  try dsimp only
  repeat'
    first
    | with_reducible exact h | with_reducible assumption | with_reducible apply State.keeps.serviceBudget
    | with_reducible apply State.keeps.serviceOff | with_reducible apply State.keeps.serviceOn
    | (with_reducible refine State.keeps.foldl ?_ ?_; rotate_left; (intro t a; have h : t.keeps t := State.keeps_refl; try dsimp only))
    | (with_reducible refine State.keeps.foldFst ?_ ?_; rotate_left; (intro p a; have h : p.1.keeps p.1 := State.keeps_refl; try dsimp only))
    | split

theorem State.keeps.noteOctets {sub : Nat} {os : List Octet} (h : s.keeps t) : s.keeps (t.noteOctets sub os) := by
  unfold State.noteOctets
  try dsimp only
  repeat'
    first
    | with_reducible exact h | with_reducible assumption | split | with_reducible refine State.keeps.rest ?_

theorem State.keeps.marginPlan (h : s.keeps t) : s.keeps (t.marginPlan) := by
  unfold State.marginPlan
  try dsimp only
  repeat'
    first
    | with_reducible exact h | with_reducible assumption | with_reducible apply State.keeps.applyPlan
    | with_reducible apply State.keeps.noteOctets | with_reducible apply State.keeps.raise
    | with_reducible apply State.keeps.raiseFrom | with_reducible apply State.keeps.updBar
    | (with_reducible refine State.keeps.foldl ?_ ?_; rotate_left; (intro t a; have h : t.keeps t := State.keeps_refl; try dsimp only))
    | (with_reducible refine State.keeps.foldFst ?_ ?_; rotate_left; (intro p a; have h : p.1.keeps p.1 := State.keeps_refl; try dsimp only))
    | split | with_reducible refine State.keeps.rest ?_

theorem State.keeps.writePwr {off : Nat} {v_ : Reg32} (h : s.keeps t) : s.keeps (t.writePwr off v_) := by
  unfold State.writePwr
  try dsimp only
  repeat'
    first
    | with_reducible exact h | with_reducible assumption | with_reducible apply State.keeps.clearBar
    | with_reducible apply State.keeps.marginPlan | with_reducible apply State.keeps.powerService
    | with_reducible apply State.keeps.storeBar | with_reducible apply State.keeps.updBar | split

theorem State.keeps.writeMgt {off : Nat} {v_ : Reg32} (h : s.keeps t) : s.keeps (t.writeMgt off v_) := by
  unfold State.writeMgt
  try dsimp only
  repeat'
    first
    | with_reducible exact h | with_reducible assumption | with_reducible apply State.keeps.clearBar
    | with_reducible apply State.keeps.refused | with_reducible apply State.keeps.storeBar | split

theorem State.keeps.writeLnk {off : Nat} {v_ : Reg32} (h : s.keeps t) : s.keeps (t.writeLnk off v_) := by
  unfold State.writeLnk
  try dsimp only
  repeat'
    first
    | with_reducible exact h | with_reducible assumption | with_reducible apply State.keeps.clearBar
    | with_reducible apply State.keeps.storeBar | with_reducible apply State.keeps.updSys
    | with_reducible apply State.keeps.writeLnkCtl | split | with_reducible refine State.keeps.rest ?_

theorem State.keeps.writeHst {off : Nat} {v_ : Reg32} (h : s.keeps t) : s.keeps (t.writeHst off v_) := by
  unfold State.writeHst
  try dsimp only
  repeat'
    first
    | with_reducible exact h | with_reducible assumption | with_reducible apply State.keeps.clearBar
    | with_reducible apply State.keeps.p1clr | with_reducible apply State.keeps.storeBar
    | with_reducible apply State.keeps.updBar | split

theorem State.keeps.writeMsix {off : Nat} {v_ : Reg32} (h : s.keeps t) : s.keeps (t.writeMsix off v_) := by
  unfold State.writeMsix
  try dsimp only
  repeat'
    first
    | with_reducible exact h | with_reducible assumption | with_reducible apply State.keeps.msixPending
    | with_reducible apply State.keeps.storeBar

theorem State.keeps.ite {c : Prop} [Decidable c] (h : s.keeps t) (k : s.keeps v) : s.keeps (if c then t else v) := by
  split
  · exact h
  · exact k

theorem State.keeps.writeHalf {locked : Bool} {off : Nat} {w : Reg32} (h : s.keeps t) : s.keeps (t.writeHalf locked off w) := by
  unfold State.writeHalf
  repeat'
    first
    | with_reducible exact h | with_reducible exact .writeHst h | with_reducible exact .writeDb h
    | with_reducible exact .writeRing h | with_reducible exact .writeEvt h | with_reducible exact .writeSlot h
    | with_reducible exact .writeMsix h | with_reducible exact .writePwr h | with_reducible exact .writeMgt h
    | with_reducible exact .writeLnk h | with_reducible exact .summaryClear h
    | with_reducible refine .ite ?_ ?_

theorem State.keeps.barWrite {w : BarWrite} (h : s.keeps t) : s.keeps (t.barWrite w) := by
  unfold State.barWrite
  try dsimp only
  repeat'
    first
    | with_reducible exact h | with_reducible assumption | with_reducible apply State.keeps.emit
    | with_reducible apply State.keeps.mgtSeen | with_reducible apply State.keeps.writeHalf | split

theorem State.keeps.barRow {w : BarWrite} {ok : Nat → Bool} (h : s.keeps t) : s.keeps (t.barRow w ok) := by
  unfold State.barRow
  try dsimp only
  repeat'
    first
    | with_reducible exact h | with_reducible assumption | with_reducible apply State.keeps.barWrite | split

theorem State.keeps.routeRefresh {r : Nat} (h : s.keeps t) : s.keeps (t.routeRefresh r) := by
  unfold State.routeRefresh
  try dsimp only
  repeat'
    first
    | with_reducible exact h | with_reducible assumption | with_reducible apply State.keeps.updBar

theorem State.keeps.pwrSeen {b : Nat} {code : Nat} (h : s.keeps t) : s.keeps (t.pwrSeen b code) := by
  unfold State.pwrSeen
  try dsimp only
  repeat'
    first
    | with_reducible exact h | with_reducible assumption | with_reducible apply State.keeps.raiseFrom
    | with_reducible apply State.keeps.seeBar

theorem State.keeps.pwrRaise {r : Nat} {b : Nat} {code : Nat} {subject : Nat} (h : s.keeps t) : s.keeps (t.pwrRaise
    r b code subject) := by
  unfold State.pwrRaise
  try dsimp only
  repeat'
    first
    | with_reducible exact h | with_reducible assumption | with_reducible apply State.keeps.raise
    | with_reducible apply State.keeps.seeBar

theorem State.keeps.holdEnds (h : s.keeps t) : s.keeps (t.holdEnds) := by
  unfold State.holdEnds
  try dsimp only
  repeat'
    first
    | with_reducible exact h | with_reducible assumption | with_reducible apply State.keeps.updBar | split
    | with_reducible refine State.keeps.rest ?_

theorem State.keeps.setSource {v_ : Nat} (h : s.keeps t) : s.keeps (t.setSource v_) := by
  unfold State.setSource
  try dsimp only
  repeat'
    first
    | with_reducible exact h | with_reducible assumption | with_reducible apply State.keeps.updBar | split
    | with_reducible exact State.keeps.rest h

theorem State.keeps.markSource {src : Source} {on : Bool} (h : s.keeps t) : s.keeps (t.markSource src on) := by
  unfold State.markSource
  cases src
  · exact .updBar (.rest h)
  · exact .updBar (.rest h)
  · exact .updBar (.rest h)

theorem State.keeps.holdOff (h : s.keeps t) : s.keeps (t.holdOff) := by
  unfold State.holdOff
  try dsimp only
  repeat'
    first
    | with_reducible exact h | with_reducible assumption | with_reducible apply State.keeps.pwrSeen
    | with_reducible apply State.keeps.updBar | split | with_reducible exact State.keeps.rest h

theorem State.keeps.sourceConnect {src : Source} {both : Bool} (h : s.keeps t) : s.keeps (t.sourceConnect src both) := by
  unfold State.sourceConnect
  try dsimp only
  repeat'
    first
    | with_reducible exact h | with_reducible assumption | with_reducible apply State.keeps.holdOff
    | with_reducible apply State.keeps.markSource | with_reducible apply State.keeps.setSource | split

theorem State.keeps.interlockRelease (h : s.keeps t) : s.keeps (t.interlockRelease) := by
  unfold State.interlockRelease
  try dsimp only
  repeat'
    first
    | with_reducible exact h | with_reducible assumption | with_reducible apply State.keeps.setSource
    | with_reducible apply State.keeps.updBar | split | with_reducible exact State.keeps.rest h

theorem State.keeps.feedRestore {src : Source} (h : s.keeps t) : s.keeps (t.feedRestore src) := by
  unfold State.feedRestore
  try dsimp only
  repeat'
    first
    | with_reducible exact h | with_reducible assumption | with_reducible apply State.keeps.holdOff
    | with_reducible apply State.keeps.markSource | with_reducible apply State.keeps.raiseFrom
    | with_reducible apply State.keeps.setSource | split

theorem State.keeps.powerOff (h : s.keeps t) : s.keeps t.powerOff := by
  unfold State.powerOff
  refine .updBar (.setBar ⟨h.1, fun k => ?_⟩)
  obtain ⟨-, -, h3, h4, -, -, h7, h8, -, -⟩ := h.2 k
  refine ⟨rfl, rfl, Sparse.wf_mapped _ (fun _ => rfl) h3, Sparse.wf_mapped _ (fun _ => rfl) h4, rfl, rfl, ?_, h8, (fun _ e => nomatch e), fun e he => ?_⟩
  · dsimp only
    split
    · exact Sparse.wf_filter _ h7
    · rfl
  · obtain ⟨a, -, rfl⟩ := List.mem_map.mp (List.mem_filter.mp he).1
    rfl

theorem State.keeps.feedsLost (h : s.keeps t) : s.keeps (t.feedsLost) := by
  unfold State.feedsLost
  try dsimp only
  repeat'
    first
    | with_reducible exact h | with_reducible assumption | with_reducible apply State.keeps.holdEnds
    | with_reducible apply State.keeps.markSource | with_reducible apply State.keeps.powerOff | split
    | with_reducible refine State.keeps.rest ?_

theorem State.keeps.feedLoss {src : Source} (h : s.keeps t) : s.keeps (t.feedLoss src) := by
  unfold State.feedLoss
  try dsimp only
  repeat'
    first
    | with_reducible exact h | with_reducible assumption | with_reducible apply State.keeps.feedsLost
    | with_reducible apply State.keeps.holdEnds | with_reducible apply State.keeps.markSource
    | with_reducible apply State.keeps.pwrSeen | split

theorem State.keeps.serviceRemoved (h : s.keeps t) : s.keeps (t.serviceRemoved) := by
  unfold State.serviceRemoved
  try dsimp only
  repeat'
    first
    | with_reducible exact h | with_reducible assumption | with_reducible apply State.keeps.holdEnds
    | with_reducible apply State.keeps.markSource | with_reducible apply State.keeps.powerOff | split

theorem State.keeps.phaseLoss {c : Nat} {p : Nat} (h : s.keeps t) : s.keeps (t.phaseLoss c p) := by
  unfold State.phaseLoss
  try dsimp only
  repeat'
    first
    | with_reducible exact h | with_reducible assumption | with_reducible apply State.keeps.darkenCluster
    | with_reducible apply State.keeps.note | with_reducible apply State.keeps.pwrRaise
    | with_reducible apply State.keeps.raise | with_reducible apply State.keeps.reDivide
    | with_reducible apply State.keeps.report | with_reducible apply State.keeps.setBar
    | with_reducible apply State.keeps.updBar | with_reducible apply State.keeps.updCluster | split
    | with_reducible refine State.keeps.rest ?_

theorem State.keeps.droop {c : Nat} (h : s.keeps t) : s.keeps (t.droop c) := by
  unfold State.droop
  try dsimp only
  repeat'
    first
    | with_reducible exact h | with_reducible assumption | with_reducible apply State.keeps.droop
    | with_reducible apply State.keeps.pwrRaise | with_reducible apply State.keeps.rebase
    | with_reducible apply State.keeps.updBar | split | with_reducible refine State.keeps.rest ?_

theorem State.keeps.setRegionState {r : Nat} {v_ : Nat} (h : s.keeps t) : s.keeps (t.setRegionState r v_) := by
  unfold State.setRegionState
  try dsimp only
  repeat'
    first
    | with_reducible exact h | with_reducible assumption | with_reducible apply State.keeps.updBar

theorem State.keeps.dieRaise {r : Nat} {b : Nat} {code : Nat} (h : s.keeps t) : s.keeps (t.dieRaise r b code) := by
  unfold State.dieRaise
  try dsimp only
  repeat'
    first
    | with_reducible exact h | with_reducible assumption | with_reducible apply State.keeps.forward
    | with_reducible apply State.keeps.seeBar

theorem State.keeps.stepAbort {code : Nat} (h : s.keeps t) : s.keeps (t.stepAbort code) := by
  unfold State.stepAbort
  try dsimp only
  repeat'
    first
    | with_reducible exact h | with_reducible assumption | with_reducible apply State.keeps.report | split

theorem State.keeps.isolate {r : Nat} {st : Nat} (h : s.keeps t) : s.keeps (t.isolate r st) := by
  unfold State.isolate
  try dsimp only
  repeat'
    first
    | with_reducible exact h | with_reducible assumption | with_reducible apply State.keeps.note
    | with_reducible apply State.keeps.updBar | with_reducible apply State.keeps.updSvc | split
    | with_reducible refine State.keeps.rest ?_

theorem State.keeps.strike {k : TestTarget} (h : s.keeps t) : s.keeps (t.strike k) := by
  unfold State.strike
  try dsimp only
  repeat'
    first
    | with_reducible exact h | with_reducible assumption | split | with_reducible refine State.keeps.rest ?_

theorem State.keeps.retireRegion {r : Nat} {kind : Nat} {code : Nat} (h : s.keeps t) : s.keeps (t.retireRegion r
    kind code) := by
  unfold State.retireRegion
  try dsimp only
  repeat'
    first
    | with_reducible exact h | with_reducible assumption | with_reducible apply State.keeps.note
    | with_reducible apply State.keeps.updSvc

theorem State.keeps.isolationTrip {r : Nat} {t3 : Bool} (h : s.keeps t) : s.keeps (t.isolationTrip r t3) := by
  unfold State.isolationTrip
  try dsimp only
  repeat'
    first
    | with_reducible exact h | with_reducible assumption | with_reducible apply State.keeps.dieRaise
    | with_reducible apply State.keeps.isolate | with_reducible apply State.keeps.retireRegion
    | with_reducible apply State.keeps.stepAbort | with_reducible apply State.keeps.strike
    | with_reducible apply State.keeps.updBar | split

theorem State.keeps.detourRouter {n : Nat} {r : Nat} (h : s.keeps t) : s.keeps (t.detourRouter n r) := by
  unfold State.detourRouter
  try dsimp only
  repeat'
    first
    | with_reducible exact h | with_reducible assumption | with_reducible apply State.keeps.updRegion

theorem State.keeps.dropQueued {r : Nat} {queued : List Nat} (h : s.keeps t) : s.keeps (t.dropQueued r queued) := by
  unfold State.dropQueued
  try dsimp only
  repeat'
    first
    | with_reducible exact h | with_reducible assumption | split | with_reducible exact State.keeps.rest h

theorem State.keeps.detourSwitch {r : Nat} {queued : List Nat} (h : s.keeps t) : s.keeps (t.detourSwitch r queued)
    := by
  unfold State.detourSwitch
  try dsimp only
  repeat'
    first
    | with_reducible exact h | with_reducible assumption | with_reducible apply State.keeps.detourRouter
    | with_reducible apply State.keeps.dropQueued | with_reducible apply State.keeps.gateClock
    | with_reducible apply State.keeps.updSvc | with_reducible apply State.keeps.withdraw
    | (with_reducible refine State.keeps.foldl ?_ ?_; rotate_left; (intro t a; have h : t.keeps t := State.keeps_refl; try dsimp only))
    | (with_reducible refine State.keeps.foldFst ?_ ?_; rotate_left; (intro p a; have h : p.1.keeps p.1 := State.keeps_refl; try dsimp only))
    | split | with_reducible refine State.keeps.rest ?_

theorem State.keeps.isolateDie {d : Nat} (h : s.keeps t) : s.keeps (t.isolateDie d) := by
  unfold State.isolateDie
  try dsimp only
  repeat'
    first
    | with_reducible exact h | with_reducible assumption | with_reducible apply State.keeps.isolate
    | (with_reducible refine State.keeps.foldl ?_ ?_; rotate_left; (intro t a; have h : t.keeps t := State.keeps_refl; try dsimp only))
    | (with_reducible refine State.keeps.foldFst ?_ ?_; rotate_left; (intro p a; have h : p.1.keeps p.1 := State.keeps_refl; try dsimp only))
    | split

theorem State.keeps.pllLoss {d : Nat} (h : s.keeps t) : s.keeps (t.pllLoss d) := by
  unfold State.pllLoss
  try dsimp only
  repeat'
    first
    | with_reducible exact h | with_reducible assumption | with_reducible apply State.keeps.isolateDie
    | with_reducible apply State.keeps.pwrSeen | with_reducible apply State.keeps.retireRegion
    | with_reducible apply State.keeps.stepAbort | with_reducible apply State.keeps.strike
    | with_reducible apply State.keeps.updBar
    | (with_reducible refine State.keeps.foldl ?_ ?_; rotate_left; (intro t a; have h : t.keeps t := State.keeps_refl; try dsimp only))
    | split

theorem State.keeps.openSwitches {d : Nat} (h : s.keeps t) : s.keeps (t.openSwitches d) := by
  unfold State.openSwitches
  try dsimp only
  repeat'
    first
    | with_reducible exact h | with_reducible assumption | with_reducible apply State.keeps.updSvc
    | (with_reducible refine State.keeps.foldl ?_ ?_; rotate_left; (intro t a; have h : t.keeps t := State.keeps_refl; try dsimp only))
    | split

theorem State.keeps.referenceLoss (h : s.keeps t) : s.keeps (t.referenceLoss) := by
  unfold State.referenceLoss
  try dsimp only
  repeat'
    first
    | with_reducible exact h | with_reducible assumption | with_reducible apply State.keeps.gateClock
    | with_reducible apply State.keeps.pllLoss | with_reducible apply State.keeps.updSvc
    | with_reducible apply State.keeps.withdraw
    | (with_reducible refine State.keeps.foldl ?_ ?_; rotate_left; (intro t a; have h : t.keeps t := State.keeps_refl; try dsimp only))
    | (with_reducible refine State.keeps.foldFst ?_ ?_; rotate_left; (intro p a; have h : p.1.keeps p.1 := State.keeps_refl; try dsimp only))
    | split | with_reducible refine State.keeps.rest ?_

theorem State.keeps.t1 {c : Nat} (h : s.keeps t) : s.keeps (t.t1 c) := by
  unfold State.t1
  try dsimp only
  repeat'
    first
    | with_reducible exact h | with_reducible assumption | with_reducible apply State.keeps.pwrRaise
    | with_reducible apply State.keeps.reDivide | with_reducible apply State.keeps.updCluster | split

theorem State.keeps.t2 {r : Nat} {subject : Nat} {detail : Option Nat} (h : s.keeps t) : s.keeps (t.t2 r subject
    detail) := by
  unfold State.t2
  try dsimp only
  repeat'
    first
    | with_reducible exact h | with_reducible assumption | with_reducible apply State.keeps.raise
    | with_reducible apply State.keeps.reDivide | with_reducible apply State.keeps.seeBar
    | with_reducible apply State.keeps.updBar | with_reducible apply State.keeps.updSvc
    | (with_reducible refine State.keeps.foldl ?_ ?_; rotate_left; (intro t a; have h : t.keeps t := State.keeps_refl; try dsimp only))
    | split

theorem State.keeps.t3 {r : Nat} (h : s.keeps t) : s.keeps (t.t3 r) := by
  unfold State.t3
  try dsimp only
  repeat'
    first
    | with_reducible exact h | with_reducible assumption | with_reducible apply State.keeps.isolate
    | with_reducible apply State.keeps.pwrRaise | with_reducible apply State.keeps.stepAbort | split

theorem State.keeps.clusterReading {c : Nat} {t_ : Nat} (h : s.keeps t) : s.keeps (t.clusterReading c t_) := by
  unfold State.clusterReading
  try dsimp only
  repeat'
    first
    | with_reducible exact h | with_reducible assumption | with_reducible apply State.keeps.updBar
    | with_reducible apply State.keeps.updCluster

theorem State.keeps.thermalReading {r : Nat} {l : List (Sensor × Nat)} (h : s.keeps t) : s.keeps (t.thermalReading r
    l) := by
  unfold State.thermalReading
  try dsimp only
  repeat'
    first
    | with_reducible exact h | with_reducible assumption | with_reducible apply State.keeps.clusterReading
    | with_reducible apply State.keeps.t1 | with_reducible apply State.keeps.t2 | with_reducible apply State.keeps.t3
    | with_reducible apply State.keeps.updBar | with_reducible apply State.keeps.updP1
    | (with_reducible refine State.keeps.foldl ?_ ?_; rotate_left; (intro t a; have h : t.keeps t := State.keeps_refl; try dsimp only))
    | (with_reducible refine State.keeps.foldFst ?_ ?_; rotate_left; (intro p a; have h : p.1.keeps p.1 := State.keeps_refl; try dsimp only))
    | split

theorem State.keeps.thermalBack {c : Nat} (h : s.keeps t) : s.keeps (t.thermalBack c) := by
  unfold State.thermalBack
  try dsimp only
  repeat'
    first
    | with_reducible exact h | with_reducible assumption | with_reducible apply State.keeps.raise
    | with_reducible apply State.keeps.reDivide | with_reducible apply State.keeps.updCluster | split

theorem State.keeps.setCapFloor {v_ : Nat} (h : s.keeps t) : s.keeps (t.setCapFloor v_) := by
  unfold State.setCapFloor
  try dsimp only
  repeat'
    first
    | with_reducible exact h | with_reducible assumption | with_reducible apply State.keeps.pwrSeen
    | with_reducible apply State.keeps.reDivideAll | split | with_reducible exact State.keeps.rest h

theorem State.keeps.capCompare {draw : Nat} {up : Bool} {down : Bool} (h : s.keeps t) : s.keeps (t.capCompare draw
    up down) := by
  unfold State.capCompare
  try dsimp only
  repeat'
    first
    | with_reducible exact h | with_reducible assumption | with_reducible apply State.keeps.setBar
    | with_reducible apply State.keeps.setCapFloor | with_reducible apply State.keeps.updBar | split

theorem State.keeps.peakGuard (h : s.keeps t) : s.keeps (t.peakGuard) := by
  unfold State.peakGuard
  try dsimp only
  repeat'
    first
    | with_reducible exact h | with_reducible assumption | with_reducible apply State.keeps.pwrSeen
    | with_reducible apply State.keeps.reDivideAll | split | with_reducible exact State.keeps.rest h

theorem State.keeps.hourly {osc : List (Nat × List Nat)} (h : s.keeps t) : s.keeps (t.hourly osc) := by
  unfold State.hourly
  try dsimp only
  repeat'
    first
    | with_reducible exact h | with_reducible assumption | with_reducible apply State.keeps.noteOctets
    | with_reducible apply State.keeps.updBar | with_reducible apply State.keeps.updCluster
    | (with_reducible refine State.keeps.foldl ?_ ?_; rotate_left; (intro t a; have h : t.keeps t := State.keeps_refl; try dsimp only))
    | (with_reducible refine State.keeps.foldFst ?_ ?_; rotate_left; (intro p a; have h : p.1.keeps p.1 := State.keeps_refl; try dsimp only))
    | split

theorem State.keeps.updMgmt {f : Mgmt → Mgmt} (h : s.keeps t) : s.keeps (t.updMgmt f) := by
  unfold State.updMgmt
  try dsimp only
  repeat'
    first
    | with_reducible exact h | with_reducible assumption | split | with_reducible exact State.keeps.rest h

theorem State.keeps.setMcState {who : Nat} {v_ : Nat} (h : s.keeps t) : s.keeps (t.setMcState who v_) := by
  unfold State.setMcState
  try dsimp only
  repeat'
    first
    | with_reducible exact h | with_reducible assumption | with_reducible apply State.keeps.updBar

theorem State.keeps.updFlash {who : Nat} {f : Flash → Flash} (h : s.keeps t) : s.keeps (t.updFlash who f) := by
  unfold State.updFlash
  try dsimp only
  repeat'
    first
    | with_reducible exact h | with_reducible assumption | with_reducible apply State.keeps.updMgmt

theorem State.keeps.mgtRaise {code : Nat} {off : Nat} (h : s.keeps t) : s.keeps (t.mgtRaise code off) := by
  unfold State.mgtRaise
  try dsimp only
  repeat'
    first
    | with_reducible exact h | with_reducible assumption | with_reducible apply State.keeps.raiseFrom

theorem State.keeps.setPen {holder : Nat} {gen : Nat} (h : s.keeps t) : s.keeps (t.setPen holder gen) := by
  unfold State.setPen
  try dsimp only
  repeat'
    first
    | with_reducible exact h | with_reducible assumption | with_reducible apply State.keeps.setBar

theorem State.keeps.readPen (h : s.keeps t) : s.keeps (t.readPen) := by
  unfold State.readPen
  try dsimp only
  repeat'
    first
    | with_reducible exact h | with_reducible assumption | with_reducible apply State.keeps.updMgmt | split
    | with_reducible refine State.keeps.rest ?_

theorem State.keeps.handOver {who : Nat} (h : s.keeps t) : s.keeps (t.handOver who) := by
  unfold State.handOver
  try dsimp only
  repeat'
    first
    | with_reducible exact h | with_reducible assumption | with_reducible apply State.keeps.mgtRaise
    | with_reducible apply State.keeps.readPen | with_reducible apply State.keeps.setMcState
    | with_reducible apply State.keeps.stage | with_reducible apply State.keeps.updMgmt | split
    | with_reducible refine State.keeps.rest ?_

theorem State.keeps.penCas {holder : Nat} {gen : Nat} {new : Nat} (h : s.keeps t) : s.keeps (t.penCas holder gen
    new) := by
  unfold State.penCas
  try dsimp only
  repeat'
    first
    | with_reducible exact h | with_reducible assumption | with_reducible apply State.keeps.emit
    | with_reducible apply State.keeps.handOver | with_reducible apply State.keeps.setMcState
    | with_reducible apply State.keeps.setPen | split

theorem State.keeps.restorePeer (h : s.keeps t) : s.keeps (t.restorePeer) := by
  unfold State.restorePeer
  try dsimp only
  repeat'
    first
    | with_reducible exact h | with_reducible assumption | with_reducible apply State.keeps.mgtRaise
    | with_reducible apply State.keeps.setBar | with_reducible apply State.keeps.updFlash
    | with_reducible apply State.keeps.updMgmt | split | with_reducible refine State.keeps.rest ?_

theorem State.keeps.heartbeatSample (h : s.keeps t) : s.keeps (t.heartbeatSample) := by
  unfold State.heartbeatSample
  try dsimp only
  repeat'
    first
    | with_reducible exact h | with_reducible assumption | with_reducible apply State.keeps.handOver
    | with_reducible apply State.keeps.mgtSeen | with_reducible apply State.keeps.readPen
    | with_reducible apply State.keeps.setPen | with_reducible apply State.keeps.updBar
    | with_reducible apply State.keeps.updMgmt | split | with_reducible refine State.keeps.rest ?_

theorem State.keeps.penRelease (h : s.keeps t) : s.keeps (t.penRelease) := by
  unfold State.penRelease
  try dsimp only
  repeat'
    first
    | with_reducible exact h | with_reducible assumption | with_reducible apply State.keeps.handOver
    | with_reducible apply State.keeps.mgtRaise | with_reducible apply State.keeps.setPen | split

theorem State.keeps.penNone {who : Writer} (h : s.keeps t) : s.keeps (t.penNone who) := by
  unfold State.penNone
  try dsimp only
  repeat'
    first
    | with_reducible exact h | with_reducible assumption | with_reducible apply State.keeps.handOver
    | with_reducible apply State.keeps.setPen | split

theorem State.keeps.bootHalt {step : Nat} {code : Nat} (h : s.keeps t) : s.keeps (t.bootHalt step code) := by
  unfold State.bootHalt
  try dsimp only
  repeat'
    first
    | with_reducible exact h | with_reducible assumption | with_reducible apply State.keeps.updBar
    | with_reducible apply State.keeps.updMgmt

theorem State.keeps.bootFallback {who : Nat} {verified : Bool} {active : Bool} (h : s.keeps t) : s.keeps
    (t.bootFallback who verified active) := by
  unfold State.bootFallback
  try dsimp only
  repeat'
    first
    | with_reducible exact h | with_reducible assumption | with_reducible apply State.keeps.mgtSeen
    | with_reducible apply State.keeps.updFlash | split

theorem State.keeps.bootMc {who : Nat} {verified : Bool} {cls : BitVec 16} {st : Nat} (h : s.keeps t) : s.keeps
    (t.bootMc who verified cls st) := by
  unfold State.bootMc
  try dsimp only
  repeat'
    first
    | with_reducible exact h | with_reducible assumption | with_reducible apply State.keeps.setBar

theorem State.keeps.resync {holder : Nat} (h : s.keeps t) : s.keeps (t.resync holder) := by
  unfold State.resync
  try dsimp only
  repeat'
    first
    | with_reducible exact h | with_reducible assumption | with_reducible apply State.keeps.mgtRaise
    | with_reducible apply State.keeps.updFlash | split

theorem State.keeps.bootStep1 {f : BootFacts} (h : s.keeps t) : s.keeps (t.bootStep1 f) := by
  unfold State.bootStep1
  try dsimp only
  repeat'
    first
    | with_reducible exact h | with_reducible assumption | with_reducible apply State.keeps.bootFallback
    | with_reducible apply State.keeps.bootMc | with_reducible apply State.keeps.mgtRaise
    | with_reducible apply State.keeps.mgtSeen | with_reducible apply State.keeps.noteOctets
    | with_reducible apply State.keeps.readPen | with_reducible apply State.keeps.resync
    | with_reducible apply State.keeps.setBar | with_reducible apply State.keeps.setPen
    | with_reducible apply State.keeps.updMgmt | split | with_reducible refine State.keeps.rest ?_

theorem State.keeps.bootRegion {f : BootFacts} {r : Nat} (h : s.keeps t) : s.keeps (t.bootRegion f r) := by
  unfold State.bootRegion
  try dsimp only
  repeat'
    first
    | with_reducible exact h | with_reducible assumption | with_reducible apply State.keeps.note
    | with_reducible apply State.keeps.setRegionState | with_reducible apply State.keeps.updSvc | split
    | with_reducible refine State.keeps.rest ?_

theorem State.keeps.bootCluster {f : BootFacts} {c : Nat} (h : s.keeps t) : s.keeps (t.bootCluster f c) := by
  unfold State.bootCluster
  try dsimp only
  repeat'
    first
    | with_reducible exact h | with_reducible assumption | with_reducible apply State.keeps.powerCluster | split

theorem State.keeps.bootDie {f : BootFacts} {d : Nat} (h : s.keeps t) : s.keeps (t.bootDie f d) := by
  unfold State.bootDie
  try dsimp only
  repeat'
    first
    | with_reducible exact h | with_reducible assumption | with_reducible apply State.keeps.setRegionState
    | with_reducible apply State.keeps.updBar
    | (with_reducible refine State.keeps.foldl ?_ ?_; rotate_left; (intro t a; have h : t.keeps t := State.keeps_refl; try dsimp only))
    | split

theorem State.keeps.bootRows {f : BootFacts} {r : Nat} (h : s.keeps t) : s.keeps (t.bootRows f r) := by
  unfold State.bootRows
  try dsimp only
  repeat'
    first
    | with_reducible exact h | with_reducible assumption | with_reducible apply State.keeps.setP1
    | (with_reducible refine State.keeps.foldl ?_ ?_; rotate_left; (intro t a; have h : t.keeps t := State.keeps_refl; try dsimp only))
    | (with_reducible refine State.keeps.foldFst ?_ ?_; rotate_left; (intro p a; have h : p.1.keeps p.1 := State.keeps_refl; try dsimp only))
    | split

theorem State.keeps.bootSpares {f : BootFacts} {r : Nat} (h : s.keeps t) : s.keeps (t.bootSpares f r) := by
  unfold State.bootSpares
  try dsimp only
  repeat'
    first
    | with_reducible exact h | with_reducible assumption
    | with_reducible refine State.keeps.wellRest ?_ (fun _ => rfl)
    | with_reducible refine State.keeps.updWell ?_ (fun _ _ => rfl)
    | (with_reducible refine State.keeps.wellRest ?_ ?_; rotate_left; (intro x; repeat' split; all_goals rfl))
    | split | with_reducible refine State.keeps.rest ?_

theorem State.keeps.readIdent_fst {f : BootFacts} {r : Nat} (h : s.keeps t) : s.keeps (t.readIdent f r).1 := by
  unfold State.readIdent
  try dsimp only
  repeat'
    first
    | with_reducible exact h | with_reducible assumption | with_reducible apply State.keeps.wellCheck_fst
    | (with_reducible refine State.keeps.wellCheck_eq ?_ ‹_›)
    | with_reducible refine State.keeps.wellRest ?_ (fun _ => rfl)
    | (with_reducible refine State.keeps.wellRest ?_ ?_; rotate_left; (intro x; repeat' split; all_goals rfl))
    | split

theorem State.keeps.readIdent_eq {f : BootFacts} {r : Nat} {o : Option (BitVec 512)} (h : s.keeps t) (e :
    t.readIdent f r = (v, o)) : s.keeps v :=
  State.keeps.of_fst h.readIdent_fst e

theorem State.keeps.bootWellOut {r : Nat} (h : s.keeps t) : s.keeps (t.bootWellOut r) := by
  unfold State.bootWellOut
  try dsimp only
  repeat'
    first
    | with_reducible exact h | with_reducible assumption | with_reducible apply State.keeps.raise
    | with_reducible apply State.keeps.updBar | with_reducible apply State.keeps.updSvc

theorem State.keeps.bootWell {f : BootFacts} {r : Nat} (h : s.keeps t) : s.keeps (t.bootWell f r) := by
  unfold State.bootWell
  try dsimp only
  repeat'
    first
    | with_reducible exact h | with_reducible assumption | with_reducible apply State.keeps.bootSpares
    | with_reducible apply State.keeps.bootWellOut | with_reducible apply State.keeps.readIdent_fst
    | (with_reducible refine State.keeps.readIdent_eq ?_ ‹_›) | with_reducible apply State.keeps.setP1
    | with_reducible apply State.keeps.updP1 | with_reducible apply State.keeps.updSvc
    | (with_reducible refine State.keeps.foldl ?_ ?_; rotate_left; (intro t a; have h : t.keeps t := State.keeps_refl; try dsimp only))
    | (with_reducible refine State.keeps.foldFst ?_ ?_; rotate_left; (intro p a; have h : p.1.keeps p.1 := State.keeps_refl; try dsimp only))
    | split | with_reducible refine State.keeps.rest ?_

theorem State.keeps.bootWires {f : BootFacts} (h : s.keeps t) : s.keeps (t.bootWires f) := by
  unfold State.bootWires
  try dsimp only
  repeat'
    first
    | with_reducible exact h | with_reducible assumption | with_reducible apply State.keeps.steer
    | with_reducible apply State.keeps.steerGroup | with_reducible apply State.keeps.updRegion
    | (with_reducible refine State.keeps.foldl ?_ ?_; rotate_left; (intro t a; have h : t.keeps t := State.keeps_refl; try dsimp only))
    | (with_reducible refine State.keeps.foldFst ?_ ?_; rotate_left; (intro p a; have h : p.1.keeps p.1 := State.keeps_refl; try dsimp only))
    | split | with_reducible refine State.keeps.rest ?_

theorem State.keeps.bootLane {l : Nat} {p : Nat} {rx : Bool} (h : s.keeps t) : s.keeps (t.bootLane l p rx) := by
  unfold State.bootLane
  try dsimp only
  repeat'
    first
    | with_reducible exact h | with_reducible assumption | with_reducible apply State.keeps.setLaneMap
    | with_reducible apply State.keeps.setLink | split | with_reducible refine State.keeps.rest ?_

theorem State.keeps.bootLanes (h : s.keeps t) : s.keeps (t.bootLanes) := by
  unfold State.bootLanes
  try dsimp only
  repeat'
    first
    | with_reducible exact h | with_reducible assumption | with_reducible apply State.keeps.bootLane
    | (with_reducible refine State.keeps.foldl ?_ ?_; rotate_left; (intro t a; have h : t.keeps t := State.keeps_refl; try dsimp only))
    | (with_reducible refine State.keeps.foldFst ?_ ?_; rotate_left; (intro p a; have h : p.1.keeps p.1 := State.keeps_refl; try dsimp only))
    | split

theorem State.keeps.bootSteps {f : BootFacts} (h : s.keeps t) : s.keeps (t.bootSteps f) := by
  unfold State.bootSteps
  try dsimp only
  repeat'
    first
    | with_reducible exact h | with_reducible assumption | with_reducible apply State.keeps.bootCluster
    | with_reducible apply State.keeps.bootDie | with_reducible apply State.keeps.bootRows
    | with_reducible apply State.keeps.bootWell | with_reducible apply State.keeps.bootWires
    | with_reducible apply State.keeps.recomputeRoutes | with_reducible apply State.keeps.updRegion
    | with_reducible apply State.keeps.updSvc
    | (with_reducible refine State.keeps.foldl ?_ ?_; rotate_left; (intro t a; have h : t.keeps t := State.keeps_refl; try dsimp only))

theorem State.keeps.bootEnd (h : s.keeps t) : s.keeps (t.bootEnd) := by
  unfold State.bootEnd
  try dsimp only
  repeat'
    first
    | with_reducible exact h | with_reducible assumption | with_reducible apply State.keeps.bootLanes
    | with_reducible apply State.keeps.linkEnable | with_reducible apply State.keeps.mgtRaise
    | with_reducible apply State.keeps.routeRefresh | with_reducible apply State.keeps.setStatus
    | with_reducible apply State.keeps.summarise | with_reducible apply State.keeps.updBar
    | with_reducible apply State.keeps.updFlash | with_reducible apply State.keeps.updMgmt
    | (with_reducible refine State.keeps.foldl ?_ ?_; rotate_left; (intro t a; have h : t.keeps t := State.keeps_refl; try dsimp only))
    | (with_reducible refine State.keeps.foldFst ?_ ?_; rotate_left; (intro p a; have h : p.1.keeps p.1 := State.keeps_refl; try dsimp only))
    | split | with_reducible refine State.keeps.rest ?_

theorem State.keeps.bootAll {f : BootFacts} {power : State → List Nat} (h : s.keeps t) : s.keeps (t.bootAll f power)
    := by
  unfold State.bootAll
  try dsimp only
  repeat'
    first
    | with_reducible exact h | with_reducible assumption | with_reducible apply State.keeps.bootEnd
    | with_reducible apply State.keeps.bootHalt | with_reducible apply State.keeps.bootMc
    | with_reducible apply State.keeps.bootRegion | with_reducible apply State.keeps.bootStep1
    | with_reducible apply State.keeps.bootSteps | with_reducible apply State.keeps.setRegionState
    | with_reducible apply State.keeps.updBar
    | (with_reducible refine State.keeps.foldl ?_ ?_; rotate_left; (intro t a; have h : t.keeps t := State.keeps_refl; try dsimp only))
    | (with_reducible refine State.keeps.foldFst ?_ ?_; rotate_left; (intro p a; have h : p.1.keeps p.1 := State.keeps_refl; try dsimp only))
    | split

theorem State.keeps.boot {f : BootFacts} (h : s.keeps t) : s.keeps (t.boot f) := by
  unfold State.boot
  try dsimp only
  repeat'
    first
    | with_reducible exact h | with_reducible assumption | with_reducible apply State.keeps.bootAll
    | with_reducible apply State.keeps.serviceBudget | split

theorem State.keeps.warmRegs (h : s.keeps t) : s.keeps t.warmRegs := by
  refine h.trans ⟨rfl, fun ⟨h1, h2, h3, h4, h5, _, h7, k⟩ => ?_⟩
  refine ⟨h1, Sparse.wf_mapped _ (fun _ => rfl) h2, h3, h4, h5, rfl, Sparse.wf_filterMap h7 (fun e f x => ?_) fun e f n x => ?_, k⟩
  · split at x
    · cases x; rfl
    · split at x <;> cases x; rfl
  · split at x
    · cases x; exact n
    · split at x <;> rename_i c <;> cases x
      have lt : field e.2 0 3 < 8 := Nat.mod_lt _ (by decide)
      have b : barReset e.1 = 0 := by
        unfold barReset
        simp only [show ¬ e.1 = 0 by omega, show ¬ e.1 = 0x10 by omega, show ¬ (e.1 < 0x8400) by omega,
          show ¬ e.1 = 0x1000C by omega, show ¬ (0x11000 ≤ e.1) by omega, show ¬ (0x30000 ≤ e.1) by omega,
          show ¬ e.1 = 0x30808 by omega, if_false, false_and, and_false]
      show BitVec.ofNat 32 (field e.2 0 3) ≠ barReset e.1
      rw [b]
      intro z
      have := congrArg BitVec.toNat z
      simp only [BitVec.toNat_ofNat, BitVec.ofNat_eq_ofNat] at this
      omega

theorem State.keeps.warmReset {f : BootFacts} (h : s.keeps t) : s.keeps (t.warmReset f) := by
  unfold State.warmReset
  try dsimp only
  repeat'
    first
    | with_reducible exact h | with_reducible assumption | with_reducible apply State.keeps.bootAll
    | with_reducible apply State.keeps.warmRegs | split

theorem State.keeps.setRecovery {who : Nat} {r : Recovery} (h : s.keeps t) : s.keeps (t.setRecovery who r) := by
  unfold State.setRecovery
  try dsimp only
  repeat'
    first
    | with_reducible exact h | with_reducible assumption | with_reducible apply State.keeps.updMgmt

theorem State.keeps.inRecovery {who : Writer} {f : Nat → State} (h : s.keeps t) (hf : ∀ w, s.keeps (f w)) :
    s.keeps (t.inRecovery who f) := by
  unfold State.inRecovery
  repeat' (first | with_reducible exact h | with_reducible exact hf _ | split)

theorem State.keeps.recoveryAnswer {who : Nat} {status : Nat} (h : s.keeps t) : s.keeps (t.recoveryAnswer who
    status) := by
  unfold State.recoveryAnswer
  try dsimp only
  repeat'
    first
    | with_reducible exact h | with_reducible assumption | with_reducible apply State.keeps.emit
    | with_reducible apply State.keeps.setRecovery

theorem State.keeps.recoveryErase {w : Nat} {state : Nat} {length : Nat} (h : s.keeps t) : s.keeps (t.recoveryErase
    w state length) := by
  unfold State.recoveryErase
  try dsimp only
  repeat'
    first
    | with_reducible exact h | with_reducible assumption | with_reducible apply State.keeps.setRecovery
    | with_reducible apply State.keeps.updFlash

theorem State.keeps.recoveryCommit {w : Nat} {good : Bool} (h : s.keeps t) : s.keeps (t.recoveryCommit w good) := by
  unfold State.recoveryCommit
  try dsimp only
  repeat'
    first
    | with_reducible exact h | with_reducible assumption | with_reducible apply State.keeps.recoveryAnswer
    | with_reducible apply State.keeps.recoveryErase | with_reducible apply State.keeps.setMcState
    | with_reducible apply State.keeps.setRecovery | with_reducible apply State.keeps.updFlash | split

theorem State.keeps.updReport {state : Nat} {status : Nat} (h : s.keeps t) : s.keeps (t.updReport state status) := by
  unfold State.updReport
  try dsimp only
  repeat'
    first
    | with_reducible exact h | with_reducible assumption | with_reducible apply State.keeps.updBar

theorem State.keeps.stage {os : List Octet} {release : BitVec 16} {cls : BitVec 16} {good : Bool} (h : s.keeps t) :
    s.keeps (t.stage os release cls good) := by
  unfold State.stage
  try dsimp only
  repeat'
    first
    | with_reducible exact h | with_reducible assumption | with_reducible apply State.keeps.mgtRaise
    | with_reducible apply State.keeps.updFlash | with_reducible apply State.keeps.updMgmt
    | with_reducible apply State.keeps.updReport | split

theorem State.keeps.activate (h : s.keeps t) : s.keeps (t.activate) := by
  unfold State.activate
  try dsimp only
  repeat'
    first
    | with_reducible exact h | with_reducible assumption | with_reducible apply State.keeps.setMcState
    | with_reducible apply State.keeps.updFlash | with_reducible apply State.keeps.updReport
    | with_reducible apply State.keeps.warmRegs | split

theorem State.keeps.cancel (h : s.keeps t) : s.keeps (t.cancel) := by
  unfold State.cancel
  try dsimp only
  repeat'
    first
    | with_reducible exact h | with_reducible assumption | with_reducible apply State.keeps.updMgmt
    | with_reducible apply State.keeps.updReport | split | with_reducible refine State.keeps.rest ?_

theorem State.keeps.compact (h : s.keeps t) : s.keeps (t.compact) := by
  unfold State.compact
  try dsimp only
  repeat'
    first
    | with_reducible exact h | with_reducible assumption | with_reducible apply State.keeps.mgtRaise
    | with_reducible apply State.keeps.updBar | with_reducible apply State.keeps.updFlash | split

theorem State.keeps.writeRecord {kind : BitVec 16} {payload : List Octet} {verified : Bool} (h : s.keeps t) :
    s.keeps (t.writeRecord kind payload verified) := by
  unfold State.writeRecord
  try dsimp only
  repeat'
    first
    | with_reducible exact h | with_reducible assumption | with_reducible apply State.keeps.compact
    | with_reducible apply State.keeps.mgtSeen | with_reducible apply State.keeps.updFlash
    | with_reducible apply State.keeps.updMgmt | split | with_reducible refine State.keeps.rest ?_

theorem State.keeps.spdmAnswer {code : Nat} {os : List Octet} {f : Spdm → Spdm} (h : s.keeps t) : s.keeps
    (t.spdmAnswer code os f) := by
  unfold State.spdmAnswer
  try dsimp only
  repeat'
    first
    | with_reducible exact h | with_reducible assumption | with_reducible apply State.keeps.emit
    | with_reducible apply State.keeps.updMgmt

theorem State.keeps.spdmError {e : Nat} (h : s.keeps t) : s.keeps (t.spdmError e) := by
  unfold State.spdmError
  try dsimp only
  repeat'
    first
    | with_reducible exact h | with_reducible assumption | with_reducible apply State.keeps.spdmAnswer

theorem State.keeps.spdmAt {stage : Nat} {f : State} (h : s.keeps t) (hf : s.keeps f) : s.keeps (t.spdmAt stage f) := by
  unfold State.spdmAt
  repeat' (first | with_reducible exact h | with_reducible exact hf | with_reducible exact .spdmError h | split)

theorem State.keeps.ideKm {os : List Octet} (h : s.keeps t) : s.keeps (t.ideKm os) := by
  unfold State.ideKm
  try dsimp only
  repeat'
    first
    | with_reducible exact h | with_reducible assumption | with_reducible apply State.keeps.spdmAnswer
    | with_reducible apply State.keeps.spdmError | split | with_reducible refine State.keeps.rest ?_

end Sys2Proof.Machine
end

