-- ==== Sys2Proof/Tests/Slice0.lean ====
section
/-! SUPPORT. Tests: ill-formed commands, results that the spec works out, and for each statement states and operands that meet its
hypotheses together, at the boundaries of its clauses. -/

namespace Sys2Proof.Tests

open Sys2Proof Sys2Proof.Machine

-- one theorem at a time: each kernel evaluation would otherwise take a thread of its own
set_option Elab.async false

/-- The command answers a next state for which `p` holds. -/
def runs (c : Instr) (s : State) (p : State → Bool) : Bool :=
  match exec c s with
  | .next t => p t
  | _ => false

/-! ### Scratchpad -/

/-- A row of unit 3, for the tests of this section. -/
def cellAt (q : Nat) (c : Cell) : State := State.reset.updUnit 3 fun x => x.setCell q c
def fullCell : Cell := { data := 7, tagged := true, full := true, nf := true }
def emptyCell : Cell := { data := 7, tagged := true, full := false, nf := true }
/-- A wide access of port 8 or 9 to unit 3, or a narrow one of port 6: the last of its cycle. -/
def accBy (port off : Nat) : Access :=
  { unit := 3, port := port, agent := 0, offset := off, wide := true, deadline := 0, hold := 1, keep := false, data := 9, nf := false,
    ecc := .clean, more := false }
/-- A parked peek of row 5. -/
def parkedReq : Req :=
  { acc := accBy 8 320, kind := .peek, slack := 0, entered := 0, parkedAt := 0, own := false, woken := true, waited := false }
def bankWith (b : Bank) : State := (cellAt 5 fullCell).updUnit 3 fun x => x.setBank 0 b
/-- The latest answer to a port. -/
def gave (t : State) (port status : Nat) (d : Row) : Bool :=
  (t.unit 3).resps.any fun p => p.port == port && p.status == BitVec.ofNat 12 status && p.data == d

/-- A wide read of the last row of an untagged scratchpad. -/
theorem wit_ScratchpadAccessMade_last :
    let s := State.reset
    let a := accBy 0 3145664
    (Instr.plainRead a, AccKind.plainRead) ∈ accessRows a ∧ s.unitServed a.unit ∧ s.accessOk a .plainRead ∧ s.bankFree a ∧
      ((s.unit 3).cell 49151).tagged = false ∧ runs (.plainRead a) s (fun t => gave t 0 0 0) = true := by
  unfold State.unitServed State.accessOk offsetOk State.bankFree; decide +kernel

/-- A take empties a full row, and clears its nf. -/
theorem wit_ScratchpadAccessMade_take :
    let s := cellAt 5 fullCell
    let a := accBy 8 320
    (Instr.take a, AccKind.take) ∈ accessRows a ∧ s.unitServed a.unit ∧ s.accessOk a .take ∧ s.bankFree a ∧
      ((s.unit 3).cell 5).full = true ∧
      runs (.take a) s (fun t => gave t 8 0 7 && (t.unit 3).cell 5 == { fullCell with full := false, nf := false }) = true := by
  unfold State.unitServed State.accessOk offsetOk State.bankFree; decide +kernel

/-- FILL_SEAL writes word 15 of an empty row and makes it full. -/
theorem wit_ScratchpadAccessMade_fillSeal :
    let s := cellAt 5 emptyCell
    let a := accBy 6 380
    (Instr.fillSeal a, AccKind.fillSeal) ∈ accessRows a ∧ s.unitServed a.unit ∧ s.accessOk a .fillSeal ∧ s.bankFree a ∧
      ((s.unit 3).cell 5).full = false ∧
      runs (.fillSeal a) s (fun t => (t.unit 3).cell 5 == { emptyCell with full := true, data := 7 + 9 * 2 ^ 540 }) = true := by
  unfold State.unitServed State.accessOk offsetOk State.bankFree; decide +kernel

/-- A seal of a free row answers the free mode and changes nothing. -/
theorem wit_ScratchpadAccessMade_seal :
    let s := State.reset
    let a := accBy 6 380
    (Instr.tagSeal a, AccKind.seal) ∈ accessRows a ∧ s.unitServed a.unit ∧ s.accessOk a .seal ∧ s.bankFree a ∧
      runs (.tagSeal a) s (fun t => gave t 6 0 0 && (t.unit 3).rows == []) = true := by
  unfold State.unitServed State.accessOk offsetOk State.bankFree; decide +kernel

/-- A put waits at a full row. -/
theorem wit_ScratchpadRequestParks :
    let s := cellAt 5 fullCell
    let a := accBy 9 320
    (Instr.put a, AccKind.put) ∈ accessRows a ∧ s.unitServed a.unit ∧ s.accessOk a .put ∧ s.bankFree a ∧
      ((s.unit 3).cell 5).tagged = true ∧ ((s.unit 3).cell 5).full = true ∧
      runs (.put a) s (fun t => ((t.unit 3).bank 0).parked.length == 1 && ((t.unit 3).bank 0).owner == none) = true := by
  unfold State.unitServed State.accessOk offsetOk State.bankFree; decide +kernel

/-- A take waits at an empty row. -/
theorem wit_ScratchpadRequestParks_take :
    let s := cellAt 5 emptyCell
    let a := accBy 8 320
    s.unitServed a.unit ∧ s.accessOk a .take ∧ s.bankFree a ∧ ((s.unit 3).cell 5).tagged = true ∧ ((s.unit 3).cell 5).full = false ∧
      runs (.take a) s (fun t => ((t.unit 3).bank 0).parked.length == 1) = true := by
  unfold State.unitServed State.accessOk offsetOk State.bankFree; decide +kernel

theorem wit_PlainWriteToTaggedRowRejected :
    let s := cellAt 5 emptyCell
    let a := accBy 9 320
    s.unitServed a.unit ∧ s.accessOk a .plainWrite ∧ s.bankFree a ∧ a.port ≠ 6 ∧ ((s.unit a.unit).cell 5).tagged = true ∧
      runs (.plainWrite a) s (fun t => gave t 9 0x12C 0 && field (t.p1 0 (spdIdx 3 3)) 3 1 == 1) = true := by
  unfold State.unitServed State.accessOk offsetOk State.bankFree; decide +kernel

theorem wit_ScratchpadErrorChecks :
    let s := cellAt 5 fullCell
    let a (e : Ecc) : Access := { accBy 0 320 with ecc := e }
    s.unitServed 3 ∧ s.accessOk (a .clean) .plainRead ∧ s.bankFree (a .clean) ∧ (a .clean).port < 4 ∧
      runs (.plainRead (a (.corrected 1023))) s (fun t => gave t 0 0 7 && field (t.p1 0 (spdIdx 3 2)) 16 10 == 1023 &&
        field (t.p1 0 (spdIdx 3 0)) 0 24 == 1) = true ∧
      runs (.plainRead (a .uncorrectable)) s (fun t => gave t 0 0x221 0 && t.seq.reported.any fun k => k.code == 0x221) = true := by
  unfold State.unitServed State.accessOk offsetOk State.bankFree; decide +kernel

/-- A woken peek is served; one that has waited 2^20 cycles is recorded, and one that has not is let wait. -/
theorem wit_ScratchpadBankEvents_parked :
    let s := bankWith { Bank.reset with parked := [parkedReq] }
    let x := (s.unit 3).bank 0
    let later : State := { s with root := 2 ^ 24 }
    x.parked[0]? = some parkedReq ∧ parkedReq.woken = true ∧ parkedReq.acc.unit = 3 ∧ parkedReq.acc.offset / 64 / 3072 = 0 ∧
      parkedReq.own = false ∧ parkedReq.acc.more = false ∧ x.owner = none ∧ x.waiting = [] ∧ ((s.unit 3).cell 5).full = true ∧
      parkedReq.waited = false ∧ s.aclkOf (clusterOf 3) < 2 ^ 20 ∧ 2 ^ 20 ≤ later.aclkOf (clusterOf 3) ∧
      runs (.parkedRequestWake 3 0 0 .clean) s (fun t => gave t 8 0 7 && ((t.unit 3).bank 0).parked == []) = true ∧
      runs (.tagWaitEvent 3 0 0) s (fun t => t == s) = true ∧
      runs (.tagWaitEvent 3 0 0) later (fun t => field (t.p1 0 (spdIdx 3 3)) 5 1 == 1 &&
        ((t.unit 3).bank 0).parked == [{ parkedReq with waited := true }]) = true := by
  decide +kernel

/-- A grant held past its length, one not yet there, an indefinite one, and the scrub of the last row of a free bank and of a held one. -/
theorem wit_ScratchpadBankEvents_held :
    let g (h : Nat) : Grant := { port := 0, agent := 0, hold := h, granted := 0, overheld := false }
    let s (h : Nat) := bankWith { Bank.reset with owner := some (g h) }
    let later (h : Nat) : State := { s h with root := 600 }
    ((s 1).unit 3).bank 0 = { Bank.reset with owner := some (g 1) } ∧ (s 1).unitServed 3 ∧ ((s 1).unit 3 |>.bank 0).presents 10 1 = false ∧
      runs (.overhold 3 0) (s 1) (fun t => t == s 1) = true ∧
      runs (.overhold 3 0) (later 1) (fun t => field (t.p1 0 (spdIdx 3 1)) 12 16 == 1 &&
        ((t.unit 3).bank 0).owner == some { g 1 with overheld := true }) = true ∧
      runs (.overhold 3 0) (later 0) (fun t => t == later 0) = true ∧
      runs (.scrub 3 0 .clean) (bankWith { Bank.reset with scrubRow := 3071 }) (fun t => ((t.unit 3).bank 0).scrubRow == 0) = true ∧
      runs (.scrub 3 0 .clean) (s 1) (fun t => ((t.unit 3).bank 0).waiting.any Req.isScrub) = true := by
  unfold State.unitServed; decide +kernel

/-- A write port makes no read, and a wide port rejects an offset inside a row. -/
theorem wit_ScratchpadBankEvents_ports :
    portMakes 4 .plainRead = false ∧ portMakes 8 .plainRead = true ∧ State.reset.unitServed 3 ∧
      runs (.plainRead (accBy 4 320)) State.reset (fun t => t == State.reset) = true ∧
      runs (.plainRead (accBy 8 324)) State.reset (fun t => gave t 8 0x12B 0 && field (t.p1 0 (spdIdx 3 3)) 4 1 == 1) = true := by
  unfold State.unitServed; decide +kernel

/-! ### Scribe core; words are written from the formats of Table SCR-2 -/

/-- Hand 2 of unit 3 at word 7, which is `w`; w1 = 5, w2 = -1, a1 = row 5 of the unit, a2 = sync object 9 of region 0. -/
def coreUnit (w : Word) : Machine.Unit :=
  { (Machine.Unit.reset.setCell 5 { data := 7 + 2 ^ 540, tagged := false, full := false, nf := true }) with script := [(7, w)] }.setHand 2
    { ((Hand.reset.setReg 1 5).setReg 2 (-1)) with st := .ready, pc := 7, a := [(1, BitVec.ofNat 48 (3 * 2 ^ 22 + 320)), (2, BitVec.ofNat 48 (2 ^ 47 + 9 * 2 ^ 20))] }
def core (w : Word) : State := State.reset.setUnit 3 (coreUnit w)
def iss : Issue := { unit := 3, hand := 2, held := 0, fetch := .clean, credit := true, ecc := .clean }
/-- A word of the R format: opcode, three register fields, fn. -/
def rWord (op a b c fn : Nat) : Word := BitVec.ofNat 36 (op * 2 ^ 30 + a * 2 ^ 25 + b * 2 ^ 20 + c * 2 ^ 15 + fn)
/-- A word of the I format. -/
def iWord (op a b imm : Nat) : Word := BitVec.ofNat 36 (op * 2 ^ 30 + a * 2 ^ 25 + b * 2 ^ 20 + imm)
/-- The hand after a command. -/
def hand2 (t : State) : Hand := (t.unit 3).hand 2

theorem wit_ArithmeticResult :
    let s := core (rWord 0 3 1 2 0)
    (Instr.add iss, Op.add) ∈ (aluRows iss).map (fun e => (e.1, e.2.1)) ∧ s.issues iss .add ∧
      runs (.add iss) s (fun t => (hand2 t).reg 3 == 4 && (hand2 t).pc == 8) = true := by
  unfold State.issues; decide +kernel

/-- A write to w0 is discarded. -/
theorem wit_ArithmeticResult_w0 :
    let s := core (rWord 0 0 1 2 4)
    s.issues iss .xor ∧ runs (.xor iss) s (fun t => (hand2 t).reg 0 == 0 && (hand2 t).pc == 8) = true := by
  unfold State.issues; decide +kernel

theorem wit_ArithmeticResult_imm :
    let s := core (iWord 0o07 3 2 63)
    (Instr.srai iss, Op.srai) ∈ (immRows iss).map (fun e => (e.1, e.2.1)) ∧ s.issues iss .srai ∧
      runs (.srai iss) s (fun t => (hand2 t).reg 3 == -1) = true := by
  unfold State.issues; decide +kernel

theorem wit_ArithmeticResult_lui :
    let s := core (iWord 0o12 3 0 1)
    s.issues iss .lui ∧ runs (.lui iss) s (fun t => (hand2 t).reg 3 == 2048) = true := by
  unfold State.issues; decide +kernel

/-- A product is late by 3 cycles, and its register is not ready before. -/
theorem wit_ArithmeticResult_late :
    let s := core (rWord 0 3 1 2 14)
    s.issues iss .mul ∧ fA (s.scriptWord iss) = 3 ∧ s.aclkOf (clusterOf 3) = 0 ∧
      runs (.mul iss) s (fun t => (hand2 t).reg 3 == -5 && !(hand2 t).ready.getLsbD 3 && (hand2 t).due == [(3, 3)] &&
        ((hand2 t).mature 3).ready.getLsbD 3 && !((hand2 t).mature 2).ready.getLsbD 3) = true := by
  unfold State.issues; decide +kernel

/-- A taken branch back by 2, and one not taken. -/
theorem wit_BranchesAndJumps :
    let s (op : Nat) := core (iWord op 2 1 (2 ^ 20 - 2))
    (Instr.blt iss, Op.blt) ∈ (branchRows iss).map (fun e => (e.1, e.2.1)) ∧ (s 0o22).issues iss .blt ∧ (s 0o24).issues iss .bltu ∧
      runs (.blt iss) (s 0o22) (fun t => (hand2 t).pc == 5) = true ∧ runs (.bltu iss) (s 0o24) (fun t => (hand2 t).pc == 8) = true := by
  unfold State.issues; decide +kernel

theorem wit_BranchesAndJumps_jumps :
    let s := core (iWord 0o26 3 0 16)
    let s1 := core (iWord 0o27 3 1 1)
    s.issues iss .jal ∧ s1.issues iss .jalr ∧ runs (.jal iss) s (fun t => (hand2 t).pc == 23 && (hand2 t).reg 3 == 8) = true ∧
      runs (.jalr iss) s1 (fun t => (hand2 t).pc == 6 && (hand2 t).reg 3 == 8) = true := by
  unfold State.issues; decide +kernel

theorem wit_AddressBases :
    let s0 := core (rWord 0o42 3 1 2 0)
    let s1 := core (rWord 0o43 3 1 2 0)
    let s2 := core (iWord 0o44 3 1 (2 ^ 20 - 1))
    let s3 := core (rWord 0o45 3 1 0 0)
    s0.issues iss .aset ∧ s1.issues iss .aadd ∧ s2.issues iss .aaddi ∧ s3.issues iss .aget ∧
      runs (.aset iss) s0 (fun t => (hand2 t).base 3 == BitVec.ofNat 48 (5 * 2 ^ 36 + 2 ^ 36 - 1)) = true ∧
      runs (.aadd iss) s1 (fun t => (hand2 t).base 3 == BitVec.ofNat 48 (3 * 2 ^ 22 + 319)) = true ∧
      runs (.aaddi iss) s2 (fun t => (hand2 t).base 3 == BitVec.ofNat 48 (3 * 2 ^ 22 + 319)) = true ∧
      runs (.aget iss) s3 (fun t => (hand2 t).reg 3 == wd (3 * 2 ^ 22 + 320)) = true := by
  unfold State.issues; decide +kernel

/-- A load of word 15 of row 5, and a store to it. -/
theorem wit_NarrowAccessMade :
    let s := core (BitVec.ofNat 36 (0o30 * 2 ^ 30 + 3 * 2 ^ 25 + 1 * 2 ^ 22 + 15))
    let s1 := core (BitVec.ofNat 36 (0o33 * 2 ^ 30 + 1 * 2 ^ 25 + 1 * 2 ^ 22 + 15))
    let a := memAddr (s.issuer iss) (s.scriptWord iss)
    (Instr.ld iss, Op.ld, AccKind.plainRead, true) ∈ memRows iss ∧ s.issues iss .ld ∧ s1.issues iss .st ∧
      s.memFault 3 .plainRead a = 0 ∧ s1.memFault 3 .plainWrite a = 0 ∧ s.unitServed (waUnit a) ∧ waUnit a = 3 ∧
      waOffset a = 380 ∧ ((s.unit 3).bank 0) = Bank.reset ∧
      runs (.ld iss) s (fun t => (hand2 t).reg 3 == 1 && (hand2 t).pc == 8) = true ∧
      runs (.st iss) s1 (fun t => wordOf ((t.unit 3).cell 5).data 15 == 5 && (hand2 t).st == .ready) = true := by
  unfold State.issues State.unitServed; decide +kernel

theorem wit_SyncInstructions :
    let y (op a sop : Nat) : Word := BitVec.ofNat 36 (op * 2 ^ 30 + a * 2 ^ 25 + 2 * 2 ^ 22 + 1 * 2 ^ 17 + sop * 2 ^ 12)
    (core (y 0o50 0 1)).issues iss .sync ∧ (core (y 0o51 3 0)).issues iss .syncr ∧ (core (rWord 0o53 0 0 0 0)).issues iss .fence ∧
      syncFault (((core (y 0o50 0 1)).issuer iss).base 2) = 0 ∧
      runs (.sync iss) (core (y 0o50 0 1)) (fun t => t.net.length == 1 && (hand2 t).posted == [(0, 7)]) = true ∧
      runs (.syncr iss) (core (y 0o51 3 0)) (fun t => t.net.length == 1 && (hand2 t).st == .replyWait) = true ∧
      runs (.fence iss) (core (rWord 0o53 0 0 0 0)) (fun t => (hand2 t).st == .ready && (hand2 t).pc == 8) = true ∧
      runs (.fence iss) ((core (rWord 0o53 0 0 0 0)).updUnit 3 fun x => x.updHand 2 fun h => { h with posted := [(0, 4)] })
        (fun t => (hand2 t).st == .replyWait && (hand2 t).pc == 7) = true := by
  unfold State.issues; decide +kernel

/-- ISSUE to each of the engines. -/
theorem wit_IssueQueuesCommand :
    let c (eng : Nat) : Word := BitVec.ofNat 36 (0o52 * 2 ^ 30 + 3 * 2 ^ 25 + 1 * 2 ^ 22 + eng * 2 ^ 20 + 1)
    (core (c 0)).issues iss .issue ∧ (core (c 1)).issues iss .issue ∧ (core (c 2)).issues iss .issue ∧
      issueFault 3 (BitVec.ofNat 48 (3 * 2 ^ 22 + 384)) = 0 ∧
      runs (.issue iss) (core (c 0)) (fun t => (t.unit 3).mxa.queue == [⟨384, 0⟩] && (t.unit 3).mxa.issued == 1) = true ∧
      runs (.issue iss) (core (c 2)) (fun t => (t.unit 3).mover.queue == [⟨384, 0⟩] && (hand2 t).reg 3 == 0) = true := by
  unfold State.issues; decide +kernel

theorem wit_HandControlAndSpecialRegisters :
    let s := core (rWord 0o60 7 1 0 0)
    let s1 := core (rWord 0o61 0 0 0 0)
    s.issues iss .hstart ∧ fA (s.scriptWord iss) = 7 ∧ ((s.unit 3).hand 7).st = .idle ∧ s1.issues iss .halt ∧
      runs (.hstart iss) s (fun t => ((t.unit 3).hand 7).st == .ready && ((t.unit 3).hand 7).pc == 5) = true ∧
      runs (.halt iss) s1 (fun t => (hand2 t).st == .idle) = true := by
  unfold State.issues; decide +kernel

/-- RDSR of the hand number, and WRSR of each end of the writable range. -/
theorem wit_SpecialRegisters :
    let s := core (iWord 0o65 3 0 1)
    let s5 := core (iWord 0o66 0 1 5)
    let s9 := core (iWord 0o66 0 1 9)
    s.issues iss .rdsr ∧ (s.specialReg 3 2 (s.issuer iss) 1).isSome = true ∧ s5.issues iss .wrsr ∧ s9.issues iss .wrsr ∧
      runs (.rdsr iss) s (fun t => some ((hand2 t).reg 3) == s.specialReg 3 2 (s.issuer iss) 1) = true ∧
      runs (.wrsr iss) s5 (fun t => (t.unit 3).pbaseLo == 5) = true ∧ runs (.wrsr iss) s9 (fun t => (hand2 t).prio == 1) = true := by
  unfold State.issues; decide +kernel

/-- A checkpoint on time, and one that is late by more than the threshold. -/
theorem wit_PlanCheckpoints :
    let s := core (iWord 0o63 0 0 4)
    let late := { s with root := 6 * 2 ^ 21 }
    s.issues iss .plan ∧ late.issues iss .plan ∧ (core (iWord 0o64 0 1 0)).issues iss .planr ∧
      runs (.plan iss) s (fun t => (hand2 t).planned == 4 && t.p1 0 (scrIdx 3 1) == 0 && t.ringSlot 0 == 0) = true ∧
      runs (.plan iss) late (fun t => t.p1 0 (scrIdx 3 1) == wd (2 ^ 21 - 4) && field (t.p1 0 (scrIdx 3 2)) 28 1 == 1 &&
        t.ringSlot 0 == 1) = true := by
  unfold State.issues; decide +kernel

theorem wit_HandFaults :
    let s := core (iWord 0o62 0 1 0)
    let bad := core (iWord 0o77 0 0 0)
    let far := s.updUnit 3 fun x => x.updHand 2 fun h => { h with pc := 32768 }
    s.issues iss .raise ∧ ((bad.settled iss).unit 3).chosen iss 2 = true ∧ opOf (bad.scriptWord iss) = none ∧
      ((far.settled iss).unit 3).chosen iss 2 = true ∧ 32768 ≤ (far.issuer iss).pc.toNat ∧
      runs (.raise iss) s (fun t => (hand2 t).st == .halted && field (t.p1 0 (scrIdx 3 3)) 0 12 == 5) = true ∧
      runs (.invalidInstruction iss) bad (fun t => field (t.p1 0 (scrIdx 3 3)) 0 12 == 0x131) = true ∧
      runs (.invalidInstruction iss) far (fun t => field (t.p1 0 (scrIdx 3 3)) 0 12 == 0x132) = true := by
  unfold State.issues; decide +kernel

theorem wit_ScriptStoreChecks :
    let s := core (rWord 0 3 1 2 0)
    s.issues { iss with fetch := .clean } .add ∧
      runs (.add { iss with fetch := .corrected 35 }) s (fun t => (hand2 t).reg 3 == 4 && field (t.p1 0 (scrIdx 3 2)) 16 12 == 1) = true ∧
      runs (.add { iss with fetch := .uncorrectable }) s (fun t => (hand2 t).st == .idle && t.ringSlot 0 == 1) = true := by
  unfold State.issues; decide +kernel

theorem wit_BackOffExpires :
    let n : Narrow := { kind := .plainRead, unit := 3, offset := 380, rd := 31, data := 0, deadline := 0, hint := 0, pc := 7 }
    let s := (core 0).updUnit 3 fun x => x.updHand 2 fun h => { h with st := .backOff, narrow := some n }
    (s.issuer iss).narrow = some n ∧ (s.issuer iss).st = .backOff ∧ s.unitServed 3 ∧ s.bankIdle 3 380 ∧
      runs (.backOffExpiry iss) s (fun t => (hand2 t).reg 31 == 1 && (hand2 t).st == .ready) = true := by
  unfold State.unitServed State.bankIdle; decide +kernel

/-- One row from row 5, and a load of no rows. -/
theorem wit_ScriptLoads :
    let s := (State.reset.updUnit 3 fun x => x.setCell 5 { Cell.reset with data := 9 * 2 ^ 540 }).setP1 0 (ctlIdx 3 1) (wd (320 + 2 ^ 22))
    (∀ h < 8, ((s.unit 3).hand h).st = .idle) ∧ s.silent 3 = false ∧ (s.unit 3).loadRows = 0 ∧
      field (s.p1 0 (ctlIdx 3 1)) 0 22 = 320 ∧ field (s.p1 0 (ctlIdx 3 1)) 22 12 = 1 ∧
      runs (.scriptLoad 3 []) s (fun t => (t.unit 3).script == [(15, 9)]) = true ∧
      field (State.reset.p1 0 (ctlIdx 3 1)) 22 12 = 0 ∧
      runs (.scriptLoad 3 []) State.reset (fun t => t.ringSlot 0 == 1 && t.units == []) = true := by
  decide +kernel

theorem wit_GoAndStop :
    let s := State.reset.setP1 0 (ctlIdx 3 0) 32767
    (∀ h < 8, ((s.unit 3).hand h).st = .idle) ∧ s.silent 3 = false ∧ ((core 0).unit 3 |>.hand 2).st ≠ .idle ∧
      runs (.go 3) s (fun t => ((t.unit 3).hand 0).pc == 32767 && ((t.unit 3).hand 0).st == .ready) = true ∧
      runs (.go 3) (core 0) (fun t => t == core 0) = true ∧
      runs (.unitStop 3) (core 0) (fun t => (hand2 t).st == .idle && (hand2 t).reg 1 == 5) = true := by
  decide +kernel

theorem wit_FlushDiscardsCommands :
    let s := State.reset.updUnit 3 fun x => { x with mxa := { x.mxa with queue := [⟨384, 0⟩] } }
    (∀ e ∈ s.units, e.2.banks = []) ∧ (s.unit 3).inbound = [] ∧ runs (.flush 3) s (fun t => (t.unit 3).mxa.queue == []) = true := by
  decide +kernel

/-- A mover's write that waits at a unit of another cluster is withdrawn. -/
theorem wit_FlushDiscardsCommands_far :
    let m : Msg := { blankMsg with type := 1, srcUnit := 3, dstUnit := 20 }
    let s := State.reset.updUnit 20 fun x => { x with inbound := [m] }
    (∀ e ∈ s.units, e.2.banks = []) ∧ mineOf m 3 = true ∧ 20 / 16 ≠ 3 / 16 ∧
      runs (.flush 3) s (fun t => (t.unit 20).inbound == []) = true := by
  decide +kernel

/-! ### Matrix array -/

/-- The banks of cluster 0 are free when none of its units lists a bank. -/
theorem clusterFree_of {s : State} (h : ∀ v < 16, s.filling v = false ∧ (s.unit v).banks = []) : s.clusterFree 3 := fun v e => by
  obtain ⟨h1, h2⟩ := h v (by omega)
  refine ⟨h1, fun b => ?_⟩
  unfold Machine.Unit.bank
  rw [h2]
  exact ⟨rfl, rfl, rfl⟩

/-- A command block from its 16 words. -/
def blockOf (l : List Nat) : Row := rowOfWords (l.map wd)
/-- Unit 3 with rows, and with changes. -/
def withRows (l : List (Nat × Row)) (f : Machine.Unit → Machine.Unit) : State :=
  State.reset.updUnit 3 fun x => f (l.foldl (fun y (q, d) => y.setCell q { Cell.reset with data := d }) x)
/-- MAC, one row at row 10, weights loaded from row 64, results at row 200; completion in row 0. `mode` is word 4. -/
def macBlock (mode m : Nat) : Row :=
  blockOf ([1, 0, 0, 0, mode, 640 + 3 * 2 ^ 22, 4096 + 3 * 2 ^ 22, 12800, m] ++ List.replicate 7 0)
/-- acc_out = 1, w_mode = 1. -/
def macWord : Nat := 2 ^ 21 + 2 ^ 23
def mxaQueued (b : Row) : State :=
  withRows [(5, b)] fun x => { x with mxa := { x.mxa with queue := [⟨320, 9⟩] } }

theorem wit_MatrixArrayTakesCommand :
    let s := mxaQueued (macBlock macWord 1)
    let b := (s.rowOf 3 320).data
    (Instr.mac 3 .clean, 0) ∈ mxaRows 3 ∧ s.mxaReady 3 0 ⟨320, 9⟩ [] ∧ s.unitServed 3 ∧ s.bankIdle 3 320 ∧ s.mxFaults 3 b = [] ∧ mxWMode b ≠ 2 ∧
      runs (.mac 3 .clean) s (fun t => ((t.unit 3).mxa.cur.map (·.seq)) == some 9 && (t.unit 3).mxa.queue == []) = true := by
  unfold State.mxaReady State.unitServed State.bankIdle; decide +kernel

/-- M = 0 and a reserved accumulator source: 0x141 is the lowest code. -/
theorem wit_MatrixArrayRejectsCommand :
    let s := mxaQueued (macBlock (macWord + 3 * 2 ^ 19) 0)
    let b := (s.rowOf 3 320).data
    s.mxaReady 3 0 ⟨320, 9⟩ [] ∧ s.unitServed 3 ∧ s.bankIdle 3 320 ∧ mxWMode b ≠ 2 ∧ 0x141 ∈ s.mxFaults 3 b ∧ 0x143 ∈ s.mxFaults 3 b ∧
      (∀ c ∈ s.mxFaults 3 b, 0x141 ≤ c) ∧
      runs (.mac 3 .clean) s (fun t => ((t.unit 3).mxa.cpls.map (·.status)) == [0x141] && (t.unit 3).mxa.cur == none) = true := by
  unfold State.mxaReady State.unitServed State.bankIdle; decide +kernel

theorem wit_ExactSumIndependentOfOrder :
    let l := [(Num.decode 0 1, Num.decode 0 0o177), (Num.decode 0 0o300, Num.decode 0 2)]
    l.Perm l.reverse ∧ mxColumn 0 .exact (Num.Acc.start .exact) (l.map Prod.fst) (l.map Prod.snd) =
      mxColumn 0 .exact (Num.Acc.start .exact) (l.reverse.map Prod.fst) (l.reverse.map Prod.snd) := by
  decide +kernel

/-- A command whose first of `m` rows enters against weights of zero. -/
def rowEntering (m : Nat) : State :=
  withRows [] fun x => { x with mxa := { x.mxa with
    active := some { rows := List.replicate 64 0, n18 := false, fmt := 0, nf := false }
    cur := some {
      block := blockOf ([1, 0, 0, 0, 2 ^ 21, 640 + 3 * 2 ^ 22, 0, 12800, m] ++ List.replicate 7 0), code := 0, rejected := false
      seq := 9, entered := 0, takenAt := 0, firstCycle := 0, passes := 1, passLeft := 0, nf := false, loaded := 0, accBuf := [], accNf := false } } }

theorem wit_MatrixArrayRowEnters :
    let s := rowEntering 2
    let b := ((s.unit 3).mxa.cur.map (·.block)).getD 0
    (s.unit 3).mxa.nxt = none ∧ (s.unit 3).mxa.active.isSome = true ∧ mxWMode b = 0 ∧ mxAccIn b < 2 ∧ mxGate b = false ∧
      (s.unit 3).mxFull (s.aclkOf 0) = false ∧ 0 < mxM b ∧ s.absent (mate 3 (blk b 5 22 4)) = false ∧
      ((s.unit 3).cell 10).admits (kindOf (blk b 5 26 2)) = true ∧
      s.bankIdle 3 640 ∧ (s.svc (regionOf 3)).withdrawn = false ∧
      runs (.mxaRowEntry 3 [] none) s (fun t => ((t.unit 3).mxa.cur.map (·.entered)) == some 1 &&
        (t.unit 3).mxa.outq.map (·.offset) == [12800]) = true ∧
      runs (.mxaRowEntry 3 [] none) (rowEntering 1) (fun t => (t.unit 3).mxa.cur == none &&
        (t.unit 3).mxa.cpls.map (·.seq) == [9]) = true := by
  unfold State.bankIdle; decide +kernel

theorem wit_ResultsCompletionsAndGate_rows :
    let o : OutRow := { seq := 9, offset := 12800, put := false, data := 5, nf := true, elems := 0, plan := 0, hold := 1 }
    let s := withRows [] fun x => { x with mxa := { x.mxa with outq := [o] } }
    let c : Cpl := { status := 0x141, nf := false, seq := 9, w1 := 1, w2 := 2, w3 := 3, offset := 320, ntf := some (7, 47, 1), progress := 0, plan := some (0, 1) }
    let s1 := (cellAt 5 emptyCell).updUnit 3 fun x => { x with mxa := { x.mxa with cpls := [c] } }
    s.unitServed 3 ∧ s1.unitServed 3 ∧ s.bankIdle 3 12800 ∧ s1.bankIdle 3 320 ∧ (s.unit 3).mxPutFirst 9 = false ∧
      (s.rowOf 3 12800).tagged = o.put ∧ (s.rowOf 3 12800).full = false ∧ (s1.unit 3).cplsOf 0 = [c] ∧
      c.seq ∉ (s1.unit 3).rowsOwed 0 ∧ (s1.rowOf 3 320).tagged = true ∧ (s1.rowOf 3 320).full = false ∧
      runs (.mxaResultWrite 3) s (fun t => ((t.unit 3).cell 200).data == 5 && (t.unit 3).mxa.outq == []) = true ∧
      runs (.completionPut 3 0) s1 (fun t => (wordOf ((t.unit 3).cell 5).data 0).toNat == 0x141 + 9 * 2 ^ 16 &&
        t.net.map (·.dstRegion) == [47] && (t.unit 3).mxa.cpls == []) = true := by
  unfold State.unitServed State.bankIdle; decide +kernel

/-- A gated command of one row, which is full. -/
theorem wit_ResultsCompletionsAndGate_gate :
    let b := blockOf ([1, 0, 0, 0, 2 ^ 21 + 2 ^ 25, 320 + 3 * 2 ^ 22 + 2 ^ 26, 0, 12800, 1] ++ List.replicate 7 0)
    let s := (cellAt 5 fullCell).updUnit 3 fun x => { x with mxa := { x.mxa with cur := some {
      block := b, code := 0, rejected := false, seq := 9, entered := 0, takenAt := 0, firstCycle := 0, passes := 0, passLeft := 0, nf := false, loaded := 0,
      accBuf := [], accNf := false } } }
    mxGate b = true ∧ (s.unit (mate 3 (blk b 5 22 4))).fullRun (blk b 5 0 22 / 64) 1 = 1 ∧
      runs (.fillGatePass 3 false) s (fun t => (t.unit 3).mxa.cur.map (·.passLeft) == some 1) = true := by
  decide +kernel


/-! ### Stroke engine -/

/-- A chain of PACK alone copies `vl` N36 elements from row 20 to row 30; tables in rows 40 and 41, parameters in row 42. -/
def packBlock (vl stages : Nat) : Row :=
  blockOf ([2, 0, 0, 0, vl + stages * 2 ^ 13 + 2 ^ 17 + 2 ^ 20, 2560, 2688, 0, 8] ++ List.replicate 7 0)
def packIn : Row := blockOf ([1280 + 3 * 2 ^ 22 + 3 * 2 ^ 28, 1] ++ List.replicate 14 0)
def packOut : Row := blockOf ([1920 + 3 * 2 ^ 28, 1] ++ List.replicate 14 0)
def strokeQueued (b : Row) : State :=
  withRows [(5, b), (20, 7 + 9 * 2 ^ 36), (40, packIn), (41, packOut)] fun x => { x with stroke := { x.stroke with queue := [⟨320, 9⟩] } }
def strokeRunning (vl : Nat) : State :=
  withRows [(20, 7 + 9 * 2 ^ 36)] fun x => { x with stroke := { x.stroke with cur := some {
    block := packBlock vl 1, seq := 9, stage := 2, gotA := [], gotB := [], inTab := packIn, outTab := packOut, param := 0, glyph := 0, map := 0, szRows := [], proNf := false
    nextBlock := 0, firstCycle := 0, laneRange := false, nf := false, written := 0, elems := [[]], rowsOut := [0], group := [] } } }

theorem wit_StrokeTakesCommand :
    let s := strokeQueued (packBlock 2 1)
    let b := (s.rowOf 3 320).data
    s.strokeReady 3 ⟨320, 9⟩ [] ∧ skEarly b = 0 ∧ s.skFaults 3 b packIn packOut 0 0 = [] ∧ (∀ d ∈ skIns b packIn, d.one = true) ∧
      runs (.strokeCommand 3 []) s (fun t => (t.unit 3).stroke.cur.map (·.seq) == some 9) = true := by
  unfold State.strokeReady State.unitServed; decide +kernel
theorem wit_StrokeTakesCommand_free : (strokeQueued (packBlock 2 1)).clusterFree 3 ∧ (strokeRunning 2).clusterFree 3 :=
  ⟨clusterFree_of (by decide +kernel), clusterFree_of (by decide +kernel)⟩

/-- An offset that is no row's, and a chain with a stage past its count. -/
theorem wit_StrokeTakesCommand_rejects :
    let early := strokeQueued (blockOf ([2, 0, 0, 0, 2 + 2 ^ 13 + 2 ^ 17 + 2 ^ 20, 2561, 2688, 0, 8] ++ List.replicate 7 0))
    let s := strokeQueued (packBlock 2 0)
    early.strokeReady 3 ⟨320, 9⟩ [] ∧ skEarly (early.rowOf 3 320).data = 0x12B ∧ s.strokeReady 3 ⟨320, 9⟩ [] ∧
      skEarly (s.rowOf 3 320).data = 0 ∧ s.skFaults 3 (s.rowOf 3 320).data packIn packOut 0 0 ≠ [] ∧
      runs (.strokeCommand 3 []) early (fun t => (t.unit 3).stroke.cpls.map (·.status) == [0x12B]) = true ∧
      runs (.strokeCommand 3 []) s (fun t => (t.unit 3).stroke.cpls.length == 1 && (t.unit 3).stroke.cur == none) = true := by
  unfold State.strokeReady State.unitServed; decide +kernel

theorem wit_LanesAreIndependent (k l : Lane) :
    (∀ w ∈ ([8] : List Word), stKind w ≠ 5) ∧ (runStages [] 0 0 [8] [l]).2 = false ∧
      (runStages [] 0 0 [8] [k, l]).1[1]? = some l ∧ (runStages [] 0 0 [8] [l]).1[0]? = some l :=
  ⟨fun w hw => by rw [List.mem_singleton.mp hw]; decide +kernel, by rfl, by rfl, by rfl⟩

/-- The block of a command of 2 elements, and the first of two blocks. -/
theorem wit_StrokeBlocksAndRows :
    let s := strokeRunning 2
    let reads := ((s.unit 3).stroke.cur.map fun c => (s.skBlockReads 3 c).1 ++ (s.skBlockReads 3 c).2).getD []
    reads.length = 1 ∧ (∀ p ∈ reads, s.unitServed p.unit ∧ ((s.unit p.unit).cell p.row).admits p.kind = true) ∧
      (s.unit 3).stroke.outq = [] ∧
      runs (.strokeBlockEntry 3 [] none) s (fun t => (t.unit 3).stroke.outq.map (fun r => (r.offset, r.data)) == [(1920, 7 + 9 * 2 ^ 36)] &&
        (t.unit 3).stroke.cpls.map (·.w1) == [2] && (t.unit 3).stroke.cur == none) = true ∧
      runs (.strokeBlockEntry 3 [] none) (strokeRunning 65) (fun t =>
        (t.unit 3).stroke.cur.map (·.nextBlock) == some 1 && (t.unit 3).stroke.cpls == []) = true := by
  unfold State.unitServed; decide +kernel

theorem wit_StrokeBlocksAndRows_write :
    let o : OutRow := { seq := 9, offset := 320, put := true, data := 5, nf := true, elems := 2, plan := 0, hold := 1 }
    let s := (cellAt 5 emptyCell).updUnit 3 fun x => { x with stroke := { x.stroke with outq := [o] } }
    s.unitServed 3 ∧ s.bankIdle 3 320 ∧ (s.unit 3).skPutFirst 9 = false ∧ (s.rowOf 3 320).tagged = o.put ∧ (s.rowOf 3 320).full = false ∧
      runs (.strokeRowWrite 3) s (fun t => (t.unit 3).cell 5 == { data := 5, tagged := true, full := true, nf := true }) = true := by
  unfold State.unitServed State.bankIdle; decide +kernel


/-! ### Tensor mover -/

/-- A tensor of rank 1 in unit 3: row, format, policy, record, elements. -/
def vec (q fmt policy record n : Nat) : Row :=
  blockOf ([3 * 2 ^ 22 + 64 * q, fmt * 2 ^ 12 + 2 ^ 16 + policy * 2 ^ 19 + record * 2 ^ 21, n, 0, 0, 0, 0, 1] ++ List.replicate 8 0)
def rec16 (writable : Bool) : Option AllocRec :=
  some { base := BitVec.ofNat 48 (3 * 2 ^ 22), tagged := false, writable := writable, length := 65536 }
/-- Unit 3 with a mover command of words 4 to 6 in row 5 and descriptors in slots 0, 1, ...; record 0 may be written. -/
def moverWith (w4 w5 w6 : Nat) (slots : List Row) (rows : List (Nat × Row)) : State :=
  withRows ((5, blockOf ([3, 0, 0, 0, w4, w5, w6] ++ List.replicate 9 0)) :: rows) fun x => { x with mover := { x.mover with
    queue := [⟨320, 9⟩], records := [(0, rec16 true)], slots := slots.zipIdx.map fun (d, i) => (i, some d) } }
/-- The status and the two counts of the latest completion of the mover. -/
def moverGave (t : State) (status count met : Nat) : Bool :=
  (t.unit 3).mover.cpls.map (fun p => (p.status.toNat, p.w1.toNat, p.w2.toNat)) == [(status, count, met)]

/-- The mover of unit 3 is ready with the command of row 5, the banks of its cluster free. -/
theorem ready_of {s : State} {op : Nat}
    (h : (let m := (s.unit 3).mover
      let b := (s.rowOf 3 320).data
      s.unitServed 3 ∧ m.queue = [⟨320, 9⟩] ∧ m.cur = none ∧ m.cpls = [] ∧ headerDrops b = false ∧ headerBad b 2 = false ∧ mvOp b = op ∧
        mvFieldsBad b = false) ∧ ∀ v < 16, s.filling v = false ∧ (s.unit v).banks = []) : s.moverReady 3 op ⟨320, 9⟩ [] :=
  ⟨h.1.1, clusterFree_of h.2, h.1.2⟩

/-- Two records, the second with a reserved bit set, and a RECORDS into a place in use. -/
theorem wit_RecordsAndDescriptors_records :
    let r := blockOf ([3 * 2 ^ 22, 2 ^ 14, 64, 0, 3 * 2 ^ 22, 2 ^ 14, 64, 2 ^ 35] ++ List.replicate 8 0)
    let s := moverWith 1 1280 (62 + 2 * 2 ^ 6) [] [(20, r)]
    let used := moverWith 1 1280 (2 ^ 6) [vec 40 3 0 0 4] [(20, r)]
    s.moverReady 3 1 ⟨320, 9⟩ [] ∧ used.moverReady 3 1 ⟨320, 9⟩ [] ∧ mvRowFaults 1280 1 = [] ∧
      (recReservedOk r 0 = true ∧ s.recOk 3 r 0 = true) ∧ recReservedOk r 1 = false ∧
      (s.unit 3).recInUse 62 = false ∧ (s.unit 3).recInUse 63 = false ∧ (used.unit 3).recInUse 0 = true ∧
      runs (.records 3 ⟨[], none⟩) s (fun t => ((t.unit 3).mover.records.get none 62).isSome && ((t.unit 3).mover.records.get none 62) == recOf r 0 &&
        ((t.unit 3).mover.records.get none 63) == none) = true ∧
      runs (.records 3 ⟨[], none⟩) used (fun t => (t.unit 3).mover.records == (used.unit 3).mover.records) = true := by
  dsimp only
  refine ⟨ready_of ?_, ready_of ?_, ?_⟩ <;> (try unfold State.unitServed) <;> decide +kernel

/-- One record that passes: RECORDS completes with status 0; and one whose row lies inside a row is rejected. -/
theorem wit_RecordsAndDescriptors_complete :
    let r := blockOf ([3 * 2 ^ 22, 2 ^ 14, 64, 0] ++ List.replicate 12 0)
    let s := moverWith 1 1280 (62 + 1 * 2 ^ 6) [] [(20, r)]
    let off := moverWith 1 1284 (62 + 1 * 2 ^ 6) [] [(20, r)]
    s.moverReady 3 1 ⟨320, 9⟩ [] ∧ off.moverReady 3 1 ⟨320, 9⟩ [] ∧ mvNRec (s.rowOf 3 320).data = 1 ∧ recReservedOk r 0 = true ∧
      s.recOk 3 r 0 = true ∧ (s.unit 3).recInUse 62 = false ∧ (off.unit 3).mvEarly (off.rowOf 3 320).data = 0x12B ∧
      runs (.records 3 ⟨[], none⟩) s (fun t => moverGave t 0 1 0) = true ∧
      runs (.records 3 ⟨[], none⟩) off (fun t => moverGave t 0x12B 0 0 && (t.unit 3).mover.records == (off.unit 3).mover.records) = true := by
  dsimp only
  refine ⟨ready_of ?_, ready_of ?_, ?_⟩ <;> (try unfold State.unitServed) <;> decide +kernel

/-- REGISTER into the last slot, one without sizes, and RELEASE. -/
theorem wit_RecordsAndDescriptors_register :
    let d := vec 40 3 0 0 4
    let s := moverWith (2 + 63 * 2 ^ 4) 1280 0 [] [(20, d)]
    let bad := moverWith (2 + 63 * 2 ^ 4) 1280 0 [] [(20, vec 40 3 0 0 0)]
    let rel := moverWith (3 + 0 * 2 ^ 4) 0 0 [d] []
    s.moverReady 3 2 ⟨320, 9⟩ [] ∧ bad.moverReady 3 2 ⟨320, 9⟩ [] ∧ rel.moverReady 3 3 ⟨320, 9⟩ [] ∧ dDistributed d = false ∧
      s.registerFaults (s.unit 3) d 63 [] = [] ∧ 0x112 ∈ bad.registerFaults (bad.unit 3) (vec 40 3 0 0 0) 63 [] ∧
      runs (.register 3 ⟨[], none⟩) s (fun t => (t.unit 3).mover.slots == [(63, some d)] && moverGave t 0 0 0) = true ∧
      runs (.register 3 ⟨[], none⟩) bad (fun t => (t.unit 3).mover.slots == [] && moverGave t 0x112 0 0) = true ∧
      runs (.release 3 ⟨[], none⟩) rel (fun t => (t.unit 3).mover.slots == [] && moverGave t 0 0 0) = true := by
  dsimp only
  refine ⟨ready_of ?_, ready_of ?_, ready_of ?_, ?_⟩ <;> (try unfold State.unitServed) <;> decide +kernel

/-- Four elements of N36 from row 40 to row 50. -/
theorem wit_CopyMovesElements :
    let a := vec 40 3 0 0 4
    let b := vec 50 3 0 0 4
    let s := moverWith (4 + 0 * 2 ^ 4 + 1 * 2 ^ 10) 0 0 [a, b] [(40, 7 + 9 * 2 ^ 108), (50, 2 ^ 144)]
    let o (d : Row) : Operand := { desc := d, alloc := rec16 true, owner := [] }
    let blkRow := (s.rowOf 3 320).data
    s.moverReady 3 4 ⟨320, 9⟩ [] ∧ (s.unit 3).operand 0 = some (o a) ∧ (s.unit 3).operand 1 = some (o b) ∧
      (o a).aligned ∧ (o b).aligned ∧ copyFaults blkRow 0 (o a) (o b) = [] ∧ mvPut blkRow = false ∧ mvAKind blkRow = 0 ∧
      (∀ i < 4, let k := ((o a).place 0 [i]).1; s.rowNear 3 k ∧ (s.keyRow k).admits .plainRead = true) ∧
      (∀ i < 4, let k := ((o b).place 0 [i]).1; s.rowNear 3 k ∧ (s.keyRow k).takesWrite false false) ∧
      runs (.copy 3 [] none) s (fun t => ((t.unit 3).cell 50).data == 7 + 9 * 2 ^ 108 + 2 ^ 144 && moverGave t 0 4 0) = true := by
  dsimp only
  refine ⟨ready_of ?_, ?_⟩ <;> (try unfold Operand.aligned) <;> (try unfold State.rowNear) <;> (try unfold Cell.takesWrite) <;>
    (try unfold State.unitServed) <;> decide +kernel

/-- Indices 1, -1 and 0 of a table of two elements, under the policy that stops and under the one that skips. -/
theorem wit_GatherCopiesSlices :
    let tab := vec 40 3 0 0 2
    let dst := vec 50 3 0 0 3
    let idx (p : Nat) := vec 45 4 p 0 3
    let s (p : Nat) := moverWith (5 + 0 * 2 ^ 4 + 1 * 2 ^ 10 + 2 * 2 ^ 16) 0 0 [tab, idx p, dst]
      [(40, 7 + 9 * 2 ^ 36), (45, 1 + (2 ^ 36 - 1) * 2 ^ 36), (50, 0)]
    let o (d : Row) : Operand := { desc := d, alloc := rec16 true, owner := [] }
    (s 0).moverReady 3 5 ⟨320, 9⟩ [] ∧ (s 1).moverReady 3 5 ⟨320, 9⟩ [] ∧ ((s 0).unit 3).operand 1 = some (o (idx 0)) ∧
      (o tab).aligned ∧ (o (idx 1)).aligned ∧ (o dst).aligned ∧
      gatherFaults ((s 0).rowOf 3 320).data 0 3 (o tab) (o (idx 0)) (o dst) = [] ∧
      gatherFaults ((s 1).rowOf 3 320).data 0 3 (o tab) (o (idx 1)) (o dst) = [] ∧
      (∀ i < 3, (s 0).rowNear 3 ((o (idx 0)).place 0 [i]).1) ∧ mvPut ((s 0).rowOf 3 320).data = false ∧
      (s 0).indexValues 0 (o (idx 0)) = [1, -1, 0] ∧ (picksOf 0 2 [1, -1, 0]).2.2 = true ∧ (picksOf 1 2 [1, -1, 0]).2.2 = false ∧
      runs (.gather 3 [] none) (s 0) (fun t => moverGave t 0x168 1 0) = true ∧
      runs (.gather 3 [] none) (s 1) (fun t => moverGave t 0 3 1 && ((t.unit 3).cell 50).data == 9 + 7 * 2 ^ 36 + 7 * 2 ^ 72) = true := by
  dsimp only
  refine ⟨ready_of ?_, ready_of ?_, ?_⟩ <;> (try unfold Operand.aligned) <;> (try unfold State.rowNear) <;>
    (try unfold State.unitServed) <;> decide +kernel

/-- Two updates of one element of the table, by replacing: the later one stands. -/
theorem wit_ScatterAppliesUpdatesInOrder :
    let src := vec 40 3 0 0 2
    let idx := vec 45 4 0 0 2
    let tab := vec 50 3 0 0 2
    let s := moverWith (6 + 0 * 2 ^ 4 + 1 * 2 ^ 10 + 2 * 2 ^ 16) 0 0 [src, idx, tab] [(40, 7 + 9 * 2 ^ 36), (45, 1 + 2 ^ 36), (50, 3)]
    let o (d : Row) : Operand := { desc := d, alloc := rec16 true, owner := [] }
    s.moverReady 3 6 ⟨320, 9⟩ [] ∧ (s.unit 3).operand 2 = some (o tab) ∧ (o src).aligned ∧ (o idx).aligned ∧ (o tab).aligned ∧
      scatterFaults (s.rowOf 3 320).data 0 3 (o src) (o idx) (o tab) = [] ∧ s.indexValues 0 (o idx) = [1, 1] ∧
      (∀ i < 2, s.rowNear 3 ((o idx).place 0 [i]).1 ∧ s.rowNear 3 ((o src).place 0 [i]).1 ∧ s.rowNear 3 ((o tab).place 0 [i]).1) ∧
      ¬placesMeet 4 ((o tab).place 0 [0]) ((o tab).place 0 [1]) ∧ (s.keyRow ((o tab).place 0 [1]).1).tagged = false ∧
      runs (.scatter 3 [] none) s (fun t => ((t.unit 3).cell 50).data == 3 + 9 * 2 ^ 36 && moverGave t 0 2 0) = true := by
  dsimp only
  refine ⟨ready_of ?_, ?_⟩ <;> (try unfold Operand.aligned) <;> (try unfold State.rowNear) <;> (try unfold placesMeet) <;>
    (try unfold State.unitServed) <;> decide +kernel

/-! ### Network, synchronisation and reduction -/

/-- A message from unit 7 of region 0; words 5 and on. -/
def msgTo (kind unit type vc tag : Nat) (wa : WAddr) (words : List Word) (body : List Row) : Msg :=
  { dstRegion := 0, dstUnit := unit, dstKind := kind, vc := vc, type := type, nf := false, srcRegion := 0, srcUnit := 7, srcKind := 0,
    epoch := 0, tag := BitVec.ofNat 16 tag, srcModule := 0, akind := 0, wa := wa, status := 0, words := words, body := body, deadline := 0,
    hold := 0, nonets := 0 }
def inNet (s : State) (m : Msg) : State := { s with net := [m] }
/-- Type, tag and status of the messages in flight. -/
def inFlight (t : State) : List (Nat × Nat × Nat) := t.net.map fun m => (m.type, m.tag.toNat, m.status.toNat)

/-- A read of the last row of granule 9 of well 0, a write of two rows of granule 8, and a granule past the end. -/
theorem wit_RequestsAreServed_well :
    let rd := msgTo 2 0 0 1 5 (waWell 0 9 + 448) [] []
    let wr := msgTo 2 0 1 1 5 (waWell 0 8 + 384) [] [1, 2]
    let bad := msgTo 2 0 0 1 5 (waWell 0 119304647) [] []
    let s := State.reset.updWell 0 fun x => { x with rows := [(79, 6)] }
    (inNet s rd).delivered rd ∧ (inNet s wr).delivered wr ∧ (inNet s bad).delivered bad ∧
      ((inNet s rd).taken rd).gatewayFault 0 rd.wa 1 = 0 ∧ ((inNet s wr).taken wr).gatewayFault 0 wr.wa 2 = 0 ∧
      ((inNet s bad).taken bad).gatewayFault 0 bad.wa 1 = 0x125 ∧
      runs (.readRequest rd [] []) (inNet s rd) (fun t => t.net.map (·.body) == [[6]] && inFlight t == [(2, 5, 0)]) = true ∧
      runs (.writeRequest wr [] []) (inNet s wr) (fun t => (t.well 0).rows == [(70, 1), (71, 2), (79, 6)] &&
        inFlight t == [(3, 5, 0)]) = true ∧
      runs (.readRequest bad [] []) (inNet s bad) (fun t => inFlight t == [(4, 5, 0x125)]) = true := by
  unfold State.delivered State.arrives; decide +kernel

/-- A read of a register, a take of row 5 of unit 3, and a write of three rows there. -/
theorem wit_RequestsAreServed_unit :
    let p1 := msgTo 1 0 0 1 5 (waP1 0 5571) [] []
    let tk := { msgTo 0 3 0 1 5 (waScratch 3 320) [] [] with akind := 2, hold := 1 }
    let wr := msgTo 0 3 1 1 5 (waScratch 3 640) [] [1, 2, 3]
    let one := { msgTo 0 3 1 1 5 (waScratch 3 320) [] [9] with akind := 1 }
    (inNet State.reset p1).delivered p1 ∧ (inNet (cellAt 5 fullCell) tk).delivered tk ∧ (inNet State.reset wr).delivered wr ∧
      (inNet (cellAt 5 emptyCell) one).delivered one ∧
      State.reset.waFault p1.wa = 0 ∧ spaceOf p1.wa = .sync ∧ ((inNet (cellAt 5 fullCell) tk).taken tk).inboundFault tk = 0 ∧
      ((inNet State.reset wr).taken wr).inboundFault wr = 0 ∧ ((inNet (cellAt 5 emptyCell) one).taken one).inboundFault one = 0 ∧
      runs (.readRequest p1 [] []) (inNet State.reset p1) (fun t => t.net.map (·.body) == [[32]]) = true ∧
      runs (.moverInboundRequest ⟨tk, []⟩ 1 0 .clean) (inNet (cellAt 5 fullCell) tk) (fun t => t.net.map (·.body) == [[7]] &&
        (t.unit 3).cell 5 == { fullCell with full := false, nf := false }) = true ∧
      runs (.writeRequest wr [] []) (inNet State.reset wr) (fun t => ((t.unit 3).cell 12).data == 3 && inFlight t == [(3, 5, 0)]) = true ∧
      runs (.writeRequest one [] []) (inNet (cellAt 5 emptyCell) one) (fun t =>
        (t.unit 3).cell 5 == { data := 9, tagged := true, full := true, nf := false }) = true := by
  unfold State.delivered State.arrives; decide +kernel

/-- Slot 2 is writable, wide and of 64 nonets at host address 0x5000: a read and a write of its only row, and a row past its end; a write
to a scratchpad address that is none. -/
theorem wit_RequestsAreServed_window :
    let wa (n : Nat) : WAddr := BitVec.ofNat 48 (3 * 2 ^ 46 + 2 * 2 ^ 42 + n)
    let rd := msgTo 3 0 0 1 5 (wa 0) [] []
    let wr := msgTo 3 0 1 1 5 (wa 0) [] [5]
    let far := msgTo 3 0 0 1 5 (wa 64) [] []
    let bad := msgTo 0 3 1 1 5 (waScratch 3 3145728) [] [5]
    let s := [(0x2040, 0x5000), (0x2048, 64), (0x2050, 7)].foldl (fun (t : State) (o, v) => t.setBar o (BitVec.ofNat 32 v)) State.reset
    (inNet s rd).delivered rd ∧ (inNet s wr).delivered wr ∧ (inNet s bad).delivered bad ∧
      ((inNet s rd).taken rd).windowFault rd.wa (windowNonets rd) false = 0 ∧
      ((inNet s wr).taken wr).windowFault wr.wa (windowNonets wr) true = 0 ∧ ((inNet s bad).taken bad).inboundFault bad ≠ 0 ∧
      runs (.readRequest rd [] []) ((inNet s rd).hostWrite 0x5000 [9]) (fun t => t.net.map (·.body) == [[9]]) = true ∧
      runs (.writeRequest wr [] []) (inNet s wr) (fun t => t.hostMem == [(0x5000, 5)] && inFlight t == [(3, 5, 0)]) = true ∧
      runs (.readRequest far [] []) (inNet s far) (fun t => inFlight t == [(4, 5, 0x70A)]) = true ∧
      runs (.writeRequest bad [] []) (inNet s bad) (fun t => inFlight t == [(4, 5, 0x123)]) = true := by
  unfold State.delivered State.arrives; decide +kernel

/-- A request that carries an old epoch, with the queue empty and full, and a removal. -/
theorem wit_StrayQueue :
    let m := { msgTo 0 3 0 1 5 (waScratch 3 320) [] [] with epoch := 1 }
    let s := inNet State.reset m
    let full := s.setP1 0 5568 (wd (256 * 2 ^ 24))
    (Instr.readRequest m [] [], true) ∈ messageRows m ∧ s.arrives m ∧ (s.taken m).strayReason m = some 0 ∧
      full.arrives m ∧ (full.taken m).strayReason m = some 0 ∧
      runs (.readRequest m [] []) s (fun t => field (t.p1 0 5568) 24 9 == 1 && t.p1 0 10242 == 5) = true ∧
      runs (.readRequest m [] []) full (fun t => field (t.p1 0 5569) 0 16 == 1 && field (t.p1 0 5568) 24 9 == 256) = true ∧
      runs (.strayPop 0) (s.setP1 0 5568 (wd (2 ^ 24))) (fun t => field (t.p1 0 5568) 24 9 == 0) = true := by
  unfold State.arrives; decide +kernel

/-- A mover of unit 3 whose command has asked for a row, or waits for the answer to a write of `w.acks`. -/
def moverWaits (w : MoverWait) : State := withRows [] fun x => { x with mover := { x.mover with cur := some w } }
/-- A COPY in flight: an element of slot 0 to slot 1. -/
def waiting : MoverWait :=
  { block := blockOf ([3, 0, 0, 0, 4] ++ List.replicate 11 0), seq := 9, made := 0, started := true, firstCycle := 0, rows := [],
    checked := true, index := 0, pick := none, stop := false, pos := 0, ixRow := none, src := none, tile := [], run := none, merge := none,
    table := [], elems := 1, met := 0, nf := false, ask := none, ans := none, acks := [], ended := none }

theorem wit_AnswersReachRequesters_mover :
    let k (g : Nat) : RowKey := { module := 0, addr := waWell 1 g }
    let rs := msgTo 0 3 2 2 5 0 [] [8]
    let er := { msgTo 0 3 4 2 5 0 [] [] with status := 0x125 }
    let s := moverWaits { waiting with ask := some (5, k 1) }
    let old := moverWaits { waiting with ask := some (6, k 1) }
    (inNet s rs).delivered rs ∧ (inNet s er).delivered er ∧ (inNet old rs).delivered rs ∧
      runs (.readResponse rs []) (inNet s rs) (fun t =>
        t == ((inNet s rs).taken rs).answeredAsk 3 { waiting with ask := some (5, k 1) } 0 8 false) = true ∧
      runs (.errorResponse er []) (inNet s er) (fun t =>
        t == ((inNet s er).taken er).answeredAsk 3 { waiting with ask := some (5, k 1) } 0x125 0 false) = true ∧
      runs (.readResponse rs []) (inNet old rs) (fun t => t == (inNet old rs).taken rs) = true := by
  unfold State.delivered State.arrives; decide +kernel

theorem wit_AnswersReachRequesters_acks :
    let ak := msgTo 0 3 3 2 5 0 [] []
    let er := { msgTo 0 3 4 2 5 0 [] [] with status := 0x125 }
    let s := moverWaits { waiting with acks := [(5, 1, none)] }
    let s1 := moverWaits { waiting with acks := [(5, 1, none)], ended := some 0 }
    (inNet s ak).clusterFree 3 ∧ (inNet s1 ak).clusterFree 3 ∧ (inNet s1 er).clusterFree 3 ∧ (inNet s ak).delivered ak ∧
      (inNet s1 ak).delivered ak ∧ (inNet s1 er).delivered er ∧
      runs (.writeAcknowledgement ak []) (inNet s ak) (fun t => (t.unit 3).mover.cur.map (·.elems) == some 2) = true ∧
      runs (.writeAcknowledgement ak []) (inNet s1 ak) (fun t => (t.unit 3).mover.cpls.map (fun p => (p.status, p.w1)) == [(0, 2)]) = true ∧
      runs (.errorResponse er []) (inNet s1 er) (fun t => (t.unit 3).mover.cpls.map (fun p => (p.status, p.w1)) == [(0x125, 1)]) = true := by
  dsimp only
  refine ⟨clusterFree_of ?_, clusterFree_of ?_, clusterFree_of ?_, ?_⟩
  all_goals (try unfold State.delivered)
  all_goals (try unfold State.arrives)
  all_goals decide +kernel

theorem wit_AnswersReachRequesters_hand :
    let rp := msgTo 0 3 9 0 66 0 [0, 0, 77] []
    let ac := msgTo 0 3 10 0 58 0 [] []
    let s := (core 0).updUnit 3 fun x => x.updHand 2 fun h => { h with st := .replyWait, reply := some (31, 7) }
    let s1 := (core 0).updUnit 3 fun x => x.updHand 2 fun h => { h with st := .replyWait, posted := [(7, 7)] }
    (inNet s rp).delivered rp ∧ (inNet s1 ac).delivered ac ∧ rp.tag.toNat % 8 = 2 ∧ ac.tag.toNat = 2 + 8 * 7 ∧
      runs (.syncReply rp []) (inNet s rp) (fun t => (hand2 t).reg 31 == 77 && (hand2 t).st == .ready) = true ∧
      runs (.syncAcknowledgement ac []) (inNet s1 ac) (fun t => (hand2 t).posted == [] && (hand2 t).pc == 8) = true := by
  unfold State.delivered State.arrives; decide +kernel

/-- An operation of hand 2 of unit 7 on object 9 of region 0: a posted one, or a SYNCR. -/
def syncMsgTo (sop : Nat) (operand : Word) (syncr : Bool) : Msg :=
  msgTo 1 0 8 0 (if syncr then 66 else 2) (waSync 0 9) [0, 0, operand, wd sop] []
def withObject (w0 w1 : Nat) : State :=
  State.reset.updRegion 0 fun x => { x with sync := [(9, { w0 := wd w0, w1 := wd w1, w2 := 0, w3 := 0 })] }

/-- ADD to a count, REARM of a verdict with a new target, INIT. -/
theorem wit_SyncValuesAndObjects :
    let ad := syncMsgTo 1 5 true
    let re := syncMsgTo 27 (wd (2 ^ 24 - 1)) false
    let ini := syncMsgTo 31 (wd (2 + 3 * 8 + 2 ^ 27)) false
    let s := withObject 7 1
    let s1 := withObject 3 4
    (inNet s ad).applies ad 1 ∧ (inNet s1 re).applies re 27 ∧ (inNet State.reset ini).applies ini 31 ∧
      runs (.syncAdd ⟨ad, []⟩) (inNet s ad) (fun t => (t.syncObj 0 9).w0 == 12 && t.net.map (·.operand) == [7] && (t.syncObj 0 9).w3 == 1) = true ∧
      runs (.rearm ⟨re, []⟩) (inNet s1 re) (fun t => (t.syncObj 0 9).target == 2 ^ 24 - 1 && (t.syncObj 0 9).w0 == 0) = true ∧
      runs (.syncInit ⟨ini, []⟩) (inNet State.reset ini) (fun t => (t.syncObj 0 9).type == 2 && (t.syncObj 0 9).target == 3 &&
        (t.syncObj 0 9).linkMode) = true := by
  unfold State.applies State.delivered State.arrives; decide +kernel

/-- WAIT_GE below and at its bound, and the last of two arrivals. -/
theorem wit_SyncWaitsAndDecisions_waits :
    let w (n : Nat) := syncMsgTo 3 (wd n) true
    let ar := syncMsgTo 8 0 false
    let s := withObject 7 1
    let b := withObject 1 (2 + 2 * 8)
    (inNet s (w 7)).applies (w 7) 3 ∧ (inNet s (w 8)).applies (w 8) 3 ∧ (inNet b ar).applies ar 8 ∧
      runs (.waitGe ⟨(w 7), []⟩) (inNet s (w 7)) (fun t => t.net.length == 1 && (t.region 0).waiters == []) = true ∧
      runs (.waitGe ⟨(w 8), []⟩) (inNet s (w 8)) (fun t => t.net == [] && (t.region 0).waiters.length == 1) = true ∧
      runs (.arrive ⟨ar, []⟩) (inNet b ar) (fun t => (t.syncObj 0 9).w0 == wd (2 ^ 24) && inFlight t == [(10, 2, 0)]) = true := by
  unfold State.applies State.delivered State.arrives; decide +kernel

/-- The last contribution, a decision from a link engine, and an operation on an unused object. -/
theorem wit_SyncWaitsAndDecisions_verdicts :
    let c := syncMsgTo 24 1 false
    let d := { syncMsgTo 26 1 false with srcKind := 4 }
    let v := withObject 0 (4 + 8)
    (inNet v c).applies c 24 ∧ (v.syncObj 0 9).received < (v.syncObj 0 9).target ∧ (inNet v d).applies d 26 ∧
      (Instr.contribute ⟨c, []⟩, 24) ∈ sopRows c ∧ (inNet State.reset c).delivered c ∧
      ((inNet State.reset c).taken c).syncOpFault 0 c = 0x302 ∧
      runs (.contribute ⟨c, []⟩) (inNet v c) (fun t => (t.syncObj 0 9).w0 == 3 && (t.syncObj 0 9).received == 1) = true ∧
      runs (.decide ⟨d, []⟩) (inNet v d) (fun t => (t.syncObj 0 9).w0 == 3) = true ∧
      runs (.contribute ⟨c, []⟩) (inNet State.reset c) (fun t => inFlight t == [(10, 2, 0x302)]) = true := by
  unfold State.applies State.delivered State.arrives; decide +kernel

/-- A contribution of the reduction of Table NET-10: range, and the N36 code of its value in element 0. -/
def contribution (kind lo hi : Nat) (v : Int) : Msg :=
  msgTo kind 0 16 3 0 0 [wd (1 + 2 ^ 32), 0, wd lo, wd hi, 8] [BitVec.ofNat 576 (Num.encode 3 0 0 (Num.ofInt v)).1]
def codeOf (m : Msg) : Nat := (m.body.headD 0).toNat % 2 ^ 36
def n36Of (v : Int) : Nat := (Num.encode 3 0 0 (Num.ofInt v)).1

/-- Table NET-10: nodes of the worked reduction. N36 holds −2^27 + 1 (node [4, 5]) exactly, so the result is 9
(notes/assumptions/24.md). -/
theorem wit_CombinedNodesAreCanonical :
    let at' (i : Nat) (v : Int) := contribution 2 i i v
    let a := combine (at' 0 (2 ^ 27)) (at' 1 1)
    let b := combine (at' 2 3) (at' 3 1)
    let c := combine (at' 4 (-2 ^ 27)) (at' 5 1)
    let d := combine (at' 6 2) (at' 7 2)
    mayCombine (at' 0 (2 ^ 27)) (at' 1 1) = true ∧ nodeOk 0 0 8 = true ∧ nodeOk 1 1 8 = true ∧ nodeOk 0 7 8 = true ∧
      mayCombine (combine a b) (combine c d) = true ∧ rdHi (combine (combine a b) (combine c d)) = 7 ∧
      codeOf a = n36Of (2 ^ 27) ∧ codeOf d = n36Of 4 ∧ codeOf (combine a b) = n36Of (2 ^ 27 + 4) ∧
      codeOf c = n36Of (-2 ^ 27 + 1) ∧ codeOf (combine (combine a b) (combine c d)) = n36Of 9 := by
  decide +kernel

/-- At a router: one is held, its sibling is combined with it; a window ends. -/
theorem wit_ReductionContributions_router :
    let m := { contribution 2 1 1 1 with dstRegion := 1 }
    let n : Node := { place := 20, entry := 0, msg := { contribution 2 0 0 (2 ^ 27) with dstRegion := 1 } }
    let s := inNet State.reset m
    let s1 := inNet (State.reset.updRegion 0 fun x => { x with combine := [n] }) m
    s.contribution m = m ∧ msgOk m = true ∧ s.isNext m = true ∧ s.seq.phase ≠ 7 ∧ s.unreachable m = false ∧ (portAt (.regionRouter 0) (s.path m)).isSome = true ∧
      (portAt (.router 5) (s.path m)).isSome = true ∧ field (s.p1 0 5571) 0 8 ≠ 0 ∧ mayCombine n.msg m = true ∧ flitsOf (combine n.msg m) ≤ 32 ∧
      runs (.reductionContribution (.regionRouter 0) m []) s (fun t => (t.region 0).combine.map (·.msg) == [m] && t.net == []) = true ∧
      runs (.reductionContribution (.clusterRouter 5) m []) s (fun t => (t.region 0).combine.map (·.place) == [5] && t.net == []) = true ∧
      runs (.reductionContribution (.clusterRouter 6) m []) s (fun t => t == s) = true ∧
      runs (.reductionContribution (.regionRouter 0) m []) s1 (fun t => (t.region 0).combine.map (fun k => rdHi k.msg) == [1]) = true ∧
      runs (.holdWindowEnd 0 (.regionRouter 0) 0) { s1 with net := [] } (fun t => t.net == [n.msg] && (t.region 0).combine == []) = true := by
  decide +kernel

/-- A write-mode plan entry of two contributors whose destination is granule 1 of well 0. -/
def planned2 : State :=
  [(0, 1 + 2 ^ 32 + 2 ^ 35), (1, 2), (2, 0), (3, 1), (4, 2 ^ 12), (5, 2 ^ 10 + 2 ^ 12)].foldl (fun t (k, v) => t.setP1 0 (6144 + k) (wd v)) State.reset
def two (lo : Nat) : Msg := msgTo 2 0 16 3 0 0 [wd (1 + 2 ^ 32), 0, wd lo, wd lo, 2] [BitVec.ofNat 576 (Num.encode 3 0 0 (Num.ofInt 3)).1]

/-- At the endpoint: the first of two is held, the second completes the block, and one without a plan entry is an error. -/
theorem wit_ReductionContributions_endpoint :
    let m := two 1
    let s := inNet planned2 m
    let s1 := inNet (planned2.updRegion 0 fun x => { x with nodes := [{ place := 21, entry := 0, msg := two 0 }] }) m
    s.delivered m ∧ s.contribution m = m ∧ contributionNf m = m ∧ s1.delivered m ∧ (s.taken m).planEntry 0 m = some 0 ∧ (s.taken m).planCheck 0 m = 0 ∧
      (s1.taken m).planCheck 0 m = 0 ∧
      waInvalid (waOf (s.planWord 0 0 4) (s.planWord 0 0 5)) = [] ∧ spaceOf (waOf (s.planWord 0 0 4) (s.planWord 0 0 5)) = .well ∧
      ((inNet State.reset m).taken m).planEntry 0 m = none ∧
      ((inNet State.reset m).taken m).planCheck 0 m ≠ 0 ∧
      runs (.reductionContribution .endpoint m []) s (fun t => field (t.p1 0 5573) 23 13 == 1) = true ∧
      runs (.reductionContribution .endpoint m []) s1 (fun t => (t.region 0).nodes == [] && field (t.p1 0 15369) 0 24 == 1 &&
        ((t.well 0).rows.get 0 8).toNat % 2 ^ 36 == n36Of 6) = true ∧
      runs (.reductionContribution .endpoint m []) (inNet State.reset m) (fun _ => true) = true := by
  unfold State.delivered State.arrives; decide +kernel

/-- A unit's contribution takes the rows that its scratchpad holds, from the row that its tag names. -/
theorem wit_ReductionContributions_sent :
    let m : Msg := { two 1 with srcKind := 0, srcUnit := 3, tag := 5 }
    let s := cellAt 5 fullCell
    m.srcKind = 0 ∧ m ∉ s.net ∧ (s.contribution m).body = [7] ∧ (s.contribution m).nf = true ∧
      s.contribution { m with srcKind := 1 } = { m with srcKind := 1 } := by
  decide +kernel

/-- A block whose destination is row 10 of unit 3 leaves as a write, and counts when that is acknowledged. -/
theorem wit_ReductionContributions_writes :
    let p := (planned2.setP1 0 6148 (wd (640 + 3 * 2 ^ 22))).setP1 0 6149 (wd (2 ^ 12))
    let m := two 1
    let s := inNet (p.updRegion 0 fun x => { x with nodes := [{ place := 21, entry := 0, msg := two 0 }] }) m
    let ak := { msgTo 2 0 3 2 9 0 [] [] with srcKind := 0 }
    let w : BlockWrite := { entry := 0, msg := m, tags := [9] }
    let s1 := inNet (planned2.updRegion 0 fun x => { x with writing := [w] }) ak
    let dest := waOf (s.planWord 0 0 4) (s.planWord 0 0 5)
    s.delivered m ∧ (s.taken m).planEntry 0 m = some 0 ∧ (s.taken m).planCheck 0 m = 0 ∧ s.planForward 0 0 = false ∧
      waInvalid dest = [] ∧ spaceOf dest = .scratch ∧ (s.taken m).blockFault dest 640 = 0 ∧ s1.delivered ak ∧
      (s1.region 0).writing = [w] ∧
      runs (.reductionContribution .endpoint m []) s (fun t => (t.region 0).nodes == [] &&
        t.net.map (fun a => (a.type, a.dstUnit, waOffset a.wa)) == [(1, 3, 640)] && (t.region 0).writing.length == 1) = true ∧
      runs (.writeAcknowledgement ak []) s1 (fun t => (t.region 0).writing == [] && t.p1 0 15369 == 1) = true := by
  unfold State.delivered State.arrives; decide +kernel

/-- The update of a unit's epoch at a region table and at an interface, and the end of the wait. -/
theorem wit_EpochsAndRegionEvents_epochs :
    let w : EpochWait := { unit := 3, rowMap := 0, column := 4, spare := none }
    let s := State.reset.updRegion 0 fun x => { x with epochs := [(3, 1)], epochWaits := [w] }
    let m := msgTo 1 0 11 0 0 0 [0, 0, wd (3 + 2 ^ 14)] []
    let done := State.reset.updRegion 0 fun x => { x with epochWaits := [w] }
    s.epoch 3 = 1 ∧ (s.region 0).epochWaits = [w] ∧ field (m.word 7) 0 14 = 3 ∧
      runs (.epochUpdate 1 ⟨m, []⟩) s (fun t => (t.region 1).epochs == [(3, 1)]) = true ∧
      runs (.epochUpdate 1007 ⟨m, []⟩) s (fun t => t.stamp 959 3 == 1 && t.stamp 958 3 == 0) = true ∧
      done.epochEverywhere 3 = true ∧ done.onBusyLine 3 = false ∧ s.epochEverywhere 3 = false ∧
      runs (.epochUpdateAcknowledged 3) s (fun t => t == s) = true ∧ (done.region 0).epochWaits.filter (fun w => w.unit == 3) = [w] ∧ done.seq.phase < 6 ∧
      runs (.epochUpdateAcknowledged 3) done (fun t => t.column 3 == 4) = true := by
  decide +kernel

theorem wit_EpochsAndRegionEvents_events :
    let m := msgTo 1 0 12 0 0 0 [0, 0, 0x226] []
    let s := inNet State.reset m
    s.delivered m ∧ abortCode 0x226 = true ∧
      runs (.dryNib 47 42 7 3) State.reset (fun t => field (t.p1 47 5570) 0 6 == 42 && field (t.p1 47 5632) 0 12 == 0x031) = true := by
  unfold State.delivered State.arrives; decide +kernel


/-! ### Wells and ink lines -/

/-- The last bank; the reads that end a pass with a correction, and one that cannot be corrected. -/
theorem wit_WellUpkeep_scrub :
    let s := State.reset.updWell 0 fun x => { x with
      patrol := (0, 2 ^ 25 - 1) :: (List.range 31).map fun k => (k + 1, 2 ^ 25) }
    runs (.refresh 47 15 1 31) State.reset (fun t => (t.well 47).refreshed.get 0 1023 == 1) = true ∧
      runs (.patrolScrub 0 0 0 [(7, .corrected 5)]) s (fun t => t.p1 0 14387 == 1 && (t.well 0).patrol.get 0 0 == 2 ^ 25 &&
        field (t.p1 0 14352) 0 24 == 1 && t.p1 0 14384 == wd (2 ^ 30 - 32 + 2 ^ 31)) = true ∧
      runs (.patrolScrub 47 15 1 [(0, .uncorrectable)]) State.reset (fun t => field (t.p1 47 14383) 11 1 == 1 &&
        t.p1 47 14384 == wd (31 + 3 * 2 ^ 30) && t.seq.reported.map (·.code) == [0x227]) = true := by
  decide +kernel

/-- A scrub that passes, one that finds a failing row, and one that would need a ninth spare row of a bank. -/
theorem wit_WellUpkeep_targeted :
    let s := State.reset.setP1 3 14353 (wd (2 ^ 11))
    let f (row : Nat) (e : Ecc) : Nat × Nat × Ecc := (32768 * row + 32 * 31 + 16, 7, e)
    let again := [(32768 * 32767 + 32 * 31 + 16, 7)]
    let nine := (List.range 9).map fun k => f k .uncorrectable
    field (s.p1 3 (chanIdx 0 1)) 11 1 = 1 ∧ s.seq.phase ≠ 7 ∧ scrubFailing [f 32767 (.corrected 9)] again = [(1, 31, 32767)] ∧
      (s.well 3).channelFails 0 (scrubFailing [f 32767 (.corrected 9)] again) = false ∧ (s.well 3).channelFails 0 (scrubFailing nine []) = true ∧
      s.passedThrice { code := 8, region := 3, target := 0, part := 0 } = false ∧
      runs (.targetedScrub 3 0 [(0, 0, .corrected 9)] []) s (fun t => t.p1 3 14353 == 0 &&
        field (t.p1 3 (chanIdx 0 0)) 0 24 == 1) = true ∧
      runs (.targetedScrub 3 0 [f 32767 (.corrected 9)] again) s (fun t => (t.well 3).repaired == [(0, 1, 31, 32767)] &&
        field (t.p1 3 14353) 12 1 == 1) = true ∧
      runs (.targetedScrub 3 0 nine []) s (fun t => (t.svc 3).withdrawn) = true := by
  decide +kernel

/-- Line 0 of region 0: positions 0 and 1 are units 4 and 16, in different clusters. -/
def lined : State := (State.reset.setP1 0 14400 34).setP1 0 14401 (wd (4 + 16 * 512))
def counter9 (s : State) (v : Nat) : State :=
  s.updRegion 0 fun x => { x with sync := [(9, { w0 := wd v, w1 := 1, w2 := 0, w3 := 0 })] }
/-- Stream 3: two tiles of 32 rows from granule 100 on line 0 when object 9 reaches 5, then at each further 1. -/
def streamOf3 : List Word := [100, wd (2 ^ 27 + 2 ^ 29 + 2 ^ 30), wd (2 + 9 * 2 ^ 20), 5]
def streamed : State :=
  (streamOf3.zipIdx.foldl (fun t (w, k) => t.setP1 0 (streamIndex 3 k) w) (counter9 lined 5)).setP1 0 15299 1

/-- Entries of the last line and stream that keep the rules, and ones that do not: 17 positions, no tiles. -/
theorem wit_InkLinesAndStreams_entries :
    let s := counter9 lined 0
    s.lineBusy 0 79 = false ∧ s.lineEntryOk 0 79 [wd (16 + 32), wd (7 + 8 * 512), wd 5, wd 6, wd 9] = false ∧
      s.lineEntryOk 0 79 [33, 319] = true ∧ s.lineEntryOk 0 1 [33, 4] = false ∧ s.lineEntryOk 0 0 [wd 49] = false ∧
      s.streamEntryOk 0 streamOf3 = true ∧ s.streamEntryOk 0 [0, wd (2 ^ 29), 0, 0] = false ∧
      runs (.lineEntryWrite 0 79 [33, 319]) s (fun t => t.lineN 0 79 == 1 && t.linePos 0 79 0 == 319) = true ∧
      runs (.lineEntryWrite 0 1 [33, 4]) s (fun t => t.lineN 0 1 == 0 && field (t.p1 0 5632) 0 12 == 0x172) = true ∧
      runs (.streamEntryWrite 0 63 streamOf3) s (fun t => t.streamWords 0 63 == streamOf3 && t.p1 0 15359 == 1) = true := by
  decide +kernel

theorem wit_InkLinesAndStreams_start :
    let s := streamed
    let gone := s.updP1 0 (rowMapIndex 16) fun w => putField w 0 3 7
    let ws := s.streamWords 0 3
    stInUse ws = true ∧ s.lineOk 0 (stLine ws) = true ∧ s.lineBusy 0 (stLine ws) = false ∧ field (s.p1 0 (streamStatus 3)) 0 2 = 1 ∧
      (stThreshold ws).toInt ≤ (s.syncObj 0 (stTrigger ws)).w0.toInt ∧ s.nextStream 0 0 = some 3 ∧ gone.absent 16 = true ∧
      gone.nextStream 0 0 = some 3 ∧
      runs (.streamStart 0 3) s (fun t => t.lineBusy 0 0 && (t.well 0).running.map (·.stream) == [3]) = true ∧
      s.seq.phase ≠ 7 ∧ runs (.streamStart 0 3) { s with seq := { s.seq with phase := 7 } } (fun t => (t.well 0).running == []) = true ∧
      runs (.streamStart 0 3) gone (fun t => (t.well 0).running == [] && field (t.p1 0 5632) 0 12 == 0x173) = true := by
  decide +kernel

/-- The last row of the first tile goes to position 1, the far end; the last row of the stream ends it (R262); a row whose position 0
has no credit stays (R263). -/
theorem wit_InkLinesAndStreams_rows :
    let at' (n : Nat) := streamed.updWell 0 fun x => { x with
      running := [{ line := 0, stream := 3, nextRow := n, buf := false }], rows := [(831, 7), (863, 8)] }
    let tag (t : State) := t.net.map fun m => (m.tag.toNat, m.body, m.dstUnit)
    let full := (at' 31).updUnit 4 fun u => { u with inkIn := [{ data := 7, row := 0, pos := 0, bcast := false, last := false, wa := 0 }] }
    (at' 31).inkCredit ((at' 31).linePos 0 0 0) = true ∧ (at' 63).inkCredit ((at' 63).linePos 0 0 0) = true ∧
      runs (.streamRow 0 0 []) (at' 31) (fun t => tag t == [(31 + 64 + 2048, [7], 4)] &&
        (t.well 0).running.map (·.nextRow) == [32]) = true ∧
      runs (.streamRow 0 0 []) (at' 63) (fun t => tag t == [(31 + 2048, [8], 4)] && (t.well 0).running == [] &&
        t.p1 0 (streamIndex 3 3) == 6 && field (t.p1 0 15299) 0 2 == 1) = true ∧
      runs (.streamRow 0 0 []) full (fun t => t == full) = true := by
  decide +kernel

/-- A row that unit 4 passes on to unit 16, one it takes, and a broadcast row that it takes and passes on; a row that position 1 has
no credit for, which becomes a stall; a command that has waited 2^20 ACLK. -/
theorem wit_InkLinesAndStreams_units :
    let k (pos : Nat) (bcast : Bool) : InkRow := { data := 7, row := 0, pos := pos, bcast := bcast, last := false, wa := 0 }
    let s (x : InkRow) := lined.updUnit 4 fun u => { u with inkIn := [x] }
    let blocked := { ((s (k 1 false)).setP1 0 (lineIndex 0 5) 1).updUnit 16 fun u => { u with inkIn := [k 1 false] } with
      root := 2 ^ 30 }
    let waits := lined.updUnit 4 fun u => { u with mxa := { u.mxa with cur := some {
      block := BitVec.ofNat 576 (2 ^ 168 + 2 ^ 298), code := 0, rejected := false, seq := 0, entered := 0, firstCycle := 0, passes := 0, passLeft := 0
      nf := false, loaded := 0, accBuf := [], accNf := false, takenAt := 0 } } }
    let late := { waits with root := 2 ^ 30 }
    (s (k 1 false)).lineOf 4 = some (0, 0) ∧ (s (k 1 false)).lineN 0 0 = 2 ∧ (s (k 1 false)).inkCredit 16 = true ∧
      blocked.inkCredit 16 = false ∧ blocked.lineBusy 0 0 = true ∧ blocked.inkBlocked 0 0 = true ∧
      runs (.inkLineRow 4) (s (k 1 false)) (fun t => (t.unit 4).ink == [] && t.net.map (·.dstUnit) == [16]) = true ∧
      runs (.inkLineRow 4) (s (k 0 false)) (fun t => (t.unit 4).ink == [k 0 false] && t.net == []) = true ∧
      runs (.inkLineRow 4) (s (k 0 true)) (fun t => (t.unit 4).ink == [k 0 true] && t.net.map (·.body) == [[7]]) = true ∧
      runs (.inkLineRow 4) blocked (fun t => t == blocked) = true ∧
      runs (.inkStall 0 0) blocked (fun t => (t.well 0).stalled == [0] && field (t.p1 0 14388) 0 8 == 128) = true ∧
      (late.unit 4).inkWaits.isSome = true ∧ (late.unit 4).inkStalled = false ∧
      runs (.inkCommandWait 4) late (fun t => (t.unit 4).inkStalled && field (t.p1 0 14388) 8 12 == 1) = true := by
  decide +kernel

/-! ### Training step, abort and repair -/

def imageOne : JobImage :=
  { detClass := 0, digestOk := true, octets := 0, digest := 0, step := 9, jobSeed := 5, scaleExp := 10, scaleMin := -4, scaleMax := 20
    cleanCount := 0, cleanLimit := 100, skipRun := 0, skipLimit := 3, updCount := 0, inputCursor := 0, jobRingPos := 0
    shardParams := [], verdictRegion := 0, schedule := [(1, 2)], stages := 1
    classes := [(64, 2)], carried := [], sync := [(0, 7, 3, 1)], epochs := [], areas := [(5, 0, 2, 0, 8)]
    expected := [], units := [], tables := [] }
/-- Region 0 alone is in service and a job runs in a phase. -/
def stepAt (phase : Nat) (f : Sequencer → Sequencer) : State :=
  let s := State.reset.updSvc 0 fun x => { x with inService := true }
  { s with
    seq := f { s.seq with phase := phase, running := true, sched := { s.seq.sched with step := 9, jobSeed := 5, scaleExp := 10 } }
    host := { s.host with image := some imageOne } }

/-- 128 tokens of a class with two chunks of 64 may open, 129 may not. -/
theorem wit_StepOpensAndDecides_open :
    let s := stepAt 1 id
    ([(0, 128)].any fun (c, n) => s.tooManyChunks c n) = false ∧ ([(0, 129)].any fun (c, n) => s.tooManyChunks c n) = true ∧
      s.seq.phase = 1 ∧ s.seq.running = true ∧
      runs (.openStep [(0, 129)]) s (fun t => !t.seq.running && t.seq.phase == 0) = true := by
  decide +kernel

theorem wit_StepOpensAndDecides_verdict :
    let s := (stepAt 2 id).setSyncObj 0 objGradDone { w0 := wd (2 ^ 24), w1 := 2, w2 := 0, w3 := 0 }
    let m := { syncMsgTo 26 1 false with wa := waSync 0 objVerdict, srcKind := 4 }
    let d (phase : Nat) (upd : Nat) := inNet ((stepAt phase fun q => { q with sched := { q.sched with updCount := wd upd } }).setSyncObj 0
      objVerdict { w0 := 0, w1 := wd (4 + 8), w2 := 0, w3 := 0 }) m
    let clean := { m with words := [0, 0, 0, 26] }
    (s.svc 0).inService = true ∧ (s.svc 0).contributed = false ∧ s.regionDone 0 = true ∧ (d 3 0).applies m 26 ∧
      m.dstRegion = (d 3 0).verdictRegion ∧ waIndex m.wa = objVerdict ∧ (inNet (d 3 0) clean).applies clean 26 ∧
      runs (.regionVerdictContribution 0) s (fun t => t.seq.phase == 3 && t.net.map (·.operand) == [0]) = true ∧
      runs (.decide ⟨m, []⟩) (d 3 0) (fun t => t.seq.phase == 6 && t.seq.verdict && (t.syncObj 0 objStepFlag).w0 == 6) = true ∧
      runs (.decide ⟨clean, []⟩) (inNet (d 3 0) clean) (fun t => t.seq.phase == 4 && !t.seq.verdict && t.seq.consts == some (1, 2)) = true ∧
      runs (.decide ⟨clean, []⟩) (inNet (d 3 1) clean) (fun t => t.seq.phase == 0 && !t.seq.running) = true := by
  unfold State.applies State.delivered State.arrives; decide +kernel

theorem banksIdle_of {s : State} {u : Nat} (h : (s.unit u).banks = []) : s.banksIdle u := fun b => by
  simp [Unit.bank, h, Sparse.get, Bank.reset]

theorem wit_idleBanks : (stepAt 4 id).banksIdle 15359 := banksIdle_of (by decide +kernel)

/-- Shard 5 is owned by module 0, which is its own carbon partner too. -/
def owning (phase : Nat) (f : Sequencer → Sequencer) : State :=
  let s := stepAt phase f
  { s with sys := { s.sys with shards := [(5, { owner := 0, partner := 0, valid := true })], roster := [(0, { serial := 1, detClass := 0, state := 2 })] } }

theorem wit_UpdateAndBlotPoint_packets :
    let s := owning 4 id
    let both := owning 5 fun q => { q with updated := [(5, 0, 7, 0), (5, 1, 7, 104)] }
    let skip := owning 6 fun q => { q with verdict := true }
    s.ownShard 5 = true ∧ (s.blockPlace 5 1).isSome = true ∧ (∀ x ∈ s.seq.updated, ¬(x.1 = 5 ∧ x.2.1 = 1)) ∧
      (∀ b ∈ both.blocksOf 5, ∃ x ∈ both.seq.updated, x.1 = 5 ∧ x.2.1 = b) ∧ both.partnerOf 5 = both.ownIndex.toNat ∧
      runs (.weightPacket 5 1 ⟨15359, 49048⟩ []) s (fun t => t.seq.phase == 5 && t.seq.updated == [(5, 1, 15359, 49048)]) = true ∧
      runs (.snapshotGranule 5) both (fun t => t.seq.snapIn.map (fun x => wordOf (x.2.getD 0 0) 0) == [10]) = true ∧
      runs (.snapshotGranule 5) skip (fun t => t.seq.snapIn.map (fun x => wordOf (x.2.getD 0 0) 4) == [9]) = true := by
  decide +kernel

/-- A skipped step of a module alone commits at once; the loss scale goes down by one (R285). -/
theorem wit_UpdateAndBlotPoint_ready :
    let s := owning 6 fun q => { q with verdict := true, snapIn := [(5, [])], sched := { q.sched with scaleMin := -4 } }
    let kid := { s with sys := { s.sys with primary := ⟨31, 1⟩ } }
    s.snapshotsIn = true ∧ s.seq.carbons = [] ∧ s.seq.reported = [] ∧ s.childLinks = [] ∧ s.isRoot = true ∧ s.members = 1 ∧
      s.plannedDue = false ∧ s.writeBackBanks = [] ∧ s.seq.committed = 0 ∧ s.sys.readies = [] ∧ s.sys.tables = [] ∧ s.sys.pendingRoster = none ∧ (∃ l ∈ kid.childLinks, ∀ v ∈ kid.sys.readies, v.1 ≠ l) ∧ kid.seq.readySent = false ∧
      runs .moduleReady kid (fun t => t.seq.phase == 6 && t.sys.ownReady && t.seq.sched.step == 9) = true ∧
      runs .moduleReady s (fun t => t.seq.sched.step == 10 && t.seq.sched.skipRun == 1 && t.seq.sched.cleanCount == 0) = true := by
  decide +kernel

theorem wit_UpdateAndBlotPoint_digest :
    let s := owning 6 fun q => { q with committed := 5, digests := [{ ring := 0, index := 0, step := 8, addr := 4096, room := 1 }] }
    let bare := { s with host := { s.host with image := none } }
    (bare.shardReads (Config.blotChecks bare.root) 0 bare.ownShards).2.isSome = true ∧ bare.ownShard 5 = true ∧
      s.plannedDue = false ∧ s.dueDigests = [{ ring := 0, index := 0, step := 8, addr := 4096, room := 1 }] ∧ s.ownShard 5 = true ∧
      (∀ x ∈ s.sys.shards, x.1 < 4096) := by
  decide +kernel

/-- An abort; a module that has reported ready asks the root; drained with a region to restore; the hypotheses of a
restore of the first of two regions. -/
theorem wit_StepAborts :
    let s := stepAt 2 fun q => { q with reported := [causeOf 0x221 7 none], aborts := 6 }
    let asks := stepAt 6 fun q => { q with reported := [causeOf 0x221 7 none], readySent := true }
    let leaf := { asks with sys := { asks.sys with primary := ⟨1, 31⟩ } }
    let again := stepAt 2 fun q => { q with reported := [causeOf 0x131 7 none] }
    let d := stepAt 7 fun q => { q with abortState := 2 }
    let two := (stepAt 7 fun q => { q with abortState := 6 }).updSvc 1 fun x => { x with inService := true }
    s.seq.reported ≠ [] ∧ s.seq.phase < 6 ∧ s.seq.lastFaults = [] ∧ s.seq.aborts < 7 ∧ s.lossCodes = [] ∧ leaf.rootsLost = false ∧ d.seq.drained = false ∧ s.seq.readySent = false ∧ leaf.isRoot = false ∧
      leaf.seq.abortSent = false ∧ leaf.seq.committed = 0 ∧ d.drained = true ∧
      (d.regionsUp.any fun r => !(d.svc r).restored) = true ∧ (two.svc 0).inService = true ∧ (two.svc 0).restored = false ∧
      (∃ k ∈ two.regionsUp, k ≠ 0 ∧ (two.svc k).restored = false) ∧
      runs .sequencerAbort s (fun t => t.seq.phase == 7 && t.seq.aborts == 7 && t.seq.reported == []) = true ∧
      runs .sequencerAbort { s with seq := { s.seq with aborts := 7 } } (fun t => !t.seq.running && field (t.bar 8) 6 12 == 0x80B) = true ∧
      runs .sequencerAbort { again with seq := { again.seq with lastFaults := again.seq.reported } } (fun t =>
        !t.seq.running && field (t.bar 8) 6 12 == 0x808) = true ∧
      (∃ c ∈ again.seq.reported, c.jobFault = true) ∧
      runs .sequencerAbort leaf (fun t => t.seq.abortSent && t.seq.phase == 6) = true ∧
      runs .drainComplete d (fun t => t.seq.abortState == 6) = true := by
  decide +kernel

/-- A test of unit 7 that passes, passes for the fourth time, and fails, with another test still to come. -/
theorem wit_TestsAndRepairs_selfTest :
    let k : TestTarget := { code := 3, region := 0, target := 7, part := 0 }
    let s := stepAt 7 fun q => { q with abortState := 3, tests := [k, { k with target := 8 }] }
    let h := { s with mgmt := { s.mgmt with history := List.replicate 3 (0, s.historyKey k) } }
    k ∈ s.seq.tests ∧ s.seq.tests.erase k ≠ [] ∧ s.passedThrice k = false ∧ h.passedThrice k = true ∧ s.absent 7 = false ∧
      s.spareState 7 = (0, 0) ∧ (s.region 0).epochWaits = [] ∧
      runs (.selfTestResult k ⟨true, [], []⟩) s (fun t => field (t.p1 0 82) 0 12 == 1 && (t.region 0).epochWaits == []) = true ∧
      runs (.selfTestResult k ⟨true, [], []⟩) h (fun t => t.epoch 7 == 1 && field (t.p1 0 82) 12 12 == 1) = true ∧
      runs (.selfTestResult k ⟨false, [], []⟩) s (fun t => t.epoch 7 == 1 && t.column 7 == 3 && (t.region 0).epochWaits.map (·.column) == [4]) = true := by
  decide +kernel

/-- Spare of row map 79 of region 47 at each stage of its fill, serving unit 15359, which has no image, or an empty one whose
digest is not that of no octets. -/
theorem wit_TestsAndRepairs_spares :
    let f (st : FillStage) (o : Bool) : Fill := { rowMap := 79, lc := 3, stage := st, failedOnce := o }
    let s (x : Fill) := State.reset.updSvc 47 fun v => { v with fills := [x] }
    let g : UnitImage := { unit := 15359, startPc := 0, imageOffset := 0, imageRows := 0, digest := [], place := 0, rows := [] }
    let bad (x : Fill) : State := { s x with host := { (s x).host with image := some { imageOne with units := [g] } } }
    (s (f .waking false)).fillOf 47 79 .waking = some (f .waking false) ∧
      (s (f .testing false)).fillOf 47 79 .testing = some (f .testing false) ∧
      (s (f .loading true)).fillOf 47 79 .loading = some (f .loading true) ∧ fillUnit 47 (f .loading true) = 15359 ∧
      ((s (f .loading true)).region 47).epochWaits = [] ∧ ((s (f .testing false)).unit 15359).banks = [] ∧
      (s (f .loading true)).imageOf 15359 = none ∧ (bad (f .loading true)).imageOf 15359 = some g ∧
      Sha.digestOctets (Sha.sha256 []) ≠ g.digest ∧
      runs (.spareWake 47 79) (s (f .waking false)) (fun t => (t.svc 47).fills == [f .testing false]) = true ∧
      runs (.spareLoadComplete 47 79 []) (s (f .loading false)) (fun t =>
        (t.region 47).epochWaits.map (·.spare) == [some (2, 3)]) = true ∧
      runs (.spareLoadComplete 47 79 []) (bad (f .loading false)) (fun t => (t.svc 47).fills == [f .loading true]) = true ∧
      runs (.spareLoadComplete 47 79 []) (bad (f .loading true)) (fun t => (t.svc 47).fills == []) = true := by
  decide +kernel

/-- A carbon of a shard without blocks, whose digest is that of no octets (FIPS 180-4), accepted, copied again, and given up. -/
theorem wit_TestsAndRepairs_carbons :
    let c (once : Bool) := stepAt 4 fun q => { q with carbons := [(4095, once)] }
    let none : List Octet := Sha.digestOctets 0xe3b0c44298fc1c149afbf4c8996fb92427ae41e4649b934ca495991b7852b855
    let copied := (c true).carbonRows 4095 []
    (c true).seq.carbons.find? (fun c => c.1 == 4095) = some (4095, true) ∧ copied.shardDigest 4095 (copied.shardBlocks 4095) = none ∧
      runs (.carbonCopy 4095 ⟨[(7, [])], none, []⟩) (stepAt 4 fun q => { q with recreate := [(4095, 7, false)] }) (fun t =>
        t.seq.recreate == []) = true ∧
      runs (.carbonCopy 4095 ⟨[], none, []⟩) (c true) (fun t => t.seq.carbons == []) = true ∧
      runs (.carbonCopy 4095 ⟨[], [], []⟩) (c false) (fun t => t.seq.carbons == [(4095, true)]) = true ∧
      runs (.carbonCopy 4095 ⟨[], [], []⟩) (c true) (fun t => !t.seq.running) = true := by
  decide +kernel

/-- The verify read of the last row of the last unit. -/
theorem wit_TestsAndRepairs_reads :
    let v := State.reset.updSvc 47 fun x => { x with verify := [(15359, 49151, 8)] }
    v.bankIdle 15359 (64 * 49151) ∧
      (v.svc (regionOf 15359)).verify.find? (fun v => v.1 == 15359 && v.2.1 == 49151) = some (15359, 49151, 8) ∧
      runs (.verifyRead 15359 49151 .clean) v (fun t => field (t.p1 47 82) 0 12 == 1) = true ∧
      runs (.verifyRead 15359 49151 (.corrected 8)) v (fun t => (t.svc 47).planned == [15359]) = true ∧
      runs (.verifyRead 15359 49151 .uncorrectable) v (fun t => t.seq.reported.map (·.code) == [0x221]) = true := by
  unfold State.bankIdle; decide +kernel

/-! ### Links -/

/-- Link 2 is up, module 9 is a member, the root of a tree is this module, and link 3 leads to module 20. -/
def up : State :=
  let s := (State.reset.setBar (lnkReg 2 4) 3).setBar (lnkReg 3 4) 3
  { s with sys := { s.sys with
    roster := [(9, { serial := 77, detClass := 0, state := 2 })]
    route := [(20, 0x1000008)], window := [(0, some { region := 3, first := 5, count := 2, writable := true })] } }
def flitOf (ftype cls dst ttl kind : Nat) : Flit := mkFlit (mkHeader ftype false (2 * cls) dst 9 ttl kind) [1, 2, 3, 4, 5, 6, 7, 8]
/-- The flits sent in state `t`, by link, type and ttl. -/
def flitsOut (t : State) : List (Nat × Nat × Nat) :=
  t.out.filterMap fun o => match o with
    | .flit l f => some (l, fType f, fTtl f)
    | _ => none

/-- A read request that goes on with one hop fewer, one with no hop left, and one without a route. -/
theorem wit_FlitsAreDelivered_forward :
    let f := flitOf 1 1 20 3 (2 ^ 52)
    let old := flitOf 1 1 20 0 (2 ^ 52)
    let lost := flitOf 1 1 21 3 (2 ^ 52)
    up.accepts 2 f ∧ up.accepts 2 old ∧ up.accepts 2 lost ∧ fTtl old = 0 ∧ up.routeLink 9 21 = none ∧ up.routeLink 9 20 = some 3 ∧
      runs (.wrd 2 f) up (fun t => flitsOut t == [(2, 0, 0), (3, 1, 2)] && (t.link 2).rxNext == 1) = true ∧
      runs (.wrd 2 old) up (fun t => t.seq.reported.map (·.code) == [0x404]) = true ∧
      runs (.wrd 2 lost) up (fun t => t.seq.reported.map (·.code) == [0x402]) = true := by
  refine ⟨⟨by decide, by decide, ⟨rfl, by decide⟩, by decide, by decide, by decide⟩,
    ⟨by decide, by decide, ⟨rfl, by decide⟩, by decide, by decide, by decide⟩,
    ⟨by decide, by decide, ⟨rfl, by decide⟩, by decide, by decide, by decide⟩, ?_⟩
  decide +kernel

/-- Kind fields of a well flit. -/
def wellKind (tag region granule first rows : Nat) : Nat :=
  tag + region * 2 ^ 16 + granule * 2 ^ 22 + first * 2 ^ 49 + rows * 2 ^ 52

/-- A read of rows 6 and 7 of the last granule of the window, a write of row 0, and a granule outside it. -/
theorem wit_FlitsAreDelivered_requests :
    let rd := flitOf 1 1 0 3 (wellKind 8 3 6 6 2)
    let wr := flitOf 3 1 0 3 (wellKind 8 3 6 0 1)
    let out := flitOf 1 1 0 3 (wellKind 8 3 7 0 1)
    up.windowOk 3 6 false = true ∧ up.windowOk 3 6 true = true ∧ up.windowOk 3 7 false = false ∧
      runs (.wrd 2 rd) up (fun t => t.net.map (fun m => (m.type, waNonet m.wa)) == [(0, 384), (0, 448)]) = true ∧
      runs (.wwr 2 wr) up (fun t => t.net.map (·.body) == [[1]]) = true ∧
      runs (.wrd 2 out) up (fun t => t.net == [] && field (t.bar 0x30810) 16 16 == 1) = true := by
  decide +kernel

/-- An answer to a request that unit 7 made, and a contribution of two rows for region 47. -/
theorem wit_FlitsAreDelivered_answers :
    let m := msgTo 4 0 0 1 66 0 [] []
    let s := { up with sys := { up.sys with remote := [(8, m)] } }
    let rs := flitOf 2 2 0 3 (wellKind 8 0 0 7 1)
    let ak := flitOf 4 2 0 3 (wellKind 8 0 0 0 1)
    let er := flitOf 5 2 0 3 (wellKind 8 0 0 0 1 + 0x226 * 2 ^ 56)
    let rd := flitOf 6 3 0 3 (2 * 2 ^ 131 + 47 * 2 ^ 135)
    s.sys.remote.find? (fun p => p.1 == fTag rs) = some (fTag rs, m) ∧ headerOk rs = true ∧ headerOk ak = true ∧ headerOk er = true ∧
      headerOk rd = true ∧ hf rd 215 6 = 47 ∧
      runs (.wrs 2 rs) s (fun t => t.net.map (fun a => (a.dstUnit, a.tag.toNat, a.body)) == [(7, 66, [8])]) = true ∧
      runs (.wak 2 ak) s (fun t => inFlight t == [(3, 66, 0)]) = true ∧
      runs (.wer 2 er) s (fun t => inFlight t == [(4, 66, 0x226)]) = true ∧
      runs (.red 2 rd) s (fun t => t.net.map (fun a => (a.dstRegion, a.body)) == [(47, [1, 2])]) = true := by
  decide +kernel

/-- A weight granule that is to land in buffer 1, one of another step, one of a kind that has no entry, a trailer granule, and a
multicast one that goes on to link 3. -/
theorem wit_FlitsAreDelivered_weights :
    let s := { up with sys := { up.sys with
      landing := [(0, { w0 := wd (4095 + 16 * 2 ^ 12), w1 := wd (4 + 1 * 2 ^ 25), w2 := 50, w3 := 80 }),
        (1, { w0 := wd (4095 + 16 * 2 ^ 12), w1 := wd (4 + 2 ^ 24 + 1 * 2 ^ 25), w2 := wd ((waScratch 7 0).toNat % 2 ^ 36), w3 := wd ((waScratch 7 0).toNat / 2 ^ 36) })]
      mcast := [(4095, 2 ^ 25 + 2 ^ 3)] } }
    let w := flitOf 7 1 0 3 (4095 + 19 * 2 ^ 12)
    let old := flitOf 7 1 0 3 (4095 + 19 * 2 ^ 12 + 2 ^ 40)
    let tr := flitOf 7 1 0 3 (4095 + 16 * 2 ^ 12 + 1 * 2 ^ 36)
    let mc := flitOf 7 1 0 3 (4095 + 19 * 2 ^ 12 + 2 ^ 56)
    headerOk w = true ∧ headerOk tr = true ∧ headerOk mc = true ∧ fMcast w = false ∧ fMcast mc = true ∧ fGkind tr = 1 ∧
      (s.landing 0 4095 19).map (·.region) = some 1 ∧ s.landing 0 4095 20 = none ∧ fStep16 old ≠ 0 ∧ s.seq.restoring = none ∧
      (∃ e, s.landing 1 4095 16 = some e ∧ s.waFault (e.carbonAt 16 1) = 0 ∧ spaceOf (e.carbonAt 16 1) = .scratch) ∧
      runs (.wgt 2 w) s (fun t => t.net.map (fun m => (m.type, m.dstKind, waGranule m.wa)) == [(1, 2, 83)] &&
        t.sys.granules.map (fun g => (g.shard, g.block, g.gkind)) == [(4095, 19, 0)]) = true ∧
      runs (.wgt 2 old) s (fun t => t.wells == [] && t.seq.reported.map (·.code) == [0x408]) = true ∧
      runs (.wgt 2 tr) s (fun t => t.net.map (fun m => (m.type, m.dstKind, m.dstUnit)) == [(1, 0, 7)]) = true ∧
      runs (.wgt 2 mc) s (fun t => flitsOut t == [(2, 0, 0), (3, 7, 2)]) = true := by
  decide +kernel

/-- The write of a granule is acknowledged, or answered with an error. -/
theorem wit_FlitsAreDelivered_landed :
    let k (gkind : Nat) : Landed := { tag := 5, shard := 4095, block := 19, gkind := gkind, region := 1, unit := 7, row := 0 }
    let ak := { msgTo 4 0 3 2 5 0 [] [] with srcKind := 2 }
    let er := { msgTo 4 0 4 2 5 0 [] [] with status := 0x226 }
    let s (gkind : Nat) (m : Msg) := inNet { up with sys := { up.sys with granules := [k gkind] } } m
    (s 0 ak).delivered ak ∧ (s 3 ak).delivered ak ∧ (s 0 er).delivered er ∧ (s 0 ak).servedFor ak = none ∧ (s 3 ak).servedFor ak = none ∧
      (s 0 er).servedFor er = none ∧ (s 0 ak).seq.restoring = none ∧
      runs (.writeAcknowledgement ak []) (s 0 ak) (fun t => t.sys.granules == [] && t.p1 1 15371 == 1) = true ∧
      runs (.writeAcknowledgement ak []) (s 3 ak) (fun t => t.seq.trailers == [(4095, 19, 3, 7, 0)] && t.p1 1 15373 == 1) = true ∧
      runs (.errorResponse er []) (s 0 er) (fun t => t.seq.reported.map (·.code) == [0x226] && t.sys.granules == []) = true := by
  unfold State.delivered State.arrives; decide +kernel

def idleFlit (ack : Nat) (nak : Bool) (creditLvc credits : Nat) : Flit :=
  { flitOf 0 0 0 0 0 with header := BitVec.ofNat 224 (ack * 2 ^ 20 + nak.toNat * 2 ^ 32 + creditLvc * 2 ^ 62 + credits * 2 ^ 65) }
/-- Link 2 has sent numbers 4094 to 0 and waits for their acknowledgement. -/
def sent3 (replays : Nat) : State :=
  let g (n : Nat) : Flit := { flitOf 1 1 20 3 (2 ^ 52) with header := putField (flitOf 1 1 20 3 (2 ^ 52)).header 8 12 n }
  up.updLink 2 fun k => { k with txSeq := 1, txAcked := 4094, buffer := [g 4094, g 4095, g 0], replays := replays, floors := [(7, 60)] }

/-- A flit with five wrong octets in its first codeword, which does not decode (R316). -/
def torn : Flit := { flitOf 1 1 20 3 (2 ^ 52) with errors := (List.range 5).map fun k => (4 * k, 1) }
def isLost (r : Reception) : Bool :=
  match r with
  | .lost _ => true
  | _ => false

theorem lost_of_isLost (r : Reception) (h : isLost r = true) : ∃ o, r = .lost o := by
  cases r <;> simp [isLost] at h ⊢

theorem wit_RetryAndLanes_torn : ∃ o, flitReceived torn (up.rxLanes 2).length = .lost o :=
  lost_of_isLost _ (by decide +kernel)

/-- A flit lost at the first and at a later error of an episode. -/
theorem wit_RetryAndLanes_lost :
    let open' := up.updLink 2 fun k => { k with nakOpen := true }
    up.lnkLive 2 = true ∧ open'.lnkLive 2 = true ∧ (up.link 2).nakOpen = false ∧ (open'.link 2).nakOpen = true := by
  decide +kernel

/-- An acknowledgement that wraps, with credits; a nak; replays. -/
theorem wit_RetryAndLanes_retry :
    headerOk (idleFlit 4095 false 7 5) = true ∧ (idleFlit 4095 false 7 5).errors = [] ∧
      flitReceived (idleFlit 4095 false 7 5) (up.rxLanes 2).length = .good (idleFlit 4095 false 7 5) [] ∧
      ((sent3 0).link 2).queue = [] ∧ ((sent3 0).link 2).floors.get 64 7 = 60 ∧ headerOk (idleFlit 4095 true 0 0) = true ∧
      ((4095 : BitVec 12) - ((sent3 0).link 2).txAcked).toNat < ((sent3 0).link 2).buffer.length ∧
      runs (.idle 2 (idleFlit 4095 false 7 5)) (sent3 0) (fun t => (t.link 2).buffer.map fSeq == [0] &&
        (t.link 2).floors.get 64 7 == 64 && (t.link 2).shared == 1536) = true ∧
      runs (.nak 2 (idleFlit 4095 true 0 0)) (sent3 0) (fun t => (t.link 2).buffer.map fSeq == [4095, 0] &&
        flitsOut t == [(2, 1, 3), (2, 1, 3)]) = true ∧
      runs (.replayTimeout 2) (sent3 15) (fun t => t.lnkState 2 == 4) = true ∧
      runs (.replayTimeout 2) (sent3 0) (fun t => t.lnkState 2 == 3 && (t.link 2).replays == 1) = true := by
  decide +kernel

/-- Maintenance flits on a link that is up or paused, with its default lane maps. -/
theorem wit_RetryAndLanes_lanes :
    let m (op lane : Nat) (pass : Bool) (map : Nat) := flitOf 9 0 0 0 (op + lane * 2 ^ 4 + pass.toNat * 2 ^ 8 + map * 2 ^ 9)
    let s := up.setBar (lnkReg 2 0) (4 * 64)
    let held := (s.setLnkState 2 4).updLink 2 fun k => { k with suspect := 0b1000 }
    headerOk (m 3 3 false 0) = true ∧ headerOk (m 4 0 false 0xF7654210) = true ∧ held.lnkState 2 = 4 ∧ s.minWidth 2 = 4 ∧
      mapLanes (s.bar (lnkReg 2 8)) = [0, 1, 2, 3, 4, 5, 6, 7] ∧ (held.link 2).suspect.getLsbD 3 = true ∧
      runs (.pause 2 (m 0 0 false 0)) s (fun t => t.lnkState 2 == 4) = true ∧
      runs (.resume 2 (m 1 0 false 0)) held (fun t => t.lnkState 2 == 2) = true ∧
      runs (.laneTestStart 2 (m 2 6 false 0)) held (fun t => (t.link 2).testing == [6]) = true ∧
      runs (.setLaneMap 2 (m 4 0 false 0xF7654210)) held (fun t => field (t.bar (lnkReg 2 4)) 3 4 == 7) = true ∧
      runs (.setLaneMap 2 (m 4 0 true 0xF7654210)) held (fun t => field (t.bar (lnkReg 2 4)) 7 4 == 7) = true ∧
      runs (.setLaneMap 2 (m 4 0 true 0xFFFFF210)) held (fun t => t.lnkState 2 == 5) = true ∧ held.admits 2 (m 4 0 true 0) = true ∧
      runs (.selfTestResult { code := 9, region := 0, target := 38, part := 0 } ⟨true, [], []⟩)
        (held.updLink 2 fun k => { k with testing := [3, 6] }) (fun t => (t.link 2).testing == [3]) = true ∧
      runs (.laneTestResult 2 (m 3 3 false 0) true) held (fun t => mapLanes (t.bar (lnkReg 2 8)) == [0, 1, 2, 8, 4, 5, 6, 7]) = true ∧
      runs (.laneTestResult 2 (m 3 3 false 0) false) held (fun t => mapLanes (t.bar (lnkReg 2 8)) == [0, 1, 2, 4, 5, 6, 7]) = true ∧
      runs (.laneTestResult 2 (m 3 3 true 0) true) held (fun t => (t.link 2).suspect == 0 && t.lnkState 2 == 2) = true ∧
      runs (.laneLockLoss 2 7) s (fun t => t.lnkState 2 == 4 && (t.link 2).suspect == 128) = true := by
  decide +kernel

theorem wit_RetryAndLanes_rest :
    let s := up.setBar (lnkReg 2 0) (4 * 64)
    let dry := up.updLink 2 fun k => { k with queue := [flitOf 6 3 0 0 0], floors := [(6, 0)], shared := 0 }
    (∀ p ∈ mapLanes (s.bar (lnkReg 2 8)) ++ mapLanes (s.link 2).txMap, p < 9) ∧ 1 ≤ s.minWidth 2 ∧
      (∃ g ∈ (dry.link 2).queue, fLvc g = 6) ∧ (dry.link 2).floors.get 64 6 = 0 ∧ (dry.link 2).shared = 0 ∧
      runs (.retrain 2 (BitVec.allOnes 9) (BitVec.allOnes 9)) s (fun t => t.lnkState 2 == 2) = true ∧
      runs (.retrain 2 (BitVec.allOnes 9) 0) s (fun t => t.lnkState 2 == 5 && t.seq.reported.map (·.code) == [0x401]) = true ∧
      runs (.linkStarvation 2 6) dry (fun t => (t.link 2).starved == 64 && field (t.bar (lnkReg 2 0x18)) 16 3 == 6) = true := by
  decide +kernel

/-- A system control flit of this step, attempt and generation 0. -/
def sysFlitOf (cmd : Nat) (bit : Bool) (subject count : Nat) : Flit :=
  flitOf 8 0 0 0 (cmd + bit.toNat * 2 ^ 64 + subject * 2 ^ 65 + count * 2 ^ 77)
/-- A root with child link 2; its own verdict is clean. -/
def rooted (own : Option Bool) : State :=
  { up with sys := { up.sys with
    primary := ⟨31, 4⟩, ownBit := own
    roster := [(0, { serial := 1, detClass := 0, state := 2 }), (9, { serial := 77, detClass := 0, state := 2 })] } }

theorem wit_SystemControlPath_gather :
    let v := sysFlitOf 0 true 0 1
    let stale := flitOf 8 0 0 0 (2 ^ 40)
    let leaf := { rooted (some false) with sys := { (rooted (some false)).sys with primary := ⟨3, 4⟩ } }
    (rooted (some false)).acceptsSys 2 v 0 ∧ 2 ∈ (rooted none).childLinks ∧ (rooted none).isRoot = true ∧ (rooted none).members = 2 ∧
      (rooted none).sysStale stale = true ∧ leaf.isRoot = false ∧ leaf.lnkState leaf.tree.parent = 3 ∧
      runs (.verdictUp 2 stale) (rooted none) (fun t => field (t.bar 0x30810) 0 16 == 1) = true ∧
      runs (.verdictUp 2 v) (rooted none) (fun t => t.sys.verdicts == [(2, true, 1)] && t.net == []) = true ∧
      runs (.verdictUp 2 v) (rooted (some false)) (fun t => t.net.map (·.operand) == [1]) = true ∧
      runs (.verdictUp 2 (sysFlitOf 0 true 0 2)) (rooted (some false)) (fun t => t.seq.reported.map (·.code) == [0x801]) = true ∧
      runs (.verdictUp 2 v) leaf (fun t => flitsOut t == [(2, 0, 0), (3, 8, 16)]) = true ∧
      runs (.decideDown 2 (sysFlitOf 1 true 0 0)) leaf (fun t => t.net.map (·.operand) == [1]) = true ∧
      runs (.readyUp 2 ⟨(sysFlitOf 2 false 0 1), []⟩) (rooted none) (fun t => t.sys.readies == [(2, 1)]) = true := by
  refine ⟨⟨⟨by decide, by decide, ⟨rfl, by decide⟩, by decide, by decide, by decide⟩, by decide, by decide, by decide, by decide⟩, ?_⟩
  decide +kernel

theorem wit_SystemControlPath_commit :
    let ready := { rooted none with seq := { (rooted none).seq with phase := 6, readySent := true, verdict := true } }
    let again := { rooted none with seq := { (rooted none).seq with phase := 7, abortState := 7 } }
    let c := sysFlitOf 3 false 0 0
    ready.sysStale c = false ∧ again.sysStale c = false ∧
      runs (.commitDown 2 ⟨c, []⟩) ready (fun t => t.seq.sched.step == 1 && t.seq.sched.skipRun == 1) = true ∧
      runs (.commitDown 2 ⟨c, []⟩) again (fun t => t.seq.phase == 1) = true ∧
      (rooted none).rootsLost = false ∧
      runs (.abortUp 2 (sysFlitOf 4 false 4095 0)) (rooted none) (fun t => t.attempt == 1) = true ∧
      runs (.abortDown 2 (sysFlitOf 5 false 9 0)) (rooted none) (fun t =>
        (t.sys.roster.get RosterEntry.reset 9).state == 3 && t.attempt == 1) = true ∧
      runs (.lossUp 2 (sysFlitOf 6 false 9 0)) (rooted none) (fun t => (t.sys.roster.get RosterEntry.reset 9).state == 3) = true ∧
      runs (.peerLossTimeout 9) (rooted none) (fun t => t.attempt == 1 && t.host.events.any fun e => e.code == 0x407) = true := by
  decide +kernel

/-- With deputy 9 of root 0, the loss of the root brings the deputy tree into use, and that of both ends the job. -/
theorem wit_SystemControlPath_lost :
    let s := (rooted none).setBar 0x30804 (9 * 2 ^ 12)
    let both := { s with seq := { s.seq with running := true, lost := [9] } }
    (s.bar 0x30804).toNat % 4096 = 0 ∧
      runs (.lossUp 2 (sysFlitOf 6 false 0 0)) s (fun t => t.onDeputy) = true ∧
      runs (.lossUp 2 (sysFlitOf 6 false 0 0)) both (fun t => !t.seq.running) = true ∧
      runs (.lossUp 2 (sysFlitOf 6 false 20 0)) s (fun t => t.attempt == 1) = true := by
  decide +kernel

/-- The HELLO of module 9, with its serial number, on a fenced link, and with another class. -/
theorem wit_SystemControlPath_hello :
    let h (cls : Nat) : Flit :=
      { sysFlitOf 7 false 0 0 with payload := rowsOfOctets (leOctets 8 77 ++ leOctets 2 cls ++ leOctets 1 5 ++ leOctets 2 0 ++ leOctets 2 9) }
    let s := ((rooted none).setBar (lnkReg 2 4) (2 + 9 * 2 ^ 13)).setBar 0x30800 (2 ^ 28)
    let waits := s.updLink 2 fun k => { k with helloIn := true }
    let training := s.setLnkState 2 1
    s.admits 2 (h 0) = true ∧ waits.ownMember = true ∧ s.helloStatus (h 0) = 0 ∧ s.helloStatus (h 1) = 0x405 ∧ waits.isMember (waits.lnkPeer 2) = true ∧ training.lnkState 2 = 1 ∧
      runs (.hello 2 (h 0)) s (fun t => (t.link 2).helloIn && t.lnkPeer 2 == 9) = true ∧
      runs (.hello 2 (h 1)) s (fun t => !(t.link 2).helloIn && t.lnkState 2 == 2) = true ∧
      runs (.helloAck 2 (sysFlitOf 8 true 0 0)) waits (fun t => t.lnkState 2 == 3) = true ∧
      runs (.linkTrainingComplete 2) training (fun t => t.lnkState 2 == 2 && (t.link 2).buffer.map fCmd == [7]) = true := by
  decide +kernel

/-! ### Host engine and registers -/

/-- Host memory from an address on. -/
def hostHolds (s : State) (a : Nat) (os : List Octet) : State := s.hostWrite a os
/-- Ring 0 is a copy ring of 16 slots at address 0x1000, completions at 0x2000; ring 16 the job ring, in doorbell block 1. -/
def ringsOn : State :=
  [(ringReg 0 0, 0x1000), (ringReg 0 8, 0x2000), (ringReg 0 0x10, 1 + 4 * 4 + 5 * 128 + 2 ^ 13), (ringReg 0 0x18, 2 ^ 16),
    (ringReg 16 0x10, 3 + 4 * 4), (ringReg 16 0x18, 2 ^ 16), (0xC, 1), (0x40, 0x8001), (0x50, 0x9001)].foldl
    (fun (t : State) (o, v) => t.setBar o (BitVec.ofNat 32 v)) State.reset
/-- A copy descriptor of one whole row: opcode, host address, wafer address. -/
def copyOctets (op : Nat) : List Octet :=
  leOctets 4 op ++ leOctets 4 0xABCD ++ leOctets 8 0x4000 ++ leOctets 6 (waWell 3 9 + 448).toNat ++ leOctets 2 0 ++ leOctets 4 64 ++
    leOctets 4 1 ++ leOctets 32 0
def takenOf (i : Nat) (os : List Octet) : Taken := { index := i, octets := os, finished := none, copied := Copied.none }
def flying (q : Nat) (t : Taken) (s : State) : State := s.updRing q fun r => { r with taken := [t] }
/-- The status and the result of the oldest descriptor of a ring. -/
def oldest (t : State) (q : Nat) : Option (Nat × Nat) :=
  ((t.ring q).taken.head?.bind (·.finished)).map fun f => (f.1.toNat, f.2.2.toNat)

/-- Ring 31: enabled, a second job ring, a size of 8 slots, and a write while it is enabled. -/
theorem wit_RingsAndCopies_enable :
    let w (v : Reg32) := hostWrite4 (ringReg 31 0x10) v
    let on := ringsOn.setBar (ringReg 31 0x10) 65
    ringsOn.ringEnabled 31 = false ∧ ringsOn.ringEnabled 16 = true ∧ ringsOn.ringJob 16 = true ∧ on.ringEnabled 31 = true ∧
      runs (.ringEnable (w 65)) ringsOn (fun t => t.ringState 31 == 1) = true ∧
      runs (.ringEnable (w 67)) ringsOn (fun t => t.ringState 31 == 3 && field (t.bar (ringReg 31 0x18)) 18 12 == 0x709) = true ∧
      runs (.ringEnable (w 13)) ringsOn (fun t => t.ringState 31 == 3) = true ∧
      runs (.ringEnable (w 69)) on (fun t => t.bar (ringReg 31 0x10) == 65 && field (t.bar 0x14) 2 1 == 1) = true ∧
      runs (.ringEnable (w 0)) on (fun t => t.ringState 31 == 0 && !t.ringEnabled 31) = true := by
  decide +kernel

/-- A tail two ahead takes two descriptors, the second with an unknown opcode; a tail of 17 stops the ring. -/
theorem wit_RingsAndCopies_poll :
    let two := (ringsOn.hostWrite 0x8000 (leOctets 2 2)).hostWrite 0x1000 (copyOctets 1 ++ leOctets 4 9)
    let far := ringsOn.hostWrite 0x8000 (leOctets 2 17)
    field (two.bar 0xC) 0 1 = 1 ∧ two.ringState 0 = 1 ∧ two.ringEnabled 0 = true ∧ two.dbEnabled 0 = true ∧
      runs (.doorbellPoll ⟨true, true⟩) two (fun t => t.ringHead 0 == 2 &&
        (t.ring 0).taken.map (·.finished) == [none, some (0x701, false, 0)]) = true ∧
      runs (.doorbellPoll ⟨true, true⟩) far (fun t => t.ringState 0 == 3 && field (t.bar (ringReg 0 0x18)) 18 12 == 0x702) = true := by
  decide +kernel

theorem wit_RingsAndCopies_copies :
    let s (op : Nat) := ((flying 0 (takenOf 15 (copyOctets op)) ringsOn).updSvc 3 fun x => { x with inService := true }).hostWrite 0x4000
      (leOctets 72 513)
    let full := (s 2).updWell 3 fun x => { x with rows := [(79, 5)] }
    (s 1).copyReady 0 1 (takenOf 15 (copyOctets 1)) ∧ oneWellRow (takenOf 15 (copyOctets 1)) ∧
      full.copyReady 0 2 (takenOf 15 (copyOctets 2)) ∧
      (s 1).inFlight 0 = [takenOf 15 (copyOctets 1)] ∧
      runs (.copyIn 0 [] true) (s 1) (fun t => (t.well 3).rows == [(79, 513)] && oldest t 0 == some (0, 64)) = true ∧
      runs (.copyIn 0 [] false) (s 1) (fun t => t.wells == (s 1).wells && oldest t 0 == some (0x703, 0)) = true ∧
      runs (.copyOut 0 [] true) full (fun t => t.hostMem.get 0 0x4000 == 5 && t.hostMem.get 0 0x4001 == 0) = true ∧
      runs (.completionTimeout 0) (s 1) (fun t => oldest t 0 == some (0x703, 0)) = true := by
  unfold State.copyReady oneWellRow; decide +kernel

/-- The completion of the last slot, whose phase bit turns; its interrupt; and an expired timer with its vector masked. -/
theorem wit_RingsAndCopies_completion :
    let d : Taken := { index := 15, octets := leOctets 4 257 ++ leOctets 4 0xABCD, finished := some (0x125, true, 7), copied := Copied.none }
    let s := (flying 0 d ringsOn).setBar (msixReg 5 0xC) 0
    let timed := s.updRing 0 fun r => { r with timer := true }
    (s.ring 0).taken = [d] ∧ (timed.ring 0).timer = true ∧ timed.msixMasked 5 = false ∧ (timed.setBar (msixReg 5 0xC) 1).msixMasked 5 = true ∧
      runs (.completionWrite 0 true) s (fun t => t.hostRead 0x20F0 8 == leOctets 4 0xABCD ++ [0x25, 0x91, 15, 0] &&
        (t.ring 0).phase == false && t.out == [Out.msix 5 0 0]) = true ∧
      runs (.interruptTimer 0) timed (fun t => t.out == [Out.msix 5 0 0]) = true ∧
      runs (.interruptTimer 0) (timed.setBar (msixReg 5 0xC) 1) (fun t => t.out == [] && t.bar (pbaReg 5) == 32) = true := by
  decide +kernel

/-- A record for event ring 3, the ring full, and the ring's enable. -/
theorem wit_RingsAndCopies_events :
    let r : EvRec := { code := 0x505, source := 4, region := 255, subject := 0xFFFF, step := 0, hclk := 9, detail := 1 }
    let s := { (ringsOn.setBar (evtReg 3 0) 0x5000).setBar (evtReg 3 8) (BitVec.ofNat 32 (1 + 4 * 2 + 2 ^ 17)) with
      host := { ringsOn.host with events := [r] } }
    let full := s.setBar (evtReg 3 0xC) 16
    (∀ k < 4, k ≠ 3 → s.evtEnabled k = false) ∧ s.evtEnabled 3 = true ∧ s.evtMasked 3 r.code = true ∧ (s.evRing 3).dropped = 0 ∧
      s.evtFull 3 = false ∧ full.evtFull 3 = true ∧ ringsOn.evtEnabled 3 = false ∧
      runs .hostEventRecord s (fun t => t.hostRead 0x5000 4 == [5, 0x85, 4, 255] && t.evtTail 3 == 1) = true ∧
      runs .hostEventRecord full (fun t => t.evtTail 3 == 16 && field (t.bar (evtReg 3 0xC)) 16 16 == 1) = true ∧
      runs (.eventRingEnable (hostWrite4 (evtReg 3 8) 9)) ringsOn (fun t => t.evtEnabled 3 && t.evtSize 3 == 16) = true ∧
      runs (.engineEnable (hostWrite4 0xC 0)) ringsOn (fun t => t.bar 0xC == 0) = true := by
  decide +kernel

/-- A job descriptor in flight on ring 16. -/
def jobOf (op step arg : Nat) : Taken :=
  takenOf 3 (leOctets 8 op ++ leOctets 8 0x6000 ++ leOctets 8 65536 ++ leOctets 8 step ++ leOctets 32 arg)
def jobbing (op step arg : Nat) (s : State) : State :=
  flying 16 (jobOf op step arg) { ringsOn with seq := s.seq, sys := s.sys, service := s.service, host := { ringsOn.host with image := s.host.image } }

theorem wit_JobCommands_image :
    let s := jobbing 0x10 0 0 State.reset
    let idle := jobbing 0x11 0 0 { owning 0 id with seq := { (owning 0 id).seq with running := false } }
    let img := { imageOne with digestOk := true }
    s.jobReady 16 0x10 (jobOf 0x10 0 0) ∧ img.tables.all tableRecOk = true ∧ idle.jobReady 16 0x11 (jobOf 0x11 0 0) ∧ idle.holding = false ∧
      idle.host.image.isSome = true ∧
      runs (.loadImage 16 { img with digestOk := false } true) s (fun t => oldest t 16 == some (0x70D, 0)) = true ∧
      runs (.loadImage 16 { img with detClass := 1 } true) s (fun t => oldest t 16 == some (0x806, 0)) = true ∧
      runs (.start 16) s (fun t => oldest t 16 == none) = true ∧
      runs (.start 16) (jobbing 0x11 0 0 State.reset) (fun t => oldest t 16 == some (0x708, 0)) = true := by
  unfold State.jobReady; decide +kernel

/-- A job held at its blot point starts again or stops; a job in phase 2 stops after the commit. -/
theorem wit_JobCommands_held :
    let j (op arg : Nat) := (jobbing op 9 arg (stepAt 6 fun q => { q with held := true, committed := 5 })).setBar 8 0x20
    let two := jobbing 0x12 0 0 (stepAt 2 id)
    (j 0x11 0).jobReady 16 0x11 (jobOf 0x11 9 0) ∧ (j 0x11 0).holding = true ∧ (j 0x11 0).dueDigests = [] ∧ (j 0x11 0).plannedDue = false ∧
      (j 0x11 0).repairing = false ∧ two.holding = false ∧ jArg (jobOf 0x12 0 0) % 2 = 0 ∧
      (j 0x12 1).inFlight 16 = [jobOf 0x12 9 1] ∧ dOp (jobOf 0x12 9 1).octets = 0x12 ∧ jArg (jobOf 0x12 9 1) % 2 = 1 ∧
      runs (.start 16) (j 0x11 0) (fun t => t.seq.phase == 1 && oldest t 16 == some (0, 9)) = true ∧
      runs (.stop 16) (j 0x12 1) (fun t => oldest t 16 == some (0, 8) && !t.seq.running) = true ∧
      runs (.stop 16) two (fun t => t.seq.stopAfter == some 0 && t.seq.running) = true := by
  unfold State.jobReady; decide +kernel

/-- CHECKPOINT and DIGEST of a step to come and of one past, and the end of a transfer. -/
theorem wit_JobCommands_requests :
    let j (op step : Nat) := jobbing op step 0 (stepAt 2 id)
    let c : Target := { ring := 16, index := 3, step := 8, addr := 0x6000, room := 65536 }
    let w := jobbing 0x13 8 0 (stepAt 6 fun q => { q with transfer := some c })
    (j 0x13 9).jobReady 16 0x13 (jobOf 0x13 9 0) ∧ (j 0x16 9).jobReady 16 0x16 (jobOf 0x16 9 0) ∧ (j 0x13 9).jobRuns = true ∧
      (jStep (jobOf 0x13 8 0) < (j 0x13 8).seq.sched.step) ∧ (j 0x13 9).checkpointSize ≤ jLength (jobOf 0x13 9 0) ∧
      w.seq.transfer = some c ∧ jobOf 0x13 8 0 ∈ (w.ring 16).taken ∧ w.ownShards = [] ∧ (w.checkpointOctets []).length ≤ c.room ∧
      runs (.checkpoint 16) (j 0x13 9) (fun t => t.seq.checkpoints.map (·.step) == [9]) = true ∧
      runs (.checkpoint 16) (j 0x13 8) (fun t => oldest t 16 == some (0x807, 0)) = true ∧
      runs (.digest 16) (j 0x16 9) (fun t => t.seq.digests.map (·.step) == [9]) = true ∧
      runs (.checkpointTransferComplete ⟨false, []⟩) w (fun t => oldest t 16 == some (0x704, 0)) = true ∧
      runs (.checkpointTransferComplete ⟨true, []⟩) w (fun t => oldest t 16 == some (0, 106)) = true := by
  unfold State.jobReady; decide +kernel

/-- A REDISTRIBUTE of a set of `n` octets, in flight on ring 16. -/
def setTaken (n : Nat) : Taken :=
  takenOf 3 (leOctets 8 0x15 ++ leOctets 8 0x6000 ++ leOctets 8 n ++ leOctets 40 0)
def setting (n : Nat) (s : State) : State := flying 16 (setTaken n) (jobbing 0x15 0 0 s)
/-- A set of one record without words. -/
def oneSet (kind : Nat) : List Octet :=
  leOctets 4 kind ++ leOctets 4 0 ++ leOctets 4 0 ++ leOctets 4 0

theorem wit_JobCommands_sets :
    let ck : Checkpoint := { detClass := 0, digests := [], step := 40, jobSeed := 6, scaleExp := -3, scaleMin := -4, scaleMax := 9, cleanCount := 2, cleanLimit := 7, skipRun := 1, skipLimit := 3
                             updCount := 30, inputCursor := 0, jobRingPos := 0, carried := [], rows := [(1, 5, 77)] }
    let idle := jobbing 0x14 0 0 { stepAt 0 id with seq := { (stepAt 0 id).seq with running := false } }
    let owner := jobbing 0x14 0 0 { owning 0 id with seq := { (owning 0 id).seq with running := false } }
    let run := setting 0 (stepAt 2 id)
    let bad := setting 16 (stepAt 2 id)
    let plan := setting 0 (stepAt 7 fun q => { q with abortState := 5, replan := true })
    idle.jobReady 16 0x14 (jobOf 0x14 0 0) ∧ idle.seq.restoring = none ∧ idle.host.image.isSome = true ∧ idle.ownShards = [] ∧ (idle.restoredRows ck).digestsMatch ck [] = true ∧
      owner.jobReady 16 0x14 (jobOf 0x14 0 0) ∧ owner.ownShards = [5] ∧
      (owner.restoredRows ck).digestsMatch ck [(5, (owner.restoredRows ck).shardBlocks 5)] = false ∧
      run.jobReady 16 0x15 (setTaken 0) ∧ run.jobRuns = true ∧ run.sys.tables = [] ∧ plan.seq.replan = true ∧ (bad.hostWrite 0x6000 (oneSet 99)).readSet (setTaken 16) = none ∧
      runs (.restore 16 ck ⟨[], true⟩) idle (fun t => t.seq.sched.step == 40 && oldest t 16 == some (0, 40)) = true ∧
      runs (.restore 16 { ck with detClass := 2 } ⟨[], true⟩) idle (fun t => oldest t 16 == some (0x806, 0)) = true ∧
      runs (.restore 16 ck ⟨[], true⟩) owner (fun t => oldest t 16 == some (0x80D, 0)) = true ∧
      runs (.redistribute 16 [] true false) run (fun t => t.sys.tables == [(16, 3, [])]) = true ∧
      runs (.redistribute 16 (oneSet 99) true false) bad (fun t => oldest t 16 == some (0x70F, 0)) = true ∧
      runs (.redistribute 16 [] true true) run (fun t => oldest t 16 == some (0x80C, 0)) = true ∧
      runs (.redistribute 16 [] true false) plan (fun t => oldest t 16 == some (0, 0) && !t.seq.replan) = true := by
  unfold State.jobReady; decide +kernel

/-- Resets and power states of the function, and configuration requests before and after the boot. -/
theorem wit_EndpointAndRegisters_function :
    let wait := (ringsOn.setBar (pbaReg 63) (BitVec.ofNat 32 (2 ^ 31))).setBar (msixReg 63 0xC) 0
    let booted := { State.reset with host := { State.reset.host with ready := true } }
    (∀ c ∈ [Instr.flr, .hotReset, .perst], runs c ringsOn (fun t => t.bar 0x40 == 0 && t.ringState 0 == 0) = true) ∧
      field (wait.bar (pbaReg 63)) (63 % 32) 1 = 1 ∧ wait.msixMasked 63 = false ∧ State.reset.host.ready = false ∧ booted.host.ready = true ∧
      runs .d0 { wait with host := { wait.host with d3 := true } } (fun t => t.out == [Out.msix 63 0 0] && !t.host.d3) = true ∧
      runs .d3hot wait (fun t => t.host.d3) = true ∧
      runs (.msixEntryWrite (hostWrite4 (msixReg 63 0xC) 0)) (wait.setBar (msixReg 63 0xC) 1) (fun t => t.out == [Out.msix 63 0 0]) = true ∧
      runs (.configurationRequest 0 none) State.reset (fun t => t.out == [Out.config true 0]) = true ∧
      runs (.configurationRequest 0 none) booted (fun t => t.out.length == 1) = true ∧
      runs (.configurationRequest 0x10 none) booted (fun t => t.out == [Out.config false 4]) = true ∧ (some (6 : Reg32)) ≠ none := by
  decide +kernel

/-- Refused writes: of three bytes, from a controller without the pen; an offset that has no register; limits of fields. -/
theorem wit_EndpointAndRegisters_writes :
    let w (who : Writer) (size : Nat) : BarWrite := { writer := who, offset := 0x20030, size := size, value := 5, fullBe := true }
    controlReg 0x20030 = true ∧ writerCode .mcA ≠ State.reset.penHolder ∧
      runs (.registerWrite (w .host 3)) State.reset (fun t => t.out == [Out.unsupported]) = true ∧
      runs (.registerWrite (w .mcA 4)) State.reset (fun t => t.bar 0x20030 == 0 && field (t.bar mgtErr) 1 1 == 1) = true ∧
      runs (.registerWrite (w .host 4)) State.reset (fun t => t.bar 0x20030 == 5) = true ∧
      runs (.registerWrite (hostWrite4 0x30808 7)) State.reset (fun t => t.ttlInit == 7) = true ∧
      runs (.registerWrite (hostWrite4 0x30808 7)) (stepAt 2 id) (fun t => t.ttlInit == (stepAt 2 id).ttlInit && t.bar 0x30808 == 7) = true ∧
      runs (.registerWrite (hostWrite4 0x10 249)) State.reset (fun t => t.bar 0x10 == 250) = true ∧
      runs (.registerWrite (hostWrite4 0x1000C 0x2EDF0000)) State.reset (fun t => field (t.bar 0x1000C) 16 16 == 12000) = true ∧
      runs (.registerWrite (hostWrite4 0xFFFFC 1)) State.reset (fun t => t == State.reset) = true := by
  decide +kernel

/-- Page 1 clears of region 47 in service: of a W1C bit, of an index without a register, and of a region out of service. -/
theorem wit_EndpointAndRegisters_page1 :
    let s := (((State.reset.updSvc 47 fun x => { x with inService := true }).setP1 47 14388 (wd (2 ^ 20 + 5))).setBar 0x20
      (BitVec.ofNat 32 (2 ^ 20 + 1))).setP1 47 14352 (wd (2 ^ 32))
    let send (r i : Nat) := Instr.p1clrSend (hostWrite4 0x24 (BitVec.ofNat 32 (i + r * 2 ^ 14 + 2 ^ 24)))
    (s.svc 47).inService = true ∧ p1Defined 14388 = true ∧ p1Defined 16383 = false ∧
      runs (send 47 14388) s (fun t => t.p1 47 14388 == 5) = true ∧
      runs (send 47 16383) s (fun t => field (t.bar 0x18) 20 3 == 3) = true ∧
      runs (send 46 14388) s (fun t => field (t.bar 0x18) 20 3 == 2 && field (t.bar 0x18) 0 20 == 0x24) = true ∧
      runs (.summaryClear (hostWrite4 (welReg 47 0x18) 9)) s (fun t => t.p1 47 14352 == 0 && t.p1 47 14388 == 5) = true ∧
      runs (.summaryRefresh 47) s (fun t => field (t.bar (welReg 47 8)) 17 1 == 1) = true ∧
      runs (.summaryRefresh 46) s (fun t => field (t.bar (welReg 46 8)) 17 1 == 0) = true := by
  decide +kernel

/-! ### Power, clocks and heat -/

/-- Region 0 is on, with its clusters, and die 0 in lock. -/
def powered : State :=
  let s := ((State.reset.setBar (pwrRegion 0) 2).setBar (pwrPll 0) 1).setBar (pwrCluster 19) 0xFF06
  { s with power := { s.power with connected := 1, feedA := true, feedB := true } }.updSvc 0 fun x => { x with inService := true }
def withPower (f : Power → Power) : State := { State.reset with power := f Power.reset }
/-- The codes of the events on their way to the host. -/
def codes (t : State) : List Nat := t.host.events.map fun e => e.code.toNat

theorem wit_PowerSources :
    let fed := withPower fun p => { p with connected := 1, feedA := true, service := true, heldOff := true }
    let fallen := withPower fun p => { p with service := true, heldOff := true }
    let ran := { powered with power := { powered.power with faultLog := List.range 64 } }
    State.reset.hasSource .feedB = false ∧ (fallen.power.feedA || fallen.power.feedB) ≠ fallen.power.service ∧ fed.hasSource .feedA = true ∧
      fed.hasSource .feedB = false ∧ fallen.power.connected = 0 ∧
      runs (.sourceConnect .feedB false) State.reset (fun t => t.power.connected == 1 && t.bar 0x10000 == 9) = true ∧
      runs (.sourceConnect .feedB true) State.reset (fun t => t.power.connected == 0 && codes t == [0x05B]) = true ∧
      runs (.sourceConnect .service false) powered (fun t => t.power.connected == 1 && t.power.heldOff) = true ∧
      runs .interlockRelease fallen (fun t => t.power.connected == 2 && !t.power.heldOff) = true ∧
      runs (.feedLoss .feedA) fed (fun t =>
        t.power.connected == 0 && t.power.faultLog == [0x505] && t.power.heldOff) = true ∧
      runs (.feedLoss .feedA) { fed with power := { fed.power with feedB := true } } (fun t =>
        !t.power.feedA && field (t.bar 0x10000) 0 3 == 0 && codes t == [0x050]) = true ∧
      runs (.feedRestore .feedB) fed (fun t => t.power.feedB && t.bar 0x10000 == 8 && codes t == [0x051]) = true ∧
      runs .bothFeedsLost ran (fun t => t.power.connected == 0 && t.power.faultLog == (List.range 64).drop 1 ++ [0x505]) = true ∧
      runs .serviceConnectorRemoval fed (fun t => t.power.connected == 1 && !t.power.heldOff) = true ∧
      runs .serviceConnectorRemoval (withPower fun p => { p with connected := 2, service := true }) (fun t =>
        t.power.connected == 0) = true := by
  decide +kernel

/-- Phases of cluster 19: the first, third and fourth to go (Table PWR-3). -/
theorem wit_RailsAndIsolation_phases :
    let s (v : Nat) := { powered with seq := { powered.seq with running := true } }.setBar (pwrCluster 19) (BitVec.ofNat 32 v)
    ((s 0xFF06).bar (pwrCluster 19)).getLsbD 15 = true ∧ field ((s 0xFF06).bar (pwrCluster 19)) 22 1 = 0 ∧ (s 0xFF06).workingPhases 19 = 8 ∧
      (s 0xFC06).workingPhases 19 = 6 ∧ (s 0xF806).workingPhases 19 = 5 ∧
      runs (.phaseLoss 19 7) (s 0xFF06) (fun t => codes t == [0x052] && t.bar (pwrCluster 19) == 0x7F06) = true ∧
      runs (.phaseLoss 19 7) (s 0xFC06) (fun t => (t.cluster 19).phaseFloor == 6 && codes t == [0x052, 0x053]) = true ∧
      runs (.phaseLoss 19 7) (s 0xF806) (fun t => field (t.bar (pwrCluster 19)) 22 1 == 1 && t.seq.reported.map (·.code) == [0x22C, 0x501] &&
        (t.region 0).epochWaits.any fun w => w.unit == 304 && w.column == 7) = true ∧
      runs (.droop 959) State.reset (fun t => field (t.bar (pwrCluster 959 + 4)) 16 8 == 1 && codes t == [0x059]) = true ∧
      runs (.droop 959) (State.reset.setBar pwrErr 1024) (fun t => codes t == []) = true := by
  decide +kernel

/-- Region 0 trips; its neighbour switches; the lock of die 0 and the reference are lost. -/
theorem wit_RailsAndIsolation_isolation :
    let low := (powered.updSvc 0 fun x => { x with isoLow := true }).setBar (pwrRegion 0) 3
    let all := (List.range 12).foldl (fun t d => t.setBar (pwrPll d) 1) powered
    powered.switchClosed 0 = true ∧ (low.svc 0).gated = false ∧ adjacent 1 0 = true ∧ (low.svc 1).gated = false ∧
      field (powered.bar (pwrPll 0)) 0 1 = 1 ∧ (∀ d < 12, field (all.bar (pwrPll d)) 0 1 = 1) ∧
      runs (.isolationTrip 0 true) powered (fun t => (t.svc 0).isoLow && t.regionState 0 == 3 && field (t.bar pwrErr) 4 2 == 3) = true ∧
      runs (.detourSwitch ⟨0, []⟩) low (fun t => (t.svc 0).gated && (t.region 1).portOff != 0 && (t.region 1).detour == some 0) = true ∧
      runs (.pllLockLoss (.lock 0)) powered (fun t => (t.svc 0).isoLow && t.regionState 0 == 5 && codes t == [0x504]) = true ∧
      runs (.pllLockLoss (.controller 0)) powered (fun t => (t.svc 0).isoLow && t.regionState 0 == 5 && codes t == []) = true ∧
      runs (.isolationSwitchOpen 0) (low.setBar (pwrRegion 0) 5) (fun t => (t.svc 0).switchOpen) = true ∧
      runs .referenceClockLoss all (fun t => (t.svc 0).withdrawn && (t.svc 0).gated) = true := by
  decide +kernel

/-- Readings of a cluster at T1, T2 and T3, and a well at its T2. -/
theorem wit_HeatPowerAndPlan_heat :
    let l (v : Nat) := [(Sensor.cluster 19, v), (Sensor.cluster 19, 40)]
    let hot := powered.updCluster 19 fun k => { k with thermalFloor := 5 }
    hotter (l 95) 19 = some 95 ∧ hotter (l 95) 0 = none ∧ wellReading [(Sensor.well, 95)] = some 95 ∧ (powered.cluster 19).floorStep = none ∧
      4 < (hot.cluster 19).thermalFloor ∧ hot.tenMsSince (hot.cluster 19).hotAt = true ∧
      hot.tenMsSince (hot.cluster 19).backAt = true ∧
      runs (.thermalReading 0 (l 94)) powered (fun t => (t.cluster 19).thermalFloor == 4 && field (t.bar (pwrCluster 19 + 4)) 0 8 == 94) = true ∧
      runs (.thermalReading 0 (l 95)) powered (fun t => (t.cluster 19).thermalFloor == 5 && codes t == [0x054]) = true ∧
      runs (.thermalReading 0 (l 105)) powered (fun t => t.t2Pending 0 && (t.svc 0).plannedWithdraw && t.divTarget 0 == 6) = true ∧
      runs (.thermalReading 0 (l 115)) powered (fun t => (t.svc 0).isoLow && t.regionState 0 == 4) = true ∧
      runs (.thermalReading 0 [(Sensor.well, 95)]) powered (fun t => t.t2Pending 0) = true ∧
      runs (.thermalStepBack 19) hot (fun t => (t.cluster 19).thermalFloor == 4 && codes t == [0x055]) = true := by
  decide +kernel

/-- The power cap of 12,000 W, with the pen held, at the margin of 1,000 W; the peak guard; a divider and a plan's inputs. -/
theorem wit_HeatPowerAndPlan_power :
    let s (floor : Nat) := { (powered.setBar 0x1000C 0x2EE00000).setBar 0x20000 1 with power := { powered.power with capFloor := floor } }
    let next := powered.updCluster 19 fun k => { k with newDiv := some 5 }
    (s 4).penHolder ≠ 0 ∧ (s 4).power.connected ≠ 0 ∧ 4 < (s 5).power.capFloor ∧ field ((s 5).bar 0x1000C) 16 16 = 12000 ∧
       (s 4).power.peakFloor ≠ 6 ∧ (next.cluster 19).newDiv = some 5 ∧ ([(19, (1 : Int), (2 : Int))].map (·.1)).Nodup ∧
      ¬(11000 + 1000 < field ((s 5).bar 0x1000C) 16 16) ∧ 10999 + 1000 < field ((s 5).bar 0x1000C) 16 16 ∧
      runs (.dividerChange 19) next (fun t => (t.cluster 19).div == 5 && field (t.bar (pwrCluster 19)) 0 3 == 5) = true ∧
      runs (.slackMeasurement 0 [(19, 1, 2)]) powered (fun t => (t.cluster 19).slackSpd == 2) = true := by
  decide +kernel

/-- A cluster that a plan plans for, and the premises of the free slack: the guard of 15 mV saturates at code 60 (R425). -/
theorem wit_HeatPowerAndPlan_plan :
    powered.planned 19 ∧ ¬powered.planned 20 ∧ min (58 + 3) 60 = 60 ∧ powered.seq.running = false ∧ powered.t2Pending (19 / 20) = false ∧
      (powered.svc (19 / 20)).inService = true := by
  unfold State.planned; decide +kernel

/-! ### Management -/

/-- MC-A holds the pen with generation 7 and MC-B follows. -/
def penned : State :=
  (((State.reset.setPen 1 7).setMcState 1 4).setMcState 2 3).readPen.updMgmt fun m => { m with sample := some 0 }
/-- R434: a compare-and-set that finds its value, one that does not, and one to none. -/
theorem wit_PenAndBoot_pen :
    let missed := penned.setBar 0x20004 (BitVec.ofNat 32 (2 * 2 ^ 16))
    let none' := penned.setPen 0 9
    penned.penHolder = 1 ∧ penned.penGen = 7 ∧ penned.follows 1 2 ∧ missed.follows 1 2 ∧ (penned.setMcState 2 5).mcState (3 - 1) ≠ 3 ∧
      none'.penHolder = 0 ∧ none'.mcState 2 = 3 ∧
      runs (.penCompareAndSet .mcB 1 7 2) penned (fun t => t.penHolder == 2 && t.penGen == 8 && t.mcState 2 == 4 && t.mcState 1 == 3) = true ∧
      runs (.penCompareAndSet .mcB 1 6 2) penned (fun t => t.bar 0x20000 == penned.bar 0x20000 && t.out == [Out.pen (penned.bar 0x20000)]) = true ∧
      runs .heartbeat (penned.setBar 0x20004 0xFFFF) (fun t => field (t.bar 0x20004) 0 16 == 0) = true ∧
      runs .heartbeat (penned.setMcState 2 5) (fun t => t.mcState 2 == 3) = true ∧
      missed.mgmt.sample = some (BitVec.ofNat 16 (field (missed.bar 0x20004) 0 16)) ∧ missed.mgmt.seenPen = missed.bar 0x20000 ∧
      (penned.setPen 1 8).mgmt.seenPen ≠ (penned.setPen 1 8).bar 0x20000 ∧
      runs .heartbeatSample (missed.setPen 1 8) (fun t => t.penHolder == 1 && t.mgmt.seenPen == t.bar 0x20000 && t.mcState 2 == 3) = true ∧
      runs .heartbeatSample penned (fun t => field (t.bar 0x20004) 16 2 == 1 && t.penHolder == 1) = true ∧
      runs .heartbeatSample missed (fun t => t.penHolder == 2 && t.penGen == 8 && codes t == [0x060]) = true ∧
      runs .heartbeatSample (missed.setBar 0x20004 (BitVec.ofNat 32 (2 * 2 ^ 16 + 1))) (fun t => t.bar 0x20004 == 1 && t.mgmt.sample == some 1) = true ∧
      runs .penRelease penned (fun t => t.penHolder == 2 && t.penGen == 9 && codes t == [0x062]) = true ∧
      runs .penRelease (penned.setMcState 2 5) (fun t => t.penHolder == 1) = true ∧
      runs (.penNoneTimeout .mcB) none' (fun t => t.penHolder == 2 && t.penGen == 10) = true := by
  unfold State.follows; decide +kernel

/-- The identity record of region 0: sixteen zero octets, and the SHA-256 digest of those and of serial number 77 (computed outside the
model). -/
def record0 : BitVec 512 := BitVec.ofNat 512 (0x64e154164977425fa63cb81835d4304b2b8fe19bf681bdf903c502c19254d1cd * 2 ^ 128)
def facts : BootFacts :=
  { imageA := true, imageB := true, activeA := true, activeB := true, factoryOk := true, identityDerived := true
    identityMatch := true, stepping := 0, detClassA := 5, detClassB := 5, fwRelease := 3, serial := 77, railOk := 1, lockOk := 1
    ident := [(0, record0, [])], trained := [], spareRows := [], retired := [], plan := [], phases := [], wires := [] }

/-- Boots that halt at step 1 with the lowest code that applies; a boot that brings region 0 up. -/
theorem wit_PenAndBoot_boot :
    let s := withPower fun p => { p with connected := 1 }
    let none' := { facts with imageA := false, imageB := false, factoryOk := false }
    let bad := { facts with factoryOk := false, identityMatch := false }
    s.power.connected ≠ 0 ∧ s.ready = false ∧ bootHaltCode none' = some 0x601 ∧ bootHaltCode bad = some 0x602 ∧ (s.svc 0).retired = false ∧ s.onService = false ∧ (s.svc 0).isoLow = false ∧ facts.railOk.getLsbD 0 = true ∧
      s.seqIdle = true ∧ powered.regionState 0 = 2 ∧ (stepAt 2 id).seqIdle = false ∧ s.noted 5 = [] ∧
      runs (.boot bad) s (fun t => field (t.bar 0x20010) 4 12 == 0x602 && field (t.bar 0x20010) 16 1 == 1 && !t.ready) = true ∧
      runs (.warmReset facts) (stepAt 2 id) (fun t => t.seq.phase == 2) = true ∧
      runs (.warmReset bad) s (fun t => field (t.bar 0x20010) 4 12 == 0x602 && !t.mgmt.identity) = true := by
  decide +kernel

/-- Region 0 is one that a boot brings up, and region 4, whose die does not lock, is not. -/
theorem wit_PenAndBoot_bootsRegion : bootsRegion facts 0 ∧ ¬bootsRegion facts 4 := by
  refine ⟨⟨by decide, by decide, by decide, ⟨record0, rfl, by decide +kernel⟩, by simp [facts]⟩, fun h => ?_⟩
  exact absurd h.2.2.1 (by decide)

/-- R50: the spare of a row serves the column that failed first. -/
theorem test_boot_row_maps : rowMapFor [2] = 0o23410 ∧ rowMapFor [] = 0o3210 ∧ rowMapFor [2, 0] = 0o23417 ∧ rowMapFor [4] = 0o33210 := by
  decide +kernel

/-- MC-B in ROM recovery: an image of three octets in two chunks. -/
theorem wit_FlashRecoveryAndUpdate_recovery :
    let s := State.reset.setMcState 2 6
    let s1 := s.setRecovery 2 { Recovery.reset with state := 1, length := 3 }
    let s2 := s.setRecovery 2 { Recovery.reset with state := 1, length := 3, octets := [1, 2] }
    let s3 := s.setRecovery 2 { Recovery.reset with state := 1, length := 3, octets := [1, 2, 3] }
    s.mcState (writerCode .mcB) = 6 ∧ (s2.recovery 2).octets.length = 2 ∧ (s3.recovery 2).octets.length = (s3.recovery 2).length ∧
      runs (.recoveryStatus .mcB) s2 (fun t => t.out == [Out.mctp [1, 2, 0, 0, 0, 0, 0]]) = true ∧
      runs (.recoveryBegin .mcB 134217728) s (fun t => (t.recovery 2).state == 1) = true ∧
      runs (.recoveryBegin .mcB 134217729) s (fun t => (t.recovery 2).state == 0 && t.out == [Out.mctp [0x0C, 6]]) = true ∧
      runs (.recoveryData .mcB 0 [1, 2]) s1 (fun t => (t.recovery 2).octets == [1, 2]) = true ∧
      runs (.recoveryData .mcB 2 [3, 4]) s2 (fun t => (t.recovery 2).octets == [1, 2] && (t.recovery 2).status == 0x60C) = true ∧
      runs (.recoveryCommit .mcB true) s3 (fun t => t.mcState 2 == 1 && (t.flash 2).trial) = true ∧
      runs (.recoveryCommit .mcB false) s3 (fun t => (t.recovery 2).state == 4) = true ∧
      runs (.recoveryAbort .mcB) s3 (fun t => (t.recovery 2).state == 0) = true := by
  decide +kernel

theorem wit_FlashRecoveryAndUpdate_update :
    let g : Image := { release := 1, detClass := 2, digest := 3, octets := [4] }
    let staged := penned.updMgmt fun m => { m with staged := some g }
    let trial := State.reset.updFlash 2 fun x => { x with trial := true }
    staged.penHolder ≠ 0 ∧ penned.updatable = true ∧ State.reset.updatable = false ∧ staged.mgmt.staged.isSome = true ∧ trial.ready = false ∧
      (trial.flash (writerCode .mcB)).trial = true ∧
      runs (.stage [4] 1 2 true) penned (fun t => t.mgmt.staged.map (·.octets) == some [4] && (t.flash 2).imageB.isSome && codes t == [0x066]) =
        true ∧
      runs (.stage [4] 1 2 false) penned (fun t => field (t.bar 0x2003C) 5 12 == 0x607 && t.mgmt.staged.isNone) = true ∧
      runs (.stage [4] 1 2 true) State.reset (fun t => field (t.bar 0x2003C) 5 12 == 0x608) = true ∧
      runs .activate staged (fun t => (t.flash 1).active && (t.flash 2).trial && t.mcState 1 == 1) = true ∧
      runs .activate State.reset (fun t => field (t.bar 0x2003C) 5 12 == 0x608) = true ∧
      runs .cancel staged (fun t => t.mgmt.staged.isNone) = true ∧
      runs (.trialTimeout .mcB) trial (fun t => (t.flash 2).revert) = true := by
  decide +kernel

theorem wit_FlashRecoveryAndUpdate_notes :
    (penned.penHolder = 1 ∨ penned.penHolder = 2) ∧ penned.mcState (3 - penned.penHolder) = 3 ∧
      (penned.setMcState 2 5).mcState (3 - penned.penHolder) ≠ 3 ∧
      writerCode .mcA = penned.penHolder ∧ writerCode .mcB ≠ penned.penHolder ∧
      runs (.flashRecordWrite ⟨.mcB, 0x10⟩ [9, 0] true) penned (fun t => (t.flash 1).notes == [] && codes t == [0x061]) = true ∧
      runs (.flashRecordWrite ⟨.mcA, 0x10⟩ [9, 0] true) penned (fun t => (t.flash 1).notes.map (·.seq) == [1] && (t.flash 2).notes.length == 1) = true ∧
      runs (.flashRecordWrite ⟨.mcA, 0x10⟩ [9, 0] false) penned (fun t => (t.flash 1).retiredBlocks == 1 && codes t == [0x609]) = true := by
  decide +kernel

/-- The connection at each stage: a request that comes too early, the first one, and the sessions. -/
theorem wit_AttestationResponses :
    let at' (n : Nat) := penned.updMgmt fun m => { m with spdm := { m.spdm with stage := n } }
    let open' := penned.updMgmt fun m => { m with spdm := { m.spdm with stage := 3, session := true } }
    let safe := penned.updMgmt fun m => { m with spdm := { m.spdm with stage := 3, session := true, secured := true } }
    let ended := penned.updMgmt fun m => { m with spdm := { m.spdm with resynch := true } }
    penned.penHolder ≠ 0 ∧ spdmRow (.getDigests) 3 ∧ (at' 2).mgmt.spdm.stage < 3 ∧ (at' 3).mgmt.spdm.session = false ∧
      (16 : Nat).testBit 4 = true ∧ (1 : Nat).testBit 0 = true ∧ open'.mgmt.spdm.secured = false ∧
      (at' 2).mgmt.spdm.resynch = false ∧ ended.mgmt.spdm.resynch = true ∧
      runs .getDigests ended (fun t => t.out == [Out.spdm 0x7F [0x43]] && t.mgmt.spdm.resynch) = true ∧
      runs .getVersion ended (fun t => t.mgmt.spdm.stage == 1 && !t.mgmt.spdm.resynch) = true ∧
      runs .getDigests (at' 2) (fun t => t.out == [Out.spdm 0x7F [4]]) = true ∧
      runs .getVersion (at' 3) (fun t => t.out == [Out.spdm 4 [0, 1, 0, 0x12]] && t.mgmt.spdm.stage == 1) = true ∧
      runs .getCapabilities (at' 1) (fun t => t.mgmt.spdm.stage == 2) = true ∧
      runs (.negotiateAlgorithms 16 1) (at' 2) (fun t => t.mgmt.spdm.stage == 3) = true ∧
      runs (.negotiateAlgorithms 16 2) (at' 2) (fun t => t.out == [Out.spdm 0x7F [1]]) = true ∧
      runs (.getCertificate 1 0 8) (at' 3) (fun t => t.out == [Out.spdm 0x7F [1]]) = true ∧
      runs (.challenge 7 0) (at' 3) (fun t => t.out == [Out.spdm 0x7F [1]]) = true ∧
      runs (.getMeasurements 0) (at' 3) (fun t => t.out == [Out.spdm 0x60 [6]]) = true ∧
      runs (.getMeasurements 7) (at' 3) (fun t => t.out == [Out.spdm 0x7F [1]]) = true ∧
      runs (.keyExchange 0) (at' 3) (fun t => t.mgmt.spdm.session && !t.mgmt.spdm.secured) = true ∧
      runs (.finish true) (at' 3) (fun t => t.out == [Out.spdm 0x7F [4]]) = true ∧
      runs (.finish true) open' (fun t => t.mgmt.spdm.secured) = true ∧
      runs (.finish false) open' (fun t => !t.mgmt.spdm.session) = true ∧
      runs (.ideKmRequest [2, 8]) open' (fun t => t.out == [Out.spdm 0x7F [4]]) = true ∧
      runs (.ideKmRequest [2, 8]) safe (fun t => t.mgmt.spdm.ideKeys == [[8]]) = true ∧
      runs (.ideKmRequest [4]) safe (fun t => !t.mgmt.spdm.ideActive) = true := by
  refine ⟨by decide, Or.inr (Or.inr (Or.inr (Or.inl ⟨rfl, rfl⟩))), ?_⟩
  decide +kernel

/-! ### Step, reset, well-formed commands -/

/-- A queue of two commands, and an empty one. -/
theorem wit_StepRunsFrontCommand :
    let s := { State.reset with pending := [.heartbeat, .refresh 0 0 0 0] }
    s.pending = .heartbeat :: [.refresh 0 0 0 0] ∧ State.reset.pending = [] ∧
      (match step s with | .next t => t.pending == [.refresh 0 0 0 0] | _ => false) = true ∧
      (match step State.reset with | .next t => t == { State.reset with root := 1 } | _ => false) = true := by
  decide +kernel

/-- A state in which rows of units and wells are listed and commands wait. -/
theorem wit_StepKeepsInvariant :
    let s := { (cellAt 5 fullCell).updWell 3 (fun x => { x with rows := [(79, 6)] }) with pending := [.take (accBy 8 320), .heartbeat] }
    s.Inv ∧ s.goesOn := by
  refine ⟨⟨by decide +kernel, ?_⟩, ?_⟩
  · unfold State.canonical; decide +kernel
  · exact ⟨_, rfl⟩

/-- One ill-formed command for each check: the number beyond the last structure. -/
theorem test_ill_formed_numbers :
    [Instr.go 15360, .strayPop 48, .droop 960, .pllLockLoss (.lock 12), .replayTimeout 24, .start 32, .spareWake 0 80, .streamRow 0 80 [],
      .streamStart 0 64, .overhold 0 16, .snapshotGranule 4096, .completionPut 0 3, .verifyRead 0 81920 .clean, .refresh 0 16 0 0,
      .refresh 0 0 2 0, .refresh 0 0 0 32, .dryNib 0 43 0 0, .dryNib 0 0 8 0, .dryNib 0 0 0 4, .linkStarvation 0 8, .laneLockLoss 0 9,
      .peerLossTimeout 4096, .phaseLoss 0 8].all (fun c => !c.wf) = true := by
  decide +kernel

theorem test_ill_formed_fields :
    let x : Issue := { unit := 0, hand := 8, held := 0, fetch := .clean, credit := true, ecc := .clean }
    let m := msgTo 0 3 0 1 5 0 [] []
    let c (f : Msg) := Instr.syncAdd ⟨f, []⟩
    (Instr.add x).wf = false ∧ (Instr.take { accBy 8 320 with port := 11 }).wf = false ∧
      (Instr.take { accBy 8 320 with wide := false }).wf = false ∧ (Instr.take { accBy 6 320 with wide := true }).wf = false ∧
      (Instr.take { accBy 8 320 with offset := 4194304 }).wf = false ∧ (c { m with dstRegion := 48 }).wf = false ∧
      (c { m with dstUnit := 320 }).wf = false ∧ (c { m with vc := 4 }).wf = false ∧ (c { m with type := 64 }).wf = false ∧
      (c { m with akind := 4 }).wf = false ∧ (c { m with dstKind := 8 }).wf = false ∧ (c { m with srcUnit := 16384 }).wf = false ∧
      (c { m with words := List.replicate 12 0 }).wf = false ∧ (c { m with body := List.replicate 9 0 }).wf = false ∧
      (c { m with vc := 0, body := [0] }).wf = false ∧ (Instr.epochUpdate 1008 ⟨m, []⟩).wf = false ∧
      (Instr.epochUpdate 0 ⟨{ m with words := [0, 0, 15360] }, []⟩).wf = false ∧
      (Instr.idle 0 { header := 0, payload := [], errors := [] }).wf = false ∧
      (Instr.idle 0 { header := 0, payload := List.replicate 8 0, errors := [(640, 1)] }).wf = false ∧
      (Instr.weightPacket 0 (2 ^ 24) ⟨0, 0⟩ []).wf = false ∧ (Instr.weightPacket 0 0 ⟨0, 49049⟩ []).wf = false ∧
      (Instr.reductionContribution (.clusterRouter 960) m []).wf = false ∧
      (Instr.selfTestResult { code := 6, region := 0, target := 15360, part := 0 } ⟨true, [], []⟩).wf = false := by
  decide +kernel

/-! ### Results that the spec works out -/

/-- "Worked addresses" of spec/02: scratchpad offset 1,000,000 of unit 7,304, and nonet 300 of granule 1,000 of region 22; the wafer
address of "Worked staging copy" in spec/14. -/
theorem test_worked_addresses :
    waScratch 7304 1000000 = 0o0000344203641100 ∧ waWell 22 1000 + 300 = 0o2260000017500454 ∧
      waWell 0 60000000 = 0o2003447034000000 := by
  decide +kernel

/-- "Worked set-up" of spec/17: steps 11 and 10 swapped are refused with the offset 0x1014 and reason 1. -/
theorem test_worked_setup :
    let w (off size : Nat) (v : BitVec 64) : BarWrite := { writer := .host, offset := off, size := size, value := v, fullBe := true }
    runs (.registerWrite (w 0x40 8 0x00007F4010014001)) State.reset (fun t => t.dbEnabled 0 && t.dbBase 0 == 0x00007F4010014000) = true ∧
      runs (.ringEnable (w 0x1010 4 0x000200A9)) State.reset (fun t => t.ringSize 0 == 1024 && t.ringState 0 == 1 &&
        runs (.registerWrite (w 0x1014 4 0x14)) t (fun u => field (u.bar 0x18) 0 20 == 0x1014 && field (u.bar 0x18) 20 3 == 1 &&
          field (u.bar 0x14) 2 1 == 1)) = true ∧
      runs (.eventRingEnable (w 0x1808 4 0x001FF091)) State.reset (fun t => t.evtSize 0 == 256 && t.evtMasked 0 0x809 &&
        runs (.registerWrite (w 0x1808 4 0x00030091)) t (fun u => u.evtMasked 0 0x505 && !u.evtMasked 0 0x809 && !u.evtMasked 0 0x050)) =
        true := by
  decide +kernel

/-- Table FLT-8: unit 7,304 retires, and unit 7,306 becomes absent while the spare fills. -/
theorem test_worked_row_map :
    let wait (u c : Nat) (sp : Option (Nat × Nat)) : EpochWait := { unit := u, rowMap := rowMapIndex u, column := c, spare := sp }
    let s := State.reset.retireUnit 7304 0x223
    (s.region 22).epochWaits = [wait 7304 4 (some (1, 0))] ∧ s.epoch 7304 = 1 ∧
      (let t := s.applyWait (wait 7304 4 (some (1, 0)))
       t.p1 22 66 = 0o13214 ∧ ((t.applyWait (wait 7306 7 none)).applyWait (wait 7304 4 (some (2, 0)))).p1 22 66 = 0o23714) := by
  decide +kernel

end Sys2Proof.Tests
end

/-! PROOFS. The exact accumulator (R33, R38, R136): a term adds its increment to the 108 bits and its mark to the side
bits, so any two terms may enter in either order. -/

namespace Sys2Proof.Num

/-- The A-increment of a term (R32): 0 for a non-finite one, which leaves the 108 bits (R38). -/
def Val.exactIncrement : Val → BitVec 108
  | .fin n m e => BitVec.ofInt 108 (scaled n m (e + 40) 0)
  | _ => 0

/-- The side bit that a term sets (R38): none for a finite one. -/
def Val.sideMark : Val → BitVec 3
  | .nan => 4
  | .inf false => 1
  | .inf true => 2
  | .fin _ _ _ => 0

theorem Acc.addExact_eq (acc : Acc) (t : Val) :
    acc.addExact t = ⟨acc.bits + t.exactIncrement, acc.side ||| t.sideMark⟩ := by
  match t with
  | .nan | .inf false | .inf true | .fin _ _ _ =>
    simp [Acc.addExact, Acc.mark, Val.exactIncrement, Val.sideMark]

theorem Acc.addExact_right_comm (acc : Acc) (t t' : Val) :
    (acc.addExact t).addExact t' = (acc.addExact t').addExact t := by
  have hbits : acc.bits + t.exactIncrement + t'.exactIncrement =
      acc.bits + t'.exactIncrement + t.exactIncrement := add_right_comm _ _ _
  have hside : acc.side ||| t.sideMark ||| t'.sideMark = acc.side ||| t'.sideMark ||| t.sideMark := by
    rw [BitVec.or_assoc, BitVec.or_comm t.sideMark, ← BitVec.or_assoc]
  simp only [Acc.addExact_eq, hbits, hside]

end Sys2Proof.Num

namespace Sys2Proof.Machine

open Sys2Proof.Num

/-- A column of operand pairs is the left fold of its terms (R137). -/
theorem mxColumn_map_eq_foldl (mode : Nat) (k : Kind) (acc : Acc) (l : List (Val × Val)) :
    mxColumn mode k acc (l.map Prod.fst) (l.map Prod.snd) =
      l.foldl (fun acc p => mxAdd k acc (mxTerm mode p.1 p.2)) acc := by
  induction l generalizing acc with
  | nil => rfl
  | cons p l ih => exact ih (mxAdd k acc (mxTerm mode p.1 p.2))

/-- Settles O23: the column is a fold of exact additions, and any two of these commute. -/
theorem exactSumIndependentOfOrder : Obligations.ExactSumIndependentOfOrder := by
  intro mode acc l l' hperm
  rw [mxColumn_map_eq_foldl, mxColumn_map_eq_foldl]
  exact hperm.foldl_eq' (fun _ _ _ _ acc => acc.addExact_right_comm _ _) acc

end Sys2Proof.Machine

/-! PROOFS. Cold reset: what each register of a family reads before anything is written (R44, R49, R400, Tables HST-3, LNK-8, PWR-7). -/

namespace Sys2Proof.Machine

/-! ### Reset values of registers by their place -/

theorem barReset_msix {v : Nat} (hv : v < 64) : barReset (msixReg v 0xC) = 1 := by
  have h : 0x8000 ≤ msixReg v 0xC ∧ msixReg v 0xC < 0x8400 ∧ msixReg v 0xC % 16 = 12 := by
    unfold msixReg; omega
  unfold barReset
  rw [if_neg (by omega), if_neg (by omega), if_pos h]

theorem barReset_pwrCluster {c : Nat} (hc : c < 960) : barReset (pwrCluster c) = 6 := by
  have h : 0x11000 ≤ pwrCluster c ∧ pwrCluster c < 0x12E00 ∧ pwrCluster c % 8 = 0 := by
    unfold pwrCluster; omega
  unfold barReset
  rw [if_neg (by omega), if_neg (by omega), if_neg (by omega), if_neg (by omega), if_pos h]

/-- A register of the host rings, of the event rings, or of a region's power resets to 0. -/
theorem barReset_eq_zero {o : Nat} (h : 0x1000 ≤ o ∧ o < 0x8000 ∨ 0x10010 ≤ o ∧ o < 0x11000) : barReset o = 0 := by
  unfold barReset
  rw [if_neg (by omega), if_neg (by omega), if_neg (by omega), if_neg (by omega), if_neg (by omega), if_neg (by omega),
    if_neg (by omega), if_neg (by omega)]

theorem barReset_lnkState {l : Nat} (hl : l < 24) : barReset (lnkReg l 4) = 0 := by
  have h : lnkReg l 4 % 64 = 4 ∧ 0x30000 ≤ lnkReg l 4 ∧ lnkReg l 4 < 0x30600 := by unfold lnkReg; omega
  unfold barReset
  rw [if_neg (by omega), if_neg (by omega), if_neg (by omega), if_neg (by omega), if_neg (by omega), if_neg (by omega),
    if_neg (by omega), if_neg (by omega)]

theorem barReset_lnkLanemap {l : Nat} (hl : l < 24) : barReset (lnkReg l 8) = 0x76543210 := by
  have h : 0x30000 ≤ lnkReg l 8 ∧ lnkReg l 8 < 0x30600 ∧ lnkReg l 8 % 64 = 8 := by unfold lnkReg; omega
  unfold barReset
  rw [if_neg (by omega), if_neg (by omega), if_neg (by omega), if_neg (by omega), if_neg (by omega), if_neg (by omega),
    if_pos h]

theorem rowMapIndex_lt (u : Nat) : rowMapIndex u < 80 := by unfold rowMapIndex; omega

/-- Each field of a row map's reset value names its own column (R49). -/
theorem field_rowMap_reset {k : Nat} (hk : k < 4) : field (0o3210 : Word) (3 * k) 3 = k := by
  revert k; decide

@[simp] theorem State.reset_bar (o : Nat) : State.reset.bar o = barReset o := rfl
@[simp] theorem State.reset_p1 (r i : Nat) : State.reset.p1 r i = p1Reset i := rfl

theorem State.reset_column (u : Nat) : State.reset.column u = u % 4 := by
  have h : p1Reset (rowMapIndex u) = 0o3210 := if_pos (rowMapIndex_lt u)
  rw [State.column, State.reset_p1, h, field_rowMap_reset (Nat.mod_lt u (by decide))]

theorem State.reset_aclkOf (c : Nat) : State.reset.aclkOf c = 0 := by
  simp [State.aclkOf, State.reset, State.cluster, Cluster.reset, Cluster.cycles]

theorem State.reset_inv : State.reset.Inv :=
  ⟨rfl, rfl, rfl, rfl, rfl, rfl, rfl, rfl, rfl, List.forall_mem_nil _, List.forall_mem_nil _⟩

/-- Settles O59: an unlisted key reads as its reset value, so each register of a family reads the value of its place in the table. -/
theorem coldReset : Obligations.ColdReset := by
  refine ⟨fun _ _ => ⟨rfl, rfl, rfl⟩, fun _ _ => rfl, fun u _ => State.reset_column u, fun u => ?cycle,
    fun _ => ⟨rfl, rfl, rfl, rfl⟩, rfl, rfl, rfl, fun v hv => ?msix, fun q hq => ?ring, fun e he => ?evt, rfl, rfl,
    fun r hr => ?region, fun c hc => ⟨?cluster, rfl⟩, rfl, rfl, rfl, rfl, fun l hl => ⟨?link, barReset_lnkLanemap hl⟩,
    rfl, rfl, State.reset_inv⟩
  case cycle => simp [State.cycle, State.reset_aclkOf]
  case msix => simp [State.msixMasked, barReset_msix hv, field]
  case ring => simp [State.ringEnabled, barReset_eq_zero (o := ringReg q 0x10) (by unfold ringReg; omega), field]
  case evt => simp [State.evtEnabled, barReset_eq_zero (o := evtReg e 8) (by unfold evtReg; omega), field]
  case region => simp [State.regionState, barReset_eq_zero (o := pwrRegion r) (by unfold pwrRegion; omega), field]
  case cluster => simp [barReset_pwrCluster hc, field]
  case link => simp [State.lnkState, barReset_lnkState hl, field]

end Sys2Proof.Machine

/-! PROOFS. Fields of words: what a field that is put or bumped reads, and what it leaves of the others (R93). -/

namespace Sys2Proof.Machine

/-! ### Bits of a word -/

variable {n : Nat} (w : BitVec n)

theorem testBit_field (lo len i : Nat) : (field w lo len).testBit i = (decide (i < len) && w.getLsbD (lo + i)) := by
  rw [field, Nat.testBit_mod_two_pow, Nat.testBit_shiftRight]; rfl

theorem field_lt (lo len : Nat) : field w lo len < 2 ^ len := Nat.mod_lt _ (Nat.two_pow_pos len)

theorem getLsbD_putField (lo len v i : Nat) : (putField w lo len v).getLsbD i =
    if lo ≤ i ∧ i < lo + len then decide (i < n) && v.testBit (i - lo) else w.getLsbD i := by
  simp only [putField, BitVec.getLsbD_or, BitVec.getLsbD_and, BitVec.getLsbD_not, BitVec.getLsbD_ofNat,
    Nat.testBit_shiftLeft, Nat.testBit_two_pow_sub_one, Nat.testBit_mod_two_pow]
  by_cases hn : i < n
  · by_cases hlo : lo ≤ i
    · by_cases hlen : i - lo < len
      · have : i < lo + len := by omega
        simp [*]
      · have : ¬ i < lo + len := by omega
        simp [*]
    · simp [*]
  · simp [hn, BitVec.getLsbD_of_ge w i (Nat.le_of_not_lt hn)]

/-- A field of a word reads what was put there. -/
theorem field_putField_same {lo len : Nat} (v : Nat) (h : lo + len ≤ n) : field (putField w lo len v) lo len = v % 2 ^ len := by
  refine Nat.eq_of_testBit_eq fun i => ?_
  rw [testBit_field, getLsbD_putField, Nat.testBit_mod_two_pow]
  by_cases hi : i < len
  · rw [if_pos (by omega)]; simp [hi, show lo + i < n by omega]
  · simp [hi]

/-- A field that is put leaves every field beside it. -/
theorem field_putField_other {lo len lo' len' : Nat} (v : Nat) (h : lo' + len' ≤ lo ∨ lo + len ≤ lo') :
    field (putField w lo len v) lo' len' = field w lo' len' := by
  refine Nat.eq_of_testBit_eq fun i => ?_
  rw [testBit_field, testBit_field, getLsbD_putField]
  by_cases hi : i < len'
  · rw [if_neg (by omega)]
  · simp [hi]

/-- A counter that is bumped goes up by one and saturates (R93). -/
theorem field_bumpField_same {lo len : Nat} (h : lo + len ≤ n) :
    field (bumpField w lo len) lo len = min (field w lo len + 1) (2 ^ len - 1) := by
  unfold bumpField
  have hlt := field_lt w lo len
  split
  · rw [field_putField_same _ _ h, Nat.mod_eq_of_lt (by assumption)]; omega
  · omega

theorem field_bumpField_other {lo len lo' len' : Nat} (h : lo' + len' ≤ lo ∨ lo + len ≤ lo') :
    field (bumpField w lo len) lo' len' = field w lo' len' := by
  unfold bumpField
  split
  · exact field_putField_other w _ h
  · rfl

/-- A field inside one that is put. -/
theorem field_putField_inside {lo len lo' len' : Nat} (v : Nat) (h : lo ≤ lo') (h' : lo' + len' ≤ lo + len) (hn : lo + len ≤ n) :
    field (putField w lo len v) lo' len' = v / 2 ^ (lo' - lo) % 2 ^ len' := by
  refine Nat.eq_of_testBit_eq fun i => ?_
  rw [testBit_field, getLsbD_putField, Nat.testBit_mod_two_pow, Nat.testBit_div_two_pow]
  by_cases hi : i < len'
  · rw [if_pos (by omega)]
    simp [hi, show lo' + i < n by omega, show lo' + i - lo = i + (lo' - lo) by omega]
  · simp [hi]

theorem field_ofNat {x lo len : Nat} (h : lo + len ≤ n) : field (BitVec.ofNat n x) lo len = x / 2 ^ lo % 2 ^ len := by
  refine Nat.eq_of_testBit_eq fun i => ?_
  rw [testBit_field, BitVec.getLsbD_ofNat, Nat.testBit_mod_two_pow, Nat.testBit_div_two_pow, Nat.add_comm lo i]
  by_cases hi : i < len
  · simp [hi, show i + lo < n by omega]
  · simp [hi]

theorem getLsbD_bumpField {lo len i : Nat} (h : i < lo ∨ lo + len ≤ i) : (bumpField w lo len).getLsbD i = w.getLsbD i := by
  unfold bumpField
  split
  · rw [getLsbD_putField, if_neg (by omega)]
  · rfl

end Sys2Proof.Machine

/-! PROOFS. Region events, the arrival of a message without a flit error, role epochs and row maps (spec/02, spec/08). -/

namespace Sys2Proof.Machine

variable (s : State)

/-! ### A region's event (R56) -/

@[simp] theorem State.raise_p1 (r code subject detail r' i : Nat) :
    (s.raise r code subject detail).p1 r' i = (s.ringWrite r srcRegion code subject detail).p1 r' i := by
  rw [State.p1, State.p1, State.region, State.region, State.raise_regions]

theorem State.ringSlot_lt (r : Nat) : s.ringSlot r < 128 := field_lt _ 0 7

/-- An event leaves every page 1 register but those of its region's ring. -/
theorem State.raise_p1_other {r code subject detail r' i : Nat} (h : r' ≠ r ∨ ringIndex i = false) :
    (s.raise r code subject detail).p1 r' i = s.p1 r' i := by
  rw [State.raise_p1, State.ringWrite_p1_other s h (s.ringSlot_lt r)]

/-- The head word of a record, by its fields (Table ORG-10). -/
theorem field_recordHead (code subject : Nat) :
    let w := wd (code % 4096 + subject % 16384 * 2 ^ 12 + srcRegion * 2 ^ 26 + 2 ^ 29)
    field w 0 12 = code % 4096 ∧ field w 12 14 = subject % 16384 ∧ field w 26 3 = 0 ∧ field w 29 1 = 1 := by
  have hcode := Nat.mod_lt code (show 0 < 4096 by decide)
  have hsub := Nat.mod_lt subject (show 0 < 16384 by decide)
  refine ⟨?_, ?_, ?_, ?_⟩ <;> rw [field_ofNat (by decide), srcRegion] <;> omega

/-- What the slot of a record holds after it is written, and the slot that comes next. -/
theorem State.ringWrite_slot (r src code subject detail : Nat) :
    let t := s.ringWrite r src code subject detail
    let i := 5632 + 4 * s.ringSlot r
    t.p1 r i = wd (code % 4096 + subject % 16384 * 2 ^ 12 + src * 2 ^ 26 + 2 ^ 29) ∧
      t.p1 r (i + 1) = s.seq.sched.step.setWidth 36 ∧ t.p1 r (i + 3) = wd detail ∧
      t.ringSlot r = (s.ringSlot r + 1) % 128 := by
  have hslot := s.ringSlot_lt r
  simp only [State.ringWrite, State.ringSlot] at hslot ⊢
  generalize hk : field (s.p1 r 5574) 0 7 = k at hslot
  refine ⟨?head, ?step, State.p1_setP1_same .., ?next⟩
  case head =>
    rw [State.p1_setP1_other _ _ (.inr (by omega)), State.p1_setP1_other _ _ (.inr (by omega)),
      State.p1_setP1_other _ _ (.inr (by omega)), State.p1_setP1_same]
  case step =>
    rw [State.p1_setP1_other _ _ (.inr (by omega)), State.p1_setP1_other _ _ (.inr (by omega)), State.p1_setP1_same]
  case next =>
    rw [State.p1_setP1_other _ _ (.inr (by omega)), State.p1_setP1_other _ _ (.inr (by omega)),
      State.p1_setP1_other _ _ (.inr (by omega)), State.p1_setP1_other _ _ (.inr (by omega)), State.p1_updP1_same,
      field_putField_same _ _ (by decide)]
    rfl

/-- A region's event is recorded in its ring. -/
theorem State.raise_tookRecord (r code subject detail : Nat) :
    tookRecord r (code % 4096) (subject % 16384) (wd detail) s (s.raise r code subject detail) := by
  obtain ⟨hhead, hstep, hdetail, hnext⟩ := s.ringWrite_slot r srcRegion code subject detail
  obtain ⟨hcode, hsubject, hsrc, hvalid⟩ := field_recordHead code subject
  rw [← hhead] at hcode hsubject hsrc hvalid
  have hslot : (s.raise r code subject detail).ringSlot r = (s.ringWrite r srcRegion code subject detail).ringSlot r :=
    congrArg (field · 0 7) (s.raise_p1 ..)
  simp only [tookRecord, State.raise_p1, hslot]
  exact ⟨hcode, hsubject, hsrc, hvalid, hstep, hdetail, hnext⟩

/-- What a ring takes is told from its slot and the step at which it is taken. -/
theorem tookRecord.of_start {r code subject : Nat} {detail : Word} {s s' t : State} (h : tookRecord r code subject detail s' t)
    (hp : s'.p1 r 5574 = s.p1 r 5574) (hs : s'.seq = s.seq) : tookRecord r code subject detail s t := by
  unfold tookRecord State.ringSlot at *
  rwa [hp, hs] at h

/-! ### A message that arrives without a flit error (R222, R223) -/

theorem State.portCheck_clean (k : TestTarget) {l : List Ecc} (h : ∀ e ∈ l, e = .clean) : s.portCheck k l = (s, true) := by
  induction l with
  | nil => rfl
  | cons e l ih =>
    obtain ⟨rfl, hl⟩ := List.forall_mem_cons.mp h
    exact ih hl

theorem State.portChecks_clean (m : Msg) (i : Nat) (l : List TestTarget) : s.portChecks m [] i l = (s, true) := by
  induction l generalizing i with
  | nil => rfl
  | cons p l ih =>
    have hp : s.portCheck p ((List.range (flitsOf m)).map fun f => errAt [] (9 * i + f)) = (s, true) :=
      s.portCheck_clean p fun e he => by obtain ⟨_, _, rfl⟩ := List.mem_map.mp he; rfl
    simp only [State.portChecks, hp, ih]

theorem State.controllerSees_only (m : Msg) : s.controllerSees m = { s with service := (s.controllerSees m).service } := by
  unfold State.controllerSees
  split <;> rfl

variable {s} in
/-- A message that is delivered is taken from the network and acted on. -/
theorem State.arrive_delivered {m : Msg} (h : s.delivered m) (k : State → State) :
    s.arrive m [] (fun t => some (k t)) = k ((s.taken m).controllerSees m) := by
  obtain ⟨⟨-, hnext, hreach, hdrop⟩, hstray⟩ := h
  unfold State.taken at hreach hdrop hstray
  simp [State.arrive, State.taken, hnext, hreach, hdrop, hstray, State.portChecks_clean]

/-! ### Role epochs (R51, R230) -/

/-- A page 1 write changes nothing of a region but its register file. -/
theorem State.region_setP1 (r i : Nat) (w : Word) (k : Nat) :
    (s.setP1 r i w).region k = { s.region k with p1 := ((s.setP1 r i w).region k).p1 } := by
  by_cases e : k = r
  · subst e; rw [State.setP1, State.region_updRegion_same]
  · rw [State.setP1, State.region_updRegion_other _ _ e]

/-- A change of a region that leaves its register file. -/
theorem State.updRegion_p1 (k : Nat) {f : Region → Region} (hf : ∀ x, (f x).p1 = x.p1) (r i : Nat) :
    (s.updRegion k f).p1 r i = s.p1 r i := by
  by_cases e : r = k
  · subst e; rw [State.p1, State.p1, State.region_updRegion_same, hf]
  · rw [State.p1, State.p1, State.region_updRegion_other _ _ e]

/-- An update leaves every register, and changes the tables of regions and what the controller has seen only. -/
theorem State.epochUpdate_only (table : Nat) (m : Msg) :
    (s.epochUpdate table m = { s with
      regions := (s.epochUpdate table m).regions, service := (s.epochUpdate table m).service }) ∧
    ∀ r i, (s.epochUpdate table m).p1 r i = s.p1 r i := by
  unfold State.epochUpdate
  dsimp only
  split
  · split
    · refine ⟨by split <;> rfl, fun r i => (State.updRegion_p1 _ table (fun _ => by rfl) r i).trans ?_⟩
      split <;> rfl
    · exact ⟨rfl, fun r i => s.updRegion_p1 _ (fun _ => by rfl) r i⟩
  · exact ⟨rfl, fun _ _ => rfl⟩

variable {s} in
/-- The present update of a unit whose row map change waits is written into the table it reaches. -/
theorem State.epochUpdate_eq {table : Nat} {m : Msg} (he : BitVec.ofNat 12 (field (m.word 7) 14 12) = s.epoch (field (m.word 7) 0 14))
    (hw : ∃ w ∈ (s.region (regionOf (field (m.word 7) 0 14))).epochWaits, w.unit = field (m.word 7) 0 14) :
    let u := field (m.word 7) 0 14
    s.epochUpdate table m =
      if table < 48 then
        (if m.nf then s.updSvc table fun x => { x with msgNf := true } else s).updRegion table fun x =>
          { x with epochs := x.epochs.set 0 u (s.epoch u) }
      else s.updRegion ((table - 48) / 20) fun x =>
        { x with ifEpochs := x.ifEpochs.set 0 ((table - 48) % 20 * 16384 + u) (s.epoch u) } := by
  have hwait : (s.region (regionOf (field (m.word 7) 0 14))).epochWaits.any (fun w => w.unit == field (m.word 7) 0 14) = true := by
    simpa using hw
  intro u
  rw [State.epochUpdate, if_pos ⟨hwait, he⟩, he]

variable {s} in
/-- It sets the epoch of a region controller's table. -/
theorem State.epochUpdate_region {table : Nat} {m : Msg} (he : BitVec.ofNat 12 (field (m.word 7) 14 12) = s.epoch (field (m.word 7) 0 14))
    (hw : ∃ w ∈ (s.region (regionOf (field (m.word 7) 0 14))).epochWaits, w.unit = field (m.word 7) 0 14) (ht : table < 48) (r v : Nat) :
    let u := field (m.word 7) 0 14
    ((s.epochUpdate table m).region r).epochs.get 0 v = if r = table ∧ v = u then s.epoch u else (s.region r).epochs.get 0 v := by
  intro u
  have hreg : ∀ k, (if m.nf then s.updSvc table fun x => { x with msgNf := true } else s).region k = s.region k := by
    intro k; split <;> rfl
  rw [State.epochUpdate_eq he hw, if_pos ht]
  by_cases hr : r = table
  · subst hr
    rw [State.region_updRegion_same, hreg]
    by_cases hv : v = u
    · subst hv
      rw [if_pos ⟨rfl, rfl⟩]
      exact Sparse.get_set_same ..
    · rw [if_neg (by simp [hv])]
      exact Sparse.get_set_other _ _ _ _ hv
  · rw [State.region_updRegion_other _ _ hr, hreg, if_neg (by simp [hr])]

variable {s} in
/-- It sets the epoch of one cluster interface's table. -/
theorem State.epochUpdate_stamp {table : Nat} {m : Msg} (hu : field (m.word 7) 0 14 < 15360)
    (he : BitVec.ofNat 12 (field (m.word 7) 14 12) = s.epoch (field (m.word 7) 0 14))
    (hw : ∃ w ∈ (s.region (regionOf (field (m.word 7) 0 14))).epochWaits, w.unit = field (m.word 7) 0 14) (ht : 48 ≤ table) (c : Nat)
    {v : Nat} (hv : v < 15360) :
    let u := field (m.word 7) 0 14
    (s.epochUpdate table m).stamp c v = if c = table - 48 ∧ v = u then s.epoch u else s.stamp c v := by
  intro u
  rw [State.epochUpdate_eq he hw, if_neg (by omega), State.stamp, State.stamp]
  by_cases hr : c / 20 = (table - 48) / 20
  · rw [hr, State.region_updRegion_same]
    by_cases hk : c = table - 48 ∧ v = u
    · obtain ⟨rfl, rfl⟩ := hk
      rw [if_pos ⟨rfl, rfl⟩, Sparse.get_set_same]
    · rw [if_neg hk, Sparse.get_set_other _ _ _ _ (by omega)]
  · rw [State.region_updRegion_other _ _ hr, if_neg (by rintro ⟨rfl, -⟩; exact hr rfl)]

theorem State.exec_epochUpdate {table : Nat} {m : Msg} (ht : table < 1008) (htype : m.type = 11)
    (hu : field (m.word 7) 0 14 < 15360) (hm : msgOk m = true) :
    exec (.epochUpdate table ⟨m, []⟩) s = .next ((s.taken m).epochUpdate table m) := by
  have h : exec (.epochUpdate table ⟨m, []⟩) s = execEpochUpdate table ⟨m, []⟩ s := rfl
  simp only [h, execEpochUpdate, htype, if_true, State.portChecks_clean, guardRes, hm, ht, hu, and_self, decide_true,
    Bool.and_self]
  rfl

/-! ### The end of a wait (R51, R230, R266) -/

/-- Two logical units of one row map have each a field of its own (R49). -/
theorem rowMap_fields_apart {u v : Nat} (hr : regionOf v = regionOf u) (hm : rowMapIndex v = rowMapIndex u) (h : v ≠ u) :
    v % 4 < u % 4 ∨ u % 4 < v % 4 := by
  unfold regionOf rowMapIndex at *
  omega

/-- A row map change shows in the column of its unit alone. -/
theorem State.column_setP1_rowMap (s : State) (u k v : Nat) :
    (s.setP1 (regionOf u) (rowMapIndex u) (putField (s.p1 (regionOf u) (rowMapIndex u)) (3 * (u % 4)) 3 k)).column v =
      if v = u then k % 8 else s.column v := by
  unfold State.column
  by_cases hv : v = u
  · subst hv
    exact ((congrArg (field · _ _) (State.p1_setP1_same ..)).trans (field_putField_same _ _ (by omega))).trans (if_pos rfl).symm
  · rw [if_neg hv]
    by_cases hp : regionOf v = regionOf u ∧ rowMapIndex v = rowMapIndex u
    · have := rowMap_fields_apart hp.1 hp.2 hv
      rw [hp.1, hp.2, State.p1_setP1_same, field_putField_other _ _ (by omega)]
    · rw [State.p1_setP1_other _ _ (by omega)]

variable {s}

theorem State.abortNext_of_ne (h : s.seq.phase ≠ 7) : s.abortNext = s := if_pos h
theorem State.blotTail_of_ne (h : s.seq.phase ≠ 6) : s.blotTail = s := if_pos (.inl h)

theorem State.epochAcked_waits {u : Nat} (h : s.epochEverywhere u = false ∨ s.onBusyLine u = true) : s.epochAcked u = s :=
  if_pos (.inr h)

/-- Nothing of the unit waits any longer. -/
def State.endWaits (s : State) (u : Nat) : State :=
  s.updRegion (regionOf u) fun x => { x with epochWaits := x.epochWaits.filter fun w => w.unit != u }

theorem State.endWaits_p1 (s : State) (u r i : Nat) : (s.endWaits u).p1 r i = s.p1 r i :=
  s.updRegion_p1 _ (fun _ => by rfl) r i

/-- A change of one column that waited is made, before the Blot phase. -/
theorem State.epochAcked_one {u : Nat} {w : EpochWait}
    (hw : (s.region (regionOf u)).epochWaits.filter (fun w => w.unit == u) = [w]) (he : s.epochEverywhere u = true)
    (hb : s.onBusyLine u = false) (hu : w.unit = u) (hm : w.rowMap = rowMapIndex u) (hs : w.spare = none) (hc : w.column < 7)
    (hp : s.seq.phase < 6) :
    s.epochAcked u = (s.endWaits u).setP1 (regionOf u) (rowMapIndex u)
      (putField ((s.endWaits u).p1 (regionOf u) (rowMapIndex u)) (3 * (u % 4)) 3 w.column) := by
  have happly (t : State) : t.applyWait w = t.setP1 (regionOf u) (rowMapIndex u)
      (putField (t.p1 (regionOf u) (rowMapIndex u)) (3 * (u % 4)) 3 w.column) := by
    simp only [State.applyWait, hu, hm, hs, if_neg (show ¬w.column = 7 by omega)]
  have hguard : ¬([w] = [] ∨ s.epochEverywhere u = false ∨ s.onBusyLine u = true) := by simp [he, hb]
  simp only [State.epochAcked, hw, if_neg hguard, List.foldl_cons, List.foldl_nil]
  rw [happly, State.abortNext_of_ne, State.blotTail_of_ne]
  · rfl
  · show s.seq.phase ≠ 6
    omega
  · show s.seq.phase ≠ 7
    omega

/-! ### Event records and dry streams (R56, R225, R228) -/

theorem State.exec_eventRecord {m : Msg} (h : s.delivered m) (htype : m.type = 12) (hkind : m.dstKind = 1) :
    exec (.eventRecord ⟨m, []⟩) s = .next (((s.taken m).controllerSees m).eventRecord m) := by
  have hm : msgOk m = true := h.1.1
  have he : exec (.eventRecord ⟨m, []⟩) s = onMsg m (if m.type = 12 ∧ m.dstKind = 1 then
      s.arrive m [] fun t => some (t.eventRecord m) else s) := rfl
  rw [he, if_pos ⟨htype, hkind⟩, State.arrive_delivered h fun t => t.eventRecord m, onMsg, guardRes, hm, if_pos rfl]

/-- The region of an event record takes it into its ring, by the unit that sent it; a code whose class aborts the step is reported. -/
theorem State.eventRecord_took (s : State) (m : Msg) :
    let code := field (m.word 7) 0 12
    let t := s.eventRecord m
    (∃ detail, tookRecord m.dstRegion code (if m.srcKind = 0 then m.srcUnit % 16384 else 16383) detail s t) ∧
      t.net = s.net ∧ t.units = s.units ∧
      t.seq = if abortCode code then (s.report (causeOf code 16383 none)).seq else s.seq := by
  intro code t
  obtain ⟨detail, v, hv, ht⟩ : ∃ detail v, s.raise m.dstRegion code (if m.srcKind = 0 then m.srcUnit else noSubject) detail = v ∧
    t = if abortCode code then v.report (causeOf code 16383 none) else v := ⟨_, _, rfl, rfl⟩
  have htook := s.raise_tookRecord m.dstRegion code (if m.srcKind = 0 then m.srcUnit else noSubject) detail
  have hcode : code % 4096 = code := Nat.mod_eq_of_lt (field_lt (m.word 7) 0 12)
  have hsubject : (if m.srcKind = 0 then m.srcUnit else noSubject) % 16384 = if m.srcKind = 0 then m.srcUnit % 16384 else 16383 := by
    split <;> rfl
  rw [hcode, hsubject, hv] at htook
  have hnet : v.net = s.net := hv ▸ State.raise_net ..
  have hunits : v.units = s.units := hv ▸ State.raise_units ..
  have hseq : v.seq = s.seq := hv ▸ State.raise_seq ..
  rw [ht]
  cases abortCode code with
  | true => exact ⟨⟨_, htook⟩, hnet, hunits, by simp [State.report, hseq]⟩
  | false => exact ⟨⟨_, htook⟩, hnet, hunits, hseq⟩

/-- The word of a dry stream, which names the latest and counts them (Table NET-9). -/
def dryWord (place port vc : Nat) (w : Word) : Word :=
  bumpField (putField (putField w 0 11 (place % 64 + port % 8 * 2 ^ 6 + vc % 4 * 2 ^ 9)) 23 2 3) 11 12

theorem field_dryWord {place port vc : Nat} (w : Word) (hplace : place < 43) (hport : port < 8) (hvc : vc < 4) :
    let v := dryWord place port vc w
    field v 0 6 = place ∧ field v 6 3 = port ∧ field v 9 2 = vc ∧ field v 23 2 = 3 ∧
      field v 11 12 = min (field w 11 12 + 1) 4095 := by
  have hname (lo len : Nat) (h : lo + len ≤ 11) : field (dryWord place port vc w) lo len =
      (place % 64 + port % 8 * 2 ^ 6 + vc % 4 * 2 ^ 9) / 2 ^ lo % 2 ^ len := by
    rw [dryWord, field_bumpField_other _ (by omega), field_putField_other _ _ (by omega),
      field_putField_inside _ _ (by omega) (by omega) (by omega), Nat.sub_zero]
  refine ⟨(hname 0 6 (by omega)).trans (by omega), (hname 6 3 (by omega)).trans (by omega),
    (hname 9 2 (by omega)).trans (by omega), ?_, ?_⟩
  · exact (field_bumpField_other _ (by omega)).trans (field_putField_same _ _ (by omega))
  · rw [dryWord, field_bumpField_same _ (by omega), field_putField_other _ _ (by omega), field_putField_other _ _ (by omega)]
    rfl

theorem State.dryNib_eq (s : State) (r place port vc : Nat) : s.dryNib r place port vc =
    (s.updP1 r 5570 (dryWord place port vc)).raise r 0x031 noSubject (dryWord place port vc (s.p1 r 5570)).toNat := by
  rw [← State.p1_updP1_same s r 5570 (dryWord place port vc)]
  rfl

theorem State.exec_epochAcked {u : Nat} (hu : u < 15360) : exec (.epochUpdateAcknowledged u) s = .next (s.epochAcked u) := by
  have h : exec (.epochUpdateAcknowledged u) s = onUnit u (s.epochAcked u) := rfl
  rw [h, onUnit, guardRes, if_pos (by simpa using hu)]

theorem State.exec_dryNib {r place port vc : Nat} (hr : r < 48) (hplace : place < 43) (hport : port < 8) (hvc : vc < 4) :
    exec (.dryNib r place port vc) s = .next (s.dryNib r place port vc) := by
  have h : exec (.dryNib r place port vc) s =
    guardRes (decide (r < 48 ∧ place < 43 ∧ port < 8 ∧ vc < 4)) (s.dryNib r place port vc) := rfl
  rw [h, guardRes, if_pos (by simp [hr, hplace, hport, hvc])]

/-- The word of the dry stream stands when its event is raised, which carries it. -/
theorem State.dryNib_p1 (s : State) (r place port vc : Nat) :
    (s.dryNib r place port vc).p1 r 5570 = dryWord place port vc (s.p1 r 5570) := by
  rw [State.dryNib_eq, State.raise_p1_other _ (.inr (by decide)), State.p1_updP1_same]

theorem State.dryNib_tookRecord (s : State) (r place port vc : Nat) :
    tookRecord r 0x031 16383 ((s.dryNib r place port vc).p1 r 5570) s (s.dryNib r place port vc) := by
  have h := (s.updP1 r 5570 (dryWord place port vc)).raise_tookRecord r 0x031 noSubject
    (dryWord place port vc (s.p1 r 5570)).toNat
  rw [wd, BitVec.ofNat_toNat, BitVec.setWidth_eq] at h
  rw [State.dryNib_p1, State.dryNib_eq]
  exact h.of_start (State.p1_updP1_other _ _ (.inr (by decide))) rfl

/-- Settles O40, clause by clause: one table's write, the one row map field that changes, and the record in the region's ring. -/
theorem epochsAndRegionEvents : Obligations.EpochsAndRegionEvents := by
  refine ⟨?update, ?acked, ?record, ?dry⟩
  case update =>
    intro s table m ht htype hu u he hw hm
    refine ⟨_, s.exec_epochUpdate ht htype hu hm, fun hlt => ?_, fun hle => ?_, ((s.taken m).epochUpdate_only table m).1,
      ((s.taken m).epochUpdate_only table m).2⟩
    · have h := State.epochUpdate_region (s := s.taken m) he hw hlt
      exact ⟨(h _ _).trans (if_pos ⟨rfl, rfl⟩), fun r v hne => (h r v).trans (if_neg hne)⟩
    · have h := State.epochUpdate_stamp (s := s.taken m) hu he hw hle
      exact ⟨(h _ hu).trans (if_pos ⟨rfl, rfl⟩), fun c v _ hv hne => (h c hv).trans (if_neg hne)⟩
  case acked =>
    intro s u w hu hw
    rw [State.exec_epochAcked hu]
    refine ⟨fun h => by rw [State.epochAcked_waits h], fun he hb hwu hm hs hc hp => ?_⟩
    rw [State.epochAcked_one hw he hb hwu hm hs hc hp]
    have hcol := (s.endWaits u).column_setP1_rowMap u w.column
    refine ⟨_, rfl, ?column, fun v _ hv => ?others, ?gone, rfl, rfl⟩
    case column => rw [hcol, if_pos rfl]; omega
    case others => rw [hcol, if_neg hv, State.column, State.endWaits_p1, State.column]
    case gone => rw [State.region_setP1, State.endWaits, State.region_updRegion_same]
  case record =>
    intro s m h htype hkind code
    have honly := (s.taken m).controllerSees_only m
    obtain ⟨⟨detail, htook⟩, hnet, hunits, hseq⟩ := ((s.taken m).controllerSees m).eventRecord_took m
    refine ⟨_, detail, State.exec_eventRecord h htype hkind, htook.of_start ?_ ?_, hnet.trans ?_, hunits.trans ?_,
      fun habort => ?_, fun habort => ?_⟩
    case refine_5 => rw [hseq, if_pos habort, State.report, honly]; rfl
    case refine_6 => rw [hseq, if_neg (ne_true_of_eq_false habort), honly]; rfl
    all_goals rw [honly]; rfl
  case dry =>
    intro s r place port vc hr hplace hport hvc
    obtain ⟨h1, h2, h3, h4, h5⟩ := field_dryWord (s.p1 r 5570) hplace hport hvc
    rw [← State.dryNib_p1] at h1 h2 h3 h4 h5
    exact ⟨_, State.exec_dryNib hr hplace hport hvc, ⟨h1, h2, h3, h4, h5, s.dryNib_tookRecord r place port vc⟩,
      State.raise_units .., State.raise_net .., State.raise_seq ..⟩

end Sys2Proof.Machine

/-! PROOFS. What an answer, an event or a field note leaves: units, page 1, the records on their way and the journal are all that they touch. -/

namespace Sys2Proof.Machine

/-! ### What an operation leaves, by the parts of the state that it may touch -/

/-- A fold leaves what each of its steps leaves. -/
theorem foldl_leaves {α β : Type} {f : State → α} {g : State → β → State} (l : List β) (s : State)
    (h : ∀ t, ∀ b ∈ l, f (g t b) = f t) : f (l.foldl g s) = f s :=
  List.foldlRecOn (motive := fun t => f t = f s) l g rfl fun t ht b hb => (h t b hb).trans ht

/-- A BAR0 register of power, clocks and heat (Table PWR-7). -/
def powerBar (o : Nat) : Prop := 0x10000 ≤ o ∧ o < 0x20000

/-- What an answer, an event or a field note may touch: units, page 1 but for the row maps, the registers of other chapters than
power, records on their way, reported codes, messages in flight, the journal. `f` shows none of that. -/
structure Quiet {α : Type} (f : State → α) : Prop where
  setUnit : ∀ t u x, f (t.setUnit u x) = f t
  setP1 : ∀ t r i w, 80 ≤ i → f (t.setP1 r i w) = f t
  setBar : ∀ t o w, ¬powerBar o → f (t.setBar o w) = f t
  forward : ∀ t e, f (t.forward e) = f t
  report : ∀ t c, f (t.report c) = f t
  send : ∀ t m, f (t.send m) = f t
  note : ∀ t sub items, f (t.note sub items) = f t

namespace Quiet

variable {α : Type} {f : State → α}

theorem updUnit (h : Quiet f) (t : State) (u : Nat) (g : Unit → Unit) : f (t.updUnit u g) = f t := h.setUnit ..

theorem updP1 (h : Quiet f) (t : State) (r : Nat) {i : Nat} (g : Word → Word) (hi : 80 ≤ i) : f (t.updP1 r i g) = f t :=
  h.setP1 _ _ _ _ hi

theorem seeP1 (h : Quiet f) (t : State) (r : Nat) {i : Nat} (b : Nat) (hi : 80 ≤ i) : f (t.seeP1 r i b) = f t :=
  h.setP1 _ _ _ _ hi

theorem updBar (h : Quiet f) (t : State) {o : Nat} (g : Reg32 → Reg32) (ho : ¬powerBar o) : f (t.updBar o g) = f t :=
  h.setBar _ _ _ ho

theorem ringWrite (h : Quiet f) (t : State) (r src code subject detail : Nat) :
    f (t.ringWrite r src code subject detail) = f t := by
  unfold State.ringWrite
  dsimp only
  rw [h.setP1 _ _ _ _ (by omega), h.setP1 _ _ _ _ (by omega), h.setP1 _ _ _ _ (by omega), h.setP1 _ _ _ _ (by omega),
    h.updP1 _ _ _ (by omega)]
  split
  · exact h.updP1 _ _ _ (by omega)
  · rfl

theorem netRefresh (h : Quiet f) (t : State) (r : Nat) : f (t.netRefresh r) = f t := by
  have hr (off : Nat) : ¬powerBar (netReg r off) := by unfold powerBar netReg; omega
  unfold State.netRefresh
  dsimp only
  rw [h.setBar _ _ _ (hr _), h.setBar _ _ _ (hr _), h.setBar _ _ _ (hr _), h.setBar _ _ _ (hr _), h.setBar _ _ _ (hr _),
    h.setBar _ _ _ (hr _)]

theorem welRefresh (h : Quiet f) (t : State) (r : Nat) : f (t.welRefresh r) = f t := by
  have hr (off : Nat) : ¬powerBar (welReg r off) := by unfold powerBar welReg; omega
  unfold State.welRefresh
  dsimp only
  rw [h.setBar _ _ _ (hr _), h.setBar _ _ _ (hr _), h.setBar _ _ _ (hr _), h.setBar _ _ _ (hr _), h.setBar _ _ _ (hr _),
    h.setBar _ _ _ (hr _), h.setBar _ _ _ (hr _), h.setBar _ _ _ (hr _)]

theorem summarise (h : Quiet f) (t : State) (r : Nat) : f (t.summarise r) = f t := by
  unfold State.summarise
  dsimp only
  rw [h.updBar _ _ (by unfold powerBar; omega)]
  split
  · rw [h.netRefresh, h.welRefresh]
  · exact h.updBar _ _ (by unfold powerBar welReg; omega)

theorem raise (h : Quiet f) (t : State) (r code subject detail : Nat) : f (t.raise r code subject detail) = f t := by
  unfold State.raise
  dsimp only
  split
  · rw [h.summarise, h.forward, h.ringWrite]
  · rw [h.forward, h.ringWrite]

theorem handFault (h : Quiet f) (t : State) (u k code : Nat) (pc : Word) : f (t.handFault u k code pc) = f t := by
  have hi (j : Nat) : 80 ≤ scrIdx u j := by unfold scrIdx; omega
  unfold State.handFault State.raiseUnit
  dsimp only
  rw [h.report, h.raise, h.seeP1 _ _ _ (hi _), h.updP1 _ _ _ (hi _), h.setP1 _ _ _ _ (hi _), h.updUnit]

theorem handDone (h : Quiet f) (t : State) (u k : Nat) (n : Narrow) (wide : Bool) (status : Nat) (d : Row) (nf : Bool) :
    f (t.handDone u k n wide status d nf) = f t := by
  unfold State.handDone
  split
  · exact h.updUnit ..
  · split
    · rfl
    · rw [h.handFault, h.updUnit]

theorem deliverInbound (h : Quiet f) (t : State) (q : Req) (status : Nat) (d : Row) (nf : Bool) :
    f (t.deliverInbound q status d nf) = f t := by
  unfold State.deliverInbound
  split
  · rfl
  · rw [h.send, h.updUnit]

theorem deliver (h : Quiet f) (t : State) (q : Req) (status : Nat) (d : Row) (nf : Bool) (own : Option (Nat × Nat × Narrow)) :
    f (t.deliver q status d nf own) = f t := by
  unfold State.deliver
  cases own with
  | none => exact (h.deliverInbound ..).trans (h.updUnit ..)
  | some w => exact (h.handDone ..).trans (h.updUnit ..)

theorem dropRequests (h : Quiet f) (t : State) (u code : Nat) : f (t.dropRequests u code) = f t := by
  refine foldl_leaves _ _ fun v b _ => foldl_leaves _ _ fun x q _ => ?_
  split
  · rfl
  · exact h.deliver ..

theorem vacate (h : Quiet f) (t : State) (u code : Nat) : f (t.vacate u code) = f t :=
  (h.setUnit ..).trans (h.dropRequests ..)

theorem structural (h : Quiet f) (t : State) (code : Nat) : f (t.structural code) = f t := by
  unfold State.structural
  split
  · exact h.report ..
  · rfl

end Quiet

/-! ### Views that are quiet -/

theorem quiet_core {α : Type} (g : Sparse Cluster → Sparse Service → Power → Nat → Bool → α) :
    Quiet fun t => g t.clusters t.service t.power t.root t.seq.running where
  setUnit _ _ _ := rfl
  setP1 _ _ _ _ _ := rfl
  setBar _ _ _ _ := rfl
  forward _ _ := rfl
  report _ _ := rfl
  send _ _ := rfl
  note _ _ _ := rfl

theorem quiet_clusters : Quiet State.clusters := quiet_core fun c _ _ _ _ => c
theorem quiet_service : Quiet State.service := quiet_core fun _ v _ _ _ => v
theorem quiet_running : Quiet fun t => t.seq.running := quiet_core fun _ _ _ _ b => b

theorem quiet_bar {o : Nat} (ho : powerBar o) : Quiet fun t => t.bar o where
  setUnit _ _ _ := rfl
  setP1 _ _ _ _ _ := rfl
  setBar t _ w h := t.bar_setBar_other w fun e => h (e ▸ ho)
  forward _ _ := rfl
  report _ _ := rfl
  send _ _ := rfl
  note _ _ _ := rfl

theorem quiet_rowMap (r : Nat) {i : Nat} (hi : i < 80) : Quiet fun t => t.p1 r i where
  setUnit _ _ _ := rfl
  setP1 t _ _ w h := t.p1_setP1_other w (.inr (by omega))
  setBar _ _ _ _ := rfl
  forward _ _ := rfl
  report _ _ := rfl
  send _ _ := rfl
  note _ _ _ := rfl

/-- What of a region is not its register file. -/
theorem quiet_region {α : Type} {g : Region → α} (hg : ∀ x p, g { x with p1 := p } = g x) (k : Nat) : Quiet fun t => g (t.region k) where
  setUnit _ _ _ := rfl
  setP1 t r i w _ := by rw [t.region_setP1 r i w k, hg]
  setBar _ _ _ _ := rfl
  forward _ _ := rfl
  report _ _ := rfl
  send _ _ := rfl
  note _ _ _ := rfl

end Sys2Proof.Machine

/-! PROOFS. A unit that is vacated or darkened: its requests are answered, and the change of its row map to absent waits (R54, R57, R230). -/

namespace Sys2Proof.Machine

variable {s : State}

/-! ### Units that are vacated (R63) -/

/-- Every request at the unit's banks is for a row of the unit itself (R78, R82). -/
def State.ownRequests (s : State) (v : Nat) : Prop :=
  ∀ b, ∀ q ∈ ((s.unit v).bank b).waiting ++ ((s.unit v).bank b).parked, q.acc.unit = v

theorem State.ownRequests_of_banks {t : State} {v : Nat} (h : s.ownRequests v) (hb : (t.unit v).banks = (s.unit v).banks) :
    t.ownRequests v := by
  unfold State.ownRequests Unit.bank at *
  rwa [hb]

theorem State.ownRequests_of_reset {v : Nat} (h : s.unit v = Unit.reset) : s.ownRequests v := by
  intro b q hq
  rw [h] at hq
  exact nomatch hq

/-- A unit at reset waits for no access. -/
theorem State.handOf_ne_reset {q : Req} {u h : Nat} {n : Narrow} (hown : s.handOf q = some (u, h, n)) : s.unit u ≠ Unit.reset := by
  intro hu
  unfold State.handOf at hown
  split at hown
  · cases hown
  · rename_i v k _
    split at hown
    · cases hown
    · rename_i m hm
      split at hown
      · cases hown
        rw [hu] at hm
        exact nomatch hm
      · cases hown

/-- A fault of a hand leaves the banks, and the other units. -/
theorem State.unit_handFault (s : State) (u h code : Nat) (pc : Word) (v : Nat) : (s.handFault u h code pc).unit v =
    (s.updUnit u fun x => x.updHand h fun y =>
      { y with st := .halted, narrow := none, reply := none, ready := BitVec.allOnes 32, due := [] }).unit v := by
  unfold State.handFault State.raiseUnit
  dsimp only
  rw [State.report_unit, State.raise_unit, State.seeP1_unit, State.updP1_unit, State.setP1_unit]

/-- A change of one unit that leaves its banks. -/
theorem State.banks_updUnit (s : State) (u v : Nat) {g : Unit → Unit} (hg : ∀ x, (g x).banks = x.banks) :
    ((s.updUnit u g).unit v).banks = (s.unit v).banks := by
  by_cases e : v = u
  · subst e; rw [State.unit_updUnit_same, hg]
  · rw [State.unit_updUnit_other _ _ e]

theorem State.banks_handDone (s : State) (u h : Nat) (n : Narrow) (wide : Bool) (status : Nat) (d : Row) (nf : Bool) (v : Nat) :
    ((s.handDone u h n wide status d nf).unit v).banks = (s.unit v).banks := by
  unfold State.handDone
  split
  · exact s.banks_updUnit u v fun _ => rfl
  · split
    · rfl
    · rw [State.unit_handFault]
      exact (State.banks_updUnit _ u v fun _ => by rfl).trans (s.banks_updUnit u v fun _ => by rfl)

theorem State.unit_handDone_other (s : State) {u v : Nat} (h : Nat) (n : Narrow) (wide : Bool) (status : Nat) (d : Row) (nf : Bool)
    (hv : v ≠ u) : (s.handDone u h n wide status d nf).unit v = s.unit v := by
  unfold State.handDone
  split
  · exact s.unit_updUnit_other _ hv
  · split
    · rfl
    · rw [State.unit_handFault, State.unit_updUnit_other _ _ hv, State.unit_updUnit_other _ _ hv]

theorem State.banks_deliverInbound (s : State) (q : Req) (status : Nat) (d : Row) (nf : Bool) (v : Nat) :
    ((s.deliverInbound q status d nf).unit v).banks = (s.unit v).banks := by
  unfold State.deliverInbound
  split
  · rfl
  · rw [State.send_unit]
    exact s.banks_updUnit q.acc.unit v fun _ => by rfl

theorem State.unit_deliverInbound_other (s : State) {q : Req} {v : Nat} (status : Nat) (d : Row) (nf : Bool) (hv : v ≠ q.acc.unit) :
    (s.deliverInbound q status d nf).unit v = s.unit v := by
  unfold State.deliverInbound
  split
  · rfl
  · rw [State.send_unit, State.unit_updUnit_other _ _ hv]

/-- An answer changes no bank. -/
theorem State.banks_deliver (s : State) (q : Req) (status : Nat) (d : Row) (nf : Bool) (own : Option (Nat × Nat × Narrow)) (v : Nat) :
    ((s.deliver q status d nf own).unit v).banks = (s.unit v).banks := by
  unfold State.deliver
  cases own with
  | none => exact (State.banks_deliverInbound ..).trans (s.banks_updUnit q.acc.unit v fun _ => by rfl)
  | some w => exact (State.banks_handDone ..).trans (s.banks_updUnit q.acc.unit v fun _ => by rfl)

/-- An answer to a request leaves another unit that is at reset. -/
theorem State.unit_deliver_reset {q : Req} {v : Nat} (status : Nat) (d : Row) (nf : Bool) (hv : v ≠ q.acc.unit)
    (h : s.unit v = Unit.reset) : (s.deliver q status d nf (s.handOf q)).unit v = Unit.reset := by
  unfold State.deliver
  cases hown : s.handOf q with
  | none => exact (State.unit_deliverInbound_other _ _ _ _ hv).trans ((s.unit_updUnit_other _ hv).trans h)
  | some w =>
    obtain ⟨u, k, n⟩ := w
    have hu : v ≠ u := fun e => State.handOf_ne_reset hown (e ▸ h)
    exact (State.unit_handDone_other _ _ _ _ _ _ _ hu).trans ((s.unit_updUnit_other _ hv).trans h)

/-- What answers to requests at unit `u` leave: the banks of every unit, and another unit that is at reset. -/
def State.answersAt (s : State) (u : Nat) (t : State) : Prop :=
  (∀ v, (t.unit v).banks = (s.unit v).banks) ∧ ∀ v, v ≠ u → s.unit v = Unit.reset → t.unit v = Unit.reset

theorem State.answersAt_foldl {u : Nat} {α : Type} {g : State → α → State} (l : List α)
    (h : ∀ t, s.answersAt u t → ∀ a ∈ l, t.answersAt u (g t a)) : s.answersAt u (l.foldl g s) := by
  refine List.foldlRecOn (motive := s.answersAt u) l g ⟨fun _ => rfl, fun _ _ e => e⟩ fun t ht a ha => ?_
  obtain ⟨hbanks, hreset⟩ := h t ht a ha
  exact ⟨fun v => (hbanks v).trans (ht.1 v), fun v hv e => hreset v hv (ht.2 v hv e)⟩

theorem State.answersAt_deliver {q : Req} (status : Nat) (d : Row) (nf : Bool) :
    s.answersAt q.acc.unit (s.deliver q status d nf (s.handOf q)) :=
  ⟨fun _ => State.banks_deliver .., fun _ hv e => State.unit_deliver_reset _ _ _ hv e⟩

theorem State.answersAt_dropRequests {u : Nat} (hown : s.ownRequests u) (code : Nat) : s.answersAt u (s.dropRequests u code) := by
  unfold State.dropRequests
  refine State.answersAt_foldl _ fun t ht b _ => ?_
  have hbank : ∀ q ∈ ((t.unit u).bank b).waiting ++ ((t.unit u).bank b).parked, q.acc.unit = u :=
    State.ownRequests_of_banks hown (ht.1 u) b
  refine State.answersAt_foldl _ fun x _ q hq => ?_
  by_cases hq' : q.own = true
  · rw [if_pos hq']
    exact ⟨fun _ => rfl, fun _ _ e => e⟩
  · rw [if_neg hq', ← hbank q hq]
    exact State.answersAt_deliver _ _ _

/-- A unit that is vacated is at reset; one that was stays so, and the banks of the others stand. -/
theorem State.vacate_units {u : Nat} (hown : s.ownRequests u) (code : Nat) :
    (s.vacate u code).unit u = Unit.reset ∧ (∀ v, s.unit v = Unit.reset → (s.vacate u code).unit v = Unit.reset) ∧
      ∀ v, s.ownRequests v → (s.vacate u code).ownRequests v := by
  obtain ⟨hbanks, hreset⟩ := State.answersAt_dropRequests hown code
  have hu : (s.vacate u code).unit u = Unit.reset := State.unit_setUnit_same ..
  have hother (v : Nat) (hv : v ≠ u) : (s.vacate u code).unit v = (s.dropRequests u code).unit v :=
    State.unit_setUnit_other _ _ hv
  refine ⟨hu, fun v h => ?_, fun v h => ?_⟩
  · by_cases hv : v = u
    · rw [hv]; exact hu
    · exact (hother v hv).trans (hreset v hv h)
  · by_cases hv : v = u
    · rw [hv]; exact State.ownRequests_of_reset hu
    · exact State.ownRequests_of_banks h ((congrArg Unit.banks (hother v hv)).trans (hbanks v))

/-! ### Epoch updates that wait (R51, R230) -/

/-- The unit's row map change to absent waits. -/
def State.leaving (s : State) (u : Nat) : Prop := ∃ w ∈ (s.region (regionOf u)).epochWaits, w.unit = u ∧ w.column = 7

/-- The wait that an epoch change begins, in the unit's region. -/
def State.waitFor (s : State) (u column : Nat) (spare : Option (Nat × Nat)) : State :=
  s.updRegion (regionOf u) fun x => { x with
    epochs := x.epochs.upd 0 u (· + 1)
    epochWaits := x.epochWaits ++ [{ unit := u, rowMap := rowMapIndex u, column := column, spare := spare }] }

/-- An epoch change begins the wait and sends its messages. -/
theorem State.epochChange_only (s : State) (u column : Nat) (spare : Option (Nat × Nat)) :
    s.epochChange u column spare = { s.waitFor u column spare with net := (s.epochChange u column spare).net } := rfl

theorem State.waitFor_p1 (s : State) (u column : Nat) (spare : Option (Nat × Nat)) (r i : Nat) :
    (s.waitFor u column spare).p1 r i = s.p1 r i := s.updRegion_p1 _ (fun _ => by rfl) r i

theorem State.waitFor_epochWaits (s : State) (u column : Nat) (spare : Option (Nat × Nat)) (r : Nat) :
    ((s.waitFor u column spare).region r).epochWaits = (s.region r).epochWaits ++
      if r = regionOf u then [{ unit := u, rowMap := rowMapIndex u, column := column, spare := spare }] else [] := by
  unfold State.waitFor
  by_cases hr : r = regionOf u
  · subst hr; rw [State.region_updRegion_same, if_pos rfl]
  · rw [State.region_updRegion_other _ _ hr, if_neg hr, List.append_nil]

@[simp] theorem State.endWaits_units (s : State) (u : Nat) : (s.endWaits u).units = s.units := rfl
@[simp] theorem State.epochChange_units (s : State) (u column : Nat) (spare : Option (Nat × Nat)) :
    (s.epochChange u column spare).units = s.units := rfl

theorem State.epochChange_p1 (s : State) (u column : Nat) (spare : Option (Nat × Nat)) (r i : Nat) :
    (s.epochChange u column spare).p1 r i = s.p1 r i := by
  rw [State.epochChange_only]
  exact s.waitFor_p1 u column spare r i

/-- A unit that is darkened is vacated; the change of its row map to absent waits, where it is not absent already. -/
theorem State.darkenUnit_eq (s : State) (u : Nat) : ∃ spare, s.darkenUnit u =
    if s.column u = 7 then (s.vacate u 0x127).endWaits u else ((s.vacate u 0x127).endWaits u).epochChange u 7 spare := by
  unfold State.darkenUnit State.endWaits
  cases s.spareState u with
  | mk st fl => exact ⟨if st = 1 then some (3, fl) else none, rfl⟩

theorem State.darkenUnit_units (s : State) (u : Nat) : (s.darkenUnit u).units = (s.vacate u 0x127).units := by
  obtain ⟨_, h⟩ := s.darkenUnit_eq u
  rw [h]
  split
  · rw [State.endWaits_units]
  · rw [State.epochChange_units, State.endWaits_units]

theorem State.darkenUnit_column (s : State) (u v : Nat) : (s.darkenUnit u).column v = s.column v := by
  have hv : (s.vacate u 0x127).p1 (regionOf v) (rowMapIndex v) = s.p1 (regionOf v) (rowMapIndex v) :=
    (quiet_rowMap _ (rowMapIndex_lt v)).vacate ..
  obtain ⟨spare, h⟩ := s.darkenUnit_eq u
  unfold State.column
  rw [h]
  split
  · rw [State.endWaits_p1, hv]
  · rw [State.epochChange_p1, State.endWaits_p1, hv]

end Sys2Proof.Machine

/-! PROOFS. A cluster whose units are darkened one after the other, and its event 0x22C (R54, R407). -/

namespace Sys2Proof.Machine

variable {s : State}

theorem State.mem_endWaits {u r : Nat} {w : EpochWait} (h : w ∈ (s.region r).epochWaits) (hw : w.unit ≠ u) :
    w ∈ ((s.endWaits u).region r).epochWaits := by
  unfold State.endWaits
  by_cases hr : r = regionOf u
  · subst hr
    rw [State.region_updRegion_same]
    exact List.mem_filter.mpr ⟨h, by simpa using hw⟩
  · rwa [State.region_updRegion_other _ _ hr]

theorem State.epochChange_region (s : State) (u column : Nat) (spare : Option (Nat × Nat)) (r : Nat) :
    (s.epochChange u column spare).region r = (s.waitFor u column spare).region r := rfl

theorem State.mem_epochChange {u column r : Nat} {spare : Option (Nat × Nat)} {w : EpochWait} (h : w ∈ (s.region r).epochWaits) :
    w ∈ ((s.epochChange u column spare).region r).epochWaits := by
  rw [State.epochChange_region, State.waitFor_epochWaits]
  exact List.mem_append_left _ h

theorem State.epochChange_leaving (s : State) (u : Nat) (spare : Option (Nat × Nat)) : (s.epochChange u 7 spare).leaving u := by
  refine ⟨{ unit := u, rowMap := rowMapIndex u, column := 7, spare := spare }, ?_, rfl, rfl⟩
  rw [State.epochChange_region, State.waitFor_epochWaits, if_pos rfl]
  exact List.mem_append_right _ (List.mem_singleton_self _)

/-- The row map of a unit that is darkened comes to show it absent, and so does that of one that was to be absent already. -/
theorem State.darkenUnit_leaving {u v : Nat} (hc : s.column u ≠ 7) (h : s.leaving u ∨ u = v) : (s.darkenUnit v).leaving u := by
  obtain ⟨spare, he⟩ := s.darkenUnit_eq v
  rw [he]
  by_cases huv : u = v
  · subst huv
    rw [if_neg hc]
    exact State.epochChange_leaving ..
  · obtain ⟨w, hw, hu, h7⟩ := h.resolve_right huv
    have hvac : w ∈ ((s.vacate v 0x127).region (regionOf u)).epochWaits := by
      rwa [(quiet_region (g := Region.epochWaits) (fun _ _ => rfl) (regionOf u)).vacate s v 0x127]
    have hend := State.mem_endWaits (u := v) hvac (by rw [hu]; exact huv)
    split
    · exact ⟨w, hend, hu, h7⟩
    · exact ⟨w, State.mem_epochChange hend, hu, h7⟩

/-! ### A cluster whose units are darkened one after the other -/

theorem State.unit_eq_of_units {t : State} (h : t.units = s.units) (u : Nat) : t.unit u = s.unit u :=
  congrArg (fun x => Sparse.get Unit.reset x u) h

theorem State.ownRequests_of_units {t : State} {v : Nat} (h : s.ownRequests v) (hu : t.units = s.units) : t.ownRequests v :=
  State.ownRequests_of_banks h (congrArg Unit.banks (State.unit_eq_of_units hu v))

theorem State.darkenUnit_reset {v : Nat} (hown : s.ownRequests v) :
    (∀ u, s.unit u = Unit.reset ∨ u = v → (s.darkenUnit v).unit u = Unit.reset) ∧
      ∀ u, s.ownRequests u → (s.darkenUnit v).ownRequests u := by
  obtain ⟨hv, hreset, hreq⟩ := State.vacate_units hown 0x127
  have hunits := s.darkenUnit_units v
  refine ⟨fun u h => ?_, fun u h => State.ownRequests_of_units (hreq u h) hunits⟩
  rw [State.unit_eq_of_units hunits]
  rcases h with h | rfl
  · exact hreset u h
  · exact hv

/-- All units of a list that are darkened are at reset. -/
theorem State.darkenUnits_reset (l : List Nat) {u : Nat} (hown : ∀ v ∈ l, s.ownRequests v) (h : s.unit u = Unit.reset ∨ u ∈ l) :
    (l.foldl State.darkenUnit s).unit u = Unit.reset := by
  induction l generalizing s with
  | nil => simpa using h
  | cons v l ih =>
    obtain ⟨hv, hl⟩ := List.forall_mem_cons.mp hown
    obtain ⟨hreset, hreq⟩ := State.darkenUnit_reset hv
    refine ih (fun w hw => hreq w (hl w hw)) ?_
    rcases h with h | h
    · exact .inl (hreset u (.inl h))
    · exact (List.mem_cons.mp h).imp_left fun e => hreset u (.inr e)

/-- The row maps of all units of a list that are darkened come to show them absent. -/
theorem State.darkenUnits_leaving (l : List Nat) {u : Nat} (hc : s.column u ≠ 7) (h : s.leaving u ∨ u ∈ l) :
    (l.foldl State.darkenUnit s).leaving u := by
  induction l generalizing s with
  | nil => simpa using h
  | cons v l ih =>
    refine ih (by rwa [State.darkenUnit_column]) ?_
    by_cases hv : s.leaving u ∨ u = v
    · exact .inl (State.darkenUnit_leaving hc hv)
    · exact .inr (by simpa [not_or.mp hv] using h)

/-! ### Views that repairs of units leave too -/

/-- A quiet view that shows nothing of the regions either, of their service, or of the messages in flight. -/
structure QuietMap {α : Type} (f : State → α) : Prop extends Quiet f where
  setRegion : ∀ t r x, f (t.setRegion r x) = f t
  setSvc : ∀ t r x, f (t.setSvc r x) = f t
  setNet : ∀ t n, f { t with net := n } = f t

namespace QuietMap

variable {α : Type} {f : State → α}

theorem endFill (h : QuietMap f) (t : State) (r m : Nat) : f (t.endFill r m) = f t :=
  (h.updP1 _ _ _ (by omega)).trans (h.setSvc ..)

theorem darkenUnit (h : QuietMap f) (t : State) (u : Nat) : f (t.darkenUnit u) = f t := by
  have he : f ((t.vacate u 0x127).endWaits u) = f t := (h.setRegion ..).trans (h.vacate ..)
  obtain ⟨spare, hu⟩ := t.darkenUnit_eq u
  rw [hu]
  split
  · exact he
  · rw [State.epochChange_only]
    exact (h.setNet ..).trans ((h.setRegion ..).trans he)

end QuietMap

/-- The fills of a cluster are abandoned and its units darkened, which comes before the event. -/
def State.clearCluster (s : State) (c : Nat) : State :=
  ((List.range 16).map (16 * c + ·)).foldl State.darkenUnit
    (((s.svc (c / 20)).fills.filter fun f => f.rowMap / 4 == c % 20).foldl (fun t f => t.endFill (c / 20) f.rowMap) s)

theorem State.darkenCluster_eq (s : State) (c : Nat) (planned : Bool) :
    s.darkenCluster c planned = (s.clearCluster c).darkEvent c planned := by
  rw [State.clearCluster, List.foldl_map]
  rfl

theorem QuietMap.clearCluster {α : Type} {f : State → α} (h : QuietMap f) (s : State) (c : Nat) : f (s.clearCluster c) = f s :=
  (foldl_leaves _ _ fun _ _ _ => h.darkenUnit ..).trans (foldl_leaves _ _ fun _ _ _ => h.endFill ..)

theorem mem_clusterUnits {c u : Nat} (h : u / 16 = c) : u ∈ (List.range 16).map (16 * c + ·) :=
  List.mem_map.mpr ⟨u % 16, List.mem_range.mpr (by omega), by omega⟩

/-- Units whose fill is abandoned keep what they hold, and their row maps. -/
theorem State.endFills_leave (l : List Fill) (r : Nat) :
    (l.foldl (fun t f => t.endFill r f.rowMap) s).units = s.units ∧ ∀ u, (l.foldl (fun t f => t.endFill r f.rowMap) s).column u = s.column u := by
  refine ⟨foldl_leaves (f := State.units) _ _ fun _ _ _ => rfl, fun u => foldl_leaves (f := fun t => t.column u) _ _ fun t f _ => ?_⟩
  have := rowMapIndex_lt u
  exact congrArg (field · _ _) (State.p1_updP1_other _ _ (.inr (by omega)))

theorem State.clearCluster_units {c u : Nat} (hown : ∀ v, v / 16 = c → s.ownRequests v) (hu : u / 16 = c) :
    (s.clearCluster c).unit u = Unit.reset := by
  refine State.darkenUnits_reset _ (fun v hv => State.ownRequests_of_units (hown v ?_) (State.endFills_leave _ _).1)
    (.inr (mem_clusterUnits hu))
  obtain ⟨k, hk, rfl⟩ := List.mem_map.mp hv
  have := List.mem_range.mp hk
  omega

theorem State.clearCluster_leaving {c u : Nat} (hu : u / 16 = c) (hc : s.column u ≠ 7) : (s.clearCluster c).leaving u :=
  State.darkenUnits_leaving _ (by rwa [(State.endFills_leave _ _).2]) (.inr (mem_clusterUnits hu))

/-! ### The event of a dark cluster (R54, R407) -/

/-- A cluster is marked dark and its clock gated, before the event is raised. -/
def State.markDark (s : State) (c : Nat) : State :=
  (((s.gateClock c).seeP1 (c / 20) 83 4).replanFor (c / 20)).updBar (pwrCluster c) fun w => putField w 22 1 1

theorem State.darkEvent_eq (s : State) (c : Nat) (planned : Bool) : ∃ detail,
    let t := (s.markDark c).raise (c / 20) 0x22C (c % 20) detail
    s.darkEvent c planned = if planned then t else t.structural 0x22C := by
  unfold State.darkEvent State.markDark pwrCluster
  exact ⟨_, rfl⟩

theorem Quiet.darkEvent {α : Type} {f : State → α} (h : Quiet f) (s : State) (c : Nat) (planned : Bool) :
    f (s.darkEvent c planned) = f (s.markDark c) := by
  obtain ⟨detail, he⟩ := s.darkEvent_eq c planned
  rw [he]
  split
  · exact h.raise ..
  · exact (h.structural ..).trans (h.raise ..)

theorem State.structural_units (s : State) (code : Nat) : (s.structural code).units = s.units := by
  unfold State.structural
  split <;> rfl

theorem State.markDark_units (s : State) (c : Nat) : (s.markDark c).units = s.units := rfl

theorem State.darkEvent_units (s : State) (c : Nat) (planned : Bool) : (s.darkEvent c planned).units = s.units := by
  obtain ⟨detail, he⟩ := s.darkEvent_eq c planned
  rw [he]
  split
  · rw [State.raise_units, State.markDark_units]
  · rw [State.structural_units, State.raise_units, State.markDark_units]

end Sys2Proof.Machine

/-! PROOFS. The registers of power, dividers and regulator phases (R406, R415, R416, Tables PWR-3 and PWR-7). -/

namespace Sys2Proof.Machine

variable {s : State}

theorem quietMap_running : QuietMap fun t => t.seq.running := ⟨quiet_running, fun _ _ _ => rfl, fun _ _ _ => rfl, fun _ _ => rfl⟩
theorem quietMap_bar {o : Nat} (ho : powerBar o) : QuietMap fun t => t.bar o :=
  ⟨quiet_bar ho, fun _ _ _ => rfl, fun _ _ _ => rfl, fun _ _ => rfl⟩

/-! ### Registers and events of power -/

theorem powerBar_pwrErr : powerBar pwrErr := by unfold powerBar pwrErr; omega
theorem powerBar_pwrCluster {c : Nat} (hc : c < 960) : powerBar (pwrCluster c) := by unfold powerBar pwrCluster; omega
theorem powerBar_pwrRegion {r : Nat} (hr : r < 48) : powerBar (pwrRegion r) := by unfold powerBar pwrRegion; omega
theorem powerBar_pwrPll {d : Nat} (hd : d < 12) : powerBar (pwrPll d) := by unfold powerBar pwrPll; omega
theorem pwrErr_ne_pwrCluster (c : Nat) : pwrErr ≠ pwrCluster c := by unfold pwrErr pwrCluster; omega

@[simp] theorem State.bar_seeBar_same (s : State) (o b : Nat) : (s.seeBar o b).bar o = putField (s.bar o) b 1 1 :=
  State.bar_updBar_same ..
theorem State.bar_seeBar_other (s : State) {o o' : Nat} (b : Nat) (h : o' ≠ o) : (s.seeBar o b).bar o' = s.bar o' :=
  State.bar_updBar_other _ _ h

/-- An event of this chapter, with its bit: what leaves that bit and quiet things as they are shows only the bit. -/
theorem Quiet.pwrRaise {α : Type} {f : State → α} (h : Quiet f) (s : State) (r b code subject : Nat) :
    f (s.pwrRaise r b code subject) = f (s.seeBar pwrErr b) := h.raise ..

theorem State.pwrRaise_units (s : State) (r b code subject : Nat) : (s.pwrRaise r b code subject).units = s.units :=
  State.raise_units ..

/-- The bit of PWR_ERR that goes with the event is set, and the other registers of power stand. -/
theorem State.bar_pwrRaise (s : State) (r b code subject : Nat) {o : Nat} (ho : powerBar o) :
    (s.pwrRaise r b code subject).bar o = if o = pwrErr then putField (s.bar pwrErr) b 1 1 else s.bar o := by
  rw [(quiet_bar ho).pwrRaise]
  split
  · next e => rw [e, State.bar_seeBar_same]
  · next e => exact s.bar_seeBar_other b e

/-- A region's event adds one record of the region. -/
theorem State.raise_raisedOne (s : State) (r code : Nat) {subject : Nat} (detail : Nat) (h : subject ≠ 16383) :
    raisedOne s (s.raise r code subject detail) code srcRegion subject :=
  ⟨_, s.raise_events r code subject detail, rfl, rfl, if_neg h⟩

theorem State.pwrRaise_raisedOne (s : State) (r b code : Nat) {subject : Nat} (h : subject ≠ 16383) :
    raisedOne s (s.pwrRaise r b code subject) code srcRegion subject :=
  (s.seeBar pwrErr b).raise_raisedOne r code _ h

/-- A report of a cause. -/
theorem State.report_reports (s : State) (code unit : Nat) (test : Option TestTarget) :
    (s.report (causeOf code unit test)).reports code :=
  ⟨_, List.mem_append_right _ (List.mem_singleton_self _), rfl⟩

/-! ### Dividers (R415, R416) -/

/-- div_cur of a cluster as its floors, the power settings and its region's word give it. -/
def dividerOf (k : Cluster) (p : Power) (w : Reg32) : Nat :=
  if p.connected == 2 then 6
  else max (max (max k.planDiv k.phaseFloor) (max k.thermalFloor (if field w 3 1 == 1 then 6 else 4))) (max p.capFloor p.peakFloor)

theorem State.divTarget_eq (s : State) (c : Nat) :
    s.divTarget c = dividerOf (s.cluster c) s.power (s.bar (pwrRegion (c / 20))) := rfl

theorem quiet_divTarget {c : Nat} (hc : c < 960) : Quiet fun t => t.divTarget c where
  setUnit _ _ _ := rfl
  setP1 _ _ _ _ _ := rfl
  setBar t o w h := by
    rw [State.divTarget_eq, (quiet_bar (powerBar_pwrRegion (by omega))).setBar t o w h]
    rfl
  forward _ _ := rfl
  report _ _ := rfl
  send _ _ := rfl
  note _ _ _ := rfl

/-- The divider that waits shows in no floor. -/
theorem State.reDivide_divTarget (s : State) (c : Nat) : (s.reDivide c).divTarget c = s.divTarget c := by
  unfold State.reDivide State.divTarget
  rw [State.cluster_updCluster_same]
  rfl

theorem State.reDivide_cluster (s : State) (c : Nat) : (s.reDivide c).cluster c =
    { s.cluster c with newDiv := if s.divTarget c = (s.cluster c).div then none else some (s.divTarget c) } :=
  State.cluster_updCluster_same ..

theorem State.reDivide_followsFloors (s : State) (c : Nat) : (s.reDivide c).followsFloors c := by
  rw [State.followsFloors, State.reDivide_divTarget, State.reDivide_cluster]

/-- The phase floor bounds the divider (R407, R415). -/
theorem State.phaseFloor_le_divTarget (s : State) (c : Nat) (h : (s.cluster c).phaseFloor ≤ 6) :
    (s.cluster c).phaseFloor ≤ s.divTarget c := by
  unfold State.divTarget
  split
  · exact h
  · simp only [le_max_iff, le_refl, or_true, true_or]

/-! ### Regulator phases (R406, R407, Table PWR-3) -/

theorem phasesOk_eq (s : State) (c : Nat) : phasesOk (s.bar (pwrCluster c)) = s.workingPhases c :=
  (List.countP_eq_length_filter ..).symm

/-- A phase that is latched off is one working phase less. -/
theorem phasesOk_latch {w : Reg32} {p : Nat} (hp : p < 8) (h : w.getLsbD (8 + p) = true) :
    phasesOk (putField w (8 + p) 1 0) + 1 = phasesOk w := by
  have hperm := List.perm_cons_erase (List.mem_range.mpr hp)
  have hrest : ((List.range 8).erase p).countP (fun i => (putField w (8 + p) 1 0).getLsbD (8 + i)) =
      ((List.range 8).erase p).countP fun i => w.getLsbD (8 + i) := by
    refine List.countP_congr fun i hi => ?_
    have hne : i ≠ p := fun e => List.nodup_range.not_mem_erase (e ▸ hi)
    rw [getLsbD_putField, if_neg (by omega)]
  have hoff : (putField w (8 + p) 1 0).getLsbD (8 + p) = false := by
    rw [getLsbD_putField, if_pos (by omega)]; simp
  simp only [phasesOk, ← List.countP_eq_length_filter]
  rw [hperm.countP_eq, hperm.countP_eq, List.countP_cons_of_neg (by simp [hoff]),
    List.countP_cons_of_pos (p := fun i => w.getLsbD (8 + i)) h, hrest]

end Sys2Proof.Machine

/-! PROOFS. A regulator phase that is lost, a cluster at ÷6, a dark cluster, and a droop (R407, R408, Table PWR-3). -/

namespace Sys2Proof.Machine

variable {s : State}

theorem quiet_cluster (c : Nat) : Quiet fun t => t.cluster c := quiet_core fun k _ _ _ _ => k.get Cluster.reset c
theorem quietMap_cluster (c : Nat) : QuietMap fun t => t.cluster c :=
  ⟨quiet_cluster c, fun _ _ _ => rfl, fun _ _ _ => rfl, fun _ _ => rfl⟩

theorem quiet_column (u : Nat) : Quiet fun t => t.column u where
  setUnit _ _ _ := rfl
  setP1 t r i w h := congrArg (field · _ _) ((quiet_rowMap (regionOf u) (rowMapIndex_lt u)).setP1 t r i w h)
  setBar _ _ _ _ := rfl
  forward _ _ := rfl
  report _ _ := rfl
  send _ _ := rfl
  note _ _ _ := rfl

@[simp] theorem State.updCluster_column (s : State) (c u : Nat) (f : Cluster → Cluster) : (s.updCluster c f).column u = s.column u := rfl
@[simp] theorem State.updBar_column (s : State) (o u : Nat) (f : Reg32 → Reg32) : (s.updBar o f).column u = s.column u := rfl
@[simp] theorem State.setBar_column (s : State) (o u : Nat) (w : Reg32) : (s.setBar o w).column u = s.column u := rfl
@[simp] theorem State.note_units (s : State) (sub : Nat) (l : List Nat) : (s.note sub l).units = s.units := rfl
@[simp] theorem State.note_seq (s : State) (sub : Nat) (l : List Nat) : (s.note sub l).seq = s.seq := rfl
@[simp] theorem State.note_cluster (s : State) (sub : Nat) (l : List Nat) (c : Nat) : (s.note sub l).cluster c = s.cluster c := rfl
@[simp] theorem State.note_bar (s : State) (sub : Nat) (l : List Nat) (o : Nat) : (s.note sub l).bar o = s.bar o := rfl

/-- A phase is latched off, which is noted and raised. -/
def State.losePhase (s : State) (c p : Nat) : State :=
  (((s.setBar (pwrCluster c) (putField (s.bar (pwrCluster c)) (8 + p) 1 0)).updCluster c fun k =>
    { k with lost := putField k.lost p 1 1 }).note 4 [c, p]).pwrRaise (c / 20) 1 0x052 (c % 20)

/-- Three lost phases hold a cluster at ÷6. -/
def State.slowCluster (s : State) (c : Nat) : State :=
  let t := (s.updCluster c fun k => { k with phaseFloor := 6 }).reDivide c
  t.raise (c / 20) 0x053 (c % 20) (t.bar (pwrCluster c)).toNat

/-- A fourth darkens it: what is recorded before its units go. -/
def State.failPhases (s : State) (c : Nat) : State :=
  (((s.updBar (pwrCluster c) fun v => putField v 22 1 1).pwrRaise (c / 20) 6 0x501 (c % 20)).updCluster c fun k =>
    { k with phaseFloor := 4, thermalFloor := 4, newDiv := none }).note 1 [4, c, 0x501]

/-- The cluster that four lost phases darken; a job's step aborts. -/
def State.failCluster (s : State) (c : Nat) : State :=
  let t := (s.failPhases c).darkenCluster c false
  if t.seq.running then t.report (causeOf 0x501 16383 none) else t

/-! ### A phase that is latched off -/

theorem State.losePhase_bar (s : State) (c p : Nat) {o : Nat} (ho : powerBar o) : (s.losePhase c p).bar o =
    if o = pwrErr then putField (s.bar pwrErr) 1 1 1
    else if o = pwrCluster c then putField (s.bar (pwrCluster c)) (8 + p) 1 0 else s.bar o := by
  have hset (o' : Nat) : (((s.setBar (pwrCluster c) (putField (s.bar (pwrCluster c)) (8 + p) 1 0)).updCluster c fun k =>
      { k with lost := putField k.lost p 1 1 }).note 4 [c, p]).bar o' =
      if o' = pwrCluster c then putField (s.bar (pwrCluster c)) (8 + p) 1 0 else s.bar o' := by
    split
    · next e => rw [e]; exact State.bar_setBar_same ..
    · next e => exact State.bar_setBar_other _ _ e
  rw [State.losePhase, State.bar_pwrRaise _ _ _ _ _ ho, hset, hset, if_neg (pwrErr_ne_pwrCluster c)]

theorem State.losePhase_cluster (s : State) (c p k : Nat) : (s.losePhase c p).cluster k =
    (s.updCluster c fun k => { k with lost := putField k.lost p 1 1 }).cluster k := by
  rw [State.losePhase, (quiet_cluster k).pwrRaise]
  rfl

theorem State.losePhase_units (s : State) (c p : Nat) : (s.losePhase c p).units = s.units := by
  rw [State.losePhase, State.pwrRaise_units, State.note_units, State.updCluster_units, State.setBar_units]

theorem State.losePhase_seq (s : State) (c p : Nat) : (s.losePhase c p).seq = s.seq := by
  rw [State.losePhase, State.pwrRaise, State.raise_seq, State.seeBar_seq, State.note_seq, State.updCluster_seq, State.setBar_seq]

theorem State.losePhase_column (s : State) (c p u : Nat) : (s.losePhase c p).column u = s.column u := by
  rw [State.losePhase, (quiet_column u).pwrRaise, State.seeBar, State.updBar_column, (quiet_column u).note, State.updCluster_column,
    State.setBar_column]

theorem State.losePhase_raisedOne (s : State) (c p : Nat) : raisedOne s (s.losePhase c p) 0x052 srcRegion (c % 20) :=
  State.pwrRaise_raisedOne (((s.setBar (pwrCluster c) (putField (s.bar (pwrCluster c)) (8 + p) 1 0)).updCluster c fun k =>
    { k with lost := putField k.lost p 1 1 }).note 4 [c, p]) (c / 20) 1 0x052 (by omega)

/-- What the loss of a phase comes to, by the phases that worked before it (Table PWR-3). -/
theorem State.phaseLoss_eq {c p : Nat} (hc : c < 960) (hp : p < 8) (hbit : (s.bar (pwrCluster c)).getLsbD (8 + p) = true)
    (hon : field (s.bar (pwrCluster c)) 22 1 = 0) : s.phaseLoss c p =
      if s.workingPhases c = 6 then (s.losePhase c p).slowCluster c
      else if s.workingPhases c ≤ 5 then (s.losePhase c p).failCluster c else s.losePhase c p := by
  have hok := phasesOk_latch hp hbit
  rw [phasesOk_eq] at hok
  have hbar : (s.losePhase c p).bar (pwrCluster c) = putField (s.bar (pwrCluster c)) (8 + p) 1 0 := by
    rw [State.losePhase_bar s c p (powerBar_pwrCluster hc), if_neg (pwrErr_ne_pwrCluster c).symm, if_pos rfl]
  have hguard : ¬((!(s.bar (pwrCluster c)).getLsbD (8 + p) || field (s.bar (pwrCluster c)) 22 1 == 1) = true) := by
    simp [hbit, hon]
  have hwork : s.workingPhases c ≤ 8 := List.countP_le_length
  have hunfold : s.phaseLoss c p =
      if 8 - phasesOk ((s.losePhase c p).bar (pwrCluster c)) = 3 then (s.losePhase c p).slowCluster c
      else if 4 ≤ 8 - phasesOk ((s.losePhase c p).bar (pwrCluster c)) then (s.losePhase c p).failCluster c else s.losePhase c p := by
    rw [State.phaseLoss, if_neg hguard]
    rfl
  rw [hunfold, hbar]
  by_cases h6 : s.workingPhases c = 6
  · rw [if_pos (by omega), if_pos h6]
  · rw [if_neg (by omega), if_neg h6]
    by_cases h5 : s.workingPhases c ≤ 5
    · rw [if_pos (by omega), if_pos h5]
    · rw [if_neg (by omega), if_neg h5]

/-! ### A cluster at ÷6 -/

theorem Quiet.slowCluster {α : Type} {f : State → α} (h : Quiet f) (s : State) (c : Nat) :
    f (s.slowCluster c) = f ((s.updCluster c fun k => { k with phaseFloor := 6 }).reDivide c) := by
  unfold State.slowCluster
  exact h.raise ..

theorem State.slowCluster_bar (s : State) (c : Nat) {o : Nat} (ho : powerBar o) : (s.slowCluster c).bar o = s.bar o := by
  rw [(quiet_bar ho).slowCluster, State.reDivide, State.updCluster_bar, State.updCluster_bar]

theorem State.slowCluster_seq (s : State) (c : Nat) : (s.slowCluster c).seq = s.seq := by
  rw [State.slowCluster, State.raise_seq, State.reDivide, State.updCluster_seq, State.updCluster_seq]

theorem State.slowCluster_cluster (s : State) (c : Nat) : ∃ d,
    (s.slowCluster c).cluster c = { s.cluster c with phaseFloor := 6, newDiv := d } := by
  rw [(quiet_cluster c).slowCluster, State.reDivide_cluster, State.cluster_updCluster_same]
  exact ⟨_, rfl⟩

theorem State.slowCluster_followsFloors (s : State) {c : Nat} (hc : c < 960) :
    6 ≤ (s.slowCluster c).divTarget c ∧ (s.slowCluster c).followsFloors c := by
  set v := s.updCluster c fun k => { k with phaseFloor := 6 } with hv
  have hdiv : (s.slowCluster c).divTarget c = v.divTarget c := by
    rw [(quiet_divTarget hc).slowCluster, ← hv, State.reDivide_divTarget]
  have hcl : (s.slowCluster c).cluster c = (v.reDivide c).cluster c := (quiet_cluster c).slowCluster s c
  have hfloor : (v.cluster c).phaseFloor = 6 := by rw [hv, State.cluster_updCluster_same]
  refine ⟨hdiv ▸ hfloor ▸ v.phaseFloor_le_divTarget c (by omega), ?_⟩
  have hfollow := v.reDivide_followsFloors c
  rw [State.followsFloors, State.reDivide_divTarget] at hfollow
  rwa [State.followsFloors, hdiv, hcl]

/-! ### A dark cluster -/

/-- A view that neither a cause that is reported nor the loss of units shows is that of the marked cluster. -/
theorem QuietMap.failCluster {α : Type} {f : State → α} (h : QuietMap f) (s : State) (c : Nat) :
    f (s.failCluster c) = f (((s.failPhases c).clearCluster c).markDark c) := by
  unfold State.failCluster
  dsimp only
  rw [State.darkenCluster_eq]
  split
  · exact (h.report ..).trans (h.darkEvent ..)
  · exact h.darkEvent ..

theorem State.failPhases_units (s : State) (c : Nat) : (s.failPhases c).units = s.units := by
  rw [State.failPhases, State.note_units, State.updCluster_units, State.pwrRaise_units, State.updBar_units]

theorem State.failPhases_running (s : State) (c : Nat) : (s.failPhases c).seq.running = s.seq.running := by
  rw [State.failPhases, State.note_seq, State.updCluster_seq, quiet_running.pwrRaise, State.seeBar_seq, State.updBar_seq]

theorem State.markDark_running (s : State) (c : Nat) : (s.markDark c).seq.running = s.seq.running := rfl

theorem State.failPhases_column (s : State) (c u : Nat) : (s.failPhases c).column u = s.column u := by
  rw [State.failPhases, (quiet_column u).note, State.updCluster_column, (quiet_column u).pwrRaise, State.seeBar, State.updBar_column,
    State.updBar_column]

theorem State.failPhases_bar (s : State) (c : Nat) {o : Nat} (ho : powerBar o) : (s.failPhases c).bar o =
    if o = pwrErr then putField (s.bar pwrErr) 6 1 1 else if o = pwrCluster c then putField (s.bar o) 22 1 1 else s.bar o := by
  rw [State.failPhases, State.note_bar, State.updCluster_bar, State.bar_pwrRaise _ _ _ _ _ ho]
  split
  · rw [State.bar_updBar_other _ _ (pwrErr_ne_pwrCluster c)]
  · split
    · next e => subst e; exact State.bar_updBar_same ..
    · next e => exact State.bar_updBar_other _ _ e

theorem State.failPhases_lost (s : State) (c : Nat) : ((s.failPhases c).cluster c).lost = (s.cluster c).lost := by
  rw [State.failPhases, State.note_cluster, State.cluster_updCluster_same, (quiet_cluster c).pwrRaise]
  rfl

theorem State.failCluster_bar (s : State) {c : Nat} (hc : c < 960) {o : Nat} (ho : powerBar o) : (s.failCluster c).bar o =
    if o = pwrErr then putField (s.bar pwrErr) 6 1 1
    else if o = pwrCluster c then putField (putField (s.bar o) 22 1 1) 22 1 1 else s.bar o := by
  have hclear (o : Nat) (ho : powerBar o) : ((s.failPhases c).clearCluster c).bar o = (s.failPhases c).bar o :=
    (quietMap_bar ho).clearCluster ..
  have hmark (t : State) : (t.markDark c).bar o = if o = pwrCluster c then putField (t.bar (pwrCluster c)) 22 1 1 else t.bar o := by
    split
    · next e => rw [e]; exact State.bar_updBar_same ..
    · next e => exact State.bar_updBar_other _ _ e
  rw [(quietMap_bar ho).failCluster, hmark]
  by_cases he : o = pwrErr
  · rw [if_neg (he ▸ pwrErr_ne_pwrCluster c), hclear o ho, State.failPhases_bar s c ho, if_pos he, if_pos he]
  · rw [if_neg he]
    by_cases hk : o = pwrCluster c
    · rw [if_pos hk, if_pos hk, hclear _ (powerBar_pwrCluster hc), State.failPhases_bar s c (powerBar_pwrCluster hc),
        if_neg (pwrErr_ne_pwrCluster c).symm, if_pos rfl, hk]
    · rw [if_neg hk, if_neg hk, hclear o ho, State.failPhases_bar s c ho, if_neg he, if_neg hk]

@[simp] theorem State.replanFor_cluster (s : State) (r c : Nat) : (s.replanFor r).cluster c = s.cluster c := rfl

theorem State.gateClock_cluster_same (s : State) (c : Nat) :
    (s.gateClock c).cluster c = { s.cluster c with cycBase := s.aclkOf c, cycRoot := s.root, stopped := true } :=
  s.cluster_updCluster_same c _

theorem State.markDark_cluster (s : State) (c : Nat) :
    (s.markDark c).cluster c = { s.cluster c with cycBase := s.aclkOf c, cycRoot := s.root, stopped := true } := by
  rw [State.markDark, State.updBar_cluster, State.replanFor_cluster, State.seeP1_cluster, State.gateClock_cluster_same]

theorem State.markDark_epochWaits (s : State) (c r : Nat) : ((s.markDark c).region r).epochWaits = (s.region r).epochWaits := by
  have hq := quiet_region (g := Region.epochWaits) (fun _ _ => rfl) r
  rw [State.markDark, State.updBar_region, State.replanFor, hq.updP1 _ _ _ (by omega)]
  exact hq.seeP1 (s.gateClock c) (c / 20) 4 (by omega)

theorem State.failCluster_cluster (s : State) (c : Nat) :
    ((s.failCluster c).cluster c).lost = (s.cluster c).lost ∧ ((s.failCluster c).cluster c).stopped = true := by
  rw [(quietMap_cluster c).failCluster, State.markDark_cluster, (quietMap_cluster c).clearCluster]
  exact ⟨s.failPhases_lost c, rfl⟩

theorem State.failCluster_units {c u : Nat} (hown : ∀ v, v / 16 = c → s.ownRequests v) (hu : u / 16 = c) :
    (s.failCluster c).unit u = Unit.reset := by
  have hclear : ((s.failPhases c).clearCluster c).unit u = Unit.reset :=
    State.clearCluster_units (fun v hv => State.ownRequests_of_units (hown v hv) (s.failPhases_units c)) hu
  have hunits : (s.failCluster c).units = ((s.failPhases c).clearCluster c).units := by
    unfold State.failCluster
    dsimp only
    rw [State.darkenCluster_eq]
    split
    · rw [State.report_units, State.darkEvent_units]
    · rw [State.darkEvent_units]
  rw [State.unit_eq_of_units hunits, hclear]

theorem State.failCluster_leaving {c u : Nat} (hu : u / 16 = c) (hcol : s.column u ≠ 7) : (s.failCluster c).leaving u := by
  have hclear : ((s.failPhases c).clearCluster c).leaving u := State.clearCluster_leaving hu (by rwa [State.failPhases_column])
  have hq := quiet_region (g := Region.epochWaits) (fun _ _ => rfl) (regionOf u)
  have hwaits : ((s.failCluster c).region (regionOf u)).epochWaits = (((s.failPhases c).clearCluster c).region (regionOf u)).epochWaits := by
    unfold State.failCluster
    dsimp only
    rw [State.darkenCluster_eq]
    split
    · rw [State.report_region, hq.darkEvent, State.markDark_epochWaits]
    · rw [hq.darkEvent, State.markDark_epochWaits]
  unfold State.leaving
  rwa [hwaits]

theorem State.failCluster_reports (s : State) (c : Nat) (h : s.seq.running = true) : (s.failCluster c).reports 0x501 := by
  have hrun : ((s.failPhases c).darkenCluster c false).seq.running = true := by
    rw [State.darkenCluster_eq]
    rw [quiet_running.darkEvent, State.markDark_running, quietMap_running.clearCluster, State.failPhases_running, h]
  unfold State.failCluster
  dsimp only
  rw [if_pos hrun]
  exact State.report_reports ..

/-! ### Droops (R408) -/

/-- A droop lengthens the periods from now on; no cycle has passed that had not. -/
theorem State.droop_aclkOf (s : State) (c : Nat) : ∀ n, s.root ≤ n →
    (s.rebase c fun k => { k with stretched := max k.stretched n }).aclkOf c = s.aclkOf c := by
  intro n hn
  have hcl : (s.rebase c fun k => { k with stretched := max k.stretched n }).cluster c =
      { s.cluster c with cycBase := s.aclkOf c, cycRoot := s.root, stretched := max (s.cluster c).stretched n } :=
    State.cluster_updCluster_same ..
  have hroot : (s.rebase c fun k => { k with stretched := max k.stretched n }).root = s.root := rfl
  rw [State.aclkOf, hcl, hroot, Cluster.cycles]
  split
  · rfl
  · have hmin : min s.root (max (s.cluster c).stretched n) = s.root := by omega
    have hmax : s.root - max s.root (max (s.cluster c).stretched n) = 0 := by omega
    simp only [hmin, hmax, Nat.sub_self, Nat.zero_div, Nat.add_zero]

end Sys2Proof.Machine

/-! PROOFS. Withdrawal of a region: what the end of a job and the loss of a well leave, and the region that has left service (R57, R362). -/

namespace Sys2Proof.Machine

/-! ### The stop of a job, and a well whose content is lost -/

/-- A quiet view that shows nothing of the job either: sequencer, system tables, host engine, wells. -/
structure QuietJob {α : Type} (f : State → α) : Prop extends Quiet f where
  job : ∀ t q y x, f { t with seq := q, sys := y, host := x } = f t
  setWell : ∀ t r x, f (t.setWell r x) = f t

namespace QuietJob

variable {α : Type} {f : State → α}

theorem seq (h : QuietJob f) (t : State) (q : Sequencer) : f { t with seq := q } = f t := h.job t q t.sys t.host

theorem setStatus (h : QuietJob f) (t : State) (lo len v : Nat) : f (t.setStatus lo len v) = f t :=
  h.updBar _ _ (by unfold powerBar; omega)

theorem schedCode (h : QuietJob f) (t : State) (r code : Nat) : f (t.schedCode r code) = f t := h.setP1 _ _ _ _ (by omega)

theorem finishAll (h : QuietJob f) (t : State) (qs : List Nat) (g : Taken → Option (Nat × Nat)) : f (t.finishAll qs g) = f t := by
  refine foldl_leaves _ _ fun v q _ => foldl_leaves _ _ fun x d _ => ?_
  cases g d with
  | none => rfl
  | some a => exact h.job x x.seq x.sys _

theorem resumeRings (h : QuietJob f) (t : State) : f t.resumeRings = f t := by
  refine foldl_leaves _ _ fun v q hq => ?_
  have hlt : q < 32 := List.mem_range.mp (List.mem_filter.mp hq).1
  split
  · exact h.updBar _ _ (by unfold powerBar ringReg; omega)
  · rfl

theorem setAbortState (h : QuietJob f) (t : State) (k : Nat) : f (t.setAbortState k) = f t :=
  (foldl_leaves _ _ fun _ _ _ => h.updP1 _ _ _ (by omega)).trans (h.seq ..)

theorem setPhase (h : QuietJob f) (t : State) (k : Nat) : f (t.setPhase k) = f t :=
  (foldl_leaves _ _ fun _ _ _ => h.updP1 _ _ _ (by omega)).trans ((h.setStatus ..).trans (h.seq ..))

theorem jobStop (h : QuietJob f) (t : State) (code : Nat) : f (t.jobStop code) = f t := by
  unfold State.jobStop State.raiseFrom
  extract_lets last s0 s1 s2 s3 s4 s5
  have h0 : f s0 = f t := by
    show f (if _ then _ else _) = _
    split
    · exact h.finishAll ..
    · rfl
  have h2 : f s2 = f t := by
    rw [h.setStatus, h.setStatus, h.setStatus, h.finishAll, h0]
  have h3 : f s3 = f t := by
    show f (if _ then _ else _) = _
    split
    · exact (foldl_leaves _ _ fun _ _ _ => h.schedCode ..).trans h2
    · exact h2
  rw [h.setPhase, h.setAbortState, h.resumeRings]
  exact (h.job ..).trans ((h.forward ..).trans h3)

theorem takePlace (h : QuietJob f) (t : State) (r g n : Nat) : f (t.takePlace r g n).1 = f t := h.setWell ..

theorem moveAreas (h : QuietJob f) (t : State) (r : Nat) : f (t.moveAreas r).1 = f t := by
  unfold State.moveAreas
  split
  next v areas moved he =>
    refine (h.job v v.seq v.sys _).trans ((congrArg (f ∘ Prod.fst) he).symm.trans ?_)
    refine List.foldlRecOn (motive := fun x => f (Prod.fst x) = f t) _ _ rfl fun x hx a _ => ?_
    obtain ⟨sh, first, n, rg, g⟩ := a
    dsimp only
    split
    · exact (h.takePlace ..).trans hx
    · exact hx

theorem loseWell (h : QuietJob f) (t : State) (r : Nat) : f (t.loseWell r) = f t := by
  unfold State.loseWell
  dsimp only
  split
  · exact (h.seq ..).trans ((h.moveAreas ..).trans (h.setWell ..))
  · exact h.setWell ..

end QuietJob

theorem quietJob_clusters : QuietJob State.clusters := ⟨quiet_clusters, fun _ _ _ _ => rfl, fun _ _ _ => rfl⟩
theorem quietJob_service : QuietJob State.service := ⟨quiet_service, fun _ _ _ _ => rfl, fun _ _ _ => rfl⟩
theorem quietJob_bar {o : Nat} (ho : powerBar o) : QuietJob fun t => t.bar o := ⟨quiet_bar ho, fun _ _ _ _ => rfl, fun _ _ _ => rfl⟩
theorem quietJob_region {α : Type} {g : Region → α} (hg : ∀ x p, g { x with p1 := p } = g x) (k : Nat) : QuietJob fun t => g (t.region k) :=
  ⟨quiet_region hg k, fun _ _ _ _ => rfl, fun _ _ _ => rfl⟩

/-! ### Withdrawal of a region (R57, R362) -/

/-- What every withdrawal does first: the region is recorded as out of service, and what it was doing is dropped. -/
def State.leaveService (s : State) (r : Nat) : State :=
  let s1 := s.updP1 r 80 fun w => putField (putField w 8 7 0) 15 1 1
  let s2 := s1.raise r 0x22D noSubject (s1.p1 r 80).toNat
  let s3 := s2.updSvc r fun x => { x with
    inService := false, withdrawn := true, fills := [], verify := [], scriptVerify := [], planned := [], portTests := [],
    plannedWithdraw := false }
  (s3.setNodes r []).updRegion r fun x => { x with epochWaits := [], heldIn := [], combine := [], writing := [] }

/-- A view that the end of a job leaves is, after a withdrawal, that of the region which has left service. -/
theorem QuietJob.withdraw {α : Type} {f : State → α} (h : QuietJob f) (s : State) (r : Nat) (loses planned : Bool) :
    f (s.withdraw r loses planned) = f (if (s.svc r).withdrawn then s else s.leaveService r) := by
  unfold State.withdraw
  split
  · rfl
  · extract_lets s1 s2 s3 s4 s4a s5 _ s6
    have h4 : f s4a = f (s.leaveService r) := foldl_leaves _ _ fun _ _ _ => h.vacate ..
    have h5 : f s5 = f (s.leaveService r) := by
      show f (if _ then _ else _) = _
      split
      · exact (h.loseWell ..).trans h4
      · exact h4
    have h6 : f s6 = f (s.leaveService r) := (h.seq ..).trans h5
    split
    · split
      · exact (h.jobStop ..).trans h6
      · split
        · exact (h.jobStop ..).trans h6
        · split
          · exact h6
          · exact (h.structural ..).trans h6
    · exact h5

theorem State.updSvc_service_congr {s t : State} (h : t.service = s.service) (r : Nat) (f : Service → Service) :
    (t.updSvc r f).service = (s.updSvc r f).service := by
  simp only [State.updSvc, State.setSvc, State.svc, h]

theorem State.leaveService_service (s : State) (r : Nat) : (s.leaveService r).service = (s.updSvc r fun x => { x with
    inService := false, withdrawn := true, fills := [], verify := [], scriptVerify := [], planned := [], portTests := [],
    plannedWithdraw := false }).service := by
  unfold State.leaveService State.setNodes
  dsimp only
  rw [State.updRegion_service, State.updP1_service, State.updRegion_service]
  exact State.updSvc_service_congr ((State.raise_service ..).trans (State.updP1_service ..)) r _

theorem State.leaveService_clusters (s : State) (r : Nat) : (s.leaveService r).clusters = s.clusters := by
  unfold State.leaveService State.setNodes
  dsimp only
  rw [State.updRegion_clusters, State.updP1_clusters, State.updRegion_clusters, State.updSvc_clusters, State.raise_clusters,
    State.updP1_clusters]

theorem State.leaveService_bar (s : State) (r : Nat) {o : Nat} (ho : powerBar o) : (s.leaveService r).bar o = s.bar o := by
  unfold State.leaveService State.setNodes
  dsimp only
  rw [State.updRegion_bar, State.updP1_bar, State.updRegion_bar, State.updSvc_bar, (quiet_bar ho).raise, State.updP1_bar]

/-- What of a region is neither its register file nor what it was doing. -/
theorem State.leaveService_region {α : Type} {g : Region → α} (hp : ∀ x p, g { x with p1 := p } = g x)
    (hn : ∀ x l, g { x with nodes := l } = g x)
    (hd : ∀ x, g { x with epochWaits := [], heldIn := [], combine := [], writing := [] } = g x) (s : State) (r k : Nat) :
    g ((s.leaveService r).region k) = g (s.region k) := by
  have hq := quiet_region hp k
  have hupd (t : State) {f : Region → Region} (hf : ∀ x, g (f x) = g x) : g ((t.updRegion r f).region k) = g (t.region k) := by
    by_cases e : k = r
    · subst e; rw [State.region_updRegion_same, hf]
    · rw [State.region_updRegion_other _ _ e]
  unfold State.leaveService State.setNodes
  dsimp only
  rw [hupd _ fun x => by exact hd x, hq.updP1 _ _ _ (by omega), hupd _ fun x => by exact hn x _, State.updSvc_region, hq.raise,
    hq.updP1 _ _ _ (by omega)]

end Sys2Proof.Machine

/-! PROOFS. Isolation of a region and of the regions of a die (R58, R409, R410, R417). -/

namespace Sys2Proof.Machine

variable {s : State}

/-! ### What a withdrawal leaves -/

theorem State.svc_of_service {t : State} (h : t.service = s.service) (k : Nat) : t.svc k = s.svc k :=
  congrArg (fun x => Sparse.get Service.reset x k) h

theorem State.withdraw_svc_same (s : State) (r : Nat) (loses planned : Bool) :
    let x := (s.withdraw r loses planned).svc r
    x.withdrawn = true ∧ x.gated = (s.svc r).gated ∧ x.isoLow = (s.svc r).isoLow := by
  intro x
  have hx : x = (if (s.svc r).withdrawn then s else s.leaveService r).svc r :=
    State.svc_of_service (quietJob_service.withdraw s r loses planned) r
  rw [hx]
  split
  · next h => exact ⟨h, rfl, rfl⟩
  · rw [State.svc_of_service (s.leaveService_service r), State.svc_updSvc_same]
    exact ⟨rfl, rfl, rfl⟩

theorem State.withdraw_svc_other (s : State) {r k : Nat} (loses planned : Bool) (h : k ≠ r) :
    (s.withdraw r loses planned).svc k = s.svc k := by
  rw [State.svc_of_service (quietJob_service.withdraw s r loses planned)]
  split
  · rfl
  · rw [State.svc_of_service (s.leaveService_service r), State.svc_updSvc_other _ _ h]

theorem State.withdraw_clusters (s : State) (r : Nat) (loses planned : Bool) : (s.withdraw r loses planned).clusters = s.clusters := by
  rw [quietJob_clusters.withdraw]
  split
  · rfl
  · exact s.leaveService_clusters r

theorem State.withdraw_bar (s : State) (r : Nat) (loses planned : Bool) {o : Nat} (ho : powerBar o) :
    (s.withdraw r loses planned).bar o = s.bar o := by
  rw [(quietJob_bar ho).withdraw]
  split
  · rfl
  · exact s.leaveService_bar r ho

theorem State.withdraw_ports (s : State) (r : Nat) (loses planned : Bool) (k : Nat) :
    ((s.withdraw r loses planned).region k).portOff = (s.region k).portOff ∧
      ((s.withdraw r loses planned).region k).detour = (s.region k).detour := by
  have h := (quietJob_region (g := fun x => (x.portOff, x.detour)) (fun _ _ => rfl) k).withdraw s r loses planned
  have hl := s.leaveService_region (g := fun x => (x.portOff, x.detour)) (fun _ _ => rfl) (fun _ _ => rfl) (fun _ => rfl) r k
  refine Prod.mk.inj (h.trans ?_)
  split
  · rfl
  · exact hl

/-! ### Isolation (R409, R410) -/

theorem pwrRegion_inj {r q : Nat} (h : pwrRegion r = pwrRegion q) : r = q := by unfold pwrRegion at h; omega
theorem pwrPll_inj {d e : Nat} (h : pwrPll d = pwrPll e) : d = e := by unfold pwrPll at h; omega
theorem pwrErr_ne_pwrRegion (r : Nat) : pwrErr ≠ pwrRegion r := by unfold pwrErr pwrRegion; omega
theorem pwrErr_ne_pwrPll (d : Nat) : pwrErr ≠ pwrPll d := by unfold pwrErr pwrPll; omega
theorem pwrPll_ne_pwrRegion {d : Nat} (r : Nat) (hd : d < 12) : pwrPll d ≠ pwrRegion r := by unfold pwrPll pwrRegion; omega

@[simp] theorem State.note_svc (s : State) (sub : Nat) (l : List Nat) (k : Nat) : (s.note sub l).svc k = s.svc k := rfl

@[simp] theorem State.isolate_seq (s : State) (r st : Nat) : (s.isolate r st).seq = s.seq := rfl
@[simp] theorem State.isolate_host (s : State) (r st : Nat) : (s.isolate r st).host = s.host := rfl

theorem State.isolate_svc_same (s : State) (r st : Nat) : ((s.isolate r st).svc r).isoLow = true := by
  rw [State.isolate, State.note_svc, State.updBar_svc, State.svc_updSvc_same]

theorem State.isolate_svc_other (s : State) {r k : Nat} (st : Nat) (h : k ≠ r) : (s.isolate r st).svc k = s.svc k := by
  rw [State.isolate, State.note_svc, State.updBar_svc, State.svc_updSvc_other _ _ h]

theorem State.isolate_bar_other (s : State) {r o : Nat} (st : Nat) (h : o ≠ pwrRegion r) : (s.isolate r st).bar o = s.bar o := by
  rw [State.isolate, State.note_bar, State.bar_updBar_other _ _ h, State.updSvc_bar]

theorem State.isolate_regionState (s : State) (r : Nat) {st : Nat} (h : st < 8) : (s.isolate r st).regionState r = st := by
  rw [State.regionState, State.isolate, State.note_bar, State.bar_updBar_same, field_putField_other _ _ (by omega),
    field_putField_same _ _ (by omega)]
  omega

/-- A switch is told by the region's iso_n and its word. -/
theorem State.switchClosed_congr {t : State} {r : Nat} (hs : (t.svc r).isoLow = (s.svc r).isoLow)
    (hb : t.bar (pwrRegion r) = s.bar (pwrRegion r)) : t.switchClosed r = s.switchClosed r := by
  unfold State.switchClosed State.regionState
  rw [hs, hb]

/-! ### The loss of a die (R58, R417) -/

/-- A region isolated with a die. -/
def State.lostWithDie (s : State) (r : Nat) : Prop := (s.svc r).isoLow = true ∧ s.regionState r = 5

/-- One region of a die that is lost. -/
def State.isolateOne (s : State) (r : Nat) : State := if s.switchClosed r then s.isolate r 5 else s

theorem State.isolateDie_eq (s : State) (d : Nat) : s.isolateDie d = (dieRegions d).foldl State.isolateOne s := rfl

theorem State.isolateOne_seq (s : State) (r : Nat) : (s.isolateOne r).seq = s.seq := by unfold State.isolateOne; split <;> rfl
theorem State.isolateOne_host (s : State) (r : Nat) : (s.isolateOne r).host = s.host := by unfold State.isolateOne; split <;> rfl

theorem State.isolateOne_bar_other (s : State) {r o : Nat} (h : o ≠ pwrRegion r) : (s.isolateOne r).bar o = s.bar o := by
  unfold State.isolateOne
  split
  · exact s.isolate_bar_other 5 h
  · rfl

theorem State.isolateOne_svc_other (s : State) {r k : Nat} (h : k ≠ r) : (s.isolateOne r).svc k = s.svc k := by
  unfold State.isolateOne
  split
  · exact s.isolate_svc_other 5 h
  · rfl

theorem State.isolateOne_lost {r : Nat} (h : s.switchClosed r = true ∨ s.lostWithDie r) : (s.isolateOne r).lostWithDie r := by
  unfold State.isolateOne
  split
  · exact ⟨s.isolate_svc_same r 5, s.isolate_regionState r (by omega)⟩
  · next hopen => exact h.resolve_left hopen

theorem State.isolateOne_isoLow {r k : Nat} (h : (s.svc k).isoLow = true) : ((s.isolateOne r).svc k).isoLow = true := by
  by_cases hk : k = r
  · subst hk
    unfold State.isolateOne
    split
    · exact s.isolate_svc_same k 5
    · exact h
  · rwa [s.isolateOne_svc_other hk]

theorem mem_dieRegions {d r : Nat} : r ∈ dieRegions d ↔ r / 4 = d := by
  simp only [dieRegions, List.mem_map, List.mem_range]
  exact ⟨fun ⟨k, hk, e⟩ => by omega, fun h => ⟨r % 4, by omega, by omega⟩⟩

theorem State.isolateDie_seq (s : State) (d : Nat) : (s.isolateDie d).seq = s.seq :=
  foldl_leaves _ _ fun t r _ => t.isolateOne_seq r
theorem State.isolateDie_host (s : State) (d : Nat) : (s.isolateDie d).host = s.host :=
  foldl_leaves _ _ fun t r _ => t.isolateOne_host r

theorem State.isolateDie_bar_other (s : State) {d o : Nat} (h : ∀ r, r / 4 = d → o ≠ pwrRegion r) : (s.isolateDie d).bar o = s.bar o :=
  foldl_leaves (f := fun t => t.bar o) _ _ fun t r hr => t.isolateOne_bar_other (h r (mem_dieRegions.mp hr))

theorem State.isolateDie_svc_other (s : State) {d k : Nat} (h : k / 4 ≠ d) : (s.isolateDie d).svc k = s.svc k :=
  foldl_leaves (f := fun t => t.svc k) _ _ fun t _ hr => t.isolateOne_svc_other fun e => h (e ▸ mem_dieRegions.mp hr)

theorem State.isolateDie_isoLow {d k : Nat} (h : (s.svc k).isoLow = true) : ((s.isolateDie d).svc k).isoLow = true :=
  List.foldlRecOn (motive := fun t : State => (t.svc k).isoLow = true) _ _ h fun _ ht _ _ => State.isolateOne_isoLow ht

/-- Every region of a list whose switch is closed is isolated. -/
theorem State.isolateOnes_lost (l : List Nat) {r : Nat} (h : s.lostWithDie r ∨ s.switchClosed r = true ∧ r ∈ l) :
    (l.foldl State.isolateOne s).lostWithDie r := by
  induction l generalizing s with
  | nil => simpa using h
  | cons q l ih =>
    refine ih ?_
    by_cases hq : r = q
    · subst hq
      exact .inl (State.isolateOne_lost (h.symm.imp_left And.left))
    · have hsvc := s.isolateOne_svc_other hq
      have hbar := s.isolateOne_bar_other (o := pwrRegion r) fun e => hq (pwrRegion_inj e)
      refine h.imp (fun ⟨h1, h2⟩ => ⟨by rwa [hsvc], by rwa [State.regionState, hbar]⟩) fun ⟨h1, h2⟩ => ⟨?_, ?_⟩
      · rwa [State.switchClosed_congr (by rw [hsvc]) hbar]
      · exact (List.mem_cons.mp h2).resolve_left hq

theorem State.isolateDie_lost {d r : Nat} (hr : r / 4 = d) (h : s.switchClosed r = true) : (s.isolateDie d).lostWithDie r := by
  rw [State.isolateDie_eq]
  exact State.isolateOnes_lost _ (.inr ⟨h, mem_dieRegions.mpr hr⟩)

end Sys2Proof.Machine

/-! PROOFS. A switch that trips, a PLL that loses lock, and the switches that firmware opens (R409, R410, R413, R417, Table PWR-6). -/

namespace Sys2Proof.Machine

variable {s : State}

/-! ### The history of shorts and losses, and the events that go with them (R413, R417) -/

/-- An occasion enters the history; the second within 1,000 operating hours retires its regions. -/
def State.strikeOut (s : State) (k : TestTarget) (l : List Nat) (kind code : Nat) : State :=
  (if s.struckBefore k then l.foldl (fun t r => t.retireRegion r kind code) s else s).strike k

theorem State.strikeOut_leaves {α : Type} {f : State → α} (hr : ∀ t r kind code, f (State.retireRegion t r kind code) = f t)
    (hs : ∀ t k, f (State.strike t k) = f t) (s : State) (k : TestTarget) (l : List Nat) (kind code : Nat) :
    f (s.strikeOut k l kind code) = f s := by
  unfold State.strikeOut
  rw [hs]
  split
  · exact foldl_leaves _ _ fun _ _ _ => hr ..
  · rfl

theorem State.strikeOut_bar (s : State) (k : TestTarget) (l : List Nat) (kind code o : Nat) :
    (s.strikeOut k l kind code).bar o = s.bar o :=
  State.strikeOut_leaves (f := fun t => t.bar o) (fun _ _ _ _ => rfl) (fun _ _ => rfl) ..
theorem State.strikeOut_seq (s : State) (k : TestTarget) (l : List Nat) (kind code : Nat) : (s.strikeOut k l kind code).seq = s.seq :=
  State.strikeOut_leaves (f := State.seq) (fun _ _ _ _ => rfl) (fun _ _ => rfl) ..
theorem State.strikeOut_host (s : State) (k : TestTarget) (l : List Nat) (kind code : Nat) : (s.strikeOut k l kind code).host = s.host :=
  State.strikeOut_leaves (f := State.host) (fun _ _ _ _ => rfl) (fun _ _ => rfl) ..

theorem State.retireRegion_isoLow (s : State) (r kind code q : Nat) : ((s.retireRegion r kind code).svc q).isoLow = (s.svc q).isoLow := by
  rw [State.retireRegion, State.note_svc]
  by_cases h : q = r
  · subst h
    rw [State.svc_updSvc_same]
  · rw [State.svc_updSvc_other _ _ h]

theorem State.strikeOut_isoLow (s : State) (k : TestTarget) (l : List Nat) (kind code q : Nat) :
    ((s.strikeOut k l kind code).svc q).isoLow = (s.svc q).isoLow :=
  State.strikeOut_leaves (f := fun t => (t.svc q).isoLow) (fun t r kind code => t.retireRegion_isoLow r kind code q) (fun _ _ => rfl) ..

@[simp] theorem State.dieRaise_seq (s : State) (r b code : Nat) : (s.dieRaise r b code).seq = s.seq := rfl
theorem State.dieRaise_bar (s : State) (r b code o : Nat) : (s.dieRaise r b code).bar o = (s.seeBar pwrErr b).bar o := rfl
theorem State.dieRaise_raisedOne (s : State) (r b code : Nat) : raisedOne s (s.dieRaise r b code) code srcManagement 0xFFFF :=
  ⟨_, rfl, rfl, rfl, rfl⟩

@[simp] theorem State.pwrSeen_seq (s : State) (b code : Nat) : (s.pwrSeen b code).seq = s.seq := rfl
@[simp] theorem State.pwrSeen_svc (s : State) (b code k : Nat) : (s.pwrSeen b code).svc k = s.svc k := rfl
theorem State.pwrSeen_bar (s : State) (b code o : Nat) : (s.pwrSeen b code).bar o = (s.seeBar pwrErr b).bar o := rfl
theorem State.pwrSeen_raisedOne (s : State) (b code : Nat) : raisedOne s (s.pwrSeen b code) code srcManagement 0xFFFF :=
  ⟨_, rfl, rfl, rfl, rfl⟩

@[simp] theorem State.stepAbort_svc (s : State) (code k : Nat) : (s.stepAbort code).svc k = s.svc k := by
  unfold State.stepAbort; split <;> rfl
@[simp] theorem State.stepAbort_bar (s : State) (code o : Nat) : (s.stepAbort code).bar o = s.bar o := by
  unfold State.stepAbort; split <;> rfl
@[simp] theorem State.stepAbort_host (s : State) (code : Nat) : (s.stepAbort code).host = s.host := by
  unfold State.stepAbort; split <;> rfl
theorem State.stepAbort_reports (code : Nat) (h : s.seq.running = true) : (s.stepAbort code).reports code := by
  rw [State.stepAbort, if_pos h]
  exact State.report_reports ..

/-- Events are compared by the host engine alone. -/
theorem raisedOne.of_host {t s' t' : State} {code source subject : Nat} (h : raisedOne s' t' code source subject)
    (hs : s'.host = s.host) (ht : t.host = t'.host) : raisedOne s t code source subject := by
  unfold raisedOne at *
  rwa [hs, ← ht] at h

/-! ### A switch that trips (R409, R410, Table PWR-6) -/

/-- The trip with its own event, before T3 is looked at. -/
def State.tripSwitch (s : State) (r : Nat) : State := ((s.strikeOut (shortOf r) [r] 5 0x502).isolate r 3).dieRaise r 5 0x502

/-- T3 in the same reading adds its mark and its event. -/
def State.markT3 (s : State) (r : Nat) : State := (s.updBar (pwrRegion r) fun w => putField w 4 1 1).dieRaise r 4 0x503

theorem State.isolationTrip_eq {r : Nat} (t3 : Bool) (h : s.switchClosed r = true) :
    s.isolationTrip r t3 = (if t3 then (s.tripSwitch r).markT3 r else s.tripSwitch r).stepAbort 0x502 := by
  rw [State.isolationTrip, if_neg (by simp [h])]
  rfl

theorem State.tripSwitch_seq (s : State) (r : Nat) : (s.tripSwitch r).seq = s.seq := by
  rw [State.tripSwitch, State.dieRaise_seq, State.isolate_seq, State.strikeOut_seq]

theorem State.tripSwitch_isoLow (s : State) (r : Nat) : ((s.tripSwitch r).svc r).isoLow = true := State.isolate_svc_same ..

theorem State.tripSwitch_regionState (s : State) (r : Nat) : (s.tripSwitch r).regionState r = 3 := by
  rw [State.regionState, State.tripSwitch, State.dieRaise_bar, State.bar_seeBar_other _ _ (pwrErr_ne_pwrRegion r).symm]
  exact State.isolate_regionState _ r (by omega)

theorem State.tripSwitch_pwrErr (s : State) (r : Nat) : field ((s.tripSwitch r).bar pwrErr) 5 1 = 1 := by
  rw [State.tripSwitch, State.dieRaise_bar, State.bar_seeBar_same]
  exact field_putField_same _ _ (by omega)

theorem State.tripSwitch_raisedOne (s : State) (r : Nat) : raisedOne s (s.tripSwitch r) 0x502 srcManagement 0xFFFF :=
  (State.dieRaise_raisedOne ((s.strikeOut (shortOf r) [r] 5 0x502).isolate r 3) r 5 0x502).of_host
    ((State.isolate_host ..).trans (State.strikeOut_host ..)) rfl

theorem State.markT3_bar_region (s : State) (r : Nat) : (s.markT3 r).bar (pwrRegion r) = putField (s.bar (pwrRegion r)) 4 1 1 := by
  rw [State.markT3, State.dieRaise_bar, State.bar_seeBar_other _ _ (pwrErr_ne_pwrRegion r).symm, State.bar_updBar_same]

theorem State.markT3_bar_pwrErr (s : State) (r : Nat) : (s.markT3 r).bar pwrErr = putField (s.bar pwrErr) 4 1 1 := by
  rw [State.markT3, State.dieRaise_bar, State.bar_seeBar_same, State.bar_updBar_other _ _ (pwrErr_ne_pwrRegion r)]

theorem State.markT3_svc (s : State) (r k : Nat) : (s.markT3 r).svc k = s.svc k := rfl

/-- Clause on `isolationTrip`: the region is isolated by its short, whether or not T3 was met. -/
theorem State.isolationTrip_isolates {r : Nat} (t3 : Bool) (h : s.switchClosed r = true) :
    ((s.isolationTrip r t3).svc r).isoLow = true ∧ (s.isolationTrip r t3).regionState r = 3 ∧
      field ((s.isolationTrip r t3).bar pwrErr) 5 1 = 1 := by
  rw [State.isolationTrip_eq t3 h, State.regionState, State.stepAbort_svc, State.stepAbort_bar, State.stepAbort_bar]
  cases t3 with
  | false => exact ⟨s.tripSwitch_isoLow r, s.tripSwitch_regionState r, s.tripSwitch_pwrErr r⟩
  | true =>
    refine ⟨?_, ?_, ?_⟩
    · rw [if_pos rfl, State.markT3_svc]
      exact s.tripSwitch_isoLow r
    · rw [if_pos rfl, State.markT3_bar_region, field_putField_other _ _ (by omega)]
      exact s.tripSwitch_regionState r
    · rw [if_pos rfl, State.markT3_bar_pwrErr, field_putField_other _ _ (by omega)]
      exact s.tripSwitch_pwrErr r

theorem State.isolationTrip_marksT3 {r : Nat} (h : s.switchClosed r = true) :
    field ((s.isolationTrip r true).bar (pwrRegion r)) 4 1 = 1 ∧ field ((s.isolationTrip r true).bar pwrErr) 4 1 = 1 := by
  rw [State.isolationTrip_eq true h, State.stepAbort_bar, State.stepAbort_bar, if_pos rfl, State.markT3_bar_region,
    State.markT3_bar_pwrErr, field_putField_same _ _ (by omega), field_putField_same _ _ (by omega)]
  exact ⟨rfl, rfl⟩

theorem State.isolationTrip_raisedOne {r : Nat} (h : s.switchClosed r = true) :
    raisedOne s (s.isolationTrip r false) 0x502 srcManagement 0xFFFF := by
  rw [State.isolationTrip_eq false h]
  exact (s.tripSwitch_raisedOne r).of_host rfl (State.stepAbort_host ..)

theorem State.isolationTrip_reports {r : Nat} (t3 : Bool) (h : s.switchClosed r = true) (hrun : s.seq.running = true) :
    (s.isolationTrip r t3).reports 0x502 := by
  rw [State.isolationTrip_eq t3 h]
  refine State.stepAbort_reports _ ?_
  have htrip : (s.tripSwitch r).seq.running = true := by rw [State.tripSwitch_seq, hrun]
  cases t3 <;> exact htrip

/-! ### A PLL that loses lock (R417) -/

/-- The loss is recorded: history, lock bit, count. -/
def State.loseLock (s : State) (d : Nat) : State :=
  (s.strikeOut (lossOf d) (dieRegions d) 6 0x504).updBar (pwrPll d) fun w => bumpField (putField w 0 1 0) 8 8

theorem State.pllLoss_eq {d : Nat} (h : field (s.bar (pwrPll d)) 0 1 ≠ 0) :
    s.pllLoss d = (((s.loseLock d).isolateDie d).pwrSeen 7 0x504).stepAbort 0x504 := by
  rw [State.pllLoss, if_neg h]
  rfl

theorem State.loseLock_bar_same (s : State) (d : Nat) :
    (s.loseLock d).bar (pwrPll d) = bumpField (putField (s.bar (pwrPll d)) 0 1 0) 8 8 := by
  rw [State.loseLock, State.bar_updBar_same, State.strikeOut_bar]

theorem State.loseLock_bar_other (s : State) {d o : Nat} (h : o ≠ pwrPll d) : (s.loseLock d).bar o = s.bar o := by
  rw [State.loseLock, State.bar_updBar_other _ _ h, State.strikeOut_bar]

theorem State.loseLock_isoLow (s : State) (d k : Nat) : ((s.loseLock d).svc k).isoLow = (s.svc k).isoLow := by
  rw [State.loseLock, State.updBar_svc, State.strikeOut_isoLow]

theorem State.loseLock_seq (s : State) (d : Nat) : (s.loseLock d).seq = s.seq := by
  rw [State.loseLock, State.updBar_seq, State.strikeOut_seq]

theorem State.loseLock_host (s : State) (d : Nat) : (s.loseLock d).host = s.host := by
  rw [State.loseLock, State.updBar_host, State.strikeOut_host]

theorem State.loseLock_switchClosed (s : State) {d : Nat} (hd : d < 12) (r : Nat) :
    (s.loseLock d).switchClosed r = s.switchClosed r :=
  State.switchClosed_congr (s.loseLock_isoLow d r) (s.loseLock_bar_other (pwrPll_ne_pwrRegion r hd).symm)

/-- No register of another kind than PWR_REGION and PWR_ERR shows the isolation or the event. -/
theorem State.pllLoss_bar_other {d o : Nat} (h : field (s.bar (pwrPll d)) 0 1 ≠ 0) (he : o ≠ pwrErr) (ho : ∀ r, o ≠ pwrRegion r) :
    (s.pllLoss d).bar o = (s.loseLock d).bar o := by
  rw [State.pllLoss_eq h, State.stepAbort_bar, State.pwrSeen_bar, State.bar_seeBar_other _ _ he,
    State.isolateDie_bar_other _ fun r _ => ho r]

theorem State.pllLoss_bar_pll {d : Nat} (hd : d < 12) (h : field (s.bar (pwrPll d)) 0 1 ≠ 0) :
    (s.pllLoss d).bar (pwrPll d) = bumpField (putField (s.bar (pwrPll d)) 0 1 0) 8 8 := by
  rw [State.pllLoss_bar_other h (pwrErr_ne_pwrPll d).symm fun r => pwrPll_ne_pwrRegion r hd, State.loseLock_bar_same]

/-- The bit that says locked is 0 and the losses are counted. -/
theorem State.pllLoss_counts {d : Nat} (hd : d < 12) (h : field (s.bar (pwrPll d)) 0 1 = 1) :
    field ((s.pllLoss d).bar (pwrPll d)) 0 1 = 0 ∧
      field ((s.pllLoss d).bar (pwrPll d)) 8 8 = min (field (s.bar (pwrPll d)) 8 8 + 1) 255 := by
  rw [State.pllLoss_bar_pll hd (by omega), field_bumpField_other _ (by omega), field_putField_same _ _ (by omega),
    field_bumpField_same _ (by omega), field_putField_other _ _ (by omega)]
  exact ⟨rfl, rfl⟩

theorem State.pllLoss_raisedOne {d : Nat} (h : field (s.bar (pwrPll d)) 0 1 ≠ 0) :
    raisedOne s (s.pllLoss d) 0x504 srcManagement 0xFFFF := by
  rw [State.pllLoss_eq h]
  exact (State.pwrSeen_raisedOne ((s.loseLock d).isolateDie d) 7 0x504).of_host
    ((State.isolateDie_host ..).trans (s.loseLock_host d)) (State.stepAbort_host ..)

theorem State.pllLoss_reports {d : Nat} (h : field (s.bar (pwrPll d)) 0 1 ≠ 0) (hrun : s.seq.running = true) :
    (s.pllLoss d).reports 0x504 := by
  rw [State.pllLoss_eq h]
  refine State.stepAbort_reports _ ?_
  rw [State.pwrSeen_seq, State.isolateDie_seq, State.loseLock_seq, hrun]

/-- The regions of the die whose switches were closed are isolated. -/
theorem State.pllLoss_lost {d r : Nat} (hd : d < 12) (h : field (s.bar (pwrPll d)) 0 1 ≠ 0) (hr : r / 4 = d)
    (hclosed : s.switchClosed r = true) : (s.pllLoss d).lostWithDie r := by
  rw [State.pllLoss_eq h, State.lostWithDie, State.regionState, State.stepAbort_svc, State.stepAbort_bar, State.pwrSeen_svc,
    State.pwrSeen_bar, State.bar_seeBar_other _ _ (pwrErr_ne_pwrRegion r).symm]
  exact State.isolateDie_lost hr (by rwa [s.loseLock_switchClosed hd])

/-! ### The switches of a die that firmware opens (R417) -/

/-- One region of a die whose lock is lost. -/
def State.openOne (s : State) (r : Nat) : State :=
  if (s.svc r).isoLow ∧ s.regionState r = 5 then s.updSvc r fun x => { x with switchOpen := true } else s

theorem State.openSwitches_eq (s : State) (d : Nat) : s.openSwitches d = (dieRegions d).foldl State.openOne s := rfl

theorem State.openOne_bar (s : State) (r o : Nat) : (s.openOne r).bar o = s.bar o := by
  unfold State.openOne; split <;> rfl

theorem State.openOne_svc_other (s : State) {r k : Nat} (h : k ≠ r) : (s.openOne r).svc k = s.svc k := by
  unfold State.openOne
  split
  · exact State.svc_updSvc_other _ _ h
  · rfl

theorem State.openOne_switchOpen {r : Nat} (h : s.lostWithDie r) : ((s.openOne r).svc r).switchOpen = true := by
  rw [State.openOne, if_pos ⟨h.1, h.2⟩, State.svc_updSvc_same]

theorem State.openOne_lost {r k : Nat} (h : s.lostWithDie k) : (s.openOne r).lostWithDie k := by
  obtain ⟨hiso, hst⟩ := h
  refine ⟨?_, by rwa [State.regionState, State.openOne_bar]⟩
  by_cases hk : k = r
  · subst hk
    rwa [State.openOne, if_pos ⟨hiso, hst⟩, State.svc_updSvc_same]
  · rwa [s.openOne_svc_other hk]

theorem State.openOne_keeps {r k : Nat} (h : (s.svc k).switchOpen = true) : ((s.openOne r).svc k).switchOpen = true := by
  by_cases hk : k = r
  · subst hk
    unfold State.openOne
    split
    · rw [State.svc_updSvc_same]
    · exact h
  · rwa [s.openOne_svc_other hk]

/-- Of a list of regions, those that were isolated with their die have their switches open. -/
theorem State.openOnes_switchOpen (l : List Nat) {r : Nat} (h : (s.svc r).switchOpen = true ∨ s.lostWithDie r ∧ r ∈ l) :
    ((l.foldl State.openOne s).svc r).switchOpen = true := by
  induction l generalizing s with
  | nil => simpa using h
  | cons q l ih =>
    refine ih ?_
    rcases h with h | ⟨hlost, hmem⟩
    · exact .inl (State.openOne_keeps h)
    · rcases List.mem_cons.mp hmem with rfl | hmem
      · exact .inl (State.openOne_switchOpen hlost)
      · exact .inr ⟨State.openOne_lost hlost, hmem⟩

theorem State.openSwitches_switchOpen {d r : Nat} (hr : r / 4 = d) (h : s.lostWithDie r) :
    ((s.openSwitches d).svc r).switchOpen = true := by
  rw [State.openSwitches_eq]
  exact State.openOnes_switchOpen _ (.inr ⟨h, mem_dieRegions.mpr hr⟩)

end Sys2Proof.Machine

/-! PROOFS. A gated spine, the detours around it, and the loss of the reference (R407, R410 to R412, R474). -/

namespace Sys2Proof.Machine

variable {s : State}

/-! ### A spine that is gated (R407, R410) -/

/-- The clocks of a region's clusters are gated. -/
def State.gateClocks (s : State) (r : Nat) : State := (regionClusters r).foldl State.gateClock s

/-- The cluster's clock stands at `n`. -/
def State.standsAt (s : State) (c n : Nat) : Prop := (s.cluster c).stopped = true ∧ (s.cluster c).cycBase = n

theorem mem_regionClusters {r c : Nat} (h : c / 20 = r) : c ∈ regionClusters r :=
  List.mem_map.mpr ⟨c % 20, List.mem_range.mpr (by omega), by omega⟩

theorem State.standsAt.aclkOf {c n : Nat} (h : s.standsAt c n) : s.aclkOf c = n := by
  obtain ⟨hstop, hbase⟩ := h
  rw [State.aclkOf, Cluster.cycles, if_pos hstop, hbase]

theorem State.gateClock_standsAt (s : State) (c : Nat) : (s.gateClock c).standsAt c (s.aclkOf c) := by
  unfold State.standsAt
  rw [State.gateClock_cluster_same]
  exact ⟨rfl, rfl⟩

theorem State.gateClock_cluster_other (s : State) {c k : Nat} (h : k ≠ c) : (s.gateClock c).cluster k = s.cluster k :=
  State.cluster_updCluster_other s _ h

/-- A clock that is gated stands at the count that it had. -/
theorem State.gateClock_aclkOf (s : State) (c k : Nat) : (s.gateClock c).aclkOf k = s.aclkOf k := by
  by_cases h : k = c
  · subst h
    exact (s.gateClock_standsAt k).aclkOf
  · rw [State.aclkOf, s.gateClock_cluster_other h]
    rfl

theorem State.gateClock_keeps {c k n : Nat} (h : s.standsAt k n) : (s.gateClock c).standsAt k n := by
  by_cases hk : k = c
  · subst hk
    have hgate := s.gateClock_standsAt k
    rwa [h.aclkOf] at hgate
  · unfold State.standsAt
    rwa [s.gateClock_cluster_other hk]

theorem State.gateClockList_standsAt (l : List Nat) {c n : Nat} (h : s.standsAt c n ∨ s.aclkOf c = n ∧ c ∈ l) :
    (l.foldl State.gateClock s).standsAt c n := by
  induction l generalizing s with
  | nil => simpa using h
  | cons k l ih =>
    refine ih ?_
    rcases h with h | ⟨hn, hmem⟩
    · exact .inl (State.gateClock_keeps h)
    · rcases List.mem_cons.mp hmem with rfl | hmem
      · exact .inl (hn ▸ s.gateClock_standsAt c)
      · exact .inr ⟨(s.gateClock_aclkOf k c).trans hn, hmem⟩

theorem State.gateClocks_standsAt (s : State) {r c : Nat} (h : c / 20 = r) : (s.gateClocks r).standsAt c (s.aclkOf c) :=
  State.gateClockList_standsAt _ (.inr ⟨rfl, mem_regionClusters h⟩)

theorem State.gateClocks_svc (s : State) (r k : Nat) : (s.gateClocks r).svc k = s.svc k :=
  foldl_leaves (f := fun t => t.svc k) _ _ fun _ _ _ => rfl
theorem State.gateClocks_bar (s : State) (r o : Nat) : (s.gateClocks r).bar o = s.bar o :=
  foldl_leaves (f := fun t => t.bar o) _ _ fun _ _ _ => rfl
theorem State.gateClocks_region (s : State) (r k : Nat) : (s.gateClocks r).region k = s.region k :=
  foldl_leaves (f := fun t => t.region k) _ _ fun _ _ _ => rfl

/-! ### Detours around a region (R411, R412) -/

theorem portToward_lt {n r : Nat} (h : adjacent n r = true) : portToward n r < 4 := by
  simp only [adjacent, Bool.or_eq_true, Bool.and_eq_true, beq_iff_eq] at h
  unfold portToward dimOrder
  split_ifs
  · decide
  · decide
  · decide
  · decide
  · omega

/-- The router of `n` has its port toward `r` off and follows the detour table of `d`. -/
def State.detours (s : State) (n r d : Nat) : Prop :=
  (s.region n).portOff.getLsbD (portToward n r) = true ∧ (s.region n).detour = some d

/-- A router that meets the alert takes the detour table unless it is on one. -/
theorem State.detourRouter_detours {n r d : Nat} (hp : portToward n r < 4) (hd : (s.region n).detour.getD r = d) :
    (s.detourRouter n r).detours n r d := by
  unfold State.detours State.detourRouter
  rw [State.region_updRegion_same]
  refine ⟨?_, ?_⟩
  · rw [getLsbD_putField, if_pos (by omega)]
    simp [hp]
  · cases he : (s.region n).detour with
    | none => simpa [he] using hd
    | some e => simpa [he] using hd

theorem State.detourRouter_region_other (s : State) {n k : Nat} (r : Nat) (h : k ≠ n) :
    (s.detourRouter n r).region k = s.region k :=
  State.region_updRegion_other _ _ h

theorem State.detourRouters_detours (l : List Nat) {n r d : Nat} (hp : portToward n r < 4)
    (h : s.detours n r d ∨ (s.region n).detour.getD r = d ∧ n ∈ l) :
    (l.foldl (fun t k => t.detourRouter k r) s).detours n r d := by
  induction l generalizing s with
  | nil => simpa using h
  | cons k l ih =>
    refine ih ?_
    by_cases hk : n = k
    · subst hk
      exact .inl (State.detourRouter_detours hp (h.elim (fun h => by rw [h.2, Option.getD_some]) And.left))
    · unfold State.detours
      rw [s.detourRouter_region_other r hk]
      exact h.imp_right fun ⟨hd, hmem⟩ => ⟨hd, (List.mem_cons.mp hmem).resolve_left hk⟩

/-- What the alert of a region does before clocks are gated: messages dropped, the spine gated, the neighbours on their detours. -/
def State.alertNeighbours (s : State) (r : Nat) (queued : List Nat) : State :=
  ((List.range 48).filter fun n => adjacent n r && !(s.svc n).gated).foldl (fun t n => t.detourRouter n r)
    ((s.dropQueued r queued).updSvc r fun x => { x with
      gated := true, switchOpen := x.switchOpen || s.regionState r == 3 || s.regionState r == 4 })

theorem State.detourSwitch_eq {r : Nat} (queued : List Nat) (hiso : (s.svc r).isoLow = true) (hgate : (s.svc r).gated = false) :
    s.detourSwitch r queued = ((s.alertNeighbours r queued).gateClocks r).withdraw r true false := by
  rw [State.detourSwitch, if_neg (by simp [hiso, hgate])]
  rfl

/-- What neither a router nor the gating of the spine shows. -/
theorem State.alertNeighbours_aclkOf (s : State) (r : Nat) (queued : List Nat) (c : Nat) :
    (s.alertNeighbours r queued).aclkOf c = s.aclkOf c :=
  foldl_leaves (f := fun t => t.aclkOf c) _ _ fun _ _ _ => rfl

theorem State.alertNeighbours_gated (s : State) (r : Nat) (queued : List Nat) : ((s.alertNeighbours r queued).svc r).gated = true := by
  have hsvc : (s.alertNeighbours r queued).svc r = _ := foldl_leaves (f := fun t => t.svc r) _ _ fun _ _ _ => rfl
  rw [hsvc, State.svc_updSvc_same]

theorem State.alertNeighbours_detours {n r : Nat} (queued : List Nat) (hn : n < 48) (hadj : adjacent n r = true)
    (hon : (s.svc n).gated = false) : (s.alertNeighbours r queued).detours n r ((s.region n).detour.getD r) :=
  State.detourRouters_detours _ (portToward_lt hadj)
    (.inr ⟨rfl, List.mem_filter.mpr ⟨List.mem_range.mpr hn, by simp [hadj, hon]⟩⟩)

theorem State.detourSwitch_svc {r : Nat} (queued : List Nat) (hiso : (s.svc r).isoLow = true) (hgate : (s.svc r).gated = false) :
    ((s.detourSwitch r queued).svc r).gated = true ∧ ((s.detourSwitch r queued).svc r).withdrawn = true := by
  obtain ⟨hwith, hgated, -⟩ := ((s.alertNeighbours r queued).gateClocks r).withdraw_svc_same r true false
  rw [State.detourSwitch_eq queued hiso hgate]
  exact ⟨by rw [hgated, State.gateClocks_svc, State.alertNeighbours_gated], hwith⟩

theorem State.detourSwitch_standsAt {r c : Nat} (queued : List Nat) (hiso : (s.svc r).isoLow = true) (hgate : (s.svc r).gated = false)
    (hc : c / 20 = r) : (s.detourSwitch r queued).standsAt c (s.aclkOf c) := by
  have hcl : (s.detourSwitch r queued).cluster c = ((s.alertNeighbours r queued).gateClocks r).cluster c := by
    rw [State.detourSwitch_eq queued hiso hgate, State.cluster, State.withdraw_clusters]
    rfl
  have hstand := (s.alertNeighbours r queued).gateClocks_standsAt hc
  rw [State.alertNeighbours_aclkOf] at hstand
  unfold State.standsAt
  rwa [hcl]

theorem State.detourSwitch_detours {n r : Nat} (queued : List Nat) (hiso : (s.svc r).isoLow = true) (hgate : (s.svc r).gated = false)
    (hn : n < 48) (hadj : adjacent n r = true) (hon : (s.svc n).gated = false) :
    (s.detourSwitch r queued).detours n r ((s.region n).detour.getD r) := by
  obtain ⟨hport, hdetour⟩ := ((s.alertNeighbours r queued).gateClocks r).withdraw_ports r true false n
  unfold State.detours
  rw [State.detourSwitch_eq queued hiso hgate, hport, hdetour, State.gateClocks_region]
  exact State.alertNeighbours_detours queued hn hadj hon

/-! ### The reference is gone (R474) -/

theorem State.pllLoss_unlocked {d : Nat} (h : field (s.bar (pwrPll d)) 0 1 = 0) : s.pllLoss d = s := by
  rw [State.pllLoss, if_pos h]

/-- No die finds its lock again while others lose theirs. -/
theorem State.pllLoss_keeps_unlocked {d e : Nat} (hd : d < 12) (he : e < 12) (h : d = e ∨ field (s.bar (pwrPll d)) 0 1 = 0) :
    field ((s.pllLoss e).bar (pwrPll d)) 0 1 = 0 := by
  by_cases hlock : field (s.bar (pwrPll e)) 0 1 = 0
  · rw [State.pllLoss_unlocked hlock]
    exact h.elim (fun e => e ▸ hlock) id
  · by_cases hde : d = e
    · subst hde
      have := field_lt (s.bar (pwrPll d)) 0 1
      exact (State.pllLoss_counts hd (by omega)).1
    · rw [State.pllLoss_bar_other hlock (pwrErr_ne_pwrPll d).symm fun r => pwrPll_ne_pwrRegion r hd,
        s.loseLock_bar_other fun h => hde (pwrPll_inj h)]
      exact h.resolve_left hde

theorem State.pllLosses_unlocked (l : List Nat) {d : Nat} (hd : d < 12) (hl : ∀ e ∈ l, e < 12)
    (h : field (s.bar (pwrPll d)) 0 1 = 0 ∨ d ∈ l) : field ((l.foldl State.pllLoss s).bar (pwrPll d)) 0 1 = 0 := by
  induction l generalizing s with
  | nil => simpa using h
  | cons e l ih =>
    obtain ⟨he, hl⟩ := List.forall_mem_cons.mp hl
    refine ih hl ?_
    by_cases hde : d = e ∨ field (s.bar (pwrPll d)) 0 1 = 0
    · exact .inl (State.pllLoss_keeps_unlocked hd he hde)
    · obtain ⟨hne, hlock⟩ := not_or.mp hde
      exact .inr ((List.mem_cons.mp (h.resolve_left hlock)).resolve_left hne)

theorem State.pllLoss_isoLow {d r : Nat} (h : (s.svc r).isoLow = true) : ((s.pllLoss d).svc r).isoLow = true := by
  by_cases hlock : field (s.bar (pwrPll d)) 0 1 = 0
  · rwa [State.pllLoss_unlocked hlock]
  · rw [State.pllLoss_eq hlock, State.stepAbort_svc, State.pwrSeen_svc]
    exact State.isolateDie_isoLow (by rwa [State.loseLock_isoLow])

/-- A region of another die keeps its switch, and that die its lock. -/
theorem State.pllLoss_other_die {d r : Nat} (hd : d < 12) (hr : r < 48) (h : r / 4 ≠ d) :
    (s.pllLoss d).switchClosed r = s.switchClosed r ∧ (s.pllLoss d).bar (pwrPll (r / 4)) = s.bar (pwrPll (r / 4)) := by
  by_cases hlock : field (s.bar (pwrPll d)) 0 1 = 0
  · rw [State.pllLoss_unlocked hlock]
    exact ⟨rfl, rfl⟩
  refine ⟨State.switchClosed_congr ?_ ?_, ?_⟩
  · rw [State.pllLoss_eq hlock, State.stepAbort_svc, State.pwrSeen_svc, State.isolateDie_svc_other _ h, State.loseLock_isoLow]
  · rw [State.pllLoss_eq hlock, State.stepAbort_bar, State.pwrSeen_bar, State.bar_seeBar_other _ _ (pwrErr_ne_pwrRegion r).symm,
      State.isolateDie_bar_other _ fun q hq e => h ((congrArg (· / 4) (pwrRegion_inj e)).trans hq),
      s.loseLock_bar_other (pwrPll_ne_pwrRegion r hd).symm]
  · rw [State.pllLoss_bar_other hlock (pwrErr_ne_pwrPll _).symm fun q => pwrPll_ne_pwrRegion q (by omega),
      s.loseLock_bar_other fun e => h (pwrPll_inj e)]

/-- A region with a closed switch is isolated when its die is among those that lose their locks. -/
theorem State.pllLosses_isoLow (l : List Nat) {r : Nat} (hr : r < 48) (hl : ∀ d ∈ l, d < 12)
    (h : (s.svc r).isoLow = true ∨ s.switchClosed r = true ∧ field (s.bar (pwrPll (r / 4))) 0 1 = 1 ∧ r / 4 ∈ l) :
    ((l.foldl State.pllLoss s).svc r).isoLow = true := by
  induction l generalizing s with
  | nil => simpa using h
  | cons d l ih =>
    obtain ⟨hd, hl⟩ := List.forall_mem_cons.mp hl
    refine ih hl ?_
    rcases h with h | ⟨hclosed, hlock, hmem⟩
    · exact .inl (State.pllLoss_isoLow h)
    · by_cases hrd : r / 4 = d
      · have hlost := State.pllLoss_lost hd (by rw [← hrd]; omega) hrd hclosed
        exact .inl hlost.1
      · obtain ⟨hswitch, hbar⟩ := State.pllLoss_other_die (s := s) hd hr hrd
        exact .inr ⟨hswitch.trans hclosed, by rw [hbar, hlock], (List.mem_cons.mp hmem).resolve_left hrd⟩

/-- A region that has lost its die is withdrawn, its spine gated. -/
def State.loseSpine (s : State) (r : Nat) : State :=
  if (s.svc r).isoLow then ((s.updSvc r fun x => { x with gated := true }).gateClocks r).withdraw r true false else s

/-- Isolated, gated and withdrawn. -/
def State.spineLost (s : State) (r : Nat) : Prop :=
  (s.svc r).isoLow = true ∧ (s.svc r).gated = true ∧ (s.svc r).withdrawn = true

theorem State.referenceLoss_eq (s : State) :
    s.referenceLoss = (List.range 48).foldl State.loseSpine ((List.range 12).foldl State.pllLoss s) := rfl

theorem State.loseSpine_bar (s : State) (r : Nat) {o : Nat} (ho : powerBar o) : (s.loseSpine r).bar o = s.bar o := by
  unfold State.loseSpine
  split
  · rw [State.withdraw_bar _ r true false ho, State.gateClocks_bar, State.updSvc_bar]
  · rfl

theorem State.loseSpine_svc_other (s : State) {r k : Nat} (h : k ≠ r) : (s.loseSpine r).svc k = s.svc k := by
  unfold State.loseSpine
  split
  · rw [State.withdraw_svc_other _ true false h, State.gateClocks_svc, State.svc_updSvc_other _ _ h]
  · rfl

theorem State.loseSpine_spineLost {r : Nat} (h : (s.svc r).isoLow = true) : (s.loseSpine r).spineLost r := by
  obtain ⟨hwith, hgated, hiso⟩ := ((s.updSvc r fun x => { x with gated := true }).gateClocks r).withdraw_svc_same r true false
  rw [State.gateClocks_svc, State.svc_updSvc_same] at hgated hiso
  rw [State.loseSpine, if_pos h]
  exact ⟨hiso.trans h, hgated, hwith⟩

theorem State.loseSpines_spineLost (l : List Nat) {r : Nat} (h : s.spineLost r ∨ (s.svc r).isoLow = true ∧ r ∈ l) :
    (l.foldl State.loseSpine s).spineLost r := by
  induction l generalizing s with
  | nil => simpa using h
  | cons q l ih =>
    refine ih ?_
    by_cases hq : r = q
    · subst hq
      exact .inl (State.loseSpine_spineLost (h.elim And.left And.left))
    · unfold State.spineLost
      rw [s.loseSpine_svc_other hq]
      exact h.imp_right fun ⟨hiso, hmem⟩ => ⟨hiso, (List.mem_cons.mp hmem).resolve_left hq⟩

theorem State.referenceLoss_unlocked (s : State) {d : Nat} (hd : d < 12) : field (s.referenceLoss.bar (pwrPll d)) 0 1 = 0 := by
  have hbar : s.referenceLoss.bar (pwrPll d) = ((List.range 12).foldl State.pllLoss s).bar (pwrPll d) :=
    foldl_leaves (f := fun t => t.bar (pwrPll d)) _ _ fun t r _ => t.loseSpine_bar r (powerBar_pwrPll hd)
  rw [hbar]
  exact State.pllLosses_unlocked _ hd (fun _ => List.mem_range.mp) (.inr (List.mem_range.mpr hd))

theorem State.referenceLoss_spineLost {r : Nat} (hr : r < 48) (hlock : field (s.bar (pwrPll (r / 4))) 0 1 = 1)
    (hclosed : s.switchClosed r = true) : s.referenceLoss.spineLost r := by
  rw [State.referenceLoss_eq]
  exact State.loseSpines_spineLost _ (.inr ⟨State.pllLosses_isoLow _ hr (fun _ => List.mem_range.mp)
    (.inr ⟨hclosed, hlock, List.mem_range.mpr (by omega)⟩), List.mem_range.mpr hr⟩)

end Sys2Proof.Machine

/-! PROOFS. Lost phases, droops, isolation and lost locks put together (R407 to R412, R417, R474). -/

namespace Sys2Proof.Machine

variable {s : State}

/-! ### What the loss of a phase comes to (R407, Table PWR-3) -/

/-- Phase `p` of cluster `c` is latched off, with its bit of PWR_ERR. -/
def State.latchedOff (s : State) (c p : Nat) : Prop :=
  (s.bar (pwrCluster c)).getLsbD (8 + p) = false ∧ field (s.bar pwrErr) 1 1 = 1 ∧ (s.cluster c).lost.getLsbD p = true

theorem State.losePhase_latchedOff (s : State) {c p : Nat} (hc : c < 960) (hp : p < 8) : (s.losePhase c p).latchedOff c p := by
  refine ⟨?_, ?_, ?_⟩
  · rw [s.losePhase_bar c p (powerBar_pwrCluster hc), if_neg (pwrErr_ne_pwrCluster c).symm, if_pos rfl, getLsbD_putField,
      if_pos (by omega)]
    simp
  · rw [s.losePhase_bar c p powerBar_pwrErr, if_pos rfl]
    exact field_putField_same _ _ (by omega)
  · rw [State.losePhase_cluster, State.cluster_updCluster_same, getLsbD_putField, if_pos (by omega)]
    simp [hp]

theorem State.slowCluster_latchedOff {c p : Nat} (hc : c < 960) (h : s.latchedOff c p) : (s.slowCluster c).latchedOff c p := by
  obtain ⟨d, hcl⟩ := s.slowCluster_cluster c
  unfold State.latchedOff
  rw [s.slowCluster_bar c (powerBar_pwrCluster hc), s.slowCluster_bar c powerBar_pwrErr, hcl]
  exact h

theorem State.failCluster_latchedOff {c p : Nat} (hc : c < 960) (hp : p < 8) (h : s.latchedOff c p) :
    (s.failCluster c).latchedOff c p := by
  obtain ⟨hbit, herr, hlost⟩ := h
  refine ⟨?_, ?_, ?_⟩
  · rw [s.failCluster_bar hc (powerBar_pwrCluster hc), if_neg (pwrErr_ne_pwrCluster c).symm, if_pos rfl, getLsbD_putField,
      if_neg (by omega), getLsbD_putField, if_neg (by omega), hbit]
  · rw [s.failCluster_bar hc powerBar_pwrErr, if_pos rfl, field_putField_other _ _ (by omega), herr]
  · rw [(s.failCluster_cluster c).1, hlost]

section Phases

variable {c p : Nat} (hc : c < 960) (hp : p < 8) (hbit : (s.bar (pwrCluster c)).getLsbD (8 + p) = true)
  (hon : field (s.bar (pwrCluster c)) 22 1 = 0)
include hc hp hbit hon

theorem State.phaseLoss_latchedOff : (s.phaseLoss c p).latchedOff c p := by
  have hlatch := s.losePhase_latchedOff hc hp
  rw [State.phaseLoss_eq hc hp hbit hon]
  split
  · exact State.slowCluster_latchedOff hc hlatch
  · split
    · exact State.failCluster_latchedOff hc hp hlatch
    · exact hlatch

/-- One or two lost phases are recorded and raised, no more. -/
theorem State.phaseLoss_few (h : 7 ≤ s.workingPhases c) : s.phaseLoss c p = s.losePhase c p := by
  rw [State.phaseLoss_eq hc hp hbit hon, if_neg (by omega), if_neg (by omega)]

theorem State.phaseLoss_three (h : s.workingPhases c = 6) : s.phaseLoss c p = (s.losePhase c p).slowCluster c := by
  rw [State.phaseLoss_eq hc hp hbit hon, if_pos h]

theorem State.phaseLoss_more (h : s.workingPhases c ≤ 5) : s.phaseLoss c p = (s.losePhase c p).failCluster c := by
  rw [State.phaseLoss_eq hc hp hbit hon, if_neg (by omega), if_pos h]

end Phases

theorem State.losePhase_cluster_same (s : State) (c p : Nat) :
    (s.losePhase c p).cluster c = { s.cluster c with lost := ((s.losePhase c p).cluster c).lost } := by
  rw [State.losePhase_cluster, State.cluster_updCluster_same]

theorem State.losePhase_cluster_other (s : State) {c k : Nat} (p : Nat) (h : k ≠ c) : (s.losePhase c p).cluster k = s.cluster k := by
  rw [State.losePhase_cluster, State.cluster_updCluster_other _ _ h]

theorem State.failCluster_failed (s : State) {c : Nat} (hc : c < 960) : field ((s.failCluster c).bar (pwrCluster c)) 22 1 = 1 := by
  rw [s.failCluster_bar hc (powerBar_pwrCluster hc), if_neg (pwrErr_ne_pwrCluster c).symm, if_pos rfl]
  exact field_putField_same _ _ (by omega)

/-- The units of a cluster that four lost phases darken are at reset, and their row maps come to show them absent. -/
theorem State.failCluster_darkens {c u : Nat} (p : Nat) (hown : ∀ v, v / 16 = c → s.ownRequests v) (hu : u / 16 = c) :
    ((s.losePhase c p).failCluster c).unit u = Unit.reset ∧ (s.column u ≠ 7 →
      ∃ w ∈ (((s.losePhase c p).failCluster c).region (c / 20)).epochWaits, w.unit = u ∧ w.column = 7) := by
  refine ⟨State.failCluster_units (fun v hv => State.ownRequests_of_units (hown v hv) (s.losePhase_units c p)) hu, fun hcol => ?_⟩
  have hr : c / 20 = regionOf u := by unfold regionOf; omega
  rw [hr]
  exact State.failCluster_leaving hu (by rwa [State.losePhase_column])

/-! ### Droops (R408) -/

/-- The droop lengthens the periods, and is counted. -/
def State.countDroop (s : State) (c : Nat) : State :=
  (s.rebase c fun k => { k with stretched := max k.stretched (s.root + Config.droop s.root + 720) }).updBar (pwrCluster c + 4) fun w =>
    bumpField w 16 8

theorem pwrErr_ne_droopCount (c : Nat) : pwrErr ≠ pwrCluster c + 4 := by unfold pwrErr pwrCluster; omega

theorem State.countDroop_pwrErr (s : State) (c : Nat) : (s.countDroop c).bar pwrErr = s.bar pwrErr :=
  State.bar_updBar_other _ _ (pwrErr_ne_droopCount c)

theorem State.countDroop_count (s : State) (c : Nat) :
    (s.countDroop c).bar (pwrCluster c + 4) = bumpField (s.bar (pwrCluster c + 4)) 16 8 := State.bar_updBar_same ..

theorem State.countDroop_host (s : State) (c : Nat) : (s.countDroop c).host = s.host := rfl

theorem State.countDroop_stretched (s : State) (c : Nat) : s.root + 720 ≤ ((s.countDroop c).cluster c).stretched := by
  have hcl : ((s.countDroop c).cluster c).stretched = max (s.cluster c).stretched (s.root + Config.droop s.root + 720) := by
    rw [State.countDroop, State.rebase, State.updBar_cluster, State.cluster_updCluster_same]
  omega

theorem State.countDroop_aclkOf (s : State) (c : Nat) : (s.countDroop c).aclkOf c = s.aclkOf c :=
  s.droop_aclkOf c _ (by omega)

theorem State.droop_eq (s : State) (c : Nat) : s.droop c =
    if field (s.bar pwrErr) 10 1 = 1 then s.countDroop c else (s.countDroop c).pwrRaise (c / 20) 10 0x059 (c % 20) := by
  rw [← s.countDroop_pwrErr c]
  rfl

theorem quiet_aclkOf (c : Nat) : Quiet fun t => t.aclkOf c := quiet_core fun k _ _ n _ => (k.get Cluster.reset c).cycles n

/-- A view that neither the event nor its bit shows is that of the droop that is counted. -/
theorem State.droop_leaves {α : Type} {f : State → α} (h : Quiet f) (hb : ∀ t, f (State.seeBar t pwrErr 10) = f t) (s : State) (c : Nat) :
    f (s.droop c) = f (s.countDroop c) := by
  rw [State.droop_eq]
  split
  · rfl
  · exact (h.pwrRaise ..).trans (hb _)

theorem State.droop_count (s : State) {c : Nat} (hc : c < 960) :
    field ((s.droop c).bar (pwrCluster c + 4)) 16 8 = min (field (s.bar (pwrCluster c + 4)) 16 8 + 1) 255 := by
  have ho : powerBar (pwrCluster c + 4) := by unfold powerBar pwrCluster; omega
  rw [State.droop_leaves (quiet_bar ho) (fun t => t.bar_seeBar_other _ (pwrErr_ne_droopCount c).symm), State.countDroop_count]
  exact field_bumpField_same _ (by omega)

theorem State.droop_seen (s : State) (c : Nat) : field ((s.droop c).bar pwrErr) 10 1 = 1 := by
  rw [State.droop_eq]
  split
  · next h => rw [State.countDroop_pwrErr, h]
  · rw [State.bar_pwrRaise _ _ _ _ _ powerBar_pwrErr, if_pos rfl]
    exact field_putField_same _ _ (by omega)

/-- Only the first droop since the bit was cleared raises the event. -/
theorem State.droop_raisedOne {c : Nat} (h : field (s.bar pwrErr) 10 1 = 0) : raisedOne s (s.droop c) 0x059 srcRegion (c % 20) := by
  rw [State.droop_eq, if_neg (by omega)]
  exact (State.pwrRaise_raisedOne (s.countDroop c) (c / 20) 10 0x059 (by omega)).of_host (s.countDroop_host c) rfl

theorem State.droop_host {c : Nat} (h : field (s.bar pwrErr) 10 1 = 1) : (s.droop c).host = s.host := by
  rw [State.droop_eq, if_pos h, State.countDroop_host]

/-! ### The instructions of this part -/

theorem State.exec_phaseLoss {c p : Nat} (hc : c < 960) (hp : p < 8) : exec (.phaseLoss c p) s = .next (s.phaseLoss c p) :=
  if_pos (decide_eq_true ⟨hc, hp⟩)
theorem State.exec_droop {c : Nat} (hc : c < 960) : exec (.droop c) s = .next (s.droop c) := if_pos (decide_eq_true hc)
theorem State.exec_isolationTrip {r : Nat} (hr : r < 48) (t3 : Bool) : exec (.isolationTrip r t3) s = .next (s.isolationTrip r t3) :=
  if_pos (decide_eq_true hr)
theorem State.exec_detourSwitch {r : Nat} (hr : r < 48) (queued : List Nat) :
    exec (.detourSwitch ⟨r, queued⟩) s = .next (s.detourSwitch r queued) := if_pos (decide_eq_true hr)
theorem State.exec_lockLoss {d : Nat} (hd : d < 12) : exec (.pllLockLoss (.lock d)) s = .next (s.pllLoss d) :=
  if_pos (decide_eq_true hd)
theorem State.exec_controllerLoss {d : Nat} (hd : d < 12) : exec (.pllLockLoss (.controller d)) s = .next (s.isolateDie d) :=
  if_pos (decide_eq_true hd)
theorem State.exec_isolationSwitchOpen {d : Nat} (hd : d < 12) : exec (.isolationSwitchOpen d) s = .next (s.openSwitches d) :=
  if_pos (decide_eq_true hd)
theorem State.exec_referenceClockLoss : exec .referenceClockLoss s = .next s.referenceLoss := rfl

/-- Settles O54: what a phase lost does goes by the phases that worked before it; a droop counts and raises by its bit; the parts of each
isolation are followed through the withdrawal that comes last, which leaves clocks, ports and the registers of power. -/
theorem railsAndIsolation : Obligations.RailsAndIsolation := by
  unfold Obligations.RailsAndIsolation
  refine ⟨?phases, ?droop, ?trip, ?detour, ?lock, ?controller, ?openSwitches, ?reference⟩
  case phases =>
    intro s c p hc hp hbit hon hown
    obtain ⟨hbit', herr, hlost⟩ := State.phaseLoss_latchedOff hc hp hbit hon
    refine ⟨_, State.exec_phaseLoss hc hp, hbit', herr, hlost, fun h => ?_, fun h => ?_, fun h => ?_⟩
    · rw [State.phaseLoss_few hc hp hbit hon h]
      exact ⟨s.losePhase_raisedOne c p, s.losePhase_cluster_same c p, fun k hk => s.losePhase_cluster_other p hk, s.losePhase_seq c p⟩
    · rw [State.phaseLoss_three hc hp hbit hon h]
      obtain ⟨d, hcl⟩ := (s.losePhase c p).slowCluster_cluster c
      obtain ⟨hdiv, hfollow⟩ := (s.losePhase c p).slowCluster_followsFloors hc
      exact ⟨by rw [hcl], hdiv, hfollow, (State.slowCluster_seq ..).trans (s.losePhase_seq c p)⟩
    · rw [State.phaseLoss_more hc hp hbit hon h]
      exact ⟨State.failCluster_failed _ hc, (State.failCluster_cluster _ c).2, fun u hu => State.failCluster_darkens p hown hu,
        fun hrun => State.failCluster_reports _ c (by rw [State.losePhase_seq, hrun])⟩
  case droop =>
    intro s c hc
    have hcl : (s.droop c).cluster c = (s.countDroop c).cluster c := State.droop_leaves (quiet_cluster c) (fun _ => rfl) s c
    refine ⟨_, State.exec_droop hc, s.droop_count hc, s.droop_seen c, by rw [hcl]; exact s.countDroop_stretched c, ?_,
      State.droop_raisedOne, State.droop_host⟩
    exact (State.droop_leaves (quiet_aclkOf c) (fun _ => rfl) s c).trans (s.countDroop_aclkOf c)
  case trip =>
    intro s r t3 hr hclosed
    obtain ⟨hiso, hst, herr⟩ := State.isolationTrip_isolates t3 hclosed
    refine ⟨_, State.exec_isolationTrip hr t3, hiso, hst, herr, ?_, ?_, State.isolationTrip_reports t3 hclosed⟩
    · rintro rfl; exact State.isolationTrip_marksT3 hclosed
    · rintro rfl; exact State.isolationTrip_raisedOne hclosed
  case detour =>
    intro s r hr hiso hgate queued
    obtain ⟨hgated, hwith⟩ := State.detourSwitch_svc queued hiso hgate
    refine ⟨_, State.exec_detourSwitch hr queued, hgated, hwith, fun c hc => State.detourSwitch_standsAt queued hiso hgate hc, ?_⟩
    intro n hn hadj hon
    obtain ⟨hport, hdetour⟩ := State.detourSwitch_detours queued hiso hgate hn hadj hon
    exact ⟨hport, fun h => by rw [hdetour, h, Option.getD_none], fun d h => by rw [hdetour, h, Option.getD_some]⟩
  case lock =>
    intro s d hd hlock
    have hne : field (s.bar (pwrPll d)) 0 1 ≠ 0 := by omega
    obtain ⟨hzero, hcount⟩ := State.pllLoss_counts hd hlock
    exact ⟨_, State.exec_lockLoss hd, hzero, hcount, State.pllLoss_raisedOne hne, State.pllLoss_reports hne,
      fun r _ hrd hclosed => State.pllLoss_lost hd hne hrd hclosed⟩
  case controller =>
    intro s d hd
    exact ⟨_, State.exec_controllerLoss hd, s.isolateDie_bar_other fun r _ => pwrPll_ne_pwrRegion r hd, s.isolateDie_seq d,
      s.isolateDie_host d, fun r _ hrd hclosed => State.isolateDie_lost hrd hclosed⟩
  case openSwitches =>
    intro s d hd
    exact ⟨_, State.exec_isolationSwitchOpen hd, fun r _ hrd hiso hst => State.openSwitches_switchOpen hrd ⟨hiso, hst⟩⟩
  case reference =>
    intro s hlocks
    exact ⟨_, State.exec_referenceClockLoss, fun d hd => s.referenceLoss_unlocked hd,
      fun r hr hclosed => State.referenceLoss_spineLost hr (hlocks _ (by omega)) hclosed⟩

end Sys2Proof.Machine

/-! PROOFS. An access at a bank where nothing holds, competes or is parked: it is made, and of the state only its row and the unit's
banks may differ (R75, R76, R82, R84, R117). -/

namespace Sys2Proof.Machine

variable {s t v : State}

/-! ### Frames of a unit -/

/-- A view that shows no unit is the same where only units differ. -/
theorem onlyUnits.view {α : Type} {f : State → α} (hf : ∀ (s : State) us, f { s with units := us } = f s) (h : onlyUnits s t) :
    f t = f s :=
  (congrArg f h).trans (hf s _)

theorem onlyUnit.trans {u : Nat} (h : onlyUnit u s t) (k : onlyUnit u t v) : onlyUnit u s v :=
  ⟨h.1.trans k.1, fun w hw => (k.2 w hw).trans (h.2 w hw)⟩

theorem State.updUnit_onlyUnit (s : State) (u : Nat) (f : Unit → Unit) : onlyUnit u s (s.updUnit u f) :=
  ⟨s.updUnit_only u f, fun _ h => s.unit_updUnit_other f h⟩

/-- An access has left `c` in row `q` of unit `u`; of the rest only that unit's banks may differ. -/
structure State.rowServed (s : State) (u q : Nat) (c : Cell) (t : State) : Prop where
  only : onlyUnit u s t
  unit : t.unit u = { s.unit u with rows := (t.unit u).rows, banks := (t.unit u).banks }
  row : (t.unit u).cell q = c
  other : ∀ q', q' ≠ q → (t.unit u).cell q' = (s.unit u).cell q'

theorem State.rowServed.sameRowsBut {u q : Nat} {c : Cell} (h : s.rowServed u q c t) : sameRowsBut u q s t := by
  intro w r hr
  by_cases hw : w = u
  · subst hw; exact h.other r fun hq => hr ⟨rfl, hq⟩
  · rw [h.only.2 w hw]

/-- What shows neither rows nor banks of a unit, an access leaves in every unit. -/
theorem State.rowServed.view {α : Type} {u q : Nat} {c : Cell} (h : s.rowServed u q c t) {f : Unit → α}
    (hf : ∀ (x : Unit) rows banks, f { x with rows := rows, banks := banks } = f x) (w : Nat) : f (t.unit w) = f (s.unit w) := by
  by_cases hw : w = u
  · subst hw; rw [h.unit, hf]
  · rw [h.only.2 w hw]

/-! ### A request that is alone at its bank -/

theorem Unit.putCell_only (x : Unit) (q : Nat) (c : Cell) :
    x.putCell q c = { x with rows := (x.putCell q c).rows, banks := (x.putCell q c).banks } := by
  unfold Unit.putCell
  dsimp only
  split <;> rfl

/-- A write of a row puts no request before a bank. -/
theorem Unit.putCell_waiting (x : Unit) (q : Nat) (c : Cell) (b : Nat) : ((x.putCell q c).bank b).waiting = (x.bank b).waiting := by
  unfold Unit.putCell Unit.wakeRow
  dsimp only
  split
  · rfl
  · by_cases hb : b = q / 3072
    · subst hb; rw [Unit.bank_setBank_same]; rfl
    · rw [Unit.bank_setBank_other _ _ hb]; rfl

theorem State.settleBank_of_empty {u b : Nat} (h : ((s.unit u).bank b).waiting = []) : s.settleBank u b = s := by
  rw [State.settleBank, h, List.foldl_nil]

theorem Unit.hintAll_of_empty {x : Unit} {b : Nat} (left c : Nat) (h : (x.bank b).waiting = []) : x.hintAll b left c = x := by
  rw [Unit.hintAll, h, List.foldl_nil]

/-- The only request at a bank is granted: it does not stand behind itself (R80, R84). -/
theorem chooseReq_singleton (x : Unit) (c : Nat) (r : Req) : chooseReq x c [r] = some r := by
  have hself : readsFirst x r r = false := by
    unfold readsFirst
    cases r.kind <;> rfl
  simp [chooseReq, hself]

/-- What an access that is made answers its requester (R75, R76, R111). -/
def Cell.gives (c : Cell) (k : AccKind) (wide : Bool) (j : Nat) (d : Row) (nf : Bool) : AccOut :=
  let c' := c.after k wide j d nf
  if k = .test ∨ k = .seal ∨ k = .tagset then .done 0 (BitVec.ofNat 576 (c'.full.toNat + 2 * c'.tagged.toNat)) c.nf
  else if k.isRead then .done 0 (viewOf wide j c.data) c.nf else .done 0 0 false

/-- A wide read answers the row. -/
theorem Cell.gives_of_read (c : Cell) {k : AccKind} (h : k.isRead = true) (j : Nat) (d : Row) (nf : Bool) :
    c.gives k true j d nf = .done 0 c.data c.nf := by
  match k, h with
  | .plainRead, _ | .peek, _ | .take, _ => rfl

theorem Cell.gives_done (c : Cell) (k : AccKind) (wide : Bool) (j : Nat) (d : Row) (nf : Bool) :
    ∃ data flag, c.gives k wide j d nf = .done 0 data flag := by
  unfold Cell.gives
  dsimp only
  split
  · exact ⟨_, _, rfl⟩
  · split <;> exact ⟨_, _, rfl⟩

/-- An engine's earlier request for the same access is taken from the bank before it competes again. -/
def State.retract (s : State) (r : Req) : State :=
  s.updUnit r.acc.unit fun x => x.setBank (r.acc.offset / 64 / 3072) { x.bank (r.acc.offset / 64 / 3072) with
    waiting := (x.bank (r.acc.offset / 64 / 3072)).waiting.filter (fun q => !q.sameAs r.acc)
    parked := (x.bank (r.acc.offset / 64 / 3072)).parked.filter (fun q => !q.sameAs r.acc) }

/-- At a bank without an owner where the request is alone, it is granted unless its row makes it wait. -/
theorem State.compete_alone {r : Req} {b : Nat} (hb : r.acc.offset / 64 / 3072 = b)
    (howner : (((s.retract r).unit r.acc.unit).bank b).owner = none) (hwait : (((s.retract r).unit r.acc.unit).bank b).waiting = [])
    (hmust : ((s.retract r).unit r.acc.unit).mustWait r = false) : s.compete r = (s.retract r).engage b r none := by
  subst hb
  unfold State.compete
  dsimp only
  rw [← State.retract, State.settleBank_of_empty hwait, howner]
  simp only [hmust, hwait, chooseReq_singleton]
  simp

section Alone

variable {r : Req} {c : Cell} (hcell : (s.unit r.acc.unit).cell (r.acc.offset / 64) = c) (hclean : r.acc.ecc = .clean)
  (hplain : r.kind = .plainWrite → c.tagged = false) (hadm : c.admits r.kind = true)

include hcell hclean hplain hadm

/-- A granted request at a bank where no other competes makes its access. -/
theorem State.engage_made {b : Nat} (g : Option Grant) (hwait : ((s.unit r.acc.unit).bank b).waiting = []) :
    ∃ t, s.engage b r g = (t, c.gives r.kind r.acc.wide (r.acc.offset % 64 / 4) r.acc.data r.acc.nf) ∧
      s.rowServed r.acc.unit (r.acc.offset / 64) (c.after r.kind r.acc.wide (r.acc.offset % 64 / 4) r.acc.data r.acc.nf) t := by
  subst hcell
  obtain ⟨data, flag, hgives⟩ :=
    ((s.unit r.acc.unit).cell (r.acc.offset / 64)).gives_done r.kind r.acc.wide (r.acc.offset % 64 / 4) r.acc.data r.acc.nf
  have hacc := s.access_made (j := r.acc.offset % 64 / 4) (wide := r.acc.wide) (d := r.acc.data) (nf := r.acc.nf) hplain hadm
  unfold State.engage
  dsimp only at hacc ⊢
  rw [hclean, hacc, ← Cell.gives, hgives]
  refine ⟨_, rfl, (s.updUnit_onlyUnit ..).trans (State.updUnit_onlyUnit ..), ?unit, ?row, fun q' hq => ?other⟩
  all_goals rw [State.unit_updUnit_same, Unit.hintAll_of_empty _ _ (by
    rw [Unit.bank_setBank_same, State.unit_updUnit_same]; exact (Unit.putCell_waiting ..).trans hwait), State.unit_updUnit_same]
  case unit => rw [Unit.putCell_only]; rfl
  case row => rw [Unit.cell_setBank, Unit.cell_putCell_same]
  case other => rw [Unit.cell_setBank, Unit.cell_putCell_other _ _ hq]

/-- An engine's request that finds its bank idle is granted and makes its access (R82, R84). -/
theorem State.compete_made (hidle : s.bankIdle r.acc.unit r.acc.offset) :
    ∃ t, s.compete r = (t, c.gives r.kind r.acc.wide (r.acc.offset % 64 / 4) r.acc.data r.acc.nf) ∧
      s.rowServed r.acc.unit (r.acc.offset / 64) (c.after r.kind r.acc.wide (r.acc.offset % 64 / 4) r.acc.data r.acc.nf) t := by
  obtain ⟨howner, hwait, hparked⟩ := hidle
  have hunit : (s.retract r).unit r.acc.unit = (s.unit r.acc.unit).setBank (r.acc.offset / 64 / 3072)
      { (s.unit r.acc.unit).bank (r.acc.offset / 64 / 3072) with waiting := [], parked := [] } := by
    rw [State.retract, State.unit_updUnit_same, hwait, hparked]; rfl
  have hbank : ((s.retract r).unit r.acc.unit).bank (r.acc.offset / 64 / 3072) =
      { (s.unit r.acc.unit).bank (r.acc.offset / 64 / 3072) with waiting := [], parked := [] } := by
    rw [hunit, Unit.bank_setBank_same]
  have hcell1 : ((s.retract r).unit r.acc.unit).cell (r.acc.offset / 64) = c := by rw [hunit]; exact hcell
  obtain ⟨t, hengage, hserved⟩ := State.engage_made hcell1 hclean hplain hadm none (by rw [hbank])
  refine ⟨t, ?answer, (s.updUnit_onlyUnit ..).trans hserved.only, ?unit, hserved.row, fun q' hq => ?other⟩
  case answer =>
    have hmust : ((s.retract r).unit r.acc.unit).mustWait r = false := by rw [Unit.mustWait, hcell1, hadm]; rfl
    rw [State.compete_alone rfl (by rw [hbank]; exact howner) (by rw [hbank]) hmust, hengage]
  case unit => rw [hserved.unit, hunit]; rfl
  case other => rw [hserved.other q' hq, hunit]; rfl

end Alone

/-! ### The accesses of an engine (R117, R123) -/

/-- An engine's access through its port, at a bank where nothing else is, is made. -/
theorem State.portAccess_made {a : Access} {k : AccKind} {c : Cell} (hcell : (s.unit a.unit).cell (a.offset / 64) = c)
    (hclean : a.ecc = .clean) (hplain : k = .plainWrite → c.tagged = false) (hadm : c.admits k = true)
    (hidle : s.bankIdle a.unit a.offset) (hdiv : s.fillDiverts a = false) :
    ∃ t, s.portAccess a k = (t, c.gives k a.wide (a.offset % 64 / 4) a.data a.nf) ∧
      s.rowServed a.unit (a.offset / 64) (c.after k a.wide (a.offset % 64 / 4) a.data a.nf) t := by
  obtain ⟨t, hcompete, hserved⟩ :=
    State.compete_made (r := newReq a k (s.aclkOf (clusterOf a.unit)) true) hcell hclean hplain hadm hidle
  obtain ⟨-, hwait, hparked⟩ := hidle
  refine ⟨t, ?_, hserved⟩
  simp only [State.portAccess, hwait, hparked, hdiv, List.find?_nil, List.any_nil, Bool.false_eq_true, if_false]
  exact hcompete

/-- An engine of unit `u` makes its access of row `q` of unit `w` where that unit is served, its bank idle, and, if it is another
unit, not being filled (R52, R63). -/
theorem State.engineAccess_made {u w q off : Nat} {k : AccKind} {c : Cell} (p : Via) (d : Row) (nf : Bool)
    (hport : p.port ≠ 7) (habs : s.absent w = false) (hwith : (s.svc (regionOf w)).withdrawn = false)
    (hfill : w ≠ u → s.filling w = false) (hq : off / 64 = q) (hidle : s.bankIdle w off) (hcell : (s.unit w).cell q = c)
    (hplain : k = .plainWrite → c.tagged = false) (hadm : c.admits k = true) :
    ∃ t, s.engineAccess u w q k p d nf .clean = (t, c.gives k true 0 d nf) ∧ s.rowServed w q (c.after k true 0 d nf) t := by
  have hrow : 64 * q / 64 = q := Nat.mul_div_cancel_left q (by decide)
  have hword : 64 * q % 64 / 4 = 0 := by rw [Nat.mul_mod_right]
  unfold State.engineAccess
  rw [if_neg (by rw [habs]; decide), if_neg (by rw [hwith]; decide)]
  let a : Access :=
    { unit := w, port := if w = u ∨ p.port = 9 then p.port else 7,
      agent := if p.port = 9 then u else if w = u then (if p.port = 8 then u else 0) else 8 * u + min p.port 7,
      offset := 64 * q, wide := true, deadline := clampDeadline p.plan (s.aclkOf (clusterOf w)), hold := p.hold, keep := p.keep,
      more := false, data := d, nf := nf, ecc := .clean }
  have hdiv : s.fillDiverts a = false := by
    by_cases hw : w = u
    · have hcross : crosses a = false := by
        have hown : p.port = 8 ∨ p.port = 9 → a.agent = a.unit := by rintro (h | h) <;> simp [a, h, hw]
        rw [crosses, show a.port = p.port from if_pos (.inl hw)]
        by_cases hmover : p.port = 8 ∨ p.port = 9
        · simp [hport, hown hmover]
        · simp [hport, not_or.mp hmover]
      rw [State.fillDiverts, hcross, Bool.and_false]
    · rw [State.fillDiverts, show a.unit = w from rfl, hfill hw, Bool.false_and]
  have hbank : s.bankIdle a.unit a.offset := by
    unfold State.bankIdle at hidle ⊢
    rwa [show a.offset / 64 = off / 64 from hrow.trans hq.symm]
  have made := State.portAccess_made (a := a) (k := k) (c := c) (by rw [show a.offset / 64 = q from hrow]; exact hcell) rfl hplain hadm
    hbank hdiv
  rwa [show a.offset / 64 = q from hrow, show a.offset % 64 / 4 = 0 from hword] at made

/-- An engine takes the block of a command whose header has no fault (R117). -/
theorem State.takeBlock_taken {u eng : Nat} {q : Queued} (hserved : s.unitServed u) (hidle : s.bankIdle u q.offset)
    (hdrop : headerDrops (s.rowOf u q.offset).data = false) (hbad : headerBad (s.rowOf u q.offset).data eng = false) :
    ∃ t, s.takeBlock u eng q .clean = .block t (s.rowOf u q.offset).data 0 ∧
      s.rowServed u (q.offset / 64) (s.rowOf u q.offset) t := by
  obtain ⟨-, habs, hwith⟩ := hserved
  have hport : blockPort eng ≠ 7 := by unfold blockPort; split <;> decide
  obtain ⟨t, hacc, hrow⟩ := State.engineAccess_made (k := .plainRead) (u := u)
    { port := blockPort eng, plan := (s.aclkOf (clusterOf u) : Int), hold := 1, keep := false } 0 false hport habs hwith
    (fun h => absurd rfl h) rfl hidle rfl nofun (by cases h : ((s.unit u).cell (q.offset / 64)).tagged <;> simp [Cell.admits, h])
  refine ⟨t, ?_, hrow⟩
  rw [Cell.gives_of_read _ rfl] at hacc
  unfold State.takeBlock
  rw [hacc]
  change (if headerDrops (s.rowOf u q.offset).data = true then _ else _) = _
  rw [hdrop, if_neg (by decide)]
  change Take.block t _ (if headerBad (s.rowOf u q.offset).data eng = true then _ else _) = _
  rw [hbad, if_neg (by decide)]
  rfl

end Sys2Proof.Machine

/-! PROOFS. The matrix array takes a command whose checks pass (R142, R147). -/

namespace Sys2Proof.Machine

variable {s t : State}

/-- A command that takes a matrix array command of a mode runs the array's taking for that mode, one of the seven (Table MXA-2). -/
theorem State.exec_mxaRows {u mode : Nat} {i : Instr} (hi : (i, mode) ∈ mxaRows u) (hu : u < 15360) :
    exec i s = .next (s.mxTake u mode .clean) ∧ mode < 7 := by
  have hnext (m : Nat) : onUnit u (s.mxTake u m .clean) = .next (s.mxTake u m .clean) := if_pos (decide_eq_true hu)
  simp only [mxaRows, List.mem_cons, Prod.mk.injEq, List.not_mem_nil, or_false] at hi
  rcases hi with ⟨rfl, rfl⟩ | ⟨rfl, rfl⟩ | ⟨rfl, rfl⟩ | ⟨rfl, rfl⟩ | ⟨rfl, rfl⟩ | ⟨rfl, rfl⟩ | ⟨rfl, rfl⟩ <;>
    exact ⟨hnext _, by decide⟩

/-- The checks see neither the array's queue nor anything of the units but the array. -/
theorem State.mxFaults_eq {u : Nat} {rest : List Queued} (honly : onlyUnits s t)
    (hmxa : (t.unit u).mxa = { (s.unit u).mxa with queue := rest }) (b : Row) : t.mxFaults u b = s.mxFaults u b := by
  have hspan : t.spanFaults = s.spanFaults := honly.view fun _ _ => rfl
  have hproj : (t.unit u).mxa.projected = (s.unit u).mxa.projected := by rw [hmxa]; rfl
  have hactive : (t.unit u).mxa.active = (s.unit u).mxa.active := by rw [hmxa]
  unfold State.mxFaults
  dsimp only
  rw [hspan, hproj, hactive]

/-- The command in progress that the taking of queued command `q` with block `b` makes when its checks pass. -/
def State.mxStarted (s : State) (u : Nat) (q : Queued) (b : Row) : MxaCmd :=
  { block := b, code := 0, rejected := false, seq := q.seq, entered := 0, takenAt := s.aclkOf (clusterOf u), firstCycle := 0,
    passes := if mxGate b then 0 else 1, passLeft := 0, nf := false, loaded := 0, accBuf := [], accNf := false }

/-- The idle array takes the oldest command of its queue when its checks pass: the block is read, and then the queue and the command
in progress are what changes (R142, R147). -/
theorem State.mxTake_taken {u mode : Nat} {q : Queued} {rest : List Queued} (hready : s.mxaReady u mode q rest)
    (hserved : s.unitServed u) (hidle : s.bankIdle u q.offset) (hmode : mode < 7)
    (hfaults : s.mxFaults u (s.rowOf u q.offset).data = [])
    (hline : mxWMode (s.rowOf u q.offset).data = 2 → (s.lineOf u).isSome = true) :
    ∃ (t : State) (c : MxaCmd), s.rowServed u (q.offset / 64) (s.rowOf u q.offset) t ∧ onlyUnit u t (s.mxTake u mode .clean) ∧
      (s.mxTake u mode .clean).unit u = { t.unit u with mxa := { (s.unit u).mxa with queue := rest, cur := some c } } ∧
      c.block = (s.rowOf u q.offset).data ∧ c.seq = q.seq ∧ c.entered = 0 ∧ c.code = 0 := by
  obtain ⟨-, hqueue, hcur, hnxt, hcpls, hdrop, hbad, hb⟩ := hready
  obtain ⟨t, htake, hread⟩ := State.takeBlock_taken hserved hidle hdrop hbad
  obtain ⟨t1, ht1⟩ : ∃ t1, t1 = t.updUnit u fun x => { x with mxa := { x.mxa with queue := rest } } := ⟨_, rfl⟩
  have hunit : t1.unit u = { t.unit u with mxa := { (s.unit u).mxa with queue := rest } } := by
    rw [ht1, State.unit_updUnit_same, hread.view (f := Unit.mxa) (fun _ _ _ => rfl) u]
  have honly : onlyUnit u t t1 := ht1 ▸ t.updUnit_onlyUnit ..
  have hchecks : t1.mxFaults u (s.rowOf u q.offset).data = [] :=
    (State.mxFaults_eq (hread.only.1.trans honly.1) (by rw [hunit]) _).trans hfaults
  have hink : ¬(mxWMode (s.rowOf u q.offset).data = 2 ∧ (t1.lineOf u).isNone = true) := by
    rintro ⟨hw, hnone⟩
    rw [(hread.only.1.trans honly.1).view (f := fun s => s.lineOf u) fun _ _ => rfl, Option.isNone_iff_eq_none] at hnone
    simpa [hnone] using hline hw
  have hcan : (s.unit u).mxa.canTake = true := by simp [Mxa.canTake, hnxt, hcpls, hcur]
  have hrow : mxRow (mxMode ((s.unit u).cell (q.offset / 64)).data) = mode := by rw [← State.rowOf, hb, mxRow, if_pos hmode]
  have hnone : (t1.unit u).mxa.cur = none := by rw [hunit]; exact hcur
  have htaken : s.mxTake u mode .clean = t1.updUnit u fun y => { y with mxa :=
      if y.mxa.cur.isNone then { y.mxa with cur := some (s.mxStarted u q (s.rowOf u q.offset).data) }
      else { y.mxa with nxt := some (s.mxStarted u q (s.rowOf u q.offset).data) } } := by
    simp only [State.mxTake, hqueue, hcan, hrow, htake, ← ht1, hink, hchecks]
    simp [State.noteAlign, lowest, State.mxStarted]
  refine ⟨t, s.mxStarted u q (s.rowOf u q.offset).data, hread, ?_, ?_, rfl, rfl, rfl, rfl⟩
  · rw [htaken]; exact honly.trans (t1.updUnit_onlyUnit ..)
  · rw [htaken, State.unit_updUnit_same, hnone, hunit]; rfl

/-- Settles O21: the read of the block is the only access, and the array's queue and command in progress are all that changes. -/
theorem matrixArrayTakesCommand : Obligations.MatrixArrayTakesCommand := by
  intro s u mode i q rest hi hready b hserved hidle hfaults hline
  obtain ⟨hexec, hmode⟩ := State.exec_mxaRows (s := s) hi hready.1
  obtain ⟨t0, c, hread, honly, hunit, hblock, hseq, hentered, hcode⟩ := State.mxTake_taken hready hserved hidle hmode hfaults hline
  have hkeeps {α : Type} (f : Unit → α) (hf : ∀ (x : Unit) rows banks, f { x with rows := rows, banks := banks } = f x)
      (hm : ∀ (x : Unit) m, f { x with mxa := m } = f x) : f ((s.mxTake u mode .clean).unit u) = f (s.unit u) := by
    rw [hunit, hm]; exact hread.view hf u
  refine ⟨_, c, hexec, hread.only.trans honly, by rw [hunit], hblock, hseq, hentered, hcode, ?keeps, fun r => ?cell⟩
  case keeps =>
    exact ⟨hkeeps Unit.hands (fun _ _ _ => rfl) fun _ _ => rfl, hkeeps Unit.script (fun _ _ _ => rfl) fun _ _ => rfl,
      hkeeps Unit.stroke (fun _ _ _ => rfl) fun _ _ => rfl, hkeeps Unit.mover (fun _ _ _ => rfl) fun _ _ => rfl,
      hkeeps Unit.ink (fun _ _ _ => rfl) fun _ _ => rfl, hkeeps Unit.planBase (fun _ _ _ => rfl) fun _ _ => rfl⟩
  case cell =>
    rw [hunit]
    by_cases hr : r = q.offset / 64
    · subst hr; exact hread.row
    · exact hread.other r hr

end Sys2Proof.Machine

/-! PROOFS. An activation row enters the matrix array: the sums of its entry, its result rows and its command (R131, R137, R140, R143). -/

namespace Sys2Proof.Machine

open Sys2Proof.Num

variable {s t : State}

/-! ### The entry of a row (R132, R137) -/

theorem mxK_le (b : Row) : mxK b ≤ 64 := by unfold mxK; split <;> decide

@[simp] theorem length_rowVals (fmt n : Nat) (r : Row) : (rowVals fmt n r).length = n := by simp [rowVals]

/-- An accumulator after a row: column `n` has taken the row's terms against the weights of that column. -/
theorem Entry.col_take (e : Entry) (mode : Nat) (as : List Val) (ws : List (List Val)) {cols n : Nat} (hn : n < cols) (hc : cols ≤ 64) :
    (e.take mode cols as ws).col n = mxColumn mode e.kind (e.col n) as (ws.map fun w => w.getD n .nan) := by
  have h64 : n < 64 := by omega
  simp [Entry.take, Entry.col, List.getD, h64, hn]

/-- A read leaves its row, but that a take empties a tagged one (R76). -/
theorem Cell.after_of_read (c : Cell) {k : AccKind} (h : k.isRead = true) (j : Nat) (d : Row) (nf : Bool) :
    c.after k true j d nf = if k = .take ∧ c.tagged = true then { c with full := false, nf := false } else c := by
  match k, h with
  | .plainRead, _ | .peek, _ => rfl
  | .take, _ => simp [Cell.after]

theorem kindOf_isRead (n : Nat) : (kindOf n).isRead = true := by unfold kindOf; split <;> rfl

/-- The entry of a command's next activation row before it enters (R138). -/
def Mxa.entryOf (m : Mxa) (c : MxaCmd) : Entry :=
  if mxAccIn c.block = 0 then Entry.begin (mxKind c.block) else m.entries.get Entry.reset (mxBase c.block + c.entered)

/-- The entry of a command's next activation row `d` after it has entered against weight set `set`. -/
def Mxa.entryAfter (m : Mxa) (set : WSet) (c : MxaCmd) (d : Row) : Entry :=
  (m.entryOf c).take (mxMode c.block) (mxK c.block) (rowVals (mxFmtA c.block) (mxK c.block) d)
    (set.rows.map (rowVals set.fmt (mxK c.block)))

/-! ### The command in progress -/

/-- The units of `t` are those of `s`, but that the command in progress of unit `u`'s array is `c`. -/
def State.nowAt (s : State) (u : Nat) (c : MxaCmd) (t : State) : Prop :=
  t.unit u = { s.unit u with mxa := { (s.unit u).mxa with cur := some c } } ∧ ∀ w, w ≠ u → t.unit w = s.unit w

theorem State.nowAt.mxCur {u : Nat} {c : MxaCmd} (h : s.nowAt u c t) (f : MxaCmd → MxaCmd) : s.nowAt u (f c) (t.mxCur u f) := by
  obtain ⟨hu, hother⟩ := h
  refine ⟨?_, fun w hw => ?_⟩
  · rw [State.mxCur, State.unit_updUnit_same, hu]; rfl
  · rw [State.mxCur, State.unit_updUnit_other _ _ hw, hother w hw]

theorem State.nowAt.of_units {v : State} {u : Nat} {c : MxaCmd} (h : s.nowAt u c t) (hv : ∀ w, v.unit w = t.unit w) : s.nowAt u c v :=
  ⟨(hv u).trans h.1, fun w hw => (hv w).trans (h.2 w hw)⟩

theorem State.nowAt_self {u : Nat} {c : MxaCmd} (hcur : (s.unit u).mxa.cur = some c) : s.nowAt u c s :=
  ⟨by rw [← hcur], fun _ _ => rfl⟩

@[simp] theorem State.checkpoint_unit (s : State) (u : Nat) (p : Word) (w : Nat) : (s.checkpoint u p).unit w = s.unit w := by
  unfold State.checkpoint
  dsimp only
  split
  · rw [State.raiseUnit, State.raise_unit, State.seeP1_unit, State.updP1_unit, State.setP1_unit]
  · rw [State.updP1_unit, State.setP1_unit]

/-- The entry of row 0 under the weight set that is active marks the command's first cycle (R146, R148). -/
theorem State.nowAt_mxFirst {u : Nat} {c : MxaCmd} (hcur : (s.unit u).mxa.cur = some c) (hw : mxWMode c.block = 0) :
    s.nowAt u { c with firstCycle := (s.cycle u).setWidth 36 } (s.mxFirst u c) := by
  have hkept : s.nowAt u c (s.updUnit u fun x => { x with mxa := if mxWMode c.block = 0 then x.mxa
      else { x.mxa with active := x.mxa.shadow, shadow := none } }) :=
    ⟨by rw [State.unit_updUnit_same, if_pos hw, ← hcur], fun w h => State.unit_updUnit_other _ _ h⟩
  exact (hkept.mxCur _).of_units fun w => State.checkpoint_unit ..

/-- The command's row is counted in, after what goes with row 0. -/
def State.mxCounted (s : State) (u : Nat) (c : MxaCmd) : State :=
  (if c.entered = 0 then s.mxFirst u c else s).mxCur u fun y => { y with entered := c.entered + 1, passLeft := y.passLeft - 1 }

theorem State.nowAt_mxCounted {u : Nat} {c : MxaCmd} (hcur : (s.unit u).mxa.cur = some c) (hw : mxWMode c.block = 0) :
    ∃ c2, s.nowAt u c2 (s.mxCounted u c) ∧ c2.block = c.block ∧ c2.seq = c.seq ∧ c2.entered = c.entered + 1 := by
  unfold State.mxCounted
  by_cases h0 : c.entered = 0
  · rw [if_pos h0]; exact ⟨_, (State.nowAt_mxFirst hcur hw).mxCur _, rfl, rfl, rfl⟩
  · rw [if_neg h0]; exact ⟨_, (State.nowAt_self hcur).mxCur _, rfl, rfl, rfl⟩

/-! ### The row enters (R145, R147) -/

/-- The offsets of the result rows of a command's next activation row (R140). -/
def MxaCmd.resultOffsets (c : MxaCmd) (rows : Nat) : List Nat :=
  (List.range rows).map fun j => blk c.block 7 0 22 + 64 * (mxROut c.block * c.entered + j)

theorem map_zipIdx_snd {α β : Type} (l : List α) (f : α × Nat → β) (g : Nat → β) (h : ∀ p, f p = g p.2) :
    l.zipIdx.map f = (List.range l.length).map g := by
  rw [List.range_eq_range', ← List.zipIdx_map_snd 0 l, List.map_map]
  exact List.map_congr_left fun p _ => h p

@[simp] theorem State.noteNf_unit_same (s : State) (u : Nat) (nf : Bool) :
    (s.noteNf u nf).unit u = { s.unit u with nf := (s.unit u).nf || nf } := by
  cases nf with
  | false => rw [Bool.or_false]; rfl
  | true => rw [Bool.or_true]; exact s.unit_updUnit_same u fun x => { x with nf := true }

theorem State.noteNf_unit_other (s : State) {u w : Nat} (nf : Bool) (hw : w ≠ u) : (s.noteNf u nf).unit w = s.unit w := by
  cases nf with
  | false => rfl
  | true => exact s.unit_updUnit_other (fun x => { x with nf := true }) hw

/-- Where no next command waits, the end of a command leaves the array without one. -/
theorem Mxa.promote_of_nxt_none (plan : Row → Int) {m : Mxa} (h : m.nxt = none) : m.promote plan = { m with cur := none } := by
  rw [Mxa.promote, h]

/-- The array with activation row `d` summed into its entry and the result rows `outs` queued. -/
def Mxa.withRow (m : Mxa) (set : WSet) (c : MxaCmd) (d : Row) (outs : List OutRow) : Mxa :=
  { m with entries := m.entries.set Entry.reset (mxBase c.block + c.entered) (m.entryAfter set c d), outq := m.outq ++ outs }

/-- The array after activation row `d` has entered: the command goes on as `c'`, or completes with `p` after its last row. -/
def Mxa.afterRow (m : Mxa) (set : WSet) (c : MxaCmd) (d : Row) (outs : List OutRow) (c' : MxaCmd) (p : Cpl) : Mxa :=
  if c.entered + 1 = mxM c.block then { m.withRow set c d outs with cur := none, cpls := m.cpls ++ [p] }
  else { m.withRow set c d outs with cur := some c' }

section AfterRow

variable (m : Mxa) (set : WSet) (c : MxaCmd) (d : Row) (outs : List OutRow) (c' : MxaCmd) (p : Cpl)

/-- Whether the command goes on or ends, the rest of the array is the same. -/
theorem Mxa.afterRow_only : m.afterRow set c d outs c' p = { m.withRow set c d outs with
    cur := (m.afterRow set c d outs c' p).cur, cpls := (m.afterRow set c d outs c' p).cpls } := by
  unfold Mxa.afterRow
  split <;> rfl

@[simp] theorem Mxa.afterRow_entry : (m.afterRow set c d outs c' p).entries.get Entry.reset (mxBase c.block + c.entered) =
    m.entryAfter set c d := by
  rw [Mxa.afterRow_only]; exact Sparse.get_set_same ..

theorem Mxa.afterRow_entry_other {j : Nat} (h : j ≠ mxBase c.block + c.entered) :
    (m.afterRow set c d outs c' p).entries.get Entry.reset j = m.entries.get Entry.reset j := by
  rw [Mxa.afterRow_only]; exact Sparse.get_set_other _ _ _ _ h

@[simp] theorem Mxa.afterRow_active : (m.afterRow set c d outs c' p).active = m.active := by rw [Mxa.afterRow_only]; rfl
@[simp] theorem Mxa.afterRow_queue : (m.afterRow set c d outs c' p).queue = m.queue := by rw [Mxa.afterRow_only]; rfl
@[simp] theorem Mxa.afterRow_nxt : (m.afterRow set c d outs c' p).nxt = m.nxt := by rw [Mxa.afterRow_only]; rfl
@[simp] theorem Mxa.afterRow_outq : (m.afterRow set c d outs c' p).outq = m.outq ++ outs := by rw [Mxa.afterRow_only]; rfl

end AfterRow

/-- An activation row without a parity mismatch enters under the active weight set: its entry takes the row, its result rows are
queued, and the command goes on or, with its last row, completes. -/
theorem State.mxAdmit_unit {u : Nat} {c : MxaCmd} {set : WSet} (hcur : (s.unit u).mxa.cur = some c)
    (hactive : (s.unit u).mxa.active = some set) (hnxt : (s.unit u).mxa.nxt = none) (hw : mxWMode c.block = 0) (d : Row) (nf : Bool) :
    ∃ outs c3 p flag,
      (s.mxAdmit u c d nf none).unit u = { s.unit u with nf := flag, mxa := (s.unit u).mxa.afterRow set c d outs c3 p } ∧
      outs.map OutRow.offset = (if mxAccOut c.block = 0 then []
        else c.resultOffsets (mxResult (s.unit u) c.block ((s.unit u).mxa.entryAfter set c d) c.entered).1.length) ∧
      (c3.block = c.block ∧ c3.entered = c.entered + 1) ∧ (p.status = 0 ∧ p.seq = c.seq ∧ p.w1 = wd (c.entered + 1)) ∧
      ∀ w, w ≠ u → (s.mxAdmit u c d nf none).unit w = s.unit w := by
  obtain ⟨c2, ⟨hunit, hother⟩, hblock, hseq, hentered⟩ := State.nowAt_mxCounted hcur hw
  have hset (w : WSet) : (s.unit u).mxa.active.getD w = set := by rw [hactive]; rfl
  unfold State.mxAdmit
  dsimp only
  rw [← State.mxCounted, hunit]
  dsimp only
  rw [State.noteNf_unit_same, State.unit_setUnit_same, Mxa.promote_of_nxt_none _ (by exact hnxt)]
  simp only [hset, beq_iff_eq]
  refine ⟨_, _, _, _, rfl, ?offsets, ⟨hblock, hentered⟩, ?completion, fun w hne => ?other⟩
  case offsets =>
    rw [List.map_map]
    refine Eq.trans (map_zipIdx_snd _ _ (fun j => blk c.block 7 0 22 + 64 * (mxROut c.block * c.entered + j)) fun _ => rfl) ?_
    split <;> rfl
  case completion => exact ⟨rfl, hseq, rfl⟩
  case other => rw [State.noteNf_unit_other _ _ hne, State.unit_setUnit_other _ _ hne, hother w hne]

/-! ### One cycle of the array's inputs (R145) -/

theorem State.mxAhead_of_nxt_none {u : Nat} (h : (s.unit u).mxa.nxt = none) (errs : Errs) (i : Nat) : s.mxAhead u errs i = s := by
  unfold State.mxAhead
  rw [h]
  cases (s.unit u).mxa.cur <;> rfl

/-- An ungated command that keeps the weight set and loads no entries has nothing to load before a row (R145). -/
theorem State.mxPrepare_of_kept {u : Nat} {c : MxaCmd} (hw : mxWMode c.block = 0) (hacc : mxAccIn c.block < 2) (errs : Errs) :
    s.mxPrepare u c errs = .ready s 0 := by
  unfold State.mxPrepare
  simp [hw, show mxAccIn c.block ≠ 2 by omega]

/-- The unit and the row that hold a command's next activation row, and the kind of its read (Table MXA-3). -/
def MxaCmd.rowUnit (c : MxaCmd) (u : Nat) : Nat := (mxASpan c.block u).unit
def MxaCmd.rowIndex (c : MxaCmd) : Nat := blk c.block 5 0 22 / 64 + c.entered
def MxaCmd.rowKind (c : MxaCmd) : AccKind := kindOf (blk c.block 5 26 2)

/-- The next activation row of the command in progress can enter now: the command is ungated, keeps the weight set and loads no
entries, the output queue has room, the unit of the row is served and not being filled, and the row is usable and its bank idle. -/
structure State.rowReady (s : State) (u : Nat) (c : MxaCmd) : Prop where
  cur : (s.unit u).mxa.cur = some c
  weights : mxWMode c.block = 0
  loads : mxAccIn c.block < 2
  ungated : mxGate c.block = false
  room : mxAccOut c.block = 0 ∨ (s.unit u).mxFull (s.aclkOf (clusterOf u)) = false
  here : s.absent (c.rowUnit u) = false
  inService : (s.svc (regionOf (c.rowUnit u))).withdrawn = false
  filled : c.rowUnit u ≠ u → s.filling (c.rowUnit u) = false
  idle : s.bankIdle (c.rowUnit u) (blk c.block 5 0 22 + 64 * c.entered)
  usable : ((s.unit (c.rowUnit u)).cell c.rowIndex).admits c.rowKind = true

/-- A row that can enter is read from its bank, and enters. -/
theorem State.mxEnter_admits {u : Nat} {c : MxaCmd} (h : s.rowReady u c) :
    let row := (s.unit (c.rowUnit u)).cell c.rowIndex
    ∃ t, s.mxEnter u [] none = (t.mxAdmit u c row.data row.nf none, 1) ∧
      s.rowServed (c.rowUnit u) c.rowIndex (row.after c.rowKind true 0 0 false) t := by
  intro row
  have hread : c.rowKind.isRead = true := kindOf_isRead _
  have hplain : c.rowKind = .plainWrite → row.tagged = false := fun hk => by rw [hk] at hread; cases hread
  obtain ⟨t, haccess, hserved⟩ := State.engineAccess_made (u := u)
    { port := 0, plan := s.mxPlanA u c.block c.entered - latency u (c.rowUnit u) c.rowIndex, hold := cmdHold c.block,
      keep := (decide (c.entered + 1 < mxM c.block) && (!mxGate c.block || decide (1 < c.passLeft))) &&
        mxNextA c.block u (c.rowUnit u) c.rowIndex (c.entered + 1) } 0 false (show 0 ≠ 7 by decide)
    h.here h.inService h.filled (by unfold MxaCmd.rowIndex; omega) h.idle rfl hplain h.usable
  have hcur : (t.unit u).mxa.cur = some c := (hserved.view (f := fun x => x.mxa.cur) (fun _ _ _ => rfl) u).trans h.cur
  have hopen : ¬(mxAccOut c.block ≠ 0 ∧ (s.unit u).mxFull (s.aclkOf (clusterOf u)) = true) := by
    rintro ⟨hout, hfull⟩
    rcases h.room with hnone | hroom
    · exact hout hnone
    · rw [hroom] at hfull; cases hfull
  have hrun : ¬(mxGate c.block = true ∧ c.passLeft = 0) := fun hg => by rw [h.ungated] at hg; cases hg.1
  have hclean : errAt [] 0 = .clean := rfl
  rw [Cell.gives_of_read row hread] at haccess
  refine ⟨t, ?_, hserved⟩
  unfold State.mxEnter
  simp only [h.cur, State.mxPrepare_of_kept h.weights h.loads, hopen, hrun, hclean, if_false]
  rw [← MxaCmd.rowUnit, ← MxaCmd.rowIndex, ← MxaCmd.rowKind, haccess]
  simp only [hcur]

/-- A cycle of the inputs in which a row enters and no next command waits to load: what becomes of the array and of the rows. -/
theorem State.mxInputs_enters {u : Nat} {c : MxaCmd} {set : WSet} (h : s.rowReady u c)
    (hactive : (s.unit u).mxa.active = some set) (hnxt : (s.unit u).mxa.nxt = none) :
    let row := (s.unit (c.rowUnit u)).cell c.rowIndex
    ∃ t outs c3 p, s.mxInputs u [] none = t ∧ (t.unit u).mxa = (s.unit u).mxa.afterRow set c row.data outs c3 p ∧
      outs.map OutRow.offset = (if mxAccOut c.block = 0 then []
        else c.resultOffsets (mxResult (s.unit u) c.block ((s.unit u).mxa.entryAfter set c row.data) c.entered).1.length) ∧
      (c3.block = c.block ∧ c3.entered = c.entered + 1) ∧ (p.status = 0 ∧ p.seq = c.seq ∧ p.w1 = wd (c.entered + 1)) ∧
      (t.unit (c.rowUnit u)).cell c.rowIndex = row.after c.rowKind true 0 0 false ∧ sameRowsBut (c.rowUnit u) c.rowIndex s t := by
  intro row
  obtain ⟨t0, henter, hserved⟩ := State.mxEnter_admits h
  have hmxa : (t0.unit u).mxa = (s.unit u).mxa := hserved.view (f := Unit.mxa) (fun _ _ _ => rfl) u
  have hresult (e : Entry) : mxResult (t0.unit u) c.block e c.entered = mxResult (s.unit u) c.block e c.entered :=
    hserved.view (f := fun x => mxResult x c.block e c.entered) (fun _ _ _ => rfl) u
  obtain ⟨outs, c3, p, flag, hunit, hoffsets, hc3, hp, hother⟩ := State.mxAdmit_unit (s := t0) (hmxa ▸ h.cur) (hmxa ▸ hactive)
    (hmxa ▸ hnxt) h.weights row.data row.nf
  rw [hmxa, hresult] at hoffsets
  rw [hmxa] at hunit
  have hcell (w r : Nat) : ((t0.mxAdmit u c row.data row.nf none).unit w).cell r = (t0.unit w).cell r := by
    by_cases hw : w = u
    · rw [hw, hunit]; rfl
    · rw [hother w hw]
  refine ⟨_, outs, c3, p, ?inputs, by rw [hunit], hoffsets, hc3, hp, (hcell ..).trans hserved.row,
    fun w r hr => (hcell w r).trans (hserved.sameRowsBut w r hr)⟩
  rw [State.mxInputs, henter]
  exact State.mxAhead_of_nxt_none (by rw [hunit]; exact (Mxa.afterRow_nxt ..).trans hnxt) [] 1

/-- Settles O24: the row is read at its bank and enters; what the array then holds of it is read off `Mxa.afterRow`. -/
theorem matrixArrayRowEnters : Obligations.MatrixArrayRowEnters := by
  intro s u c set hu hcur hactive hnxt b m v row k old hw hacc hgate hroom hmore habs hwith hadm hidle hfill
  obtain ⟨t, outs, c3, p, hinputs, hm, hoffsets, ⟨hblock, hentered⟩, ⟨hstatus, hseq, hw1⟩, hrow, hframe⟩ :=
    State.mxInputs_enters ⟨hcur, hw, hacc, hgate, hroom, habs, hwith, hfill, hidle, hadm⟩ hactive hnxt
  have hexec : exec (.mxaRowEntry u [] none) s = .next t := (if_pos (decide_eq_true hu)).trans (congrArg _ hinputs)
  refine ⟨t, hexec, ?array, hrow.trans (Cell.after_of_read row (kindOf_isRead _) 0 0 false), hframe⟩
  rw [hm]
  refine ⟨?kind, ?started, ?count, ?columns, fun j hj => Mxa.afterRow_entry_other _ _ _ _ _ _ _ hj,
    (Mxa.afterRow_active ..).trans hactive, Mxa.afterRow_queue .., ?none, ?results, ?goesOn, ?ends⟩
  case kind => rw [Mxa.afterRow_entry]; rfl
  case started => rw [Mxa.afterRow_entry]; rfl
  case count =>
    rw [Mxa.afterRow_entry]
    exact congrArg (old.count + ·) (length_rowVals ..)
  case columns =>
    intro n hn
    rw [Mxa.afterRow_entry, Mxa.entryAfter, Entry.col_take _ _ _ _ hn (mxK_le b), List.map_map]
    rfl
  case none =>
    intro hout
    rw [if_pos hout, List.map_eq_nil_iff] at hoffsets
    rw [Mxa.afterRow_outq, hoffsets, List.append_nil]
  case results =>
    intro hout
    rw [if_neg hout] at hoffsets
    rw [Mxa.afterRow_outq, List.map_append, hoffsets, Mxa.afterRow_entry]
    rfl
  case goesOn =>
    intro hlt
    rw [Mxa.afterRow, if_neg hlt.ne]
    exact ⟨c3, rfl, hentered, hblock, rfl⟩
  case ends =>
    intro hlast
    rw [Mxa.afterRow, if_pos hlast, ← hlast]
    exact ⟨rfl, p, rfl, hstatus, hseq, hw1⟩

end Sys2Proof.Machine

/-! PROOFS. The stages of the stroke engine outside PERM work on each lane alone (R156). -/

namespace Sys2Proof.Machine

open Sys2Proof.Num

/-- Without a PERM stage the stages up to REDUCE or PACK are one function of a lane, applied to every lane, and set no lane-range
flag. -/
theorem runStages_eq_map (k : List Val) (g m : Row) {ws : List Word} (hperm : ∀ w ∈ ws, stKind w ≠ 5) :
    ∃ f : Lane → Lane, ∀ ls, runStages k g m ws ls = (ls.map f, false) := by
  induction ws with
  | nil => exact ⟨id, fun ls => by rw [runStages, List.map_id]⟩
  | cons w ws ih =>
    obtain ⟨hw, hws⟩ := List.forall_mem_cons.mp hperm
    obtain ⟨f, hf⟩ := ih hws
    unfold runStages
    split
    case h_1 | h_2 => exact ⟨id, fun ls => by rw [List.map_id]⟩
    case h_3 hkind => exact absurd hkind hw
    case h_4 => exact ⟨fun l => f (l.glyph k g (stParam w + 1)), fun ls => by rw [hf, List.map_map]; rfl⟩
    case h_5 => exact ⟨fun l => f (l.stage k w), fun ls => by rw [hf, List.map_map]; rfl⟩

/-- Settles O27: a map keeps the order and the number of lanes, and gives a lane in a block what it gives the lane alone. -/
theorem lanesAreIndependent : Obligations.LanesAreIndependent := by
  intro k g m ws ls hperm
  obtain ⟨f, hf⟩ := runStages_eq_map k g m hperm
  rw [hf]
  exact ⟨rfl, List.length_map .., fun j l hl => by rw [hf, List.getElem?_map, hl]; rfl⟩

end Sys2Proof.Machine

/-! PROOFS. The stroke engine's read of a stride-zero stream at another unit writes the row back, which leaves that unit's rows as
they were, but not a table of them that lists a row as an unlisted one reads. -/

namespace Sys2Proof.Machine

theorem othersKeep.rows {s t : State} {u v : Nat} (h : othersKeep u s t) (hv : v ≠ u) : (t.unit v).rows = (s.unit v).rows := by
  rw [h v hv]

/-- The banks of a cluster are free where its units list no bank. -/
theorem State.clusterFree_of_no_banks {s : State} {u : Nat}
    (h : ∀ j < 16, s.filling (u / 16 * 16 + j) = false ∧ (s.unit (u / 16 * 16 + j)).banks = []) : s.clusterFree u := by
  intro v hv
  obtain ⟨hfilling, hbanks⟩ := h (v % 16) (Nat.mod_lt _ (by decide))
  rw [← hv, Nat.mul_comm, Nat.div_add_mod] at hfilling hbanks
  refine ⟨hfilling, fun b => ?_⟩
  rw [Unit.bank, hbanks]
  exact ⟨rfl, rfl, rfl⟩

/-- A finiteness scan (R161) of one element: one input stream, no output, and a chain of ABS alone; the stream table lies in row 40,
the parameters in row 42. -/
def scanBlock : Row := rowOfWords ([2, 0, 0, 0, 1 + 2 ^ 13 + 2 ^ 17, 2560, 2688, 0, 2 + 5 * 2 ^ 4].map wd)

/-- The scan's stream: row 20 of unit 0, N36, stride zero with period 1. -/
def scanStream : Row := rowOfWords ([1280 + 3 * 2 ^ 28, 2].map wd)

/-- Unit 3 has the scan in its stroke queue, and the table of unit 0's rows lists row 20 as it reads after reset. -/
def scanQueued : State :=
  (State.reset.updUnit 3 fun x => { (x.setCell 5 { Cell.reset with data := scanBlock }).setCell 40 { Cell.reset with data := scanStream }
    with stroke := { x.stroke with queue := [⟨320, 9⟩] } }).updUnit 0 fun x => { x with rows := [(20, Cell.reset)] }

theorem scanQueued_ready : scanQueued.strokeReady 3 ⟨320, 9⟩ [] := by
  unfold State.strokeReady State.unitServed; decide +kernel

theorem scanQueued_free : scanQueued.clusterFree 3 := State.clusterFree_of_no_banks (by decide +kernel)

/-- The scan passes every check, and the row of its stream is usable. -/
theorem scanQueued_passes :
    let b := (scanQueued.rowOf 3 320).data
    let inT := (scanQueued.rowOf 3 (skStrm b)).data
    let outT := (scanQueued.rowOf 3 (skStrm b + 64)).data
    let par := (scanQueued.rowOf 3 (skParam b)).data
    let g := if skHasGlyph b then (scanQueued.rowOf 3 (skGlyph b)).data else 0
    skEarly b = 0 ∧ scanQueued.skFaults 3 b inT outT par g = [] ∧
      ∀ d ∈ skIns b inT, d.one = false → ∀ j < rowsFor (min (max d.period 1) 64) d.fmt,
        ((scanQueued.unit (mate 3 d.src)).cell (d.off / 64 + j)).admits (kindOf d.kind) = true := by
  decide +kernel

theorem scanQueued_lists : (scanQueued.unit 0).rows = [(20, Cell.reset)] := by decide +kernel

/-- Row 20 of unit 0 still reads the same after the scan is taken, but the table no longer lists it. -/
theorem scanQueued_taken : ∃ t, exec (.strokeCommand 3 []) scanQueued = .next t ∧ (t.unit 0).rows = [] :=
  ⟨_, rfl, by decide +kernel⟩

/-- Refutes O26: its frame compares the tables of the other units' rows as data, and the read of a stride-zero stream at another unit
puts that unit's table in canonical form. The state is one that `State.canonical` excludes. -/
theorem not_strokeTakesCommand : ¬ Obligations.StrokeTakesCommand := by
  intro h
  obtain ⟨hearly, hfaults, husable⟩ := scanQueued_passes
  obtain ⟨t, c, hexec, -, hothers, -⟩ :=
    (h scanQueued 3 ⟨320, 9⟩ [] scanQueued_ready scanQueued_free).1 hearly hfaults husable
  obtain ⟨t', hexec', hrows⟩ := scanQueued_taken
  obtain rfl : t' = t := Host.Outcome.next.inj (hexec'.symm.trans hexec)
  have hkept : (t'.unit 0).rows = [(20, Cell.reset)] := (hothers.rows (by decide)).trans scanQueued_lists
  exact absurd (hrows.symm.trans hkept) (by decide)

end Sys2Proof.Machine

/-! PROOFS. A run of accesses that the mover makes at its own unit's banks: the port that goes on presenting requests may hold the bank
of the row that it accesses next, and every other bank is free (R82, R85). -/

namespace Sys2Proof.Machine

variable {s t v : State}

/-! ### What an engine sees of the module besides the units -/

/-- BAR0, the service of the regions and the row maps are the same: absent and withdrawn units, host slots and the module's index. -/
structure State.sameModule (s t : State) : Prop where
  bar : ∀ o, t.bar o = s.bar o
  svc : ∀ r, t.svc r = s.svc r
  rowMap : ∀ r i, i < 80 → t.p1 r i = s.p1 r i

theorem State.sameModule.trans (h : s.sameModule t) (k : t.sameModule v) : s.sameModule v :=
  ⟨fun o => (k.bar o).trans (h.bar o), fun r => (k.svc r).trans (h.svc r), fun r i hi => (k.rowMap r i hi).trans (h.rowMap r i hi)⟩

theorem onlyUnits.sameModule (h : onlyUnits s t) : s.sameModule t :=
  ⟨fun o => h.view (f := fun s => s.bar o) fun _ _ => rfl, fun r => h.view (f := fun s => s.svc r) fun _ _ => rfl,
    fun r i _ => h.view (f := fun s => s.p1 r i) fun _ _ => rfl⟩

theorem State.sameModule.absent (h : s.sameModule t) (u : Nat) : t.absent u = s.absent u := by
  have hmap : rowMapIndex u < 80 := by unfold rowMapIndex; omega
  rw [State.absent, State.absent, State.column, State.column, h.rowMap _ _ hmap, State.dark, State.dark, h.bar]

theorem State.sameModule.unitServed (h : s.sameModule t) {u : Nat} (hu : s.unitServed u) : t.unitServed u := by
  unfold State.unitServed
  rwa [h.absent, h.svc]

theorem State.sameModule.ownIndex (h : s.sameModule t) : t.ownIndex = s.ownIndex := by
  rw [State.ownIndex, State.ownIndex, h.bar]

theorem State.sameModule.slotValid (h : s.sameModule t) (k : Nat) : t.slotValid k = s.slotValid k := by
  rw [State.slotValid, State.slotValid, h.bar]

theorem State.sameModule.linLimit (h : s.sameModule t) (a : WAddr) : t.linLimit a = s.linLimit a := by
  have hsize (k : Nat) : t.slotSize k = s.slotSize k := by rw [State.slotSize, State.slotSize, h.bar, h.bar]
  rw [State.linLimit, State.linLimit, hsize]

theorem State.sameModule.recOk (h : s.sameModule t) (u : Nat) (r : Row) (j : Nat) : t.recOk u r j = s.recOk u r j := by
  rw [State.recOk, State.recOk, h.slotValid, h.linLimit]

theorem State.sameModule.waUnavailable (h : s.sameModule t) (a : WAddr) : t.waUnavailable a = s.waUnavailable a := by
  simp only [State.waUnavailable, h.svc, h.absent, h.slotValid]

/-- Page 1 writes and records on their way to the host: what the slip check makes of them leaves every view that shows none (R124). -/
theorem State.checkpoint_leaves {α : Type} {f : State → α} (hp : ∀ t r i w, 80 ≤ i → f (State.setP1 t r i w) = f t)
    (hf : ∀ t e, f (State.forward t e) = f t) (s : State) (u : Nat) (p : Word) : f (s.checkpoint u p) = f s := by
  have hscr (k : Nat) : 80 ≤ scrIdx u k := by unfold scrIdx; omega
  have hring (t : State) (r src code subject detail : Nat) : f (t.ringWrite r src code subject detail) = f t := by
    unfold State.ringWrite State.updP1
    dsimp only
    rw [hp _ _ _ _ (by omega), hp _ _ _ _ (by omega), hp _ _ _ _ (by omega), hp _ _ _ _ (by omega), hp _ _ _ _ (by omega)]
    split
    · exact hp _ _ _ _ (by omega)
    · rfl
  have hraise (t : State) (r subject detail : Nat) : f (t.raise r 0x024 subject detail) = f t := (hf _ _).trans (hring ..)
  unfold State.checkpoint State.raiseUnit State.seeP1 State.updP1
  dsimp only
  split
  · rw [hraise, hp _ _ _ _ (hscr _), hp _ _ _ _ (hscr _), hp _ _ _ _ (hscr _)]
  · rw [hp _ _ _ _ (hscr _), hp _ _ _ _ (hscr _)]

theorem State.checkpoint_sameModule (s : State) (u : Nat) (p : Word) : s.sameModule (s.checkpoint u p) where
  bar o := State.checkpoint_leaves (f := fun s => s.bar o) (fun _ _ _ _ _ => rfl) (fun _ _ => rfl) ..
  svc r := State.checkpoint_leaves (f := fun s => s.svc r) (fun _ _ _ _ _ => rfl) (fun _ _ => rfl) ..
  rowMap r i hi := State.checkpoint_leaves (f := fun s => s.p1 r i)
    (fun t _ _ w h => t.p1_setP1_other w (.inr (by omega))) (fun _ _ => rfl) ..

/-! ### One access at a bank that its port may hold -/

/-- Nothing competes for or is parked at bank `b` of unit `u`, and none but port `port` holds it. -/
structure State.bankOpen (s : State) (u b port : Nat) : Prop where
  waiting : ((s.unit u).bank b).waiting = []
  parked : ((s.unit u).bank b).parked = []
  owner : ∀ g, ((s.unit u).bank b).owner = some g → g.port = port

/-- An access of `port` at bank `b` of unit `u` leaves the other banks; its own one the port holds if it goes on presenting. -/
structure State.bankServed (s : State) (u b port : Nat) (keep : Bool) (t : State) : Prop where
  opened : t.bankOpen u b port
  owner : ∀ g, ((t.unit u).bank b).owner = some g → keep = true
  other : ∀ b', b' ≠ b → (t.unit u).bank b' = (s.unit u).bank b'

theorem Unit.putCell_parked (x : Unit) (q : Nat) (c : Cell) {b : Nat} (h : (x.bank b).parked = []) :
    ((x.putCell q c).bank b).parked = [] := by
  unfold Unit.putCell Unit.wakeRow
  dsimp only
  split
  · exact h
  · by_cases hb : b = q / 3072
    · subst hb; simp [h]
    · rw [Unit.bank_setBank_other _ _ hb]; exact h

theorem Unit.bank_putCell_other (x : Unit) {q b : Nat} (c : Cell) (h : b ≠ q / 3072) : (x.putCell q c).bank b = x.bank b := by
  unfold Unit.putCell Unit.wakeRow
  dsimp only
  split
  · rfl
  · exact Unit.bank_setBank_other _ _ h

/-- The unit after a granted request, alone at its bank, has made its access. -/
theorem State.engage_unit {r : Req} {b : Nat} (g : Option Grant) (hclean : r.acc.ecc = .clean)
    (hplain : r.kind = .plainWrite → ((s.unit r.acc.unit).cell (r.acc.offset / 64)).tagged = false)
    (hadm : ((s.unit r.acc.unit).cell (r.acc.offset / 64)).admits r.kind = true)
    (hwait : ((s.unit r.acc.unit).bank b).waiting = []) :
    let c := ((s.unit r.acc.unit).cell (r.acc.offset / 64)).after r.kind r.acc.wide (r.acc.offset % 64 / 4) r.acc.data r.acc.nf
    let x := (s.unit r.acc.unit).putCell (r.acc.offset / 64) c
    (s.engage b r g).1.unit r.acc.unit = x.setBank b { x.bank b with
      owner := if r.acc.keep then some (g.getD (r.grantAt (s.aclkOf (clusterOf r.acc.unit)))) else none
      scrubRow := if r.isScrub then ((x.bank b).scrubRow + 1) % 3072 else (x.bank b).scrubRow } := by
  obtain ⟨data, flag, hgives⟩ :=
    ((s.unit r.acc.unit).cell (r.acc.offset / 64)).gives_done r.kind r.acc.wide (r.acc.offset % 64 / 4) r.acc.data r.acc.nf
  have hacc := s.access_made (j := r.acc.offset % 64 / 4) (wide := r.acc.wide) (d := r.acc.data) (nf := r.acc.nf) hplain hadm
  unfold State.engage
  dsimp only at hacc ⊢
  rw [hclean, hacc, ← Cell.gives, hgives]
  rw [State.unit_updUnit_same, Unit.hintAll_of_empty, State.unit_updUnit_same]
  rw [Unit.bank_setBank_same, State.unit_updUnit_same]
  exact (Unit.putCell_waiting ..).trans hwait

/-- The bank after a granted request has made its access. -/
theorem State.engage_bankServed {r : Req} {b : Nat} (hb : r.acc.offset / 64 / 3072 = b) (g : Option Grant) (hclean : r.acc.ecc = .clean)
    (hplain : r.kind = .plainWrite → ((s.unit r.acc.unit).cell (r.acc.offset / 64)).tagged = false)
    (hadm : ((s.unit r.acc.unit).cell (r.acc.offset / 64)).admits r.kind = true) (hopen : s.bankOpen r.acc.unit b r.acc.port)
    (hg : ∀ g', g = some g' → g'.port = r.acc.port) :
    s.bankServed r.acc.unit b r.acc.port r.acc.keep (s.engage b r g).1 := by
  have hport (c : Nat) : (g.getD (r.grantAt c)).port = r.acc.port := by
    cases g with
    | none => rfl
    | some g' => exact hg g' rfl
  have hunit := State.engage_unit g hclean hplain hadm hopen.waiting
  have howner (g' : Grant) (h : (((s.engage b r g).1.unit r.acc.unit).bank b).owner = some g') :
      r.acc.keep = true ∧ g'.port = r.acc.port := by
    rw [hunit, Unit.bank_setBank_same] at h
    obtain ⟨hkeep, hgrant⟩ := Option.ite_none_right_eq_some.mp h
    exact ⟨hkeep, Option.some.inj hgrant ▸ hport _⟩
  refine ⟨⟨?waiting, ?parked, fun g' h => (howner g' h).2⟩, fun g' h => (howner g' h).1, fun b' hb' => ?other⟩
  case waiting => rw [hunit, Unit.bank_setBank_same]; exact (Unit.putCell_waiting ..).trans hopen.waiting
  case parked => rw [hunit, Unit.bank_setBank_same]; exact Unit.putCell_parked _ _ _ hopen.parked
  case other => rw [hunit, Unit.bank_setBank_other _ _ hb', Unit.bank_putCell_other _ _ (hb ▸ hb')]

/-- An engine's request at a bank that its port may hold is granted (R82, R85). -/
theorem State.compete_open {r : Req} {b : Nat} (hb : r.acc.offset / 64 / 3072 = b) (hopen : (s.retract r).bankOpen r.acc.unit b r.acc.port)
    (hmust : ((s.retract r).unit r.acc.unit).mustWait r = false) :
    s.compete r = (s.retract r).engage b r (((s.retract r).unit r.acc.unit).bank b).owner := by
  cases howner : (((s.retract r).unit r.acc.unit).bank b).owner with
  | none => exact State.compete_alone hb howner hopen.waiting hmust
  | some g =>
    subst hb
    unfold State.compete
    dsimp only
    rw [← State.retract, State.settleBank_of_empty hopen.waiting, howner]
    exact if_pos (hopen.owner g howner)

/-- An engine's access of a row of its own unit, through one of the mover's ports. -/
theorem State.engineAccess_own {u q : Nat} {k : AccKind} {p : Via} (d : Row) (nf : Bool) (hport : p.port = 8 ∨ p.port = 9)
    (hserved : s.unitServed u) (hopen : s.bankOpen u (q / 3072) p.port)
    (hplain : k = .plainWrite → ((s.unit u).cell q).tagged = false) (hadm : ((s.unit u).cell q).admits k = true) :
    ∃ t, s.engineAccess u u q k p d nf .clean = (t, ((s.unit u).cell q).gives k true 0 d nf) ∧
      s.rowServed u q (((s.unit u).cell q).after k true 0 d nf) t ∧ s.bankServed u (q / 3072) p.port p.keep t := by
  obtain ⟨-, habs, hwith⟩ := hserved
  have hrow : 64 * q / 64 = q := Nat.mul_div_cancel_left q (by decide)
  have hword : 64 * q % 64 / 4 = 0 := by rw [Nat.mul_mod_right]
  let a : Access :=
    { unit := u, port := p.port, agent := u, offset := 64 * q, wide := true,
      deadline := clampDeadline p.plan (s.aclkOf (clusterOf u)), hold := p.hold, keep := p.keep, more := false, data := d, nf := nf,
      ecc := .clean }
  let r := newReq a k (s.aclkOf (clusterOf u)) true
  have haccess : s.engineAccess u u q k p d nf .clean = s.compete r := by
    have hagent : (if p.port = 9 then u else if u = u then if p.port = 8 then u else 0 else 8 * u + min p.port 7) = u := by
      rcases hport with h | h <;> simp [h]
    have hdiv : s.fillDiverts a = false := by rcases hport with h | h <;> simp [State.fillDiverts, crosses, a, h]
    unfold State.engineAccess
    rw [if_neg (by rw [habs]; decide), if_neg (by rw [hwith]; decide), hagent, if_pos (.inl rfl)]
    change s.portAccess a k = _
    have hbank : a.offset / 64 / 3072 = q / 3072 := congrArg (· / 3072) hrow
    simp only [State.portAccess, hbank, show a.unit = u from rfl, hopen.waiting, hopen.parked, hdiv, List.find?_nil, List.any_nil,
      Bool.false_eq_true, if_false]
    rfl
  have hbank : r.acc.offset / 64 / 3072 = q / 3072 := congrArg (· / 3072) hrow
  have hunit : (s.retract r).unit u = (s.unit u).setBank (q / 3072) { (s.unit u).bank (q / 3072) with waiting := [], parked := [] } := by
    rw [State.retract, hbank, show r.acc.unit = u from rfl, State.unit_updUnit_same, hopen.waiting, hopen.parked]; rfl
  have hcell : ((s.retract r).unit r.acc.unit).cell (r.acc.offset / 64) = (s.unit u).cell q := by
    rw [show r.acc.unit = u from rfl, hunit, Unit.cell_setBank]; exact congrArg _ hrow
  have hopen1 : (s.retract r).bankOpen r.acc.unit (q / 3072) r.acc.port := by
    refine ⟨?_, ?_, ?_⟩ <;> rw [show r.acc.unit = u from rfl, hunit, Unit.bank_setBank_same]
    exact hopen.owner
  obtain ⟨t, hengage, hmade⟩ := State.engage_made hcell rfl hplain hadm (((s.retract r).unit r.acc.unit).bank (q / 3072)).owner
    hopen1.waiting
  have hbanks := State.engage_bankServed hbank (((s.retract r).unit r.acc.unit).bank (q / 3072)).owner rfl (hcell ▸ hplain) (hcell ▸ hadm)
    hopen1 hopen1.owner
  rw [hengage] at hbanks
  have hmade' : (s.retract r).rowServed u q (((s.unit u).cell q).after k true 0 d nf) t := by
    have hmade : (s.retract r).rowServed u (64 * q / 64) (((s.unit u).cell q).after k true (64 * q % 64 / 4) d nf) t := hmade
    rwa [hrow, hword] at hmade
  refine ⟨t, ?answer, ⟨(s.updUnit_onlyUnit ..).trans hmade'.only, ?unit, hmade'.row, fun q' hq' => ?cell⟩,
    ⟨hbanks.opened, hbanks.owner, fun b' hb' => ?bank⟩⟩
  case answer =>
    rw [haccess, State.compete_open hbank hopen1 (by rw [Unit.mustWait, hcell]; exact (congrArg not hadm)), hengage]
    exact congrArg (fun j => (t, ((s.unit u).cell q).gives k true j d nf)) hword
  case unit => rw [hmade'.unit, hunit]; rfl
  case cell => rw [hmade'.other q' hq', hunit]; rfl
  case bank =>
    refine (hbanks.other b' hb').trans ?_
    rw [show r.acc.unit = u from rfl, hunit, Unit.bank_setBank_other _ _ hb']

end Sys2Proof.Machine

/-! PROOFS. A mover command from its taking to its completion, where it accesses rows of its own unit only (R115 to R118, R198). -/

namespace Sys2Proof.Machine

variable {s t : State} {u : Nat} {m : Mover} {cells : Nat → Cell} {port : Nat} {next : Option Nat}

/-! ### Between two accesses -/

/-- `t` is `s` with mover `m` and rows `cells` in unit `u`. Nothing waits at the banks of the cluster, and of the unit's only that of
row `next` may be held, by port `port`. Page 1 but for the row maps and records on their way to the host may differ. -/
structure State.moving (s : State) (u : Nat) (m : Mover) (cells : Nat → Cell) (port : Nat) (next : Option Nat) (t : State) : Prop where
  module : s.sameModule t
  mover : (t.unit u).mover = m
  cell : (t.unit u).cell = cells
  other : ∀ v, v ≠ u → (t.unit v).cell = (s.unit v).cell
  waiting : ∀ v, v / 16 = u / 16 → ∀ b, ((t.unit v).bank b).waiting = []
  opened : ∀ b, t.bankOpen u b port
  held : ∀ b g, ((t.unit u).bank b).owner = some g → ∃ q, next = some q ∧ b = q / 3072

/-- With the banks of the cluster free, any port may begin at any row. -/
theorem State.clusterFree.moving (h : s.clusterFree u) : s.moving u (s.unit u).mover (s.unit u).cell port next s := by
  have hfree (b : Nat) := (h u rfl).2 b
  have hnone (b : Nat) (g : Grant) (hg : ((s.unit u).bank b).owner = some g) : False := by rw [(hfree b).1] at hg; cases hg
  exact ⟨⟨fun _ => rfl, fun _ => rfl, fun _ _ _ => rfl⟩, rfl, rfl, fun _ _ => rfl, fun v hv b => ((h v hv).2 b).2.1,
    fun b => ⟨(hfree b).2.1, (hfree b).2.2, fun g hg => (hnone b g hg).elim⟩, fun b g hg => (hnone b g hg).elim⟩

/-- Where no port holds a bank, any port may go on at any row. -/
theorem State.moving.turn (h : s.moving u m cells port none t) {port' : Nat} {next' : Option Nat} :
    s.moving u m cells port' next' t := by
  have hnone (b : Nat) (g : Grant) (hg : ((t.unit u).bank b).owner = some g) : False := by
    obtain ⟨q, hq, -⟩ := h.held b g hg
    cases hq
  exact { h with
    opened := fun b => ⟨(h.opened b).waiting, (h.opened b).parked, fun g hg => (hnone b g hg).elim⟩
    held := fun b g hg => (hnone b g hg).elim }

/-- What leaves the rows and the banks of every unit leaves them between the same two accesses. -/
theorem State.moving.of_units (h : s.moving u m cells port next t) {t' : State} {m' : Mover} (hmodule : t.sameModule t')
    (hmover : (t'.unit u).mover = m') (hcell : ∀ v, (t'.unit v).cell = (t.unit v).cell) (hbank : ∀ v, (t'.unit v).bank = (t.unit v).bank) :
    s.moving u m' cells port next t' where
  module := h.module.trans hmodule
  mover := hmover
  cell := (hcell u).trans h.cell
  other v hv := (hcell v).trans (h.other v hv)
  waiting v hv b := by rw [hbank]; exact h.waiting v hv b
  opened b := by
    obtain ⟨hwaiting, hparked, howner⟩ := h.opened b
    exact ⟨by rwa [hbank], by rwa [hbank], by rwa [hbank]⟩
  held b g hg := h.held b g (by rwa [hbank] at hg)

/-- A change of the mover alone. -/
theorem State.moving.updMover (h : s.moving u m cells port next t) (f : Mover → Mover) :
    s.moving u (f m) cells port next (t.updUnit u fun x => { x with mover := f x.mover }) := by
  have hview {α : Type} (g : Unit → α) (hg : ∀ (x : Unit) m, g { x with mover := m } = g x) (v : Nat) :
      g ((t.updUnit u fun x => { x with mover := f x.mover }).unit v) = g (t.unit v) := by
    by_cases hv : v = u
    · rw [hv, State.unit_updUnit_same, hg]
    · rw [State.unit_updUnit_other _ _ hv]
  exact h.of_units (t.updUnit_only ..).sameModule (by rw [State.unit_updUnit_same, h.mover]) (hview Unit.cell fun _ _ => rfl)
    (hview Unit.bank fun _ _ => rfl)

/-- The slip check (R124) touches no unit. -/
theorem State.moving.checkpoint (h : s.moving u m cells port next t) (p : Word) :
    s.moving u m cells port next (t.checkpoint u p) :=
  h.of_units (t.checkpoint_sameModule u p) (by rw [State.checkpoint_unit]; exact h.mover) (fun v => by rw [State.checkpoint_unit])
    fun v => by rw [State.checkpoint_unit]

/-- An access at the row that is next; `next` is the row after it, whose bank the port keeps if it is the same (R85). -/
theorem State.moving.access {q : Nat} {k : AccKind} {p : Via} (h : s.moving u m cells p.port (some q) t) (hserved : s.unitServed u)
    (hport : p.port = 8 ∨ p.port = 9) (hkeep : p.keep = next.any fun n => sameBank u q u n) (d : Row) (nf : Bool)
    (hplain : k = .plainWrite → (cells q).tagged = false) (hadm : (cells q).admits k = true) :
    ∃ t', t.engineAccess u u q k p d nf .clean = (t', (cells q).gives k true 0 d nf) ∧
      s.moving u m (Function.update cells q ((cells q).after k true 0 d nf)) p.port next t' := by
  obtain ⟨hmodule, hmover, hcell, hother, hwaiting, hopened, hheld⟩ := h
  have hq : (t.unit u).cell q = cells q := congrFun hcell q
  obtain ⟨t', haccess, hrow, hbanks⟩ := State.engineAccess_own (q := q) (k := k) (p := p) d nf hport (hmodule.unitServed hserved)
    (hopened _) (hq ▸ hplain) (hq ▸ hadm)
  rw [hq] at haccess hrow
  have hother' (b : Nat) (hb : b ≠ q / 3072) : ((t'.unit u).bank b) = (t.unit u).bank b := hbanks.other b hb
  refine ⟨t', haccess, hmodule.trans hrow.only.1.sameModule, ?mover, ?cell, fun v hv => ?other, fun v hv b => ?waiting,
    fun b => ?opened, fun b g hg => ?held⟩
  case mover => exact (hrow.view (f := Unit.mover) (fun _ _ _ => rfl) u).trans hmover
  case cell =>
    funext r
    by_cases hr : r = q
    · rw [hr, hrow.row, Function.update_self]
    · rw [hrow.other r hr, Function.update_of_ne hr, hcell]
  case other => rw [hrow.only.2 v hv]; exact hother v hv
  case opened =>
    by_cases hb : b = q / 3072
    · rw [hb]; exact hbanks.opened
    · obtain ⟨hw, hp, ho⟩ := hopened b
      exact ⟨by rwa [hother' b hb], by rwa [hother' b hb], by rwa [hother' b hb]⟩
  case waiting =>
    by_cases hu : v = u
    · rw [hu]
      by_cases hb : b = q / 3072
      · rw [hb]; exact hbanks.opened.waiting
      · rw [hother' b hb]; exact (hopened b).waiting
    · rw [hrow.only.2 v hu]; exact hwaiting v hv b
  case held =>
    by_cases hb : b = q / 3072
    · rw [hb] at hg
      have hsame : (next.any fun n => sameBank u q u n) = true := hkeep ▸ hbanks.owner g hg
      cases next with
      | none => cases hsame
      | some n => exact ⟨n, rfl, by simpa [sameBank, hb] using hsame⟩
    · rw [hother' b hb] at hg
      obtain ⟨q', hq', hb'⟩ := hheld b g hg
      cases hq'
      exact absurd hb' hb

/-! ### Rows of the unit's own scratchpad that a command reads (R187, R192, R214) -/

theorem spaceOf_waScratch {off : Nat} (hu : u < 15360) (ho : off < 2 ^ 22) : spaceOf (waScratch u off) = .scratch := by
  have hfield : field (waScratch u off) 46 2 = 0 := by rw [waScratch, field_ofNat (by decide)]; omega
  rw [spaceOf, hfield]; rfl

theorem waUnit_waScratch {off : Nat} (hu : u < 15360) (ho : off < 2 ^ 22) : waUnit (waScratch u off) = u := by
  rw [waUnit, waScratch, field_ofNat (by decide)]; omega

theorem waOffset_waScratch {off : Nat} (ho : off < 2 ^ 22) : waOffset (waScratch u off) = off := by
  rw [waOffset, waScratch, field_ofNat (by decide)]; omega

/-- The key of row `q` of unit `u`'s scratchpad. -/
def State.ownKey (s : State) (u q : Nat) : RowKey := { module := s.ownIndex.toNat, addr := waScratch u (64 * q) }

theorem offset_lt_of_row {q : Nat} (hq : q < scratchRows) : 64 * q < 2 ^ 22 := by unfold scratchRows at hq; omega

theorem State.near_ownKey {q : Nat} (hu : u < 15360) (hq : q < scratchRows) : s.near u (s.ownKey u q) = true := by
  have ho := offset_lt_of_row hq
  simp [State.near, State.ownKey, spaceOf_waScratch hu ho, waUnit_waScratch hu ho]

/-- `w'` is `w` after accesses: their number, and the cycle of the first (R198, R214). -/
def MoverWait.accessed (w w' : MoverWait) : Prop :=
  w' = { w with made := w'.made, started := w'.started, firstCycle := w'.firstCycle }

theorem MoverWait.accessed.view {α : Type} {w w' : MoverWait} (h : w.accessed w') {f : MoverWait → α}
    (hf : ∀ (w : MoverWait) n b c, f { w with made := n, started := b, firstCycle := c } = f w) : f w' = f w := by
  rw [h, hf]

theorem MvCtx.start_accessed (c : MvCtx) (u : Nat) : c.w.accessed (c.start u).w := by
  unfold MvCtx.start
  split <;> rfl

theorem State.moving.start {c : MvCtx} (h : s.moving u m cells port next c.s) : s.moving u m cells port next (c.start u).s := by
  unfold MvCtx.start
  split
  · exact h
  · exact h.checkpoint _

/-- A read of a row of the own scratchpad, the one that is next. -/
theorem mvGet_own {c : MvCtx} {q : Nat} (h : s.moving u m cells 8 (some q) c.s) (hserved : s.unitServed u) (hq : q < scratchRows)
    (hnext : ∀ n, next = some n → n < scratchRows) :
    ∃ t, mvGet c u [] 0 (c.s.ownKey u q) 0 64 (next.map (c.s.ownKey u)) = .got (c.next t) (cells q).data (cells q).nf ∧
      s.moving u m cells 8 next t := by
  have hu := hserved.1
  have ho := offset_lt_of_row hq
  have hunit : waUnit (c.s.ownKey u q).addr = u := waUnit_waScratch hu ho
  have hoff : waOffset (c.s.ownKey u q).addr / 64 = q := by
    rw [State.ownKey, waOffset_waScratch ho]; exact Nat.mul_div_cancel_left q (by decide)
  have hkeep : c.s.mvKeep u (c.s.ownKey u q) (next.map (c.s.ownKey u)) = next.any fun n => sameBank u q u n := by
    cases hn : next with
    | none => rfl
    | some n =>
      have hn := hnext n hn
      have hn64 : 64 * n / 64 = n := Nat.mul_div_cancel_left n (by decide)
      simp only [State.mvKeep, Option.map_some, Option.any_some, State.near_ownKey hu hn, Bool.true_and, hunit, hoff]
      rw [State.ownKey, waUnit_waScratch hu (offset_lt_of_row hn), waOffset_waScratch (offset_lt_of_row hn), hn64]
  obtain ⟨t, haccess, hmoving⟩ := h.access (k := .plainRead) (next := next)
    (p := { port := 8, plan := c.plan u - c.s.mvLatency u (c.s.ownKey u q), hold := cmdHold c.w.block,
            keep := c.s.mvKeep u (c.s.ownKey u q) (next.map (c.s.ownKey u)) })
    hserved (.inl rfl) hkeep 0 false nofun (by cases ht : (cells q).tagged <;> simp [Cell.admits, ht])
  rw [Cell.gives_of_read _ rfl] at haccess
  rw [Cell.after_of_read _ rfl, if_neg (fun hk => by cases hk.1), Function.update_eq_self] at hmoving
  refine ⟨t, ?_, hmoving⟩
  unfold mvGet
  dsimp only
  rw [if_pos (State.near_ownKey hu hq), hunit, hoff]
  rw [show kindOf 0 = .plainRead from rfl, show errAt [] c.idx = .clean from rfl, haccess]
  rfl

/-- The rows that a command of the unit reads one after the other, its first data access among them. -/
theorem mvRows_own {rows : List Nat} (hrows : ∀ q ∈ rows, q < scratchRows) (hserved : s.unitServed u) {c : MvCtx}
    (h : s.moving u m cells 8 rows.head? c.s) :
    ∃ d, mvRows c u [] true rows = .go d ∧
      { c.w with rows := c.w.rows ++ rows.map fun q => (cells q).data }.accessed d.w ∧ s.moving u m cells 8 none d.s := by
  induction rows generalizing c with
  | nil => exact ⟨c, rfl, by rw [List.map_nil, List.append_nil]; rfl, h⟩
  | cons q qs ih =>
    obtain ⟨hq, hqs⟩ := List.forall_mem_cons.mp hrows
    have hown : (c.start u).s.ownKey u = c.s.ownKey u := by
      funext n
      rw [State.ownKey, State.ownKey, h.start.module.ownIndex, h.module.ownIndex]
    obtain ⟨t, hget, hmoving⟩ := mvGet_own (next := qs.head?) (c := c.start u) h.start hserved hq
      fun n hn => hqs n (List.mem_of_mem_head? hn)
    obtain ⟨d, hgo, hw, hdone⟩ := ih hqs (c := { (c.start u).next t with
      w := { ((c.start u).next t).w with rows := ((c.start u).next t).w.rows ++ [(cells q).data] } }) hmoving
    refine ⟨d, ?_, ?_, hdone⟩
    · rw [hown] at hget
      unfold State.ownKey at hget
      unfold mvRows
      dsimp only
      rw [if_pos rfl, hget]
      exact hgo
    · have hstart := c.start_accessed u
      unfold MoverWait.accessed MvCtx.next at *
      rw [hw, hstart]
      simp

/-! ### The completion (R118, R198) -/

theorem Unit.waiting_mapBanks {x : Unit} {f : Bank → Bank} (hf : ∀ y : Bank, y.waiting = [] → (f y).waiting = [])
    (h : ∀ b, (x.bank b).waiting = []) : ∀ b, ((x.mapBanks f).bank b).waiting = [] := by
  refine List.foldlRecOn (motive := fun y : Unit => ∀ b, (y.bank b).waiting = []) _ _ h fun y hy i _ b => ?_
  by_cases hb : b = i
  · rw [hb, Unit.bank_setBank_same]; exact hf _ (hy i)
  · rw [Unit.bank_setBank_other _ _ hb]; exact hy b

/-- Of every unit `t'` differs from `t` in banks only, and nothing waits at the banks of unit `u`'s cluster. -/
def State.banksLeft (u : Nat) (t t' : State) : Prop :=
  (∀ v, t'.unit v = { t.unit v with banks := (t'.unit v).banks }) ∧ ∀ v, v / 16 = u / 16 → ∀ b, ((t'.unit v).bank b).waiting = []

/-- Where nothing waits at the banks of the cluster, an engine that leaves its ports changes banks only. -/
theorem State.leavePorts_banks (ports : List Nat) (h : ∀ v, v / 16 = u / 16 → ∀ b, ((t.unit v).bank b).waiting = []) :
    t.banksLeft u (t.leavePorts u ports) := by
  unfold State.leavePorts
  refine List.foldlRecOn (motive := t.banksLeft u) _ _ ⟨fun _ => rfl, h⟩ fun t1 ⟨honly, hempty⟩ k hk => ?_
  have hmate : k / 16 = u / 16 := by
    obtain ⟨i, hi, rfl⟩ := List.mem_map.mp hk
    have := List.mem_range.mp hi
    omega
  obtain ⟨t2, ht2⟩ : ∃ t2, t2 = t1.updUnit k fun x => x.mapBanks (·.leave u k ports) := ⟨_, rfl⟩
  have hleft : t.banksLeft u t2 := by
    refine ⟨fun v => ?_, fun v hv b => ?_⟩ <;> by_cases hvk : v = k
    · rw [ht2, hvk, State.unit_updUnit_same, Unit.mapBanks_only, honly k]
    · rw [ht2, State.unit_updUnit_other _ _ hvk]; exact honly v
    · rw [ht2, hvk, State.unit_updUnit_same]
      exact Unit.waiting_mapBanks (fun y hy => by rw [Bank.leave, hy]; rfl) (hempty k hmate) b
    · rw [ht2, State.unit_updUnit_other _ _ hvk]; exact hempty v hv b
  rw [← ht2]
  exact List.foldlRecOn (motive := t.banksLeft u) _ _ hleft fun t3 h3 b _ => by
    rwa [State.serveBank, if_pos (h3.2 k hmate b)]

/-- A completion leaves of the units, besides banks, what it says of the mover. -/
theorem State.mvFinish_unit (w : MoverWait) (status : Nat) (h : ∀ v, v / 16 = u / 16 → ∀ b, ((t.unit v).bank b).waiting = []) (v : Nat) :
    (t.mvFinish u w status).unit v = { t.unit v with
      banks := ((t.mvFinish u w status).unit v).banks
      mover := if v = u then { (t.unit u).mover with cur := none, cpls := (t.unit u).mover.cpls ++ [t.mvCpl u w status] }
        else (t.unit v).mover } := by
  obtain ⟨t1, ht1⟩ : ∃ t1, t1 = t.updUnit u fun x => { x with mover := { x.mover with
    cur := none, cpls := x.mover.cpls ++ [t.mvCpl u w status] } } := ⟨_, rfl⟩
  have hempty : ∀ v, v / 16 = u / 16 → ∀ b, ((t1.unit v).bank b).waiting = [] := by
    intro v hv b
    by_cases hvu : v = u
    · rw [ht1, hvu, State.unit_updUnit_same]; exact h u rfl b
    · rw [ht1, State.unit_updUnit_other _ _ hvu]; exact h v hv b
  have hnote (t : State) (code : Nat) : (t.noteAlign u code).unit v = t.unit v := by
    unfold State.noteAlign; split <;> rfl
  have hunit : (t.mvFinish u w status).unit v = (t1.leavePorts u [8, 9]).unit v := by
    unfold State.mvFinish
    dsimp only
    rw [← ht1]
    split <;> split <;> simp only [State.seeP1_unit, hnote]
  rw [hunit]
  refine ((State.leavePorts_banks _ hempty).1 v).trans ?_
  by_cases hvu : v = u
  · rw [ht1, hvu, State.unit_updUnit_same, if_pos rfl]
  · rw [ht1, State.unit_updUnit_other _ _ hvu, if_neg hvu]

/-- The mover has completed its command with a status and two counts; its records, its slots and the rows of its unit are now these, and
the rows of the other units as they were. -/
structure State.moverEnded (s : State) (u : Nat) (q : Queued) (rest : List Queued) (m : Mover) (cells : Nat → Cell) (t : State)
    (status count met : Nat) : Prop where
  did : moverDid u q rest s t status count met
  slots : (t.unit u).mover.slots = m.slots
  records : (t.unit u).mover.records = m.records
  cell : (t.unit u).cell = cells
  other : ∀ v, v ≠ u → (t.unit v).cell = (s.unit v).cell

/-- The mover has taken queued command `q`: the rest of its queue stands, and no completion yet. -/
structure Mover.hasTaken (m : Mover) (old : Mover) (rest : List Queued) : Prop where
  queue : m.queue = rest
  issued : m.issued = old.issued
  cpls : m.cpls = []

theorem State.moving.finish {q : Queued} {rest : List Queued} {w : MoverWait} (h : s.moving u m cells port next t)
    (hm : m.hasTaken (s.unit u).mover rest) (hblock : w.block = (s.rowOf u q.offset).data) (hseq : w.seq = q.seq) (status : Nat) :
    s.moverEnded u q rest m cells (t.mvFinish u w status) status (min w.elems (2 ^ 36 - 1)) (min w.met (2 ^ 24 - 1)) := by
  have hunit := State.mvFinish_unit w status h.waiting u
  rw [if_pos rfl, h.mover] at hunit
  refine ⟨⟨by rw [hunit]; exact hm.queue, by rw [hunit], by rw [hunit]; exact hm.issued, t.mvCpl u w status, ?_, rfl, hseq, rfl, rfl,
    congrArg cplOffset hblock⟩, by rw [hunit], by rw [hunit], by rw [hunit]; exact h.cell, fun v hv => ?_⟩
  · rw [hunit, hm.cpls]; rfl
  · rw [State.mvFinish_unit w status h.waiting v]; exact h.other v hv

/-- A command that ends without writes to settle completes. -/
theorem MvRes.commit_ends {c : MvCtx} (status : Nat) (hacks : c.w.acks = []) :
    (MvRes.ends c status).commit u = c.s.mvFinish u { c.w with ended := some status, ask := none, ans := none, acks := [] } status := by
  simp only [MvRes.commit, State.mvSettle, hacks, MoverWait.drain]

theorem MvRes.commit_go {c : MvCtx} (hacks : c.w.acks = []) :
    (MvRes.go c).commit u = c.s.mvFinish u { c.w with ended := some 0, acks := [] } 0 := by
  simp only [MvRes.commit, State.mvSettle, hacks, MoverWait.drain]

/-! ### The taking of a command (R115, R117, R195) -/

/-- The mover with its oldest command taken from its queue. -/
def Mover.popped (m : Mover) (rest : List Queued) : Mover := { m with queue := rest }

/-- The mover takes its oldest command: one that its fields or the place of its rows forbid completes at once, any other begins to
run. -/
theorem State.mvCommand_taken {op : Nat} {q : Queued} {rest : List Queued} (h : s.moverReady u op q rest) :
    let b := (s.rowOf u q.offset).data
    let m := (s.unit u).mover.popped rest
    let w := blankWait b q.seq
    let early := (s.unit u).mvEarly b
    ∃ t, s.moving u m (s.unit u).cell 8 none t ∧
      (early ≠ 0 → s.mvCommand u op [] none = t.mvFinish u w early) ∧
      (early = 0 → s.mvCommand u op [] none =
        (t.updUnit u fun x => { x with mover := { x.mover with cur := some w } }).mvGo u w [] 1 none) := by
  obtain ⟨hserved, hfree, hqueue, hcur, hcpls, hdrop, hbad, hmvop, -⟩ := h
  intro b m w early
  obtain ⟨t0, haccess, hmoving⟩ := (hfree.moving (u := u) (port := 8) (next := some (q.offset / 64))).access (k := .plainRead) (next := none)
    (p := { port := 8, plan := (s.aclkOf (clusterOf u) : Int), hold := 1, keep := false }) hserved (.inl rfl) rfl 0 false nofun
    (by cases ht : ((s.unit u).cell (q.offset / 64)).tagged <;> simp [Cell.admits, ht])
  rw [Cell.gives_of_read _ rfl] at haccess
  rw [Cell.after_of_read _ rfl, if_neg (fun hk => by cases hk.1), Function.update_eq_self] at hmoving
  have htake : s.takeBlock u 2 q .clean = .block t0 b 0 := by
    unfold State.takeBlock
    rw [show blockPort 2 = 8 from rfl, haccess]
    change (if headerDrops b = true then _ else _) = _
    rw [hdrop, if_neg (by decide)]
    change Take.block t0 _ (if headerBad b 2 = true then _ else _) = _
    rw [hbad, if_neg (by decide)]
    rfl
  have hpop := hmoving.updMover fun m => m.popped rest
  have hearly : ((t0.updUnit u fun x => { x with mover := x.mover.popped rest }).unit u).mvEarly b = early := by
    have hview (x y : Unit) (hslots : y.mover.slots = x.mover.slots) : y.mvEarly b = x.mvEarly b := by
      unfold Unit.mvEarly Unit.recInUse; rw [hslots]
    exact hview _ _ (by rw [hpop.mover]; rfl)
  have htakes : mvRowTakes op (mvOp b) = true := by
    unfold mvRowTakes; rw [hmvop]; simp
  have hcommand : s.mvCommand u op [] none =
      (let t := t0.updUnit u fun x => { x with mover := x.mover.popped rest }
       if early ≠ 0 then t.mvFinish u w early
       else (t.updUnit u fun x => { x with mover := { x.mover with cur := some w } }).mvGo u w [] 1 none) := by
    rw [← hearly]
    unfold State.mvCommand
    simp only [hcur, hqueue, hcpls]
    rw [show errAt [] 0 = .clean from rfl, htake]
    have : mvRowTakes op (mvOp ((s.unit u).cell (q.offset / 64)).data) = true := htakes
    simp only [this]
    rfl
  exact ⟨_, hpop, fun he => by rw [hcommand]; exact if_pos he, fun he => by rw [hcommand]; exact if_neg (not_not.mpr he)⟩

end Sys2Proof.Machine

/-! PROOFS. RECORDS, REGISTER and RELEASE (R187, R188, R192 to R194). -/

namespace Sys2Proof.Machine

variable {s t : State} {u : Nat} {m : Mover} {cells : Nat → Cell} {port : Nat} {next : Option Nat} {q : Queued} {rest : List Queued}

/-! ### The lowest code (R62) -/

theorem lowest_eq_min? (l : List Nat) : lowest l = l.min?.getD 0 := by
  cases l <;> rfl

theorem lowest_eq {l : List Nat} {c : Nat} (hmem : c ∈ l) (hle : ∀ x ∈ l, c ≤ x) : lowest l = c := by
  rw [lowest_eq_min?, List.min?_eq_some_iff.mpr ⟨hmem, hle⟩]; rfl

theorem lowest_eq_zero_iff {l : List Nat} (h : 0 ∉ l) : lowest l = 0 ↔ l = [] := by
  rw [lowest_eq_min?, ← List.min?_eq_none_iff]
  cases hmin : l.min? with
  | none => simp
  | some c =>
    have hc : c ≠ 0 := fun h0 => h (h0 ▸ List.min?_mem hmin)
    simp [hc]

/-! ### A command begins to run -/

/-- The mover with its oldest command taken and in progress. -/
def Mover.begun (m : Mover) (rest : List Queued) (w : MoverWait) : Mover := { m.popped rest with cur := some w }

theorem State.moverReady.hasTaken {op : Nat} (h : s.moverReady u op q rest) : ((s.unit u).mover.popped rest).hasTaken (s.unit u).mover rest := by
  obtain ⟨-, -, -, -, hcpls, -⟩ := h
  exact ⟨rfl, rfl, hcpls⟩

/-- What a command of operation `op` runs. -/
def mvRunOf (op : Nat) (c : MvCtx) (u : Nat) : MvRes :=
  match op with
  | 1 => mvRecords c u []
  | 2 => mvRegister c u []
  | 3 => mvRelease c u
  | _ => mvMain c u []

/-- A command as it begins to run: its block is read, and the mover's tables have been used once (R215). -/
def beginRun (t : State) (b : Row) (seq : Word) : MvCtx := { s := t, w := blankWait b seq, idx := 1, uses := 1, parity := none }

/-- A command that nothing forbids runs from its first access on. -/
theorem State.mvCommand_runs {op : Nat} (h : s.moverReady u op q rest) (hearly : (s.unit u).mvEarly (s.rowOf u q.offset).data = 0) :
    let w := blankWait (s.rowOf u q.offset).data q.seq
    ∃ t, s.moving u ((s.unit u).mover.begun rest w) (s.unit u).cell 8 none t ∧
      s.mvCommand u op [] none = (mvRunOf op (beginRun t (s.rowOf u q.offset).data q.seq) u).commit u := by
  intro w
  have ⟨_, _, _, _, _, _, _, hop, _⟩ := h
  obtain ⟨t, hmoving, -, hruns⟩ := State.mvCommand_taken h
  refine ⟨_, hmoving.updMover fun m => { m with cur := some w }, (hruns hearly).trans ?_⟩
  subst hop
  rfl

/-- A run that ends without writes to settle has completed the command. -/
theorem State.moving.commit_ends {d : MvCtx} {w : MoverWait} {status count met : Nat} (h : s.moving u m cells port next d.s)
    (hm : m.hasTaken (s.unit u).mover rest) (hw : w.accessed d.w) (hblock : w.block = (s.rowOf u q.offset).data) (hseq : w.seq = q.seq)
    (hacks : w.acks = []) (hcount : min w.elems (2 ^ 36 - 1) = count) (hmet : min w.met (2 ^ 24 - 1) = met) :
    s.moverEnded u q rest m cells ((MvRes.ends d status).commit u) status count met := by
  subst hcount hmet
  have hview {α : Type} (f : MoverWait → α) (hf : ∀ (w : MoverWait) n b c, f { w with made := n, started := b, firstCycle := c } = f w) :
      f d.w = f w := hw.view hf
  rw [MvRes.commit_ends status ((hview MoverWait.acks fun _ _ _ _ => rfl).trans hacks), ← hview MoverWait.elems fun _ _ _ _ => rfl,
    ← hview MoverWait.met fun _ _ _ _ => rfl]
  exact h.finish hm ((hview MoverWait.block fun _ _ _ _ => rfl).trans hblock) ((hview MoverWait.seq fun _ _ _ _ => rfl).trans hseq) status

/-- A run that comes to its end has completed the command with status 0. -/
theorem State.moving.commit_go {d : MvCtx} {w : MoverWait} {count met : Nat} (h : s.moving u m cells port next d.s)
    (hm : m.hasTaken (s.unit u).mover rest) (hw : w.accessed d.w) (hblock : w.block = (s.rowOf u q.offset).data) (hseq : w.seq = q.seq)
    (hacks : w.acks = []) (hcount : min w.elems (2 ^ 36 - 1) = count) (hmet : min w.met (2 ^ 24 - 1) = met) :
    s.moverEnded u q rest m cells ((MvRes.go d).commit u) 0 count met := by
  subst hcount hmet
  have hview {α : Type} (f : MoverWait → α) (hf : ∀ (w : MoverWait) n b c, f { w with made := n, started := b, firstCycle := c } = f w) :
      f d.w = f w := hw.view hf
  rw [MvRes.commit_go ((hview MoverWait.acks fun _ _ _ _ => rfl).trans hacks), ← hview MoverWait.elems fun _ _ _ _ => rfl,
    ← hview MoverWait.met fun _ _ _ _ => rfl]
  exact h.finish hm ((hview MoverWait.block fun _ _ _ _ => rfl).trans hblock) ((hview MoverWait.seq fun _ _ _ _ => rfl).trans hseq) 0

theorem mvEarly_eq_zero {x : Unit} {b : Row} (hfields : mvFieldsBad b = false)
    (h1 : mvOp b = 1 → mvRowFaults (mvRowOffset b) ((mvNRec b + 3) / 4) = []) (h2 : mvOp b = 2 → mvRowFaults (mvRowOffset b) 1 = []) : x.mvEarly b = 0 := by
  unfold Unit.mvEarly
  dsimp only
  rw [if_pos]
  rw [hfields, if_neg (by decide), List.nil_append]
  split
  · exact h1 ‹_›
  · exact h2 ‹_›
  · rfl

/-- A command that its fields allow but whose rows lie outside the scratchpad or inside a row. -/
theorem State.mvCommand_rejected {op : Nat} (h : s.moverReady u op q rest) {code : Nat}
    (hearly : (s.unit u).mvEarly (s.rowOf u q.offset).data = code) (hcode : code ≠ 0) :
    s.moverEnded u q rest ((s.unit u).mover.popped rest) (s.unit u).cell (s.mvCommand u op [] none) code 0 0 := by
  obtain ⟨t, hmoving, hends, -⟩ := State.mvCommand_taken h
  rw [hends (hearly ▸ hcode), hearly]
  exact hmoving.finish h.hasTaken rfl rfl code

theorem State.moverEnded.cells_kept {status count met : Nat} (h : s.moverEnded u q rest m (s.unit u).cell t status count met) (v r : Nat) :
    (t.unit v).cell r = (s.unit v).cell r := by
  by_cases hv : v = u
  · rw [hv, h.cell]
  · rw [h.other v hv]

/-! ### RECORDS -/

/-- The row that holds record `i` of a RECORDS command with block `b`. -/
def State.recRow (s : State) (u : Nat) (b : Row) (i : Nat) : Row := (s.rowOf u (mvRowOffset b + 64 * (i / 4))).data

/-- Record `i` of a RECORDS command passes R188. -/
def State.recPasses (s : State) (u : Nat) (b : Row) (i : Nat) : Bool :=
  recReservedOk (s.recRow u b i) (i % 4) && s.recOk u (s.recRow u b i) (i % 4)

/-- The records of a RECORDS command that are loaded when none of their places is in use. -/
def State.recsPassed (s : State) (u : Nat) (b : Row) : List Nat := (List.range (mvNRec b)).filter (s.recPasses u b)

/-- A place of a RECORDS command is named by a registered descriptor. -/
def Unit.recsInUse (x : Unit) (b : Row) : Bool := (List.range (mvNRec b)).any fun i => x.recInUse (mvFirst b + i)

/-- The status of a RECORDS command. -/
def State.recordsStatus (s : State) (u : Nat) (b : Row) : Nat :=
  lowest ((if ((List.range (mvNRec b)).filter fun i => recReservedOk (s.recRow u b i) (i % 4)).length < mvNRec b then [0x111] else []) ++
    (if (s.recsPassed u b).length < mvNRec b then [0x114] else []) ++ (if (s.unit u).recsInUse b then [0x118] else []))

/-- Records loaded into a table. -/
def recordsLoaded (f : Nat → Option AllocRec) (first : Nat) (is : List Nat) (tab : Sparse (Option AllocRec)) : Sparse (Option AllocRec) :=
  is.foldl (fun tab i => tab.set none (first + i) (f i)) tab

theorem recordsLoaded_get_other (f : Nat → Option AllocRec) {first j : Nat} {is : List Nat} (h : ∀ i ∈ is, j ≠ first + i)
    (tab : Sparse (Option AllocRec)) : (recordsLoaded f first is tab).get none j = tab.get none j := by
  induction is generalizing tab with
  | nil => rfl
  | cons i is ih =>
    obtain ⟨hi, his⟩ := List.forall_mem_cons.mp h
    exact (ih his _).trans (Sparse.get_set_other _ _ _ _ hi)

theorem recordsLoaded_get (f : Nat → Option AllocRec) (first : Nat) {i : Nat} {is : List Nat} (h : i ∈ is)
    (tab : Sparse (Option AllocRec)) : (recordsLoaded f first is tab).get none (first + i) = f i := by
  induction is generalizing tab with
  | nil => cases h
  | cons k is ih =>
    by_cases hmem : i ∈ is
    · exact ih hmem _
    · obtain rfl : i = k := (List.mem_cons.mp h).resolve_right hmem
      have hne : ∀ j ∈ is, first + i ≠ first + j := fun j hj he => hmem (Nat.add_left_cancel he ▸ hj)
      exact (recordsLoaded_get_other f hne _).trans (Sparse.get_set_same ..)

theorem mvRowFaults_eq_nil_iff {off rows : Nat} : mvRowFaults off rows = [] ↔ off % 64 = 0 ∧ off + 64 * rows ≤ scratchNonets := by
  simp [mvRowFaults]

/-- A RECORDS command reads its rows and loads the records that pass, none when one of their places is in use. -/
theorem mvRecords_ends {c : MvCtx} {b : Row} (h : s.moving u m (s.unit u).cell 8 none c.s) (hserved : s.unitServed u)
    (hb : c.w.block = b) (hw : c.w.rows = []) (hrows : mvRowFaults (mvRowOffset b) ((mvNRec b + 3) / 4) = [])
    (hslots : m.slots = (s.unit u).mover.slots) :
    let used := (s.unit u).recsInUse b
    ∃ d rows, mvRecords c u [] = .ends d (s.recordsStatus u b) ∧
      { c.w with rows := rows, elems := if used then c.w.elems else (s.recsPassed u b).length }.accessed d.w ∧
      s.moving u (if used then m else { m with
        records := recordsLoaded (fun i => recOf (s.recRow u b i) (i % 4)) (mvFirst b) (s.recsPassed u b) m.records })
        (s.unit u).cell 8 none d.s := by
  intro used
  obtain ⟨halign, hfit⟩ := mvRowFaults_eq_nil_iff.mp hrows
  obtain ⟨need, hneed⟩ : ∃ need, need = (List.range ((mvNRec b + 3) / 4)).map fun i => mvRowOffset b / 64 + i := ⟨_, rfl⟩
  have hin : ∀ q ∈ need, q < scratchRows := by
    intro q hq
    obtain ⟨i, hi, rfl⟩ := List.mem_map.mp (hneed ▸ hq)
    have := List.mem_range.mp hi
    unfold scratchNonets at hfit
    unfold scratchRows
    omega
  obtain ⟨d, hgo, hdw, hmoving⟩ := mvRows_own hin hserved (c := c) h.turn
  have hread : d.w.rows = need.map fun q => ((s.unit u).cell q).data := by
    rw [hdw.view (f := MoverWait.rows) fun _ _ _ _ => rfl, hw, List.nil_append]
  have hrow : ∀ i ∈ List.range (mvNRec b), d.w.rows.getD (i / 4) 0 = s.recRow u b i := by
    intro i hi
    have := List.mem_range.mp hi
    have hquarter : i / 4 < (mvNRec b + 3) / 4 := by omega
    rw [hread, hneed, List.map_map]
    simp only [List.getD_eq_getElem?_getD, List.getElem?_map, List.getElem?_range hquarter, Option.map_some, Option.getD_some,
      Function.comp_apply, State.recRow, State.rowOf, Nat.add_mul_div_left _ _ (show 0 < 64 by decide)]
  have hblock : d.w.block = b := (hdw.view (f := MoverWait.block) fun _ _ _ _ => rfl).trans hb
  have hform : (List.range (mvNRec b)).filter (fun i => recReservedOk (d.w.rows.getD (i / 4) 0) (i % 4)) =
      (List.range (mvNRec b)).filter fun i => recReservedOk (s.recRow u b i) (i % 4) :=
    List.filter_congr fun i hi => by rw [hrow i hi]
  have hok : ((List.range (mvNRec b)).filter fun i => recReservedOk (s.recRow u b i) (i % 4)).filter
      (fun i => d.s.recOk u (d.w.rows.getD (i / 4) 0) (i % 4)) = s.recsPassed u b := by
    rw [List.filter_filter]
    exact List.filter_congr fun i hi => by rw [hrow i hi, hmoving.module.recOk, Bool.and_comm]; rfl
  have hused : ((List.range (mvNRec b)).any fun i => (d.s.unit u).recInUse (mvFirst b + i)) = used := by
    simp only [used, Unit.recsInUse, Unit.recInUse, hmoving.mover, hslots]
  have hrun : mvRecords c u [] = if used then .ends d (s.recordsStatus u b) else
      .ends { d with s := d.s.loadRecords u (mvFirst b) d.w.rows (s.recsPassed u b), w := { d.w with elems := (s.recsPassed u b).length } }
        (s.recordsStatus u b) := by
    unfold mvRecords
    dsimp only
    rw [hb, hw, List.length_nil, List.drop_zero, ← hneed, hgo, MvRes.andThen, hform, hok, hused]
    rfl
  rw [hrun]
  cases hu : used with
  | true => exact ⟨d, d.w.rows, rfl, by rw [hdw]; rfl, hmoving⟩
  | false =>
    refine ⟨_, d.w.rows, rfl, ?_, ?_⟩
    · rw [hdw]; rfl
    · have hload : recordsLoaded (fun i => recOf (s.recRow u b i) (i % 4)) (mvFirst b) (s.recsPassed u b) m.records =
          (s.recsPassed u b).foldl (fun tab i => tab.set none (mvFirst b + i) (recOf (d.w.rows.getD (i / 4) 0) (i % 4))) m.records :=
        List.foldl_ext _ _ _ fun tab i hi => by rw [hrow i (List.mem_of_mem_filter hi)]
      have := hmoving.updMover fun m => { m with
        records := (s.recsPassed u b).foldl (fun tab i => tab.set none (mvFirst b + i) (recOf (d.w.rows.getD (i / 4) 0) (i % 4))) m.records }
      rw [← hload] at this
      exact this

theorem State.length_recsPassed_le (s : State) (u : Nat) (b : Row) : (s.recsPassed u b).length ≤ mvNRec b :=
  (List.length_filter_le ..).trans_eq List.length_range

theorem State.mem_recsPassed {b : Row} {i : Nat} : i ∈ s.recsPassed u b ↔
    i < mvNRec b ∧ recReservedOk (s.recRow u b i) (i % 4) = true ∧ s.recOk u (s.recRow u b i) (i % 4) = true := by
  rw [State.recsPassed, List.mem_filter, List.mem_range, State.recPasses, Bool.and_eq_true]

theorem State.recsPassed_of_all {b : Row} (h : ∀ i < mvNRec b, i ∈ s.recsPassed u b) : s.recsPassed u b = List.range (mvNRec b) :=
  List.filter_eq_self.mpr fun i hi => (List.mem_filter.mp (h i (List.mem_range.mp hi))).2

/-- RECORDS has status 0 just when it loads every record. -/
theorem State.recordsStatus_eq_zero_iff {b : Row} :
    s.recordsStatus u b = 0 ↔ (∀ i < mvNRec b, i ∈ s.recsPassed u b) ∧ (s.unit u).recsInUse b = false := by
  have hall (p : Nat → Bool) : ¬((List.range (mvNRec b)).filter p).length < mvNRec b ↔ ∀ i < mvNRec b, p i = true := by
    have hle := List.length_filter_le p (List.range (mvNRec b))
    have hiff := List.length_filter_eq_length_iff (p := p) (l := List.range (mvNRec b))
    rw [List.length_range] at hle hiff
    simp only [List.mem_range] at hiff
    rw [← hiff]; omega
  have hnil (p : Prop) [Decidable p] (c : Nat) : (if p then [c] else []) = [] ↔ ¬p := by simp
  unfold State.recordsStatus
  rw [lowest_eq_zero_iff (by split <;> split <;> split <;> simp), List.append_eq_nil_iff, List.append_eq_nil_iff, hnil, hnil, hnil, hall,
    State.recsPassed, hall, Bool.not_eq_true]
  refine and_congr_left fun _ => ⟨fun ⟨_, hpass⟩ i hi => List.mem_filter.mpr ⟨List.mem_range.mpr hi, hpass i hi⟩, fun hpass => ?_⟩
  have hpass i (hi : i < mvNRec b) := State.mem_recsPassed.mp (hpass i hi)
  exact ⟨fun i hi => (hpass i hi).2.1, fun i hi => by rw [State.recPasses, (hpass i hi).2.1, (hpass i hi).2.2]; rfl⟩

/-- A RECORDS command whose rows lie in the scratchpad completes. -/
theorem State.records_ended (h : s.moverReady u 1 q rest)
    (hrows : mvRowFaults (mvRowOffset (s.rowOf u q.offset).data) ((mvNRec (s.rowOf u q.offset).data + 3) / 4) = []) :
    let b := (s.rowOf u q.offset).data
    let used := (s.unit u).recsInUse b
    ∃ m, s.moverEnded u q rest m (s.unit u).cell (s.mvCommand u 1 [] none) (s.recordsStatus u b)
        (if used then 0 else (s.recsPassed u b).length) 0 ∧
      m.slots = (s.unit u).mover.slots ∧ m.records = if used then (s.unit u).mover.records else
        recordsLoaded (fun i => recOf (s.recRow u b i) (i % 4)) (mvFirst b) (s.recsPassed u b) (s.unit u).mover.records := by
  have ⟨hserved, _, _, _, _, _, _, hop, hfields⟩ := h
  intro b used
  obtain ⟨t, hmoving, hcommand⟩ :=
    State.mvCommand_runs h (mvEarly_eq_zero hfields (fun _ => hrows) fun h2 => by rw [hop] at h2; cases h2)
  obtain ⟨d, rows, hends, hw, hdone⟩ := mvRecords_ends (b := b) (c := beginRun t b q.seq) hmoving hserved rfl rfl hrows rfl
  have hcount : min (if used then 0 else (s.recsPassed u b).length) (2 ^ 36 - 1) = if used then 0 else (s.recsPassed u b).length := by
    have hle := s.length_recsPassed_le u b
    have hn : mvNRec b < 2 ^ 7 := field_lt ..
    split <;> omega
  rw [hcommand, mvRunOf, hends]
  have hm := h.hasTaken
  refine ⟨_, hdone.commit_ends ?_ hw rfl rfl rfl hcount rfl, (apply_ite Mover.slots ..).trans (ite_self _), apply_ite Mover.records ..⟩
  split <;> exact ⟨hm.queue, hm.issued, hm.cpls⟩

/-! ### RELEASE -/

/-- RELEASE completes with its slot empty. -/
theorem State.release_ended (h : s.moverReady u 3 q rest) :
    let b := (s.rowOf u q.offset).data
    ∃ m, s.moverEnded u q rest m (s.unit u).cell (s.mvCommand u 3 [] none) 0 0 0 ∧
      m.slots = (s.unit u).mover.slots.set none (mvSlotA b) none ∧ m.records = (s.unit u).mover.records := by
  have ⟨_, _, _, _, _, _, _, hop, hfields⟩ := h
  intro b
  obtain ⟨t, hmoving, hcommand⟩ := State.mvCommand_runs h
    (mvEarly_eq_zero hfields (fun h1 => by rw [hop] at h1; cases h1) fun h2 => by rw [hop] at h2; cases h2)
  have hstart : (blankWait b q.seq).accessed ((beginRun t b q.seq).start u).w := MvCtx.start_accessed ..
  have hblock : ((beginRun t b q.seq).start u).w.block = b := hstart.view (f := MoverWait.block) fun _ _ _ _ => rfl
  have hdone := (State.moving.start (c := beginRun t b q.seq) hmoving).updMover fun m =>
    { m with slots := m.slots.set none (mvSlotA b) none }
  have hm := h.hasTaken
  rw [hcommand, mvRunOf, mvRelease, hblock]
  exact ⟨_, State.moving.commit_go (d := { (beginRun t b q.seq).start u with s := _ }) hdone ⟨hm.queue, hm.issued, hm.cpls⟩ hstart
    rfl rfl rfl rfl rfl, rfl, rfl⟩

/-! ### REGISTER -/

/-- The checks of a registration see the module, the slots and the records (R192). -/
theorem State.sameModule.registerFaults (h : s.sameModule t) {x y : Unit} (hslots : y.mover.slots = x.mover.slots)
    (hrecords : y.mover.records = x.mover.records) (d : Row) (slot : Nat) (owner : List OwnerEntry) :
    t.registerFaults y d slot owner = s.registerFaults x d slot owner := by
  unfold State.registerFaults
  rw [hslots, hrecords, funext h.waUnavailable]

/-- A row made tagged and empty (R111, R193). -/
def Cell.tagEmpty (c : Cell) : Cell := { c with tagged := true, full := false }

theorem Cell.after_tagset_two (c : Cell) (nf : Bool) : c.after .tagset true 0 2 nf = c.tagEmpty := by
  have h1 : (2 : Row).getLsbD 1 = true := BitVec.getLsbD_ofNat ..
  have h0 : (2 : Row).getLsbD 0 = false := BitVec.getLsbD_ofNat ..
  rw [Cell.after, Cell.tagEmpty, h1, h0]

theorem Cell.tagEmpty_tagEmpty (c : Cell) : c.tagEmpty.tagEmpty = c.tagEmpty := rfl

/-- REGISTER tags its rows one after the other (R193). -/
theorem mvTagRows_own (rows : List Nat) (hserved : s.unitServed u) {c : MvCtx} (h : s.moving u m cells 9 rows.head? c.s) :
    ∃ d, mvTagRows c u rows = .go d ∧ { c.w with elems := c.w.elems + rows.length }.accessed d.w ∧
      s.moving u m (fun r => if r ∈ rows then (cells r).tagEmpty else cells r) 9 none d.s := by
  induction rows generalizing c cells with
  | nil => exact ⟨c, rfl, rfl, by simpa using h⟩
  | cons q qs ih =>
    obtain ⟨t, haccess, hmoving⟩ := h.access (k := .tagset) (next := qs.head?)
      (p := { port := 9, plan := c.plan u, hold := cmdHold c.w.block, keep := qs.head?.any fun n => sameBank u q u n }) hserved (.inr rfl)
      rfl 2 false nofun (by cases ht : (cells q).tagged <;> simp [Cell.admits, ht])
    rw [Cell.after_tagset_two] at hmoving
    obtain ⟨d, hgo, hw, hdone⟩ := ih (c := { c.next t with w := { (c.next t).w with elems := (c.next t).w.elems + 1 } }) hmoving
    refine ⟨d, ?_, ?_, ?_⟩
    · unfold mvTagRows
      rw [haccess]
      exact hgo
    · unfold MoverWait.accessed MvCtx.next at *
      rw [hw]
      simp [Nat.add_assoc, Nat.add_comm 1]
    · have hcells : (fun r => if r ∈ q :: qs then (cells r).tagEmpty else cells r) = fun r => if r ∈ qs then
          (Function.update cells q (cells q).tagEmpty r).tagEmpty else Function.update cells q (cells q).tagEmpty r := by
        funext r
        by_cases hr : r = q
        · subst hr
          rw [Function.update_self, if_pos List.mem_cons_self, Cell.tagEmpty_tagEmpty, ite_self]
        · rw [Function.update_of_ne hr]
          simp [hr]
      rw [hcells]; exact hdone

theorem ownerRows_lt {d : Row} : ∀ q ∈ ownerRows d, q < scratchRows := by
  intro q hq
  unfold ownerRows at hq
  dsimp only at hq
  split at hq
  · obtain ⟨i, hi, rfl⟩ := List.mem_map.mp hq
    have := List.mem_range.mp hi
    simp only [Bool.and_eq_true, decide_eq_true_eq] at *
    unfold scratchNonets at *
    unfold scratchRows
    omega
  · cases hq

/-- What a REGISTER command reads: its descriptor and the entries of that descriptor's owner table. -/
def State.regDesc (s : State) (u : Nat) (b : Row) : Row := (s.rowOf u (mvRowOffset b)).data
def State.regOwner (s : State) (u : Nat) (b : Row) : List OwnerEntry :=
  ownerEntries (s.regDesc u b) ((ownerRows (s.regDesc u b)).map fun r => ((s.unit u).cell r).data)

/-- The rows that a REGISTER command makes tagged and empty if its checks pass. -/
def State.regTags (s : State) (u : Nat) (b : Row) : List Nat :=
  if !dDistributed (s.regDesc u b) && ((s.unit u).mover.records.get none (dRecord (s.regDesc u b))).any AllocRec.tagged
  then dRows (s.regDesc u b) else []

/-- REGISTER once its rows are read: a descriptor with a fault ends the command, any other fills its slot and has its rows tagged. -/
theorem mvRegister_run {c : MvCtx} {b : Row} (h : s.moving u m (s.unit u).cell 8 none c.s) (hserved : s.unitServed u)
    (hb : c.w.block = b) (hw : c.w.rows = []) (hchecked : c.w.checked = false) (helems : c.w.elems = 0)
    (hrows : mvRowFaults (mvRowOffset b) 1 = []) (hslots : m.slots = (s.unit u).mover.slots)
    (hrecords : m.records = (s.unit u).mover.records) :
    let d := s.regDesc u b
    let status := lowest (s.registerFaults (s.unit u) d (mvSlotA b) (s.regOwner u b))
    ∃ c1 : MvCtx, ∃ rows, { c.w with rows := rows }.accessed c1.w ∧ s.moving u m (s.unit u).cell 8 none c1.s ∧
      mvRegister c u [] = if status ≠ 0 then .ends c1 status else
        mvTagRows { c1 with
          s := c1.s.updUnit u fun y => { y with mover := { y.mover with slots := y.mover.slots.set none (mvSlotA b) (some d) } }
          w := { c1.w with checked := true } } u (s.regTags u b) := by
  intro d status
  obtain ⟨halign, hfit⟩ := mvRowFaults_eq_nil_iff.mp hrows
  have hin : ∀ q ∈ [mvRowOffset b / 64], q < scratchRows := by
    intro q hq
    rw [List.mem_singleton.mp hq]
    unfold scratchNonets at hfit
    unfold scratchRows
    omega
  obtain ⟨c0, hgo0, hw0, hmoving0⟩ := mvRows_own hin hserved (c := c) h.turn
  have hview0 {α : Type} (f : MoverWait → α)
      (hf : ∀ (w : MoverWait) n b c, f { w with made := n, started := b, firstCycle := c } = f w) := hw0.view hf
  have hrows0 : c0.w.rows = [d] := by
    rw [hview0 MoverWait.rows fun _ _ _ _ => rfl, hw]; rfl
  have hchecked0 : c0.w.checked = false := (hview0 MoverWait.checked fun _ _ _ _ => rfl).trans hchecked
  obtain ⟨c1, hgo1, hw1, hmoving1⟩ := mvRows_own (rows := ownerRows d) ownerRows_lt hserved (c := c0) hmoving0.turn
  have hview1 {α : Type} (f : MoverWait → α)
      (hf : ∀ (w : MoverWait) n b c, f { w with made := n, started := b, firstCycle := c } = f w) := hw1.view hf
  have hrows1 : c1.w.rows = d :: (ownerRows d).map fun r => ((s.unit u).cell r).data := by
    rw [hview1 MoverWait.rows fun _ _ _ _ => rfl, hrows0]; rfl
  have hchecked1 : c1.w.checked = false := (hview1 MoverWait.checked fun _ _ _ _ => rfl).trans hchecked0
  have helems1 : c1.w.elems = 0 := (hview1 MoverWait.elems fun _ _ _ _ => rfl).trans
    ((hview0 MoverWait.elems fun _ _ _ _ => rfl).trans helems)
  have hstatus : lowest (c1.s.registerFaults (c1.s.unit u) d (mvSlotA b)
      (ownerEntries d ((ownerRows d).map fun r => ((s.unit u).cell r).data))) = status :=
    congrArg lowest (hmoving1.module.registerFaults (by rw [hmoving1.mover, hslots]) (by rw [hmoving1.mover, hrecords]) ..)
  refine ⟨c1, c1.w.rows, ?_, hmoving1, ?_⟩
  · unfold MoverWait.accessed at *
    rw [hw1, hw0]
  · unfold mvRegister
    dsimp only
    rw [if_pos hw, hb, hgo0, MvRes.andThen]
    have hd : c0.w.rows.getD 0 0 = d := by rw [hrows0]; rfl
    have hnone : c0.w.rows.length - 1 = 0 := by rw [hrows0]; rfl
    have htags : (if (!dDistributed d && (((c1.s.unit u).mover.records.get none (dRecord d)).map (·.tagged)).getD false) = true then dRows d
        else []) = s.regTags u b := by
      rw [hmoving1.mover, hrecords, State.regTags]
      cases (s.unit u).mover.records.get none (dRecord d) <;> rfl
    simp only [hchecked0, hd, hnone, hgo1, hchecked1, hrows1, Bool.false_eq_true, if_false, List.drop_zero, List.drop_succ_cons,
      MvRes.andThen, hstatus, helems1, htags]

theorem State.dSizesOk_of_registerFaults {x : Unit} {d : Row} {slot : Nat} {owner : List OwnerEntry}
    (h : s.registerFaults x d slot owner = []) : dSizesOk d = true := by
  unfold State.registerFaults at h
  simp only [List.append_eq_nil_iff, ite_eq_left_iff, reduceCtorEq, imp_false, not_not] at h
  exact h.1.2

theorem State.mem_regTags {b : Row} {r : Nat} : r ∈ s.regTags u b ↔
    (!dDistributed (s.regDesc u b) && ((s.unit u).mover.records.get none (dRecord (s.regDesc u b))).any AllocRec.tagged) = true ∧
      r ∈ dRows (s.regDesc u b) := by
  unfold State.regTags
  split
  · next htagged => exact ⟨fun hr => ⟨htagged, hr⟩, And.right⟩
  · next hfree => exact ⟨fun hr => (List.not_mem_nil hr).elim, fun hr => (hfree hr.1).elim⟩

theorem State.length_regTags_lt {b : Row} (h : dSizesOk (s.regDesc u b) = true) : (s.regTags u b).length < 2 ^ 36 := by
  have hcount : dCount (s.regDesc u b) < 2 ^ 36 := of_decide_eq_true (Bool.and_eq_true_iff.mp h).2
  unfold State.regTags
  split
  · refine lt_of_le_of_lt ?_ hcount
    refine ((List.dedup_sublist _).length_le.trans_eq ((List.length_map _).trans List.length_range)).trans (Nat.div_le_self ..)
  · exact Nat.two_pow_pos 36

/-- The state and the command in progress of a REGISTER command whose descriptor `d` has been placed in its slot. -/
def MvCtx.placed (c : MvCtx) (u slot : Nat) (d : Row) : MvCtx :=
  { c with
    s := c.s.updUnit u fun y => { y with mover := { y.mover with slots := y.mover.slots.set none slot (some d) } }
    w := { c.w with checked := true } }

section Register

variable (h : s.moverReady u 2 q rest) {b : Row} (hb : (s.rowOf u q.offset).data = b) (hrows : mvRowFaults (mvRowOffset b) 1 = [])

include h hb hrows

/-- A REGISTER command whose row lies in the scratchpad reads its rows, and goes on by what the checks find. -/
theorem State.register_runs :
    let m := (s.unit u).mover.begun rest (blankWait b q.seq)
    let status := lowest (s.registerFaults (s.unit u) (s.regDesc u b) (mvSlotA b) (s.regOwner u b))
    ∃ c rows, { blankWait b q.seq with rows := rows }.accessed c.w ∧ s.moving u m (s.unit u).cell 8 none c.s ∧
      m.hasTaken (s.unit u).mover rest ∧
      s.mvCommand u 2 [] none = (if status ≠ 0 then .ends c status
        else mvTagRows (c.placed u (mvSlotA b) (s.regDesc u b)) u (s.regTags u b)).commit u := by
  subst hb
  have ⟨hserved, _, _, _, _, _, _, hop, hfields⟩ := h
  obtain ⟨t, hmoving, hcommand⟩ := State.mvCommand_runs h
    (mvEarly_eq_zero hfields (fun h1 => by rw [hop] at h1; cases h1) fun _ => hrows)
  obtain ⟨c, rows, hw, hread, hrun⟩ := mvRegister_run (c := beginRun t (s.rowOf u q.offset).data q.seq) hmoving hserved rfl rfl rfl rfl
    hrows rfl rfl
  have hm := h.hasTaken
  exact ⟨c, rows, hw, hread, ⟨hm.queue, hm.issued, hm.cpls⟩, hcommand.trans (congrArg (MvRes.commit · u) hrun)⟩

/-- A REGISTER command of a descriptor with a fault completes with the lowest code. -/
theorem State.register_rejected {status : Nat} (hstatus : status ≠ 0)
    (hfaults : lowest (s.registerFaults (s.unit u) (s.regDesc u b) (mvSlotA b) (s.regOwner u b)) = status) :
    s.moverEnded u q rest ((s.unit u).mover.begun rest (blankWait b q.seq)) (s.unit u).cell (s.mvCommand u 2 [] none) status 0 0 := by
  obtain ⟨c, rows, hw, hread, hm, hcommand⟩ := State.register_runs h hb hrows
  rw [hcommand, hfaults, if_pos hstatus]
  exact hread.commit_ends hm hw hb.symm rfl rfl rfl rfl

/-- A REGISTER command of a descriptor without a fault fills its slot and tags the rows of a tagged record. -/
theorem State.register_ended (hfaults : s.registerFaults (s.unit u) (s.regDesc u b) (mvSlotA b) (s.regOwner u b) = []) :
    ∃ m, s.moverEnded u q rest m (fun r => if r ∈ s.regTags u b then ((s.unit u).cell r).tagEmpty else (s.unit u).cell r)
        (s.mvCommand u 2 [] none) 0 (s.regTags u b).length 0 ∧
      m.slots = (s.unit u).mover.slots.set none (mvSlotA b) (some (s.regDesc u b)) ∧ m.records = (s.unit u).mover.records := by
  obtain ⟨c, rows, hw, hread, hm, hcommand⟩ := State.register_runs h hb hrows
  have hplaced := hread.updMover fun m => { m with slots := m.slots.set none (mvSlotA b) (some (s.regDesc u b)) }
  obtain ⟨d, hgo, hw', hdone⟩ := mvTagRows_own (s.regTags u b) h.1 (c := c.placed u (mvSlotA b) (s.regDesc u b)) hplaced.turn
  have hcount : min (s.regTags u b).length (2 ^ 36 - 1) = (s.regTags u b).length :=
    min_eq_left (Nat.le_sub_one_of_lt (State.length_regTags_lt (State.dSizesOk_of_registerFaults hfaults)))
  have hall : MoverWait.accessed { blankWait b q.seq with rows := rows, checked := true, elems := (s.regTags u b).length } d.w := by
    have helems : c.w.elems = 0 := hw.view (f := MoverWait.elems) fun _ _ _ _ => rfl
    unfold MoverWait.accessed MvCtx.placed at *
    rw [hw', helems, Nat.zero_add, hw]
  rw [hcommand, hfaults, show lowest [] = 0 from rfl, if_neg (not_not.mpr rfl), hgo]
  exact ⟨_, hdone.commit_go ⟨hm.queue, hm.issued, hm.cpls⟩ hall hb.symm rfl rfl hcount rfl, rfl, rfl⟩

end Register

/-! ### The three operations -/

theorem exec_moverRows (s : State) (hu : u < 15360) :
    exec (.records u ⟨[], none⟩) s = .next (s.mvCommand u 1 [] none) ∧
      exec (.register u ⟨[], none⟩) s = .next (s.mvCommand u 2 [] none) ∧
      exec (.release u ⟨[], none⟩) s = .next (s.mvCommand u 3 [] none) :=
  ⟨if_pos (decide_eq_true hu), if_pos (decide_eq_true hu), if_pos (decide_eq_true hu)⟩

/-- Settles O29: each command reads rows of its own unit one after the other, and what it then does to the tables and to the rows is its
mover and its cells at completion. -/
theorem recordsAndDescriptors : Obligations.RecordsAndDescriptors := by
  refine ⟨?records, ?register, ?release, ?early⟩
  case records =>
    intro s u q rest h b n row ok inUse hrows
    obtain ⟨m, hended, hslots, hrecords⟩ := State.records_ended h hrows
    have hexec := (exec_moverRows s h.1.1).1
    have hok (i : Nat) : i ∈ s.recsPassed u b ↔ ok i := State.mem_recsPassed
    have hused : (s.unit u).recsInUse b = true ↔ inUse := by simp [Unit.recsInUse, inUse, n]
    have hfree (hno : ¬inUse) : (s.unit u).recsInUse b = false := Bool.not_eq_true _ ▸ mt hused.mp hno
    have hzero (hno : ¬inUse) : (∀ i < n, ok i) ↔ s.recordsStatus u b = 0 := by
      rw [State.recordsStatus_eq_zero_iff, hfree hno]
      simp only [hok, and_true]
      rfl
    have hdid := hended.did
    refine ⟨fun hpass hno => ⟨_, hexec, ?_⟩, _, _, _, hexec, hdid, hended.slots.trans hslots, fun i hi hno => ?loaded, fun j hj => ?kept,
      fun hin => ⟨if_pos (hused.mpr hin), ?status⟩, hzero, hended.cells_kept⟩
    · rw [(hzero hno).mp hpass, if_neg (by rw [hfree hno]; decide), State.recsPassed_of_all fun i hi => (hok i).mpr (hpass i hi),
        List.length_range] at hdid
      exact hdid
    case loaded =>
      rw [hended.records, hrecords, if_neg (by rw [hfree hno]; decide)]
      exact recordsLoaded_get _ _ ((hok i).mpr hi) _
    case kept =>
      rw [hended.records, hrecords]
      split
      · rfl
      · next hno =>
        have hother := hj.resolve_left (mt hused.mpr hno)
        exact recordsLoaded_get_other _ (fun i hi hji => hother i hji ((hok i).mp hi)) _
    case status =>
      intro h0
      rw [State.recordsStatus_eq_zero_iff, hused.mpr hin] at h0
      exact absurd h0.2 (by decide)
  case register =>
    intro s u q rest h b d owner faults tagged hrows
    have hexec := (exec_moverRows s h.1.1).2.1
    refine ⟨fun hnone => ?_, fun code hpos hmem hle => ?_⟩
    · obtain ⟨m, hended, hslots, hrecords⟩ := State.register_ended h rfl hrows hnone
      have hcount : (s.regTags u b).length = if tagged then (dRows d).length else 0 := apply_ite List.length ..
      refine ⟨_, hexec, hcount ▸ hended.did, fun k => ?slots, hended.records.trans hrecords, fun r => ?cell, fun v hv r => ?other⟩
      case slots =>
        rw [hended.slots, hslots]
        split
        · next hk => rw [hk, Sparse.get_set_same]; rfl
        · next hk => rw [Sparse.get_set_other _ _ _ _ hk]
      case cell =>
        rw [hended.cell]
        exact if_congr State.mem_regTags rfl rfl
      case other => rw [hended.other v hv]
    · have hended := State.register_rejected h rfl hrows hpos.ne' (lowest_eq hmem hle)
      exact ⟨_, hexec, hended.did, hended.slots, hended.cells_kept⟩
  case release =>
    intro s u q rest h b
    obtain ⟨m, hended, hslots, hrecords⟩ := State.release_ended h
    refine ⟨_, (exec_moverRows s h.1.1).2.2, hended.did, fun k => ?_, hended.records.trans hrecords, hended.cells_kept⟩
    rw [hended.slots, hslots]
    split
    · next hk => rw [hk, Sparse.get_set_same]
    · next hk => rw [Sparse.get_set_other _ _ _ _ hk]
  case early =>
    intro s u op i q rest hi h code hcode
    have hended := State.mvCommand_rejected h rfl hcode
    refine ⟨_, ?_, hended.did, hended.slots, hended.records, hended.cells_kept⟩
    obtain ⟨hrecords, hregister, -⟩ := exec_moverRows s h.1.1
    simp only [List.mem_cons, Prod.mk.injEq, List.not_mem_nil, or_false] at hi
    rcases hi with ⟨rfl, rfl⟩ | ⟨rfl, rfl⟩
    · exact hrecords
    · exact hregister

end Sys2Proof.Machine

/-! PROOFS. Mover commands that pass every check and never complete. COPY and GATHER keep the write port's grant of a bank for the next
row that they write (R85), and a read of their own that comes before it, in the same bank, waits for good; a SCATTER empties a tagged row
of its table that it has yet to peek as a source. -/

namespace Sys2Proof.Machine

/-- A tensor descriptor (R189) of 36-bit elements: nonet offset in unit 0, record, sizes and strides modulo 2^32. -/
def tensorN36 (base record : Nat) (sizes strides : List Nat) : Row :=
  rowOfWords (([base, 4 * 2 ^ 12 + sizes.length * 2 ^ 16 + record * 2 ^ 21] ++ sizes ++ List.replicate (5 - sizes.length) 0 ++
    strides ++ List.replicate (9 - strides.length) 0).map wd)

/-- The untagged record of a tensor, from the first row of unit 0. -/
def wholeRecord : AllocRec := { base := 0, tagged := false, writable := true, length := scratchNonets }

def tensorOperand (d : Row) : Operand := { desc := d, alloc := some wholeRecord, owner := [] }

/-- Unit 0 with a mover command of fields `w4` in its queue, and the descriptors in slots 0, 1 and on. -/
def moverQueued (w4 : Nat) (records : List (Nat × Option AllocRec)) (slots : List Row) : State :=
  State.reset.updUnit 0 fun x =>
    { x.setCell 5 { Cell.reset with data := rowOfWords ([3, 0, 0, 0, w4].map wd) } with
      mover := { x.mover with queue := [⟨320, 9⟩], records := records, slots := slots.zipIdx.map fun (d, i) => (i, some d) } }

/-- A command that is still in progress after `exec` has not done what `moverDid` says. -/
theorem not_moverDid_of_cur {s t : State} {u status count met : Nat} {q : Queued} {rest : List Queued} {i : Instr}
    (hstuck : ∃ t', exec i s = .next t' ∧ (t'.unit u).mover.cur ≠ none) (hexec : exec i s = .next t) :
    ¬moverDid u q rest s t status count met := by
  rintro ⟨-, hcur, -⟩
  obtain ⟨t', hexec', hstuck⟩ := hstuck
  obtain rfl : t' = t := Host.Outcome.next.inj (hexec'.symm.trans hexec)
  exact hstuck hcur

/-! ### COPY -/

/-- A matrix of 4 by 8 elements in rows 40 and 41, and its transpose, of 8 by 4, in rows 100 and 101. -/
def transposeSrc : Row := tensorN36 (64 * 40) 0 [4, 8] [1, 4]
def transposeDst : Row := tensorN36 (64 * 100) 0 [8, 4] [1, 8]

/-- The transposing COPY of slot 0 to slot 1. -/
def transposeQueued : State :=
  moverQueued (4 + 1 * 2 ^ 10 + 2 ^ 25) [(0, some wholeRecord)] [transposeSrc, transposeDst]

theorem transposeQueued_ready : transposeQueued.moverReady 0 4 ⟨320, 9⟩ [] :=
  ⟨by unfold State.unitServed; decide +kernel, State.clusterFree_of_no_banks (by decide +kernel), by decide +kernel⟩

/-- The transposing COPY passes every check, and every row of it is usable. -/
theorem transposeQueued_passes :
    let s := transposeQueued
    let b := (s.rowOf 0 320).data
    let src := tensorOperand transposeSrc
    let dst := tensorOperand transposeDst
    let at' (i : Nat) := dst.place s.ownIndex.toNat (indicesOf (dSizes dst.desc) i)
    let from' (i : Nat) := src.place s.ownIndex.toNat (swap01 (indicesOf (dSizes dst.desc) i))
    (s.unit 0).operand (mvSlotA b) = some src ∧ (s.unit 0).operand (mvSlotB b) = some dst ∧ src.aligned ∧ dst.aligned ∧
      copyFaults b s.ownIndex.toNat src dst = [] ∧ mvTranspose b = true ∧ mvAKind b = 0 ∧ mvPut b = false ∧
      (∀ i < dCount dst.desc, s.rowNear 0 (from' i).1 ∧ (s.keyRow (from' i).1).admits (kindOf (mvAKind b)) = true) ∧
      ∀ i < dCount dst.desc, s.rowNear 0 (at' i).1 ∧ (s.keyRow (at' i).1).tagged = false := by
  dsimp only
  unfold Operand.aligned State.rowNear State.unitServed
  decide +kernel

theorem transposeQueued_stuck :
    ∃ t, exec (.copy 0 [] none) transposeQueued = .next t ∧ (t.unit 0).mover.cur ≠ none :=
  ⟨_, rfl, by decide +kernel⟩

theorem Cell.takesWrite_of_untagged {c : Cell} {put taken : Bool} (h : c.tagged = false) : c.takesWrite put taken :=
  fun htagged => absurd (h.symm.trans htagged) (by decide)

/-- Refutes O30: row 100 holds two columns of the transpose, written one after the other. The write of the first keeps the bank for the
write port, since row 101 is the next one written in full; the second column is a merge, whose read of row 100 comes by the read port
and waits for the bank, so the copy never completes. -/
theorem not_copyMovesElements : ¬ Obligations.CopyMovesElements := by
  intro h
  obtain ⟨hsrc, hdst, hsrcAligned, hdstAligned, hfaults, htranspose, hkind, hput, hreads, hwrites⟩ := transposeQueued_passes
  obtain ⟨t, hexec, hdid, -⟩ := h transposeQueued 0 ⟨320, 9⟩ [] (tensorOperand transposeSrc) (tensorOperand transposeDst)
    transposeQueued_ready hsrc hdst hsrcAligned hdstAligned hfaults (by rw [htranspose]; exact hreads)
    (fun i hi => ⟨(hwrites i hi).1, Cell.takesWrite_of_untagged (hwrites i hi).2⟩)
    (fun htake => absurd (hkind.symm.trans htake) (by decide)) (fun htrue => absurd (hput.symm.trans htrue) (by decide))
  exact not_moverDid_of_cur transposeQueued_stuck hexec hdid

/-! ### GATHER -/

/-- A table of one slice of 2 by 16 elements, those of first index 0 in row 3172 and those of first index 1 in row 100, of another bank;
an index tensor of one index in row 30; and a destination of one slice, its elements in order in rows 50 and 51. -/
def gatherTable : Row := tensorN36 (64 * 3172) 0 [2, 16, 1] [2 ^ 32 - 49152, 1, 32]
def gatherIndex : Row := tensorN36 (64 * 30) 0 [1] [1]
def gatherDst : Row := tensorN36 (64 * 50) 0 [2, 16, 1] [1, 2, 32]

/-- The GATHER of slots 0 to 2. -/
def gatherQueued : State :=
  moverQueued (5 + 1 * 2 ^ 10 + 2 * 2 ^ 16) [(0, some wholeRecord)] [gatherTable, gatherIndex, gatherDst]

theorem gatherQueued_ready : gatherQueued.moverReady 0 5 ⟨320, 9⟩ [] :=
  ⟨by unfold State.unitServed; decide +kernel, State.clusterFree_of_no_banks (by decide +kernel), by decide +kernel⟩

/-- The GATHER passes every check. -/
theorem gatherQueued_passes :
    let s := gatherQueued
    let b := (s.rowOf 0 320).data
    let own := s.ownIndex.toNat
    let table := tensorOperand gatherTable
    let index := tensorOperand gatherIndex
    let dst := tensorOperand gatherDst
    (s.unit 0).operand (mvSlotA b) = some table ∧ (s.unit 0).operand (mvSlotB b) = some index ∧
      (s.unit 0).operand (mvSlotC b) = some dst ∧ table.aligned ∧ index.aligned ∧ dst.aligned ∧
      gatherFaults b own 0 table index dst = [] ∧ mvPut b = false := by
  dsimp only
  unfold Operand.aligned
  decide +kernel

/-- Every row of the GATHER is usable. -/
theorem gatherQueued_usable :
    let s := gatherQueued
    let own := s.ownIndex.toNat
    let zs := (dSizes gatherDst).dropLast
    let at' (j e : Nat) := ((tensorOperand gatherDst).place own (indicesOf zs e ++ [j])).1
    let from' (i e : Nat) := ((tensorOperand gatherTable).place own (indicesOf zs e ++ [i])).1
    (∀ i < dSize gatherIndex 0, s.rowNear 0 ((tensorOperand gatherIndex).place own [i]).1) ∧
      (∀ i < dOuter gatherTable, ∀ e < dSlice gatherDst,
        s.rowNear 0 (from' i e) ∧ (s.keyRow (from' i e)).admits (kindOf (mvAKind (s.rowOf 0 320).data)) = true) ∧
      ∀ j < dOuter gatherDst, ∀ e < dSlice gatherDst, s.rowNear 0 (at' j e) ∧ (s.keyRow (at' j e)).tagged = false := by
  dsimp only
  unfold State.rowNear State.unitServed
  decide +kernel

theorem gatherQueued_stuck : ∃ t, exec (.gather 0 [] none) gatherQueued = .next t ∧ (t.unit 0).mover.cur ≠ none :=
  ⟨_, rfl, by decide +kernel⟩

/-- Refutes O31: the destination's row 50 is written while row 100 of the table, of the same bank, is the source row held. The write
keeps the bank for the write port, since row 51 is the next one written in full and none of its sources seems to need the bank; but
row 3172 is read before row 100 is needed again, whose read comes by the read port and waits, so the gather never completes. -/
theorem not_gatherCopiesSlices : ¬ Obligations.GatherCopiesSlices := by
  intro h
  obtain ⟨htable, hindex, hdst, htableAligned, hindexAligned, hdstAligned, hfaults, hput⟩ := gatherQueued_passes
  obtain ⟨hindices, hreads, hwrites⟩ := gatherQueued_usable
  obtain ⟨t, hexec, hdid, -⟩ := h gatherQueued 0 ⟨320, 9⟩ [] (tensorOperand gatherTable) (tensorOperand gatherIndex)
    (tensorOperand gatherDst) gatherQueued_ready htable hindex hdst htableAligned hindexAligned hdstAligned hfaults hindices hreads
    (fun j hj e he => ⟨(hwrites j hj e he).1, Cell.takesWrite_of_untagged (hwrites j hj e he).2⟩)
    (fun htrue => absurd (hput.symm.trans htrue) (by decide))
  exact not_moverDid_of_cur gatherQueued_stuck hexec hdid

/-! ### SCATTER -/

/-- A source of two slices of two elements in rows 50 and 51, from the second element of row 50 on, an index tensor of two indices in
row 30, and a tagged table of two slices of two elements each, in the first elements of rows 49 to 51. -/
def scatterSrc : Row := tensorN36 (64 * 50 + 4) 0 [2, 2] [16, 1]
def scatterIndex : Row := tensorN36 (64 * 30) 0 [2] [1]
def scatterTable : Row := tensorN36 (64 * 50) 1 [2, 1] [2 ^ 32 - 16, 16]

/-- The record of a tagged tensor, from the first row of unit 0. -/
def taggedRecord : AllocRec := { wholeRecord with tagged := true }

def taggedOperand (d : Row) : Operand := { desc := d, alloc := some taggedRecord, owner := [] }

/-- The SCATTER of slots 0 to 2, its source peeked; rows 49 to 51 are tagged and full. -/
def scatterQueued : State :=
  (moverQueued (6 + 1 * 2 ^ 10 + 2 * 2 ^ 16 + 1 * 2 ^ 22 + 1 * 2 ^ 24) [(0, some wholeRecord), (1, some taggedRecord)]
    [scatterSrc, scatterIndex, scatterTable]).updUnit 0 fun x =>
      [49, 50, 51].foldl (fun x r => x.setCell r { Cell.reset with tagged := true, full := true }) x

theorem scatterQueued_ready : scatterQueued.moverReady 0 6 ⟨320, 9⟩ [] :=
  ⟨by unfold State.unitServed; decide +kernel, State.clusterFree_of_no_banks (by decide +kernel), by decide +kernel⟩

/-- The SCATTER passes every check. -/
theorem scatterQueued_passes :
    let s := scatterQueued
    let b := (s.rowOf 0 320).data
    let own := s.ownIndex.toNat
    let src := tensorOperand scatterSrc
    let index := tensorOperand scatterIndex
    let table := taggedOperand scatterTable
    (s.unit 0).operand (mvSlotA b) = some src ∧ (s.unit 0).operand (mvSlotB b) = some index ∧
      (s.unit 0).operand (mvSlotC b) = some table ∧ src.aligned ∧ index.aligned ∧ table.aligned ∧
      scatterFaults b own 0 src index table = [] := by
  dsimp only
  unfold Operand.aligned
  decide +kernel

/-- Element `e` of slice `i` of the table. -/
def scatterPlace (i e : Nat) : RowKey × Nat :=
  (taggedOperand scatterTable).place scatterQueued.ownIndex.toNat (indicesOf (dSizes scatterTable).dropLast e ++ [i])

/-- The elements of the table lie at different places. -/
theorem scatterPlace_apart :
    let elems := List.range (dOuter scatterTable) ×ˢ List.range (dSlice scatterTable)
    ∀ p ∈ elems, ∀ q ∈ elems, p ≠ q → ¬placesMeet (dEsz scatterTable) (scatterPlace p.1 p.2) (scatterPlace q.1 q.2) := by
  unfold placesMeet
  decide +kernel

/-- Every row of the SCATTER is usable. -/
theorem scatterQueued_usable :
    let s := scatterQueued
    let own := s.ownIndex.toNat
    let zs := (dSizes scatterTable).dropLast
    let from' (j e : Nat) := ((tensorOperand scatterSrc).place own (indicesOf zs e ++ [j])).1
    (∀ i < dSize scatterIndex 0, s.rowNear 0 ((tensorOperand scatterIndex).place own [i]).1) ∧
      (∀ j < dOuter scatterSrc, ∀ e < dSlice scatterTable,
        s.rowNear 0 (from' j e) ∧ (s.keyRow (from' j e)).admits (kindOf (mvAKind (s.rowOf 0 320).data)) = true) ∧
      ∀ i < dOuter scatterTable, ∀ e < dSlice scatterTable,
        s.rowNear 0 (scatterPlace i e).1 ∧ (s.keyRow (scatterPlace i e).1).admits .take = true := by
  dsimp only
  unfold State.rowNear State.unitServed
  decide +kernel

theorem scatterQueued_stuck : ∃ t, exec (.scatter 0 [] none) scatterQueued = .next t ∧ (t.unit 0).mover.cur ≠ none :=
  ⟨_, rfl, by decide +kernel⟩

/-- Refutes O32: row 50 holds an element of each source slice, which is peeked, and elements of the tagged table, whose first update takes
it. The second update peeks row 50, which is then empty, and waits for a put that only the scatter itself would make. The check of
REGISTER that a tagged tensor is dense (0x116) excludes this table; the statement's hypotheses do not. -/
theorem not_scatterAppliesUpdatesInOrder : ¬ Obligations.ScatterAppliesUpdatesInOrder := by
  intro h
  obtain ⟨hsrc, hindex, htable, hsrcAligned, hindexAligned, htableAligned, hfaults⟩ := scatterQueued_passes
  obtain ⟨hindices, hreads, htakes⟩ := scatterQueued_usable
  have htagged : (taggedOperand scatterTable).tagged = true := rfl
  obtain ⟨t, hexec, hdid, -⟩ := h scatterQueued 0 ⟨320, 9⟩ [] (tensorOperand scatterSrc) (tensorOperand scatterIndex)
    (taggedOperand scatterTable) scatterQueued_ready hsrc hindex htable hsrcAligned hindexAligned htableAligned hfaults hindices hreads
    (fun i hi e he => ⟨(htakes i hi e he).1, by rw [htagged]; exact (htakes i hi e he).2,
      fun hfree => absurd (htagged.symm.trans hfree) (by decide)⟩)
    (fun i hi e he i' hi' e' he' => scatterPlace_apart (i, e) (List.pair_mem_product.mpr ⟨List.mem_range.mpr hi, List.mem_range.mpr he⟩)
      (i', e') (List.pair_mem_product.mpr ⟨List.mem_range.mpr hi', List.mem_range.mpr he'⟩))
  exact not_moverDid_of_cur scatterQueued_stuck hexec hdid

end Sys2Proof.Machine

/-! PROOFS. A diverted contribution of a unit, and canonical nodes of a reduction tree (R231, R239, R240). -/

namespace Sys2Proof.Machine

/-! ### The stray queue -/

/-- A contribution that unit 7 sends to unit 3 with an epoch that is not unit 3's; its head says nf, and its row is the unit's row 0. -/
def staleContribution : Msg :=
  { blankMsg with dstUnit := 3, vc := 3, type := 16, nf := true, srcUnit := 7, epoch := 1, body := [0] }

theorem staleContribution_diverted :
    State.reset.arrives staleContribution ∧ (State.reset.taken staleContribution).strayReason staleContribution = some 0 ∧
      field (State.reset.p1 0 5568) 24 9 = 0 := by
  unfold State.arrives; decide +kernel

/-- The head that the stray queue takes is not that of the message of the command: the rows of the unit's scratchpad have no nf. -/
theorem staleContribution_entry :
    ∃ t, exec (.reductionContribution .endpoint staleContribution []) State.reset = .next t ∧
      t.p1 0 10240 ≠ (headWords staleContribution 0).getD 0 0 :=
  ⟨_, rfl, by decide +kernel⟩

/-- Refutes O34: a unit's contribution that is not in flight is sent with the rows and the nf of the unit's scratchpad (log 149), so
the head that enters the stray queue has their nf and not that of the message that the command names. -/
theorem not_strayQueue : ¬ Obligations.StrayQueue := by
  rintro ⟨hdiverts, -⟩
  obtain ⟨harrives, hreason, hempty⟩ := staleContribution_diverted
  obtain ⟨t', hexec', hother⟩ := staleContribution_entry
  have hrow : (Instr.reductionContribution .endpoint staleContribution [], true) ∈ messageRows staleContribution :=
    List.mem_append_left _ (by simp [staleContribution])
  obtain ⟨t, hexec, -, -, -, -, hroom, -⟩ := hdiverts _ _ _ _ hrow harrives hreason
  obtain rfl : t = t' := Host.Outcome.next.inj (hexec.symm.trans hexec')
  have hregion : staleContribution.dstRegion = 0 := rfl
  rw [hregion, hempty] at hroom
  exact hother ((hroom (by decide)).1 0 (by decide))

/-! ### Combinations (R240) -/

theorem word_combine (a b : Msg) {j : Nat} (hj : j < 11) :
    (combine a b).word (5 + j) = if j = 3 then putField (a.word 8) 0 24 (rdHi b) else a.word (5 + j) := by
  simp [combine, contributionNf, Msg.word, hj]

section
variable (a b : Msg)

@[simp] theorem rdTensor_combine : rdTensor (combine a b) = rdTensor a := congrArg (field · 0 32) (word_combine a b (j := 0) (by decide))
@[simp] theorem rdOp_combine : rdOp (combine a b) = rdOp a := congrArg (field · 32 3) (word_combine a b (j := 0) (by decide))
@[simp] theorem rdBlock_combine : rdBlock (combine a b) = rdBlock a := congrArg (field · 0 24) (word_combine a b (j := 1) (by decide))
@[simp] theorem rdLo_combine : rdLo (combine a b) = rdLo a := congrArg (field · 0 24) (word_combine a b (j := 2) (by decide))
@[simp] theorem rdC_combine : rdC (combine a b) = rdC a := congrArg (field · 0 24) (word_combine a b (j := 4) (by decide))
@[simp] theorem rdHi_combine : rdHi (combine a b) = rdHi b := by
  rw [rdHi, word_combine a b (j := 3) (by decide), if_pos rfl, field_putField_same _ _ (by decide)]
  exact Nat.mod_eq_of_lt (field_lt ..)
end

/-- What two contributions that may be combined agree in, and that they are siblings. -/
theorem mayCombine_agree {a b : Msg} (h : mayCombine a b = true) :
    rdTensor a = rdTensor b ∧ rdBlock a = rdBlock b ∧ rdC a = rdC b ∧ siblings a b = true := by
  simp only [mayCombine, Bool.and_eq_true, beq_iff_eq] at h
  tauto

/-! ### Canonical nodes (R239) -/

theorem nodeOk_iff {lo hi c : Nat} :
    nodeOk lo hi c = true ↔ lo ≤ hi ∧ hi < c ∧ ∃ l < 25, 2 ^ l ∣ lo ∧ hi = min (lo + 2 ^ l - 1) (c - 1) := by
  simp [nodeOk, Nat.dvd_iff_mod_eq_zero, and_assoc]

/-- Siblings are the halves of a node, of which the end of the tree may cut the upper one. -/
theorem exists_level_of_siblings {a b : Msg} (h : siblings a b = true) :
    ∃ k < 25, rdHi a + 1 = rdLo a + 2 ^ k ∧ 2 ^ (k + 1) ∣ rdLo a ∧ rdLo b = rdHi a + 1 ∧
      rdHi b = min (rdLo a + 2 ^ (k + 1) - 1) (rdC a - 1) := by
  simp only [siblings, Bool.and_eq_true, decide_eq_true_eq, beq_iff_eq, List.contains_iff_mem, List.mem_range] at h
  obtain ⟨⟨⟨⟨⟨⟨hle, -⟩, hlevel⟩, hsize⟩, halign⟩, hnext⟩, hend⟩ := h
  refine ⟨_, hlevel, by omega, ?_, hnext, ?_⟩
  · rw [pow_succ, ← hsize, mul_comm]; exact Nat.dvd_of_mod_eq_zero halign
  · rw [pow_succ, ← hsize, mul_comm]; exact hend

theorem nodeOk_of_siblings {a b : Msg} (h : siblings a b = true) (hc : rdC a = rdC b) (hb : nodeOk (rdLo b) (rdHi b) (rdC b) = true) :
    nodeOk (rdLo a) (rdHi b) (rdC a) = true := by
  obtain ⟨k, hk, hsize, halign, hnext, hend⟩ := exists_level_of_siblings h
  obtain ⟨hle, hlt, -⟩ := nodeOk_iff.mp hb
  have hne : k ≠ 24 := by
    rintro rfl
    have : rdLo b < 2 ^ 24 := field_lt ..
    omega
  exact nodeOk_iff.mpr ⟨by omega, by omega, k + 1, by omega, halign, hend⟩

/-- Of two aligned ranges of powers of two that meet, the shorter begins within the longer and ends within it. -/
theorem aligned_within {l k lo lo' : Nat} (hl : l ≤ k) (h : 2 ^ l ∣ lo) (h' : 2 ^ k ∣ lo') (hmeet : lo < lo' + 2 ^ k)
    (hmeet' : lo' < lo + 2 ^ l) : lo' ≤ lo ∧ lo + 2 ^ l ≤ lo' + 2 ^ k := by
  obtain ⟨x, rfl⟩ := h
  obtain ⟨y, rfl⟩ := h'
  obtain ⟨d, rfl⟩ := Nat.exists_eq_add_of_le hl
  rw [pow_add, mul_assoc] at *
  have hpos : 0 < 2 ^ l := Nat.two_pow_pos l
  have hbelow : 2 ^ d * y < x + 1 := by
    refine Nat.lt_of_mul_lt_mul_left (a := 2 ^ l) ?_
    rw [mul_add, mul_one]; exact hmeet'
  have habove : x < 2 ^ d * y + 2 ^ d := by
    refine Nat.lt_of_mul_lt_mul_left (a := 2 ^ l) ?_
    rw [mul_add]; exact hmeet
  refine ⟨Nat.mul_le_mul_left _ (by omega), ?_⟩
  calc 2 ^ l * x + 2 ^ l = 2 ^ l * (x + 1) := by rw [mul_add, mul_one]
    _ ≤ 2 ^ l * (2 ^ d * y + 2 ^ d) := Nat.mul_le_mul_left _ habove
    _ = 2 ^ l * (2 ^ d * y) + 2 ^ l * 2 ^ d := mul_add ..

/-- Settles O38: the combination of the halves is the node one level up, and of two nodes that meet the lower level lies within the
higher. -/
theorem combinedNodesAreCanonical : Obligations.CombinedNodesAreCanonical := by
  refine ⟨fun a b h _ hb => ?_, fun lo hi lo' hi' c h h' hmeet hmeet' => ?_⟩
  · obtain ⟨-, -, hc, hsib⟩ := mayCombine_agree h
    simpa using nodeOk_of_siblings hsib hc hb
  · obtain ⟨-, -, l, -, halign, hend⟩ := nodeOk_iff.mp h
    obtain ⟨-, -, k, -, halign', hend'⟩ := nodeOk_iff.mp h'
    have := Nat.two_pow_pos l
    have := Nat.two_pow_pos k
    rcases Nat.le_total l k with hlk | hlk
    · have := aligned_within hlk halign halign' (by omega) (by omega)
      omega
    · have := aligned_within hlk halign' halign (by omega) (by omega)
      omega

end Sys2Proof.Machine

/-! PROOFS. Sync operations at their objects: answers, waits, releases and decisions (R234 to R237). -/

namespace Sys2Proof.Machine

variable {s t v : State} {r o : Nat} {m : Msg}

/-! ### A message that is consumed -/

theorem State.controllerSees_of_not (s : State) (h : ¬(m.dstKind = 1 ∧ m.nf = true)) : s.controllerSees m = s := if_neg h

/-- A message that is consumed, and that no region controller has to remember for the verdict, is taken and acted on. -/
theorem onMsg_arrive (h : s.delivered m) (hsees : ¬(m.dstKind = 1 ∧ m.nf = true)) (k : State → State) :
    onMsg m (s.arrive m [] fun t => some (k t)) = .next (k (s.taken m)) := by
  have hm : msgOk m = true := h.1.1
  rw [State.arrive_delivered h k, State.controllerSees_of_not _ hsees, onMsg, guardRes, hm, if_pos rfl]

/-- A sync operation without a fault takes its effect. -/
theorem State.exec_syncOp {sop : Nat} (h : s.applies m sop) {pick : Nat → Bool} (hp : pick sop = true) (f : State → State) :
    onMsg m (s.syncOp ⟨m, []⟩ pick f) = .next (f (s.taken m)) := by
  obtain ⟨hdel, htype, hkind, rfl, hnf, hfault⟩ := h
  rw [State.syncOp, if_pos ⟨htype, hkind, hp⟩, onMsg_arrive hdel (by simp [hnf])]
  simp only [hfault, ne_eq, not_true_eq_false, if_false]

/-- One with a fault is answered with it. -/
theorem State.exec_syncOp_fault (h : s.delivered m) (htype : m.type = 8) (hkind : m.dstKind = 1) (hnf : m.nf = false)
    (hfault : (s.taken m).syncOpFault m.dstRegion m ≠ 0) {pick : Nat → Bool} (hp : pick m.sop = true) (f : State → State) :
    onMsg m (s.syncOp ⟨m, []⟩ pick f) = .next ((s.taken m).syncAnswer m ((s.taken m).syncOpFault m.dstRegion m) 0) := by
  rw [State.syncOp, if_pos ⟨htype, hkind, hp⟩, onMsg_arrive h (by simp [hnf])]
  simp only [if_pos hfault]

/-! ### Answers (R113, R114, R237) -/

theorem State.syncAnswer_sends (s : State) (m : Msg) (status : Nat) (value : Word) :
    ∃ a, answers m status value a ∧ s.syncAnswer m status value = s.send a := by
  unfold State.syncAnswer answers
  cases m.isSyncr with
  | false => exact ⟨s.answer m 0 10 status false [] [], ⟨rfl, rfl, rfl, rfl, rfl, rfl, rfl⟩, rfl⟩
  | true => exact ⟨s.answer m 0 9 status false [0, 0, value] [], ⟨rfl, rfl, rfl, rfl, rfl, rfl, rfl, rfl⟩, rfl⟩

/-- Waiting operations that are answered one after the other: their answers leave in that order. -/
theorem State.foldl_syncAnswer (f : Waiter → Word) (l : List Waiter) (s : State) :
    ∃ as, List.Forall₂ (fun w a => answers w.msg 0 (f w) a) l as ∧
      l.foldl (fun t w => t.syncAnswer w.msg 0 (f w)) s = { s with net := s.net ++ as } := by
  induction l generalizing s with
  | nil => exact ⟨[], .nil, by simp⟩
  | cons w l ih =>
    obtain ⟨a, ha, hsend⟩ := s.syncAnswer_sends w.msg 0 (f w)
    obtain ⟨as, has, hrest⟩ := ih (s.send a)
    exact ⟨a :: as, .cons ha has, by rw [List.foldl_cons, hsend, hrest]; simp [State.send]⟩

/-! ### What changes at one object only -/

theorem onlyObject_net (s : State) (r o : Nat) (l : List Msg) : onlyObject r o s { s with net := l } :=
  ⟨rfl, fun _ _ => rfl, rfl, fun _ _ => rfl⟩

theorem onlyObject.trans (h : onlyObject r o s t) (k : onlyObject r o t v) : onlyObject r o s v := by
  obtain ⟨hrest, hregions, hregion, hobjs⟩ := h
  obtain ⟨krest, kregions, kregion, kobjs⟩ := k
  refine ⟨?_, fun j hj => (kregions j hj).trans (hregions j hj), ?_, fun j hj => (kobjs j hj).trans (hobjs j hj)⟩
  · rw [hrest] at krest
    exact krest
  · rw [hregion] at kregion
    exact kregion

theorem onlyObject_setSyncObj (s : State) (r o : Nat) (x : SyncObj) : onlyObject r o s (s.setSyncObj r o x) := by
  refine ⟨rfl, fun k hk => s.region_updRegion_other _ hk, ?_, fun k hk => ?_⟩
  · rw [State.setSyncObj, State.region_updRegion_same]
  · rw [State.syncObj, State.setSyncObj, State.region_updRegion_same]
    exact Sparse.get_set_other _ _ _ _ hk

/-- The state with other waiting operations of a region, and other messages in flight. -/
def State.withWaiters (s : State) (r : Nat) (ws : List Waiter) (net : List Msg) : State :=
  { s.updRegion r fun x => { x with waiters := ws } with net := net }

theorem State.withWaiters_spec (s : State) (r o : Nat) (ws : List Waiter) (net : List Msg) :
    let t := s.withWaiters r ws net
    onlyObject r o s t ∧ (t.region r).waiters = ws ∧ t.syncObj r o = s.syncObj r o := by
  have hregion : (s.withWaiters r ws net).region r = { s.region r with waiters := ws } :=
    s.region_updRegion_same r fun x => { x with waiters := ws }
  refine ⟨⟨rfl, fun k hk => s.region_updRegion_other (fun x => { x with waiters := ws }) hk, ?_, fun k _ => ?_⟩, ?_, ?_⟩
  · rw [hregion]
  · rw [State.syncObj, hregion]; rfl
  · rw [hregion]
  · rw [State.syncObj, hregion]; rfl

@[simp] theorem State.syncObj_setSyncObj_same (s : State) (r o : Nat) (x : SyncObj) : (s.setSyncObj r o x).syncObj r o = x := by
  simp [State.syncObj, State.setSyncObj]

@[simp] theorem State.setSyncObj_waiters (s : State) (r o : Nat) (x : SyncObj) :
    ((s.setSyncObj r o x).region r).waiters = (s.region r).waiters := by
  simp [State.setSyncObj]

/-- Two records of an object that differ in the counts of operations and waiters at most. -/
def SyncObj.agrees (x y : SyncObj) : Prop := y.w0 = x.w0 ∧ y.w1 = x.w1 ∧ y.received = x.received

theorem SyncObj.agrees.trans {x y z : SyncObj} (h : x.agrees y) (k : y.agrees z) : x.agrees z :=
  ⟨k.1.trans h.1, k.2.1.trans h.2.1, k.2.2.trans h.2.2⟩

theorem SyncObj.agrees.arrivals {x y : SyncObj} (h : x.agrees y) : y.arrivals = x.arrivals := congrArg (field · 0 24) h.1
theorem SyncObj.agrees.generation {x y : SyncObj} (h : x.agrees y) : y.generation = x.generation := congrArg (field · 24 12) h.1
theorem SyncObj.agrees.verdict {x y : SyncObj} (h : x.agrees y) : y.verdict = x.verdict := congrArg (field · 0 1) h.1
theorem SyncObj.agrees.decided {x y : SyncObj} (h : x.agrees y) : y.decided = x.decided := congrArg (field · 1 1 == 1) h.1

theorem State.countWaiters_spec (s : State) (r o : Nat) :
    let t := s.countWaiters r o
    onlyObject r o s t ∧ t.net = s.net ∧ (t.region r).waiters = (s.region r).waiters ∧ (s.syncObj r o).agrees (t.syncObj r o) := by
  unfold State.countWaiters
  refine ⟨onlyObject_setSyncObj .., rfl, State.setSyncObj_waiters .., ?_⟩
  rw [State.syncObj_setSyncObj_same]
  exact ⟨rfl, rfl, field_putField_other _ _ (by decide)⟩

/-- The operation waits (R237). -/
def waiterFor (o : Nat) (m : Msg) : Waiter := { object := o, sop := m.sop, operand := m.operand, msg := m }

theorem State.holdWaiter_spec (s : State) (r o : Nat) (m : Msg) :
    let t := s.holdWaiter r o m
    onlyObject r o s t ∧ t.net = s.net ∧ (t.region r).waiters = (s.region r).waiters ++ [waiterFor o m] ∧
      (s.syncObj r o).agrees (t.syncObj r o) := by
  obtain ⟨honly, hwaiters, hobj⟩ := s.withWaiters_spec r o ((s.region r).waiters ++ [waiterFor o m]) s.net
  obtain ⟨konly, knet, kwaiters, kobj⟩ :=
    (s.withWaiters r ((s.region r).waiters ++ [waiterFor o m]) s.net).countWaiters_spec r o
  exact ⟨honly.trans konly, knet, kwaiters.trans hwaiters, hobj ▸ kobj⟩

/-- The waiting operations of an object that have a reply value leave, and their answers are sent in the order of arrival. -/
theorem State.releaseBy_spec (s : State) (r o : Nat) (f : Waiter → Option Word) :
    let t := s.releaseBy r o f
    let released (w : Waiter) : Bool := w.object == o && (f w).isSome
    onlyObject r o s t ∧ (t.region r).waiters = (s.region r).waiters.filter (fun w => !released w) ∧
      (s.syncObj r o).agrees (t.syncObj r o) ∧
      ∃ as, List.Forall₂ (fun w a => answers w.msg 0 ((f w).getD 0) a) ((s.region r).waiters.filter released) as ∧
        t.net = s.net ++ as := by
  intro t released
  obtain ⟨as, has, hsent⟩ := State.foldl_syncAnswer (fun w => (f w).getD 0) ((s.region r).waiters.filter released)
    (s.withWaiters r ((s.region r).waiters.filter fun w => !released w) s.net)
  have ht : t = (s.withWaiters r ((s.region r).waiters.filter fun w => !released w) (s.net ++ as)).countWaiters r o :=
    congrArg (State.countWaiters · r o) hsent
  obtain ⟨honly, hwaiters, hobj⟩ := s.withWaiters_spec r o ((s.region r).waiters.filter fun w => !released w) (s.net ++ as)
  obtain ⟨konly, knet, kwaiters, kobj⟩ :=
    (s.withWaiters r ((s.region r).waiters.filter fun w => !released w) (s.net ++ as)).countWaiters_spec r o
  rw [ht]
  exact ⟨honly.trans konly, kwaiters.trans hwaiters, hobj ▸ kobj, as, has, knet⟩

/-! ### How an operation ends (Table NET-8) -/

/-- The object is written and the operation answered. -/
theorem State.answered_spec (s : State) (r o : Nat) (x : SyncObj) (m : Msg) (value : Word) :
    let t := (s.setSyncObj r o x).syncDone m value
    onlyObject r o s t ∧ x.agrees (t.syncObj r o) ∧ (t.region r).waiters = (s.region r).waiters ∧
      ∃ a, answers m 0 value a ∧ t.net = s.net ++ [a] := by
  obtain ⟨a, ha, hsend⟩ := (s.setSyncObj r o x).syncAnswer_sends m 0 value
  rw [State.syncDone, hsend]
  refine ⟨(onlyObject_setSyncObj s r o x).trans (onlyObject_net _ r o _), ?_, s.setSyncObj_waiters r o x, a, ha, rfl⟩
  rw [show ((s.setSyncObj r o x).send a).syncObj r o = x from s.syncObj_setSyncObj_same r o x]
  exact ⟨rfl, rfl, rfl⟩

/-- The object is written and the operation held. -/
theorem State.held_spec (s : State) (r o : Nat) (x : SyncObj) (m : Msg) :
    let t := (s.setSyncObj r o x).holdWaiter r o m
    onlyObject r o s t ∧ x.agrees (t.syncObj r o) ∧ (t.region r).waiters = (s.region r).waiters ++ [waiterFor o m] ∧
      t.net = s.net := by
  obtain ⟨honly, hnet, hwaiters, hobj⟩ := (s.setSyncObj r o x).holdWaiter_spec r o m
  rw [State.syncObj_setSyncObj_same] at hobj
  rw [State.setSyncObj_waiters] at hwaiters
  exact ⟨(onlyObject_setSyncObj s r o x).trans honly, hobj, hwaiters, hnet⟩

/-- The object is written, the operation answered, and then the waiting operations that `f` gives a reply. -/
theorem State.released_spec (s : State) (r o : Nat) (x : SyncObj) (m : Msg) (value : Word) (f : Waiter → Option Word) :
    let t := ((s.setSyncObj r o x).syncDone m value).releaseBy r o f
    let released (w : Waiter) : Bool := w.object == o && (f w).isSome
    onlyObject r o s t ∧ x.agrees (t.syncObj r o) ∧ (t.region r).waiters = (s.region r).waiters.filter (fun w => !released w) ∧
      ∃ a as, answers m 0 value a ∧ t.net = s.net ++ a :: as ∧
        List.Forall₂ (fun w b => answers w.msg 0 ((f w).getD 0) b) ((s.region r).waiters.filter released) as := by
  obtain ⟨honly, hobj, hwaiters, a, ha, hnet⟩ := s.answered_spec r o x m value
  obtain ⟨konly, kwaiters, kobj, as, has, knet⟩ := ((s.setSyncObj r o x).syncDone m value).releaseBy_spec r o f
  rw [hwaiters] at kwaiters has
  refine ⟨honly.trans konly, hobj.trans kobj, kwaiters, a, as, ha, ?_, has⟩
  rw [knet, hnet, List.append_assoc, List.singleton_append]

/-- The object is written, and the operation held if it is a SYNCR, and else answered with 0. -/
def State.heldOrDone (s : State) (r o : Nat) (x : SyncObj) (m : Msg) : State :=
  if m.isSyncr then (s.setSyncObj r o x).holdWaiter r o m else (s.setSyncObj r o x).syncDone m 0

theorem State.heldOrDone_spec (s : State) (r o : Nat) (x : SyncObj) (m : Msg) :
    let t := s.heldOrDone r o x m
    onlyObject r o s t ∧ x.agrees (t.syncObj r o) ∧
      if m.isSyncr then t.net = s.net ∧ (t.region r).waiters = (s.region r).waiters ++ [waiterFor o m]
      else (t.region r).waiters = (s.region r).waiters ∧ ∃ a, t.net = s.net ++ [a] ∧ answers m 0 0 a := by
  unfold State.heldOrDone
  cases m.isSyncr with
  | true =>
    obtain ⟨honly, hobj, hwaiters, hnet⟩ := s.held_spec r o x m
    exact ⟨honly, hobj, hnet, hwaiters⟩
  | false =>
    obtain ⟨honly, hobj, hwaiters, a, ha, hnet⟩ := s.answered_spec r o x m 0
    exact ⟨honly, hobj, hwaiters, a, hnet, ha⟩

/-- A decided object releases every CONTRIBUTE and AWAIT. -/
theorem SyncObj.not_released_of_decided {x : SyncObj} (hx : x.decided = true) {ws : List Waiter} :
    ∀ w ∈ ws.filter (fun w => !(w.object == o && (x.releases w).isSome)), w.object = o → w.sop ≠ 24 ∧ w.sop ≠ 25 := by
  intro w hw ho
  have hnone : x.releases w = none := by simpa [ho] using (List.mem_filter.mp hw).2
  constructor <;> intro hsop <;> simp [SyncObj.releases, hsop, hx] at hnone

theorem State.release_answered (s : State) (r o : Nat) (x : SyncObj) (m : Msg) (value : Word) :
    ((s.setSyncObj r o x).syncDone m value).release r o = ((s.setSyncObj r o x).syncDone m value).releaseBy r o x.releases := by
  obtain ⟨a, -, hsend⟩ := (s.setSyncObj r o x).syncAnswer_sends m 0 value
  have hobj : ((s.setSyncObj r o x).syncDone m value).syncObj r o = x := by
    rw [State.syncDone, hsend]; exact s.syncObj_setSyncObj_same r o x
  rw [State.release, hobj]

/-- A decided object answers the operation and releases every CONTRIBUTE and AWAIT that waits for it. -/
theorem State.decided_spec (s : State) (r o : Nat) {x : SyncObj} (m : Msg) (hx : x.decided = true) :
    let t := ((s.setSyncObj r o x).syncDone m x.w0).release r o
    onlyObject r o s t ∧ x.agrees (t.syncObj r o) ∧
      ∃ a l, t.net = s.net ++ a :: l ∧ answers m 0 (t.syncObj r o).w0 a ∧
        ∀ w ∈ (t.region r).waiters, w.object = o → w.sop ≠ 24 ∧ w.sop ≠ 25 := by
  rw [State.release_answered]
  obtain ⟨honly, hobj, hwaiters, a, as, ha, hnet, -⟩ := s.released_spec r o x m x.w0 x.releases
  refine ⟨honly, hobj, a, as, hnet, by rw [hobj.1]; exact ha, ?_⟩
  rw [hwaiters]
  exact SyncObj.not_released_of_decided hx

/-! ### Waits (R234) -/

/-- WAIT_GE, WAIT_ANY and AWAIT need not wait when their condition holds. -/
theorem SyncObj.waits_eq_false_iff (x : SyncObj) (hsop : m.sop = 3 ∨ m.sop = 18 ∨ m.sop = 25) :
    x.waits m = false ↔ (m.sop = 3 → m.operand.toInt ≤ x.w0.toInt) ∧ (m.sop = 18 → x.w0 &&& m.operand ≠ 0) ∧
      (m.sop = 25 → x.decided = true) := by
  rcases hsop with hsop | hsop | hsop <;> simp [SyncObj.waits, hsop]

theorem exec_wait {i : Instr} {sop : Nat} (hi : (i, sop) ∈ [(.waitGe ⟨m, []⟩, 3), (.waitAny ⟨m, []⟩, 18), (.await ⟨m, []⟩, 25)])
    (h : s.applies m sop) : exec i s = .next ((s.taken m).syncWait m.dstRegion m) := by
  simp only [List.mem_cons, Prod.mk.injEq, List.not_mem_nil, or_false] at hi
  rcases hi with ⟨rfl, rfl⟩ | ⟨rfl, rfl⟩ | ⟨rfl, rfl⟩ <;> exact State.exec_syncOp h rfl _

theorem State.syncWait_spec (s : State) (r : Nat) (m : Msg) :
    let o := waIndex m.wa
    let x := s.syncObj r o
    let t := s.syncWait r m
    onlyObject r o s t ∧ x.agrees (t.syncObj r o) ∧
      if x.waits m then t.net = s.net ∧ (t.region r).waiters = (s.region r).waiters ++ [waiterFor o m]
      else (t.region r).waiters = (s.region r).waiters ∧ ∃ a, t.net = s.net ++ [a] ∧ answers m 0 x.w0 a := by
  intro o x
  rw [show s.syncWait r m = if x.waits m then (s.setSyncObj r o x.counted).holdWaiter r o m
    else (s.setSyncObj r o x.counted).syncDone m x.w0 from rfl]
  cases x.waits m with
  | true =>
    obtain ⟨honly, hobj, hwaiters, hnet⟩ := s.held_spec r o x.counted m
    exact ⟨honly, hobj, hnet, hwaiters⟩
  | false =>
    obtain ⟨honly, hobj, hwaiters, a, ha, hnet⟩ := s.answered_spec r o x.counted m x.w0
    exact ⟨honly, hobj, hwaiters, a, hnet, ha⟩

/-! ### Arrivals (R234, R236) -/

/-- The object with one more arrival, and the object in its next generation. -/
def SyncObj.arrived (x : SyncObj) : SyncObj := { x.counted with w0 := putField x.w0 0 24 (x.arrivals + 1) }
def SyncObj.nextGeneration (x : SyncObj) : SyncObj := { x.counted with w0 := wd ((x.generation + 1) % 4096 * 2 ^ 24) }

theorem SyncObj.w1_arrived (x : SyncObj) : x.arrived.w1 = x.w1 := by cases x; rfl
theorem SyncObj.w1_nextGeneration (x : SyncObj) : x.nextGeneration.w1 = x.w1 := by cases x; rfl

theorem SyncObj.fields_nextGeneration (x : SyncObj) :
    x.nextGeneration.arrivals = 0 ∧ x.nextGeneration.generation = (x.generation + 1) % 4096 := by
  constructor <;> refine (field_ofNat (by decide)).trans ?_ <;> omega

theorem SyncObj.fields_arrived {x : SyncObj} (h : x.arrivals + 1 < 2 ^ 24) :
    x.arrived.arrivals = x.arrivals + 1 ∧ x.arrived.generation = x.generation :=
  ⟨(field_putField_same _ _ (by decide)).trans (Nat.mod_eq_of_lt h), field_putField_other _ _ (by decide)⟩

/-- The last arrival starts the next generation, and every waiter of the object is answered with its number. -/
theorem State.syncArrive_last (s : State) (r : Nat) (m : Msg) {x : SyncObj} (hx : s.syncObj r (waIndex m.wa) = x)
    (hlast : x.arrivals + 1 = x.target) :
    let o := waIndex m.wa
    let g := wd ((x.generation + 1) % 4096)
    let t := s.syncArrive r m
    onlyObject r o s t ∧ x.nextGeneration.agrees (t.syncObj r o) ∧
      (t.region r).waiters = (s.region r).waiters.filter (fun w => w.object != o) ∧
      ∃ a as, answers m 0 g a ∧ t.net = s.net ++ a :: as ∧
        List.Forall₂ (fun w b => answers w.msg 0 g b) ((s.region r).waiters.filter fun w => w.object == o) as := by
  subst hx
  intro o g t
  have ht : t = ((s.setSyncObj r o (s.syncObj r o).nextGeneration).syncDone m g).releaseBy r o fun _ => some g := if_pos hlast
  have h := s.released_spec r o (s.syncObj r o).nextGeneration m g fun _ => some g
  simp only [Option.isSome_some, Bool.and_true, Option.getD_some] at h
  rw [ht]
  exact h

theorem State.syncArrive_counted (s : State) (r : Nat) (m : Msg) {x : SyncObj} (hx : s.syncObj r (waIndex m.wa) = x)
    (hcounted : x.arrivals + 1 ≠ x.target) : s.syncArrive r m = s.heldOrDone r (waIndex m.wa) x.arrived m := by
  subst hx
  exact if_neg hcounted

/-- The answers of a list of waiting operations, by their places. -/
theorem answers_of_forall₂ {g : Word} {ws : List Waiter} {as : List Msg} (h : List.Forall₂ (fun w b => answers w.msg 0 g b) ws as)
    {k : Nat} {w : Waiter} {b : Msg} (hw : ws[k]? = some w) (hb : as[k]? = some b) : answers w.msg 0 g b :=
  (List.forall₂_iff_zip.mp h).2 (List.mem_of_getElem? (List.getElem?_zip_eq_some.mpr ⟨hw, hb⟩))

/-! ### Contributions and decisions (R235) -/

/-- The object after a contribution that does not decide it. -/
def SyncObj.joined (x : SyncObj) (m : Msg) : SyncObj :=
  { x.counted with
    w0 := putField x.w0 0 1 (max x.verdict (field m.operand 0 1)), w2 := putField x.w2 0 24 (min (x.received + 1) (2 ^ 24 - 1)) }

/-- The object decided. -/
def SyncObj.settled (x : SyncObj) : SyncObj := { x with w0 := putField x.w0 1 1 1 }

theorem SyncObj.decided_settled (x : SyncObj) : x.settled.decided = true := by
  rw [SyncObj.decided, SyncObj.settled, field_putField_same _ _ (by decide)]; rfl

theorem SyncObj.verdict_settled (x : SyncObj) : x.settled.verdict = x.verdict := field_putField_other _ _ (by decide)

theorem SyncObj.verdict_joined (x : SyncObj) (m : Msg) : (x.joined m).verdict = max x.verdict (field m.operand 0 1) := by
  have h : x.verdict < 2 ^ 1 := field_lt ..
  have h' : field m.operand 0 1 < 2 ^ 1 := field_lt ..
  rw [SyncObj.verdict, SyncObj.joined, field_putField_same _ _ (by decide), Nat.mod_eq_of_lt (by omega)]

theorem SyncObj.decided_joined (x : SyncObj) (m : Msg) : (x.joined m).decided = x.decided := by
  rw [SyncObj.decided, SyncObj.joined, field_putField_other _ _ (by decide), SyncObj.decided]

theorem SyncObj.received_joined {x : SyncObj} (m : Msg) (h : x.received < x.target) : (x.joined m).received = x.received + 1 := by
  have ht : x.target < 2 ^ 24 := field_lt ..
  rw [SyncObj.received, SyncObj.joined, field_putField_same _ _ (by decide)]
  omega

/-- A contribution to an object that is not decided and not linked: the last one decides. -/
theorem State.contributed_eq (s : State) (m : Msg) :
    let r := m.dstRegion
    let o := waIndex m.wa
    let x := s.syncObj r o
    x.linkMode = false → x.decided = false → x.received < x.target →
    s.contributed m =
      if x.received + 1 = x.target then
        ((s.setSyncObj r o (x.joined m).settled).syncDone m (x.joined m).settled.w0).release r o
      else s.heldOrDone r o (x.joined m) m := by
  intro r o x hlink hdecided hlt
  have ht : x.target < 2 ^ 24 := field_lt ..
  have hlast : min (x.received + 1) (2 ^ 24 - 1) = x.target ↔ x.received + 1 = x.target := by omega
  unfold State.contributed State.syncContribute
  simp only [show s.syncObj m.dstRegion (waIndex m.wa) = x from rfl, hdecided, hlink, hlt, hlast, true_and, Bool.false_eq_true, if_false]
  by_cases hn : x.received + 1 = x.target
  · simp only [if_pos hn] <;> rfl
  · simp only [if_neg hn] <;> rfl

/-- A decided object answers the operation and releases every CONTRIBUTE and AWAIT that waits for it. -/
theorem State.contributed_spec (s : State) (m : Msg) :
    let r := m.dstRegion
    let o := waIndex m.wa
    let x := s.syncObj r o
    let t := s.contributed m
    x.linkMode = false → x.decided = false → x.received < x.target →
    onlyObject r o s t ∧ (t.syncObj r o).verdict = max x.verdict (field m.operand 0 1) ∧
      (t.syncObj r o).received = x.received + 1 ∧ ((t.syncObj r o).decided = true ↔ x.received + 1 = x.target) ∧
      (x.received + 1 = x.target → ∃ a l, t.net = s.net ++ a :: l ∧ answers m 0 (t.syncObj r o).w0 a ∧
        ∀ w ∈ (t.region r).waiters, w.object = o → w.sop ≠ 24 ∧ w.sop ≠ 25) := by
  intro r o x t hlink hdecided hlt
  have ht := s.contributed_eq m hlink hdecided hlt
  have hverdict := x.verdict_joined m
  have hreceived := SyncObj.received_joined m hlt
  by_cases hn : x.received + 1 = x.target
  · rw [show t = _ from ht.trans (if_pos hn)]
    obtain ⟨honly, hobj, hdone⟩ := s.decided_spec r o m (x.joined m).decided_settled
    exact ⟨honly, hobj.verdict.trans ((x.joined m).verdict_settled.trans hverdict), hobj.2.2.trans hreceived,
      iff_of_true (hobj.decided.trans (x.joined m).decided_settled) hn, fun _ => hdone⟩
  · rw [show t = _ from ht.trans (if_neg hn)]
    obtain ⟨honly, hobj, -⟩ := s.heldOrDone_spec r o (x.joined m) m
    have hopen := hobj.decided.trans ((x.decided_joined m).trans hdecided)
    exact ⟨honly, hobj.verdict.trans hverdict, hobj.2.2.trans hreceived, iff_of_false (ne_true_of_eq_false hopen) hn,
      fun heq => absurd heq hn⟩

/-- The object as DECIDE settles it. -/
def SyncObj.ruled (x : SyncObj) (m : Msg) : SyncObj :=
  SyncObj.settled { x.counted with w0 := putField x.w0 0 1 (field m.operand 0 1) }

theorem SyncObj.verdict_ruled (x : SyncObj) (m : Msg) : (x.ruled m).verdict = field m.operand 0 1 := by
  rw [SyncObj.ruled, SyncObj.verdict_settled, SyncObj.verdict, field_putField_same _ _ (by decide)]
  exact Nat.mod_eq_of_lt (field_lt ..)

theorem State.syncDecide_spec (s : State) (r : Nat) (m : Msg) :
    let o := waIndex m.wa
    let t := s.syncDecide r m
    onlyObject r o s t ∧ (t.syncObj r o).verdict = field m.operand 0 1 ∧ (t.syncObj r o).decided = true ∧
      ∃ a l, t.net = s.net ++ a :: l ∧ answers m 0 (t.syncObj r o).w0 a ∧
        ∀ w ∈ (t.region r).waiters, w.object = o → w.sop ≠ 24 ∧ w.sop ≠ 25 := by
  intro o t
  have hsettled : ((s.syncObj r o).ruled m).decided = true := SyncObj.decided_settled _
  obtain ⟨honly, hobj, hdone⟩ := s.decided_spec r o m hsettled
  exact ⟨honly, hobj.verdict.trans (SyncObj.verdict_ruled ..), hobj.decided.trans hsettled, hdone⟩

/-- Away from the module verdict object, DECIDE does no more. -/
theorem State.exec_decide (h : s.applies m 26) (hobj : ¬(m.dstRegion = s.verdictRegion ∧ waIndex m.wa = objVerdict)) :
    exec (.decide ⟨m, []⟩) s = .next ((s.taken m).syncDecide m.dstRegion m) := by
  obtain ⟨⟨hrest, -⟩, -⟩ := (s.taken m).syncDecide_spec m.dstRegion m
  have hverdict : ((s.taken m).syncDecide m.dstRegion m).verdictRegion = s.verdictRegion := by rw [hrest]; rfl
  have hstep := State.exec_syncOp h (pick := (· == 26)) rfl fun t =>
    let t1 := t.syncDecide m.dstRegion m
    if m.dstRegion = t1.verdictRegion ∧ waIndex m.wa = objVerdict then t1.decided (m.operand.getLsbD 0) else t1
  exact hstep.trans (congrArg _ (if_neg (by rwa [hverdict])))

/-- Settles O37, clause by clause: how the operation ends, read in the state without its message. -/
theorem syncWaitsAndDecisions : Obligations.SyncWaitsAndDecisions := by
  have htaken (s : State) (m : Msg) : onlyObject m.dstRegion (waIndex m.wa) s (s.taken m) := onlyObject_net ..
  refine ⟨?waits, ?arrive, ?contribute, ?decide, ?fault⟩
  case waits =>
    intro s m i sop hi h o holds
    have hexec := exec_wait hi h
    obtain ⟨-, -, -, rfl, -, -⟩ := h
    have hsop : m.sop = 3 ∨ m.sop = 18 ∨ m.sop = 25 := by
      simp only [List.mem_cons, Prod.mk.injEq, List.not_mem_nil, or_false] at hi
      tauto
    have hwaits : o.waits m = false ↔ holds := o.waits_eq_false_iff hsop
    obtain ⟨honly, hobj, hend⟩ := (s.taken m).syncWait_spec m.dstRegion m
    refine ⟨_, hexec, hobj.1, hobj.2.1, (htaken s m).trans honly, fun hyes => ?_, fun hnot => ?_⟩
    · have hw : ((s.taken m).syncObj m.dstRegion (waIndex m.wa)).waits m = false := hwaits.mpr hyes
      rw [if_neg (ne_true_of_eq_false hw)] at hend
      exact hend
    · have hw : ((s.taken m).syncObj m.dstRegion (waIndex m.wa)).waits m = true :=
        Bool.of_not_eq_false fun hw => hnot (hwaits.mp hw)
      rw [if_pos hw] at hend
      exact hend
  case arrive =>
    intro s m h o mine
    have hexec : exec (.arrive ⟨m, []⟩) s = .next ((s.taken m).syncArrive m.dstRegion m) := State.exec_syncOp h rfl _
    obtain ⟨-, -, -, hsop, -, -⟩ := h
    by_cases hlast : o.arrivals + 1 = o.target
    · obtain ⟨honly, hobj, hwaiters, a, as, ha, hnet, has⟩ := (s.taken m).syncArrive_last m.dstRegion m (x := o) rfl hlast
      obtain ⟨harrivals, hgeneration⟩ := o.fields_nextGeneration
      exact ⟨_, hexec, hobj.2.1.trans o.w1_nextGeneration, (htaken s m).trans honly,
        fun _ => ⟨hobj.arrivals.trans harrivals, hobj.generation.trans hgeneration, hwaiters, a, as, hnet, ha, has.length_eq.symm,
          fun k w b hw hb => answers_of_forall₂ has hw hb⟩, fun hne => absurd hlast hne⟩
    · obtain ⟨honly, hobj, hend⟩ := (s.taken m).heldOrDone_spec m.dstRegion (waIndex m.wa) o.arrived m
      rw [waiterFor, hsop] at hend
      refine ⟨_, hexec.trans (congrArg _ ((s.taken m).syncArrive_counted m.dstRegion m (x := o) rfl hlast)),
        hobj.2.1.trans o.w1_arrived, (htaken s m).trans honly, fun heq => absurd heq hlast, fun _ hlt => ?_⟩
      obtain ⟨harrivals, hgeneration⟩ := SyncObj.fields_arrived hlt
      exact ⟨hobj.arrivals.trans harrivals, hobj.generation.trans hgeneration, hend⟩
  case contribute =>
    intro s m h o hlink hdecided hlt
    have hexec : exec (.contribute ⟨m, []⟩) s = .next ((s.taken m).contributed m) := State.exec_syncOp h rfl _
    obtain ⟨honly, hend⟩ := (s.taken m).contributed_spec m hlink hdecided hlt
    exact ⟨_, hexec, (htaken s m).trans honly, hend⟩
  case decide =>
    intro s m h hobject
    obtain ⟨honly, hverdict, hdecided, a, l, hend⟩ := (s.taken m).syncDecide_spec m.dstRegion m
    exact ⟨_, a, l, State.exec_decide h hobject, (htaken s m).trans honly, hverdict, hdecided, hend⟩
  case fault =>
    intro s m i sop code hi h htype hkind hsop hnf hfault hcode
    subst hfault
    obtain ⟨a, ha, hsend⟩ := (s.taken m).syncAnswer_sends m ((s.taken m).syncOpFault m.dstRegion m) 0
    have hexec : exec i s = .next ((s.taken m).send a) := by
      rw [← hsend]
      simp only [sopRows, List.mem_cons, Prod.mk.injEq, List.not_mem_nil, or_false] at hi
      rcases hi with ⟨rfl, rfl⟩ | ⟨rfl, rfl⟩ | ⟨rfl, rfl⟩ | ⟨rfl, rfl⟩ | ⟨rfl, rfl⟩ | ⟨rfl, rfl⟩ | ⟨rfl, rfl⟩ | ⟨rfl, rfl⟩ |
        ⟨rfl, rfl⟩ | ⟨rfl, rfl⟩ | ⟨rfl, rfl⟩ | ⟨rfl, rfl⟩ | ⟨rfl, rfl⟩ <;>
        exact State.exec_syncOp_fault h htype hkind hnf hcode (by rw [hsop]; rfl) _
    exact ⟨_, a, hexec, rfl, ha, rfl⟩

end Sys2Proof.Machine

/-! PROOFS. Reduction contributions: their sending, the combine buffers of routers, and hold windows (R220, R240, R241). -/

namespace Sys2Proof.Machine

variable {s : State} {m : Msg}

/-! ### A unit's contribution (R280, log 149) -/

theorem State.contribution_of_sent (h : m.srcKind ≠ 0 ∨ m ∈ s.net) : s.contribution m = m :=
  if_pos (h.imp_right List.contains_iff_mem.mpr)

/-- The rows of the unit's scratchpad that a contribution is sent with. -/
def State.contributedCells (s : State) (m : Msg) : List Cell :=
  (List.range m.body.length).map fun i => (s.unit m.srcUnit).cell (m.tag.toNat + i)

theorem State.contribution_of_unit (h : ¬(m.srcKind ≠ 0 ∨ m ∈ s.net)) :
    s.contribution m = { m with nf := (s.contributedCells m).any (·.nf), body := (s.contributedCells m).map (·.data) } :=
  if_neg fun hc => h (hc.imp_right List.contains_iff_mem.mp)

theorem State.contributedCells_contribution (s : State) (m : Msg) : s.contributedCells (s.contribution m) = s.contributedCells m := by
  by_cases h : m.srcKind ≠ 0 ∨ m ∈ s.net
  · rw [State.contribution_of_sent h]
  · rw [State.contribution_of_unit h]
    simp [State.contributedCells]

/-- A contribution that has taken its rows takes the same ones again. -/
theorem State.contribution_contribution (s : State) (m : Msg) : s.contribution (s.contribution m) = s.contribution m := by
  by_cases h : m.srcKind ≠ 0 ∨ m ∈ s.net
  · rw [State.contribution_of_sent h, State.contribution_of_sent h]
  by_cases h' : (s.contribution m).srcKind ≠ 0 ∨ s.contribution m ∈ s.net
  · exact State.contribution_of_sent h'
  · rw [State.contribution_of_unit h', State.contributedCells_contribution, State.contribution_of_unit h]

theorem exec_reductionContribution_eq (p : RedPlace) (m : Msg) (flits : Errs) (s : State) :
    exec (.reductionContribution p m flits) s = exec (.reductionContribution p (s.contribution m) flits) s := by
  have h (k : Msg) : exec (.reductionContribution p k flits) s = execReductionContribution p k flits s := rfl
  rw [h, h]
  simp only [execReductionContribution, State.contribution_contribution]

/-! ### Siblings among held contributions (R240) -/

theorem findSibling_eq_none {ns : List Node} (h : ∀ n ∈ ns, mayCombine n.msg m = false ∧ mayCombine m n.msg = false) :
    findSibling m ns = none := by
  induction ns with
  | nil => rfl
  | cons n ns ih =>
    obtain ⟨⟨hlow, hhigh⟩, hrest⟩ := List.forall_mem_cons.mp h
    rw [findSibling, if_neg (ne_true_of_eq_false hlow), if_neg (ne_true_of_eq_false hhigh), ih hrest]

theorem absorb_of_alone {ns : List Node} (h : findSibling m ns = none) (k : Nat) : absorb k ns m = (ns, m) := by
  cases k with
  | zero => rfl
  | succ k => rw [absorb, h]

/-- What a sibling and the combination with it agree in. -/
theorem findSibling_agrees {ns : List Node} {n : Node} {c : Msg} (h : findSibling m ns = some (n, c)) :
    n ∈ ns ∧ rdTensor c = rdTensor m ∧ rdBlock c = rdBlock m := by
  induction ns with
  | nil => cases h
  | cons k ns ih =>
    rw [findSibling] at h
    split at h
    · cases h
      rename_i hmay
      obtain ⟨htensor, hblock, -⟩ := mayCombine_agree hmay
      exact ⟨List.mem_cons_self, by simpa using htensor, by simpa using hblock⟩
    · split at h
      · cases h
        exact ⟨List.mem_cons_self, by simp, by simp⟩
      · obtain ⟨hmem, hagree⟩ := ih h
        exact ⟨List.mem_cons_of_mem _ hmem, hagree⟩

/-- Combining leaves the tensor and the block, and holds no more than before. -/
theorem absorb_spec (k : Nat) (ns : List Node) (m : Msg) :
    (absorb k ns m).1.length ≤ ns.length ∧ rdTensor (absorb k ns m).2 = rdTensor m ∧ rdBlock (absorb k ns m).2 = rdBlock m := by
  induction k generalizing ns m with
  | zero => exact ⟨le_rfl, rfl, rfl⟩
  | succ k ih =>
    cases h : findSibling m ns with
    | none => rw [absorb_of_alone h]; exact ⟨le_rfl, rfl, rfl⟩
    | some p =>
      obtain ⟨-, htensor, hblock⟩ := findSibling_agrees (n := p.1) (c := p.2) h
      obtain ⟨ilength, itensor, iblock⟩ := ih (ns.erase p.1) p.2
      rw [absorb, h]
      exact ⟨ilength.trans List.length_erase_le, itensor.trans htensor, iblock.trans hblock⟩

/-! ### Combine buffers (R220, R241) -/

/-- The combine buffer of a place of a region: a cluster router's, or the region router's. -/
def isBuffer (p : RedPlace) (r place : Nat) : Prop :=
  (p = .regionRouter r ∧ place = 20 ∧ r < 48) ∨ ∃ c, p = .clusterRouter c ∧ c < 960 ∧ r = c / 20 ∧ place = c % 20

/-- The router of a combine buffer. -/
def bufferSite (r place : Nat) : Site := if place < 20 then .router (20 * r + place) else .regionRouter r

theorem exec_reductionContribution_router {p : RedPlace} {r place : Nat} (hp : isBuffer p r place) (hsent : s.contribution m = m)
    (hok : msgOk m = true) (htype : m.type = 16) :
    exec (.reductionContribution p m []) s = .next (s.routerContribution r place m []) := by
  have h : exec (.reductionContribution p m []) s = execReductionContribution p m [] s := rfl
  rw [h]
  simp only [execReductionContribution, hsent]
  rcases hp with ⟨rfl, rfl, hr⟩ | ⟨c, rfl, hc, rfl, rfl⟩
  · simp [htype, guardRes, hok, hr]
  · simp [htype, guardRes, hok, hc]

theorem exec_holdWindowEnd {p : RedPlace} {r place : Nat} (hp : isBuffer p r place) (i : Nat) :
    exec (.holdWindowEnd r p i) s = .next (s.windowEnd r place i) := by
  have h : exec (.holdWindowEnd r p i) s = execHoldWindowEnd r p i s := rfl
  rw [h]
  rcases hp with ⟨rfl, rfl, hr⟩ | ⟨c, rfl, hc, rfl, rfl⟩
  · simp [execHoldWindowEnd, guardRes, hr]
  · have : c / 20 < 48 := by omega
    simp [execHoldWindowEnd, guardRes, hc, this]

/-- The contributions held at a place of a region. -/
def State.heldAt (s : State) (r place : Nat) : List Node := (s.region r).combine.filter fun n => n.place == place

/-- The state with other contributions held in a region's buffers. -/
def State.withCombine (s : State) (r : Nat) (ns : List Node) : State := s.updRegion r fun x => { x with combine := ns }

theorem State.withCombine_combine (s : State) (r : Nat) (ns : List Node) : ((s.withCombine r ns).region r).combine = ns := by
  rw [State.withCombine, State.region_updRegion_same]

/-- A contribution at a router of its path, combined with what is held there: it goes on when no window holds it or the buffer has no
room, and is held otherwise. -/
theorem State.routerContribution_eq {r place : Nat} (hport : (portAt (bufferSite r place) (s.path m)).isSome = true)
    (hnext : s.isNext m = true) (hreach : s.unreachable m = false) (hphase : s.seq.phase ≠ 7) {rest : List Node} {c : Msg}
    (habsorb : absorb (s.heldAt r place).length (s.heldAt r place) m = (rest, c)) :
    let keep := (s.region r).combine.filter fun n => n.place != place || rest.contains n
    s.routerContribution r place m [] =
      if field (s.p1 r 5571) 0 8 = 0 ∨ 32 < (rest.map fun n => flitsOf n.msg).sum + flitsOf c then
        ((s.taken m).withCombine r keep).send c
      else (s.taken m).withCombine r (keep ++ [{ place := place, entry := 0, msg := c }]) := by
  obtain ⟨port, hport⟩ := Option.isSome_iff_exists.mp hport
  unfold bufferSite at hport
  simp only [State.routerContribution, hport, hnext, hreach, State.portChecks_clean]
  rw [show absorb ((({ s with net := s.net.erase m } : State).region r).combine.filter fun n => n.place == place).length
    ((({ s with net := s.net.erase m } : State).region r).combine.filter fun n => n.place == place) m = (rest, c) from habsorb]
  simp [hphase] <;> rfl

/-- A buffer whose contributions all stay is left whole. -/
theorem State.filter_keep_heldAt (s : State) (r place : Nat) :
    ((s.region r).combine.filter fun n => n.place != place || (s.heldAt r place).contains n) = (s.region r).combine := by
  refine List.filter_eq_self.mpr fun n hn => ?_
  by_cases hplace : n.place = place
  · simp [State.heldAt, hn, hplace]
  · simp [hplace]

section Router

variable {p : RedPlace} {r place : Nat} (hp : isBuffer p r place) (hsent : s.contribution m = m) (hok : msgOk m = true)
  (hnext : s.isNext m = true) (htype : m.type = 16) (hphase : s.seq.phase ≠ 7)
  (hport : (portAt (bufferSite r place) (s.path m)).isSome = true) (hreach : s.unreachable m = false)

include hp hsent hok hnext htype hphase hport hreach

/-- What the row comes to once it is known what the arrival is combined with. -/
theorem exec_routerContribution {rest : List Node} {c : Msg}
    (habsorb : absorb (s.heldAt r place).length (s.heldAt r place) m = (rest, c)) :
    let keep := (s.region r).combine.filter fun n => n.place != place || rest.contains n
    exec (.reductionContribution p m []) s = .next
      (if field (s.p1 r 5571) 0 8 = 0 ∨ 32 < (rest.map fun n => flitsOf n.msg).sum + flitsOf c then
        ((s.taken m).withCombine r keep).send c
      else (s.taken m).withCombine r (keep ++ [{ place := place, entry := 0, msg := c }])) := by
  rw [exec_reductionContribution_router hp hsent hok htype, State.routerContribution_eq hport hnext hreach hphase habsorb]

/-- One without a sibling is held while the buffer has room. -/
theorem exec_routerContribution_alone (hwindow : field (s.p1 r 5571) 0 8 ≠ 0)
    (halone : ∀ n ∈ s.heldAt r place, mayCombine n.msg m = false ∧ mayCombine m n.msg = false)
    (hroom : ((s.heldAt r place).map fun n => flitsOf n.msg).sum + flitsOf m ≤ 32) :
    exec (.reductionContribution p m []) s = .next
      ((s.taken m).withCombine r ((s.region r).combine ++ [{ place := place, entry := 0, msg := m }])) := by
  rw [exec_routerContribution hp hsent hok hnext htype hphase hport hreach (absorb_of_alone (findSibling_eq_none halone) _),
    if_neg (by omega), State.filter_keep_heldAt]

/-- At an empty buffer one goes on that no window holds or that is too long. -/
theorem exec_routerContribution_passes (hempty : s.heldAt r place = []) (hpass : field (s.p1 r 5571) 0 8 = 0 ∨ 32 < flitsOf m) :
    exec (.reductionContribution p m []) s = .next (((s.taken m).withCombine r (s.region r).combine).send m) := by
  have halone : findSibling m (s.heldAt r place) = none := by rw [hempty]; rfl
  have hpass' : field (s.p1 r 5571) 0 8 = 0 ∨ 32 < ((s.heldAt r place).map fun n => flitsOf n.msg).sum + flitsOf m := by
    simpa [hempty] using hpass
  rw [exec_routerContribution hp hsent hok hnext htype hphase hport hreach (absorb_of_alone halone _), if_pos hpass',
    State.filter_keep_heldAt]

/-- One whose sibling is all that the buffer holds is combined with it. -/
theorem exec_routerContribution_sibling {n : Node} (hheld : s.heldAt r place = [n]) (hmay : mayCombine n.msg m = true)
    (hwindow : field (s.p1 r 5571) 0 8 ≠ 0) (hroom : flitsOf (combine n.msg m) ≤ 32) :
    exec (.reductionContribution p m []) s = .next ((s.taken m).withCombine r
      (((s.region r).combine.filter fun k => k.place != place) ++ [{ place := place, entry := 0, msg := combine n.msg m }])) := by
  have habsorb : absorb (s.heldAt r place).length (s.heldAt r place) m = ([], combine n.msg m) := by
    simp [hheld, absorb, findSibling, hmay]
  rw [exec_routerContribution hp hsent hok hnext htype hphase hport hreach habsorb, if_neg (by simp; omega)]
  simp

end Router

/-- At the end of a window what is held leaves. -/
theorem State.windowEnd_eq {r place i : Nat} {n : Node} (hn : (s.heldAt r place)[i]? = some n) :
    s.windowEnd r place i = (s.withCombine r ((s.region r).combine.erase n)).send n.msg := by
  unfold State.heldAt at hn
  rw [State.windowEnd, hn]
  rfl

end Sys2Proof.Machine

/-! PROOFS. The reduction endpoint: held nodes, errors, and the rows of a complete block (R242, R252). -/

namespace Sys2Proof.Machine

variable {s t : State} {m : Msg} {r : Nat}

/-! ### Held nodes (R242, R245) -/

theorem State.region_setNodes (s : State) (r : Nat) (ns : List Node) :
    (s.setNodes r ns).region r = { s.region r with nodes := ns, p1 := ((s.setNodes r ns).region r).p1 } := by
  rw [State.setNodes, State.updP1, State.region_setP1, State.region_updRegion_same]

theorem State.p1_setNodes_other (s : State) (k : Nat) (ns : List Node) (r : Nat) {i : Nat} (h : i ≠ 5573) :
    (s.setNodes k ns).p1 r i = s.p1 r i := by
  rw [State.setNodes, State.p1_updP1_other _ _ (.inr h), State.updRegion_p1 s k fun _ => by rfl]

theorem State.p1_setNodes (s : State) (r : Nat) (ns : List Node) :
    (s.setNodes r ns).p1 r 5573 = putField (s.p1 r 5573) 23 13 ns.length := by
  rw [State.setNodes, State.p1_updP1_same, State.updRegion_p1 s r fun _ => by rfl]

/-- What slots_used shows (Table NET-9). -/
theorem State.field_setNodes (s : State) (r : Nat) {ns : List Node} (h : ns.length < 2 ^ 13) :
    field ((s.setNodes r ns).p1 r 5573) 23 13 = ns.length := by
  rw [State.p1_setNodes, field_putField_same _ _ (by decide), Nat.mod_eq_of_lt h]

/-! ### A written block counts (R242, R282, R292) -/

/-- A written block is counted, its nf may be marked, and one more than the schedule has may be reported. -/
theorem State.blockCounted_cases (s : State) (r : Nat) (nf : Bool) :
    let s1 := s.updP1 r 15369 fun w => bumpField w 0 24
    ∃ s2, (s2 = s1 ∨ s2 = s1.updP1 r 15367 fun w => putField w 4 1 1) ∧
      (s.blockCounted r nf = s2 ∨ s.blockCounted r nf = s2.schedFault r 0x803) := by
  intro s1
  refine ⟨if nf then s1.updP1 r 15367 fun w => putField w 4 1 1 else s1, ?_, ?_⟩
  · exact (ite_eq_or_eq ..).symm
  · exact (ite_eq_or_eq ..).symm

/-- What the count of a written block leaves: all but page 1, the records on their way and the reported codes. -/
theorem State.blockCounted_leaves {α : Type} (f : State → α) (hp1 : ∀ (t : State) r i w, f (t.setP1 r i w) = f t)
    (hraise : ∀ (t : State) r code subject detail, f (t.raise r code subject detail) = f t)
    (hreport : ∀ (t : State) c, f (t.report c) = f t) (s : State) (r : Nat) (nf : Bool) : f (s.blockCounted r nf) = f s := by
  obtain ⟨s2, hs2, ht⟩ := s.blockCounted_cases r nf
  have hcount : f s2 = f s := by
    rcases hs2 with rfl | rfl
    · exact hp1 ..
    · exact (hp1 ..).trans (hp1 ..)
  rcases ht with ht | ht
  · rw [ht, hcount]
  · rw [ht, State.schedFault, hreport, hraise, State.schedCode, hp1, hcount]

theorem State.blockCounted_units (s : State) (r : Nat) (nf : Bool) : (s.blockCounted r nf).units = s.units :=
  State.blockCounted_leaves State.units (fun _ _ _ _ => rfl) State.raise_units (fun _ _ => rfl) s r nf
theorem State.blockCounted_wells (s : State) (r : Nat) (nf : Bool) : (s.blockCounted r nf).wells = s.wells :=
  State.blockCounted_leaves State.wells (fun _ _ _ _ => rfl) State.raise_wells (fun _ _ => rfl) s r nf
theorem State.blockCounted_net (s : State) (r : Nat) (nf : Bool) : (s.blockCounted r nf).net = s.net :=
  State.blockCounted_leaves State.net (fun _ _ _ _ => rfl) State.raise_net (fun _ _ => rfl) s r nf

/-- What an event leaves of a region that is not its register file. -/
theorem State.region_raise {α : Type} {g : Region → α} (hg : ∀ x p, g { x with p1 := p } = g x) (s : State)
    (k r code subject detail : Nat) :
    g ((s.raise r code subject detail).region k) = g (s.region k) :=
  (quiet_region hg k).raise s r code subject detail

theorem State.region_blockCounted {α : Type} {g : Region → α} (hg : ∀ x p, g { x with p1 := p } = g x) (s : State) (k r : Nat)
    (nf : Bool) : g ((s.blockCounted r nf).region k) = g (s.region k) :=
  State.blockCounted_leaves (fun t => g (t.region k)) (fun t r i w => by rw [t.region_setP1 r i w k, hg])
    (fun t => State.region_raise hg t k) (fun _ _ => rfl) s r nf

/-- The blocks that are done (Table STP-5). -/
theorem State.blocksDone_blockCounted (s : State) (r : Nat) (nf : Bool) :
    field ((s.blockCounted r nf).p1 r 15369) 0 24 = min (field (s.p1 r 15369) 0 24 + 1) (2 ^ 24 - 1) := by
  obtain ⟨s2, hs2, ht⟩ := s.blockCounted_cases r nf
  have hcount : s2.p1 r 15369 = bumpField (s.p1 r 15369) 0 24 := by
    rcases hs2 with rfl | rfl
    · exact State.p1_updP1_same ..
    · exact (State.p1_updP1_other _ _ (.inr (by decide))).trans (State.p1_updP1_same ..)
  rw [← field_bumpField_same _ (by decide), ← hcount]
  rcases ht with ht | ht
  · rw [ht]
  · rw [ht, State.schedFault, State.report_p1, State.raise_p1_other _ (.inr (by decide)), State.schedCode,
      State.p1_setP1_other _ _ (.inr (by decide))]

/-! ### Reduction errors (R242, R246) -/

theorem State.reduceError_spec (s : State) (r : Nat) (m : Msg) {code : Nat} (hcode : code < 4096) (entry : Option Nat) :
    let t := s.reduceError r m code entry
    (t.region r).nodes = (s.region r).nodes.filter (fun n => !n.ofBlock entry m) ∧ (t.region r).heldIn = (s.region r).heldIn ∧
      field (t.p1 r 5573) 0 12 = code ∧ field (t.p1 r 5573) 21 2 = 3 ∧
      (∀ e < 512, entry = some e → field (t.p1 r 5573) 12 9 = e) ∧
      t.seq.reported = s.seq.reported ++ [causeOf code 16383 none] ∧ t.units = s.units ∧ t.wells = s.wells := by
  intro t
  obtain ⟨e, he⟩ : ∃ e, entry.getD (field (Config.unstated 1 s.root) 0 9) = e := ⟨_, rfl⟩
  obtain ⟨s1, hs1⟩ : ∃ s1, s.setNodes r ((s.region r).nodes.filter fun n => !n.ofBlock entry m) = s1 := ⟨_, rfl⟩
  obtain ⟨s2, hs2⟩ : ∃ s2, s1.updP1 r 5573 (fun w => putField (putField (putField w 0 12 code) 12 9 e) 21 2 3) = s2 := ⟨_, rfl⟩
  have ht : t = (s2.raise r code noSubject (s2.p1 r 5573).toNat).report (causeOf code 16383 none) := by
    rw [← hs2, ← hs1, ← he]; rfl
  have hword : t.p1 r 5573 = putField (putField (putField (s1.p1 r 5573) 0 12 code) 12 9 e) 21 2 3 := by
    rw [ht, State.report_p1, State.raise_p1_other _ (.inr (by decide)), ← hs2, State.p1_updP1_same]
  have hregion {α : Type} {g : Region → α} (hg : ∀ x p, g { x with p1 := p } = g x) : g (t.region r) = g (s1.region r) := by
    rw [ht, State.report_region, State.region_raise hg, ← hs2, State.updP1, State.region_setP1, hg]
  have hnodes := s.region_setNodes r ((s.region r).nodes.filter fun n => !n.ofBlock entry m)
  rw [hs1] at hnodes
  refine ⟨?_, ?_, ?_, ?_, ?_, ?_, ?_, ?_⟩
  · rw [hregion (g := Region.nodes) fun _ _ => rfl, hnodes]
  · rw [hregion (g := Region.heldIn) fun _ _ => rfl, hnodes]
  · rw [hword, field_putField_other _ _ (by decide), field_putField_other _ _ (by decide), field_putField_same _ _ (by decide)]
    exact Nat.mod_eq_of_lt hcode
  · rw [hword, field_putField_same _ _ (by decide)]; rfl
  · rintro e' he' rfl
    rw [hword, field_putField_other _ _ (by decide), field_putField_same _ _ (by decide), ← he]
    exact Nat.mod_eq_of_lt he'
  · rw [ht, State.report, State.raise_seq, ← hs2, ← hs1]; rfl
  · rw [ht, State.report_units, State.raise_units, ← hs2, ← hs1]; rfl
  · rw [ht, State.report_wells, State.raise_wells, ← hs2, ← hs1]; rfl

/-- The lowest code is one of those that apply. -/
theorem lowest_mem {l : List Nat} (h : l ≠ []) : lowest l ∈ l := by
  rw [lowest_eq_min?]
  obtain ⟨c, hc⟩ := Option.ne_none_iff_exists'.mp (mt List.min?_eq_none_iff.mp h)
  rw [hc]
  exact List.min?_mem hc

theorem lowest_lt {l : List Nat} {b : Nat} (hb : 0 < b) (h : ∀ c ∈ l, c < b) : lowest l < b := by
  by_cases hl : l = []
  · rw [hl]; exact hb
  · exact h _ (lowest_mem hl)

/-- Every code of a plan check is a code of Table NET-12, if one applies. -/
theorem State.planCheck_lt (s : State) (r : Nat) (k : Msg) : s.planCheck r k < 4096 := by
  have hite {p : Prop} [Decidable p] {a b : List Nat} (ha : ∀ c ∈ a, c < 4096) (hb : ∀ c ∈ b, c < 4096) :
      ∀ c ∈ (if p then a else b), c < 4096 := by split <;> assumption
  have happ {a b : List Nat} (ha : ∀ c ∈ a, c < 4096) (hb : ∀ c ∈ b, c < 4096) : ∀ c ∈ a ++ b, c < 4096 :=
    List.forall_mem_append.mpr ⟨ha, hb⟩
  have hnil : ∀ c ∈ ([] : List Nat), c < 4096 := by decide
  have h306 : ∀ c ∈ [0x306], c < 4096 := by decide
  have h307 : ∀ c ∈ [0x307], c < 4096 := by decide
  have hlookup : ∀ c ∈ s.lookupFaults r k, c < 4096 := by
    refine hite (by decide) ?_
    split <;> decide
  have hheld : ∀ c ∈ s.heldFaults r k, c < 4096 := hite h307 hnil
  refine lowest_lt (by decide) (happ (happ (happ (happ (happ hlookup (hite hnil h306)) (hite h306 hnil)) (hite hnil h307)) ?_) hheld)
  split
  · exact hite h307 hnil
  · exact hnil

theorem State.planEntry_lt {k : Msg} {e : Nat} (h : s.planEntry r k = some e) : e < 512 := by
  have hhits : s.planHits r k = [e] := by
    unfold State.planEntry at h
    split at h <;> simp_all
  have hmem : e ∈ s.planHits r k := by rw [hhits]; exact List.mem_singleton_self e
  simp only [State.planHits, State.planOwn, List.mem_filter, List.mem_range] at hmem
  exact hmem.1.1

/-! ### Rows of a well by their linear offset (Table MOV-2) -/

theorem spaceOf_eq_well_iff {a : WAddr} : spaceOf a = .well ↔ field a 46 2 = 1 := by
  unfold spaceOf
  have h : field a 46 2 < 2 ^ 2 := field_lt ..
  split <;> simp_all

/-- The address of a row of well `g`, by granule and nonet. -/
theorem wellAddress_fields {g granule nonet : Nat} (hg : g < 64) (hgranule : granule < 2 ^ 27) (hnonet : nonet < 2 ^ 9) :
    let a : WAddr := BitVec.ofNat 48 (2 ^ 46 + g * 2 ^ 39 + (granule * 2 ^ 12 + nonet))
    spaceOf a = .well ∧ waWellRegion a = g ∧ waGranule a = granule ∧ waNonet a = nonet := by
  simp only [spaceOf_eq_well_iff, waWellRegion, waGranule, waNonet]
  refine ⟨?_, ?_, ?_, ?_⟩ <;> rw [field_ofNat (by decide)] <;> omega

/-- A linear offset of a well names the row of that well that holds it. -/
theorem rowOfLin_well {dest : WAddr} (hspace : spaceOf dest = .well) {lin : Nat} (hlin : lin + 64 ≤ granules * 512) :
    let a := (rowOfLin (structOf dest) lin).1
    waWellRegion a = waWellRegion dest ∧ 8 * waGranule a + waNonet a / 64 = lin / 64 := by
  have hg : waWellRegion dest < 64 := field_lt ..
  unfold granules at hlin
  have hstruct : structOf dest = BitVec.ofNat 48 (2 ^ 46 + waWellRegion dest * 2 ^ 39) := by rw [structOf, hspace]
  have hwell : spaceOf (structOf dest) = .well := by
    rw [hstruct]
    have h := (wellAddress_fields (granule := 0) (nonet := 0) hg (by decide) (by decide)).1
    rwa [Nat.zero_mul, Nat.add_zero] at h
  have ha : (rowOfLin (structOf dest) lin).1 =
      BitVec.ofNat 48 (2 ^ 46 + waWellRegion dest * 2 ^ 39 + (lin / 512 * 2 ^ 12 + lin % 512 / 64 * 64)) := by
    have hrow : (rowOfLin (structOf dest) lin).1 = structOf dest + BitVec.ofNat 48 (lin / 512 * 2 ^ 12 + lin % 512 / 64 * 64) := by
      unfold rowOfLin
      rw [hwell]
    rw [hrow, hstruct, ← BitVec.ofNat_add]
  obtain ⟨-, hregion, hgranule, hnonet⟩ := wellAddress_fields (granule := lin / 512) (nonet := lin % 512 / 64 * 64) hg
    (by omega) (by omega)
  rw [ha]
  refine ⟨hregion, ?_⟩
  rw [hgranule, hnonet]
  omega

/-- A row that can be written lies within its structure. -/
theorem State.lin_le_of_blockFault {dest : WAddr} {lin : Nat} (h : s.blockFault dest lin = 0) : lin + 64 ≤ s.linLimit dest := by
  refine Nat.le_of_not_lt fun hlt => ?_
  simp only [State.blockFault, if_pos hlt] at h
  split at h <;> exact absurd h (by decide)

/-- What decides whether a row can be written: which regions and units are served. -/
theorem State.blockFault_congr (hsvc : t.service = s.service) (hbar : t.bar0 = s.bar0) (hp1 : ∀ k, ∀ i < 80, t.p1 k i = s.p1 k i)
    (dest : WAddr) (lin : Nat) : t.blockFault dest lin = s.blockFault dest lin := by
  have hs (k : Nat) : t.svc k = s.svc k := by rw [State.svc, State.svc, hsvc]
  have hb (o : Nat) : t.bar o = s.bar o := by rw [State.bar, State.bar, hbar]
  have habsent (u : Nat) : t.absent u = s.absent u := by
    rw [State.absent, State.absent, State.column, State.column, State.dark, State.dark, hb,
      hp1 _ _ (by unfold rowMapIndex; omega)]
  have havailable (a : WAddr) : t.waUnavailable a = s.waUnavailable a := by
    simp only [State.waUnavailable, hs, habsent, State.slotValid, hb] <;> rfl
  have hlimit : t.linLimit dest = s.linLimit dest := by simp only [State.linLimit, State.slotSize, hb]
  simp only [State.blockFault, hlimit, State.waFault, State.gatewayFault, havailable]

/-! ### The rows of a block (R242, R252) -/

theorem State.wellWrite_row (s : State) (r q : Nat) (d : Row) (g i : Nat) :
    ((s.wellWrite r q [d]).well g).rows.get 0 i = if g = r ∧ i = q then d else (s.well g).rows.get 0 i := by
  by_cases hg : g = r
  · subst hg
    by_cases hi : i = q
    · subst hi
      simp [State.wellWrite]
    · simp [State.wellWrite, hi, Sparse.get_set_other]
  · simp [State.wellWrite, State.well_updWell_other _ _ hg, hg]

/-- Rows of a block for the region's own well are written at once, one after the other. -/
theorem State.blockRows_own {dest : WAddr} (hspace : spaceOf dest = .well) (hregion : waWellRegion dest = r) (put nf : Bool)
    (ds : List Row) (s : State) (lin : Nat) (hfault : ∀ j < ds.length, s.blockFault dest (lin + 64 * j) = 0) :
    ∃ t, s.blockRows r dest put nf lin ds = (t, 0, []) ∧ t = { s with wells := t.wells } ∧
      ∀ g i, (t.well g).rows.get 0 i =
        if g = r ∧ lin / 64 ≤ i ∧ i < lin / 64 + ds.length then ds.getD (i - lin / 64) 0 else (s.well g).rows.get 0 i := by
  induction ds generalizing s lin with
  | nil => exact ⟨s, rfl, rfl, fun g i => by rw [if_neg (by simp)]⟩
  | cons d ds ih =>
    have hfirst : s.blockFault dest lin = 0 := hfault 0 (by simp)
    have hlimit : s.linLimit dest = granules * 512 := by rw [State.linLimit, hspace]
    obtain ⟨haddr, hrow⟩ := rowOfLin_well hspace (hlimit ▸ State.lin_le_of_blockFault hfirst)
    obtain ⟨t, hrest, honly, hrows⟩ := ih (s.wellWrite r (lin / 64) [d]) (lin + 64) fun j hj => by
      rw [show lin + 64 + 64 * j = lin + 64 * (j + 1) by omega]
      exact (State.blockFault_congr rfl rfl (fun _ _ _ => rfl) _ _).trans (hfault (j + 1) (by simpa using hj))
    refine ⟨t, ?_, honly, fun g i => ?_⟩
    · simp only [State.blockRows, hfirst, ne_eq, not_true_eq_false, if_false, hspace, haddr, hregion, and_self, if_true, hrow, hrest]
    · rw [hrows, State.wellWrite_row, show (lin + 64) / 64 = lin / 64 + 1 by omega]
      rw [List.length_cons]
      by_cases hg : g = r
      · rcases Nat.lt_trichotomy i (lin / 64) with hi | hi | hi
        · rw [if_neg (by omega), if_neg (by omega), if_neg (by omega)]
        · rw [if_neg (by omega), if_pos ⟨hg, hi⟩, if_pos (by omega), hi, Nat.sub_self, List.getD_cons_zero]
        · rw [if_neg (c := g = r ∧ i = lin / 64) (by omega), show i - lin / 64 = i - (lin / 64 + 1) + 1 by omega, List.getD_cons_succ]
          exact if_congr (by omega) rfl rfl
      · rw [if_neg (by omega), if_neg (by omega), if_neg (by omega)]

/-- A change of a region that leaves its register file leaves what can be written. -/
theorem State.blockFault_updRegion (s : State) (r : Nat) {f : Region → Region} (hf : ∀ x, (f x).p1 = x.p1) (dest : WAddr) (lin : Nat) :
    (s.updRegion r f).blockFault dest lin = s.blockFault dest lin :=
  State.blockFault_congr (s := s) (t := s.updRegion r f) rfl rfl (fun k i _ => s.updRegion_p1 r hf k i) dest lin

/-- A write request for the row of a block at a linear offset, with its tag. -/
def blockRequest (dest : WAddr) (nf : Bool) (lin : Nat) (b : Row) (tag : Nat) (a : Msg) : Prop :=
  a.type = 1 ∧ a.body = [b] ∧ a.nf = nf ∧ a.tag = BitVec.ofNat 16 tag ∧ a.wa = (rowOfLin (structOf dest) lin).1

theorem State.blockMsg_request (s : State) (r : Nat) (dest : WAddr) (put nf : Bool) (tag lin : Nat) (d : Row) :
    blockRequest dest nf lin d tag (s.blockMsg r (rowOfLin (structOf dest) lin).1 put nf tag d) := by
  unfold State.blockMsg
  split <;> exact ⟨rfl, rfl, rfl, rfl, rfl⟩

/-- Rows of a block for another well or a scratchpad leave as requests, each with a tag of its own. -/
theorem State.blockRows_sent {dest : WAddr} (hremote : spaceOf dest = .scratch ∨ spaceOf dest = .well ∧ waWellRegion dest ≠ r)
    (put nf : Bool) (ds : List Row) (s : State) (lin : Nat) (hfault : ∀ j < ds.length, s.blockFault dest (lin + 64 * j) = 0) :
    ∃ t tags as, s.blockRows r dest put nf lin ds = (t, 0, tags) ∧ tags.length = ds.length ∧ as.length = ds.length ∧
      t = { s with regions := t.regions, net := s.net ++ as } ∧ t.region r = { s.region r with wtag := (t.region r).wtag } ∧
      ∀ (j : Nat) (b : Row) (g : Nat), ds[j]? = some b → tags[j]? = some g →
        ∃ a ∈ as, blockRequest dest nf (lin + 64 * j) b g a := by
  induction ds generalizing s lin with
  | nil => exact ⟨s, [], [], rfl, rfl, rfl, by simp, rfl, by simp⟩
  | cons d ds ih =>
    have hfirst : s.blockFault dest lin = 0 := hfault 0 (by simp)
    have hnot : ¬(spaceOf dest = .well ∧ waWellRegion (rowOfLin (structOf dest) lin).1 = r) := by
      rintro ⟨hwell, hown⟩
      have hlimit : s.linLimit dest = granules * 512 := by rw [State.linLimit, hwell]
      rw [(rowOfLin_well hwell (hlimit ▸ State.lin_le_of_blockFault hfirst)).1] at hown
      rcases hremote with hscratch | ⟨-, hother⟩
      · rw [hwell] at hscratch; cases hscratch
      · exact hother hown
    obtain ⟨s1, hs1⟩ : ∃ s1, s.updRegion r (fun x => { x with wtag := ((s.region r).wtag + 1) % 65536 }) = s1 := ⟨_, rfl⟩
    obtain ⟨a, ha⟩ : ∃ a, s.blockMsg r (rowOfLin (structOf dest) lin).1 put nf (s.region r).wtag d = a := ⟨_, rfl⟩
    have hrequest : blockRequest dest nf lin d (s.region r).wtag a := ha ▸ State.blockMsg_request ..
    have hregion : s1.region r = { s.region r with wtag := ((s.region r).wtag + 1) % 65536 } := by
      rw [← hs1, State.region_updRegion_same]
    obtain ⟨t, tags, as, hrest, htags, has, honly, hkeeps, hrows⟩ := ih (s1.send a) (lin + 64) fun j hj => by
      rw [show lin + 64 + 64 * j = lin + 64 * (j + 1) by omega, ← hfault (j + 1) (by simpa using hj)]
      exact (State.blockFault_congr rfl rfl (fun _ _ _ => rfl) _ _).trans
        (hs1 ▸ s.blockFault_updRegion r (f := fun x => { x with wtag := ((s.region r).wtag + 1) % 65536 }) (fun _ => rfl) _ _)
    refine ⟨t, (s.region r).wtag :: tags, a :: as, ?_, by simp [htags], by simp [has], ?_, ?_, ?_⟩
    · simp only [State.blockRows, hfirst, ne_eq, not_true_eq_false, if_false, hnot, hs1, ha, hrest]
    · rw [honly, ← hs1]
      simp [State.send]
    · rw [hkeeps, State.send_region, hregion]
    · rintro (_ | j) b g hb hg
      · obtain rfl : d = b := by simpa using hb
        obtain rfl : (s.region r).wtag = g := by simpa using hg
        exact ⟨a, List.mem_cons_self, hrequest⟩
      · obtain ⟨a', ha', hrow⟩ := hrows j b g (by simpa using hb) (by simpa using hg)
        exact ⟨a', List.mem_cons_of_mem _ ha', by rwa [show lin + 64 * (j + 1) = lin + 64 + 64 * j by omega]⟩

/-! ### A complete block (R242) -/

/-- The first linear offset of a block at its entry's destination, and that destination. -/
def State.planDest (s : State) (r e : Nat) : WAddr := waOf (s.planWord r e 4) (s.planWord r e 5)
def State.blockLin (s : State) (r e : Nat) (m : Msg) : Nat := linOf (s.planDest r e) + 64 * s.planRows r e * rdBlock m

/-- The rows that are written for a block, without fault: at once, or by requests. -/
theorem State.writeBlock_eq {e : Nat} {tags : List Nat} (hvalid : waInvalid (s.planDest r e) = [])
    (hspace : spaceOf (s.planDest r e) = .scratch ∨ spaceOf (s.planDest r e) = .well)
    (hrows : s.blockRows r (s.planDest r e) (field (s.planWord r e 5) 17 1 == 1) m.nf (s.blockLin r e m) m.body = (t, 0, tags)) :
    s.writeBlock r e m = if tags = [] then t.blockCounted r m.nf
      else t.updRegion r fun x => { x with writing := x.writing ++ [{ entry := e, msg := m, tags := tags }] } := by
  unfold State.planDest at hvalid hspace
  unfold State.blockLin State.planDest at hrows
  have hfaults : lowest (waInvalid (waOf (s.planWord r e 4) (s.planWord r e 5)) ++
      (if spaceOf (waOf (s.planWord r e 4) (s.planWord r e 5)) ≠ .scratch ∧
        spaceOf (waOf (s.planWord r e 4) (s.planWord r e 5)) ≠ .well then [0x307] else [])) = 0 := by
    rw [hvalid, if_neg (by tauto)]; rfl
  simp only [State.writeBlock, hfaults, ne_eq, not_true_eq_false, if_false, hrows]
  cases tags with
  | nil => rfl
  | cons g tags => rfl

/-- A complete block of one node frees its slots and is written (log 160). -/
theorem State.finishBlock_write {e : Nat} {n : Node} (hforward : s.planForward r e = false) :
    s.finishBlock r e [n] m =
      (s.setNodes r ((s.region r).nodes.filter fun k => !k.ofBlock (some e) m)).writeBlock r e n.msg := by
  unfold State.finishBlock
  simp [hforward]

/-! ### An arrival at the endpoint (R242, R243) -/

theorem State.endpointArrival_error (hcode : s.planCheck r (contributionNf m) ≠ 0) :
    s.endpointArrival r m =
      s.reduceError r (contributionNf m) (s.planCheck r (contributionNf m)) (s.planEntry r (contributionNf m)) := by
  unfold State.endpointArrival
  dsimp only
  rw [if_pos hcode]

/-- The nodes of a contribution's block that an entry holds, and the others. -/
def State.heldFor (s : State) (r e : Nat) (k : Msg) : List Node := (s.region r).nodes.filter fun n => n.ofBlock (some e) k
def State.heldElse (s : State) (r e : Nat) (k : Msg) : List Node := (s.region r).nodes.filter fun n => !n.ofBlock (some e) k

/-- A contribution that its entry takes, with a slot free, is held as what it combines to; a block that is then complete is finished. -/
theorem State.endpointArrival_held {k : Msg} {e : Nat} {left : List Node} {c : Msg} (hk : contributionNf m = k)
    (hentry : s.planEntry r k = some e) (hcode : s.planCheck r k = 0) (hslots : (s.region r).nodes.length < 4096)
    (habsorb : absorb (s.heldFor r e k).length (s.heldFor r e k) k = (left, c)) :
    let mine := left ++ [{ place := 21, entry := e, msg := c }]
    let t := s.setNodes r (s.heldElse r e k ++ mine)
    s.endpointArrival r m =
      if (left.map fun n => rdHi n.msg + 1 - rdLo n.msg).sum + (rdHi c + 1 - rdLo c) = s.planHi r e + 1 - s.planLo r e then
        t.finishBlock r e mine c else t := by
  intro mine t
  have hslot : ¬(left.length = (s.heldFor r e k).length ∧ 4096 ≤ (s.region r).nodes.length) := by omega
  have hsum : (mine.map fun n => rdHi n.msg + 1 - rdLo n.msg).sum =
      (left.map fun n => rdHi n.msg + 1 - rdLo n.msg).sum + (rdHi c + 1 - rdLo c) := by simp [mine]
  unfold State.heldFor at habsorb hslot
  unfold State.endpointArrival
  simp only [hk, hcode, ne_eq, not_true_eq_false, if_false, hentry, habsorb, hslot]
  rw [← hsum]
  rfl

theorem Node.ofBlock_congr {a b : Msg} (htensor : rdTensor a = rdTensor b) (hblock : rdBlock a = rdBlock b) (n : Node)
    (entry : Option Nat) :
    n.ofBlock entry a = n.ofBlock entry b := by
  rw [Node.ofBlock, Node.ofBlock, sameBlock, sameBlock, htensor, hblock]

/-- The state in which a complete block is written: its slots are free. -/
def State.completing (s : State) (r e : Nat) (k c : Msg) : State :=
  (s.setNodes r (s.heldElse r e k ++ [{ place := 21, entry := e, msg := c }])).setNodes r (s.heldElse r e k)

theorem State.region_completing (s : State) (r e : Nat) (k c : Msg) :
    (s.completing r e k c).region r =
      { s.region r with nodes := s.heldElse r e k, p1 := ((s.completing r e k c).region r).p1 } := by
  rw [State.completing, State.region_setNodes, State.region_setNodes]

theorem State.p1_completing (s : State) (r e : Nat) (k c : Msg) (q : Nat) {i : Nat} (h : i ≠ 5573) :
    (s.completing r e k c).p1 q i = s.p1 q i :=
  (State.p1_setNodes_other _ _ _ _ h).trans (State.p1_setNodes_other _ _ _ _ h)

theorem State.planWord_completing (s : State) (r e : Nat) (k c : Msg) (j : Nat) :
    (s.completing r e k c).planWord r e j = s.planWord r e j := s.p1_completing r e k c r (by omega)

theorem State.planDest_completing (s : State) (r e : Nat) (k c : Msg) : (s.completing r e k c).planDest r e = s.planDest r e := by
  rw [State.planDest, State.planDest, State.planWord_completing, State.planWord_completing]

theorem State.blockLin_completing (s : State) (r e : Nat) (k c m : Msg) :
    (s.completing r e k c).blockLin r e m = s.blockLin r e m := by
  rw [State.blockLin, State.blockLin, State.planDest_completing, State.planRows, State.planRows, State.planWord_completing]

theorem State.blockFault_completing (s : State) (r e : Nat) (k c : Msg) (dest : WAddr) (lin : Nat) :
    (s.completing r e k c).blockFault dest lin = s.blockFault dest lin :=
  State.blockFault_congr (s := s) (t := s.completing r e k c) rfl rfl (fun q i _ => s.p1_completing r e k c q (by omega)) dest lin

/-- A contribution that completes a block of a write-mode entry: its slots are freed, and it is written. -/
theorem State.endpointArrival_completes {k : Msg} {e : Nat} {c : Msg} (hk : contributionNf m = k)
    (hentry : s.planEntry r k = some e) (hcode : s.planCheck r k = 0) (hslots : (s.region r).nodes.length < 4096)
    (habsorb : absorb (s.heldFor r e k).length (s.heldFor r e k) k = ([], c))
    (hsize : rdHi c + 1 - rdLo c = s.planHi r e + 1 - s.planLo r e) (hforward : s.planForward r e = false) :
    s.endpointArrival r m = (s.completing r e k c).writeBlock r e c := by
  obtain ⟨-, htensor, hblock⟩ := absorb_spec (s.heldFor r e k).length (s.heldFor r e k) k
  rw [habsorb] at htensor hblock
  have hsame := Node.ofBlock_congr htensor hblock
  have hown : Node.ofBlock { place := 21, entry := e, msg := c } (some e) k = true := by
    rw [← hsame]; simp [Node.ofBlock, sameBlock]
  obtain ⟨t, ht⟩ : ∃ t, s.setNodes r (s.heldElse r e k ++ [{ place := 21, entry := e, msg := c }]) = t := ⟨_, rfl⟩
  have hnodes : (t.region r).nodes = s.heldElse r e k ++ [{ place := 21, entry := e, msg := c }] := by
    rw [← ht, State.region_setNodes]
  have hleft : ((t.region r).nodes.filter fun n => !n.ofBlock (some e) c) = s.heldElse r e k := by
    simp [hnodes, hsame, hown, State.heldElse]
  have hmode : t.planForward r e = false := by
    rw [State.planForward, State.planWord, ← ht, State.p1_setNodes_other _ _ _ _ (by omega)]
    exact hforward
  rw [State.endpointArrival_held hk hentry hcode hslots habsorb, if_pos (by simpa using hsize), List.nil_append, ht,
    State.finishBlock_write hmode, hleft, ← ht]
  rfl

/-- A block for the region's own well is written at once, and counts. -/
theorem State.writeBlock_own {e : Nat} (hvalid : waInvalid (s.planDest r e) = []) (hspace : spaceOf (s.planDest r e) = .well)
    (hregion : waWellRegion (s.planDest r e) = r)
    (hfault : ∀ j < m.body.length, s.blockFault (s.planDest r e) (s.blockLin r e m + 64 * j) = 0) :
    let t := s.writeBlock r e m
    let row := s.blockLin r e m / 64
    (∀ g i, (t.well g).rows.get 0 i =
        if g = r ∧ row ≤ i ∧ i < row + m.body.length then m.body.getD (i - row) 0 else (s.well g).rows.get 0 i) ∧
      (t.region r).nodes = (s.region r).nodes ∧ (t.region r).heldIn = (s.region r).heldIn ∧
      field (t.p1 r 15369) 0 24 = min (field (s.p1 r 15369) 0 24 + 1) (2 ^ 24 - 1) ∧ t.units = s.units := by
  intro t row
  obtain ⟨v, hrows, honly, hwritten⟩ := State.blockRows_own hspace hregion (field (s.planWord r e 5) 17 1 == 1) m.nf m.body s
    (s.blockLin r e m) hfault
  have ht : t = v.blockCounted r m.nf := (State.writeBlock_eq hvalid (.inr hspace) hrows).trans (if_pos rfl)
  have hkept : v.region r = s.region r := by rw [honly]; rfl
  have hp1 : v.p1 r 15369 = s.p1 r 15369 := by rw [honly]; rfl
  refine ⟨fun g i => ?_, ?_, ?_, ?_, ?_⟩
  · rw [ht, State.well, State.blockCounted_wells]; exact hwritten g i
  · rw [ht, State.region_blockCounted (g := Region.nodes) fun _ _ => rfl, hkept]
  · rw [ht, State.region_blockCounted (g := Region.heldIn) fun _ _ => rfl, hkept]
  · rw [ht, State.blocksDone_blockCounted, hp1]
  · rw [ht, State.blockCounted_units, honly]

/-- A block for another well or a scratchpad leaves by requests, and waits for their answers. -/
theorem State.writeBlock_sent {e : Nat} (hvalid : waInvalid (s.planDest r e) = [])
    (hremote : spaceOf (s.planDest r e) = .scratch ∨ spaceOf (s.planDest r e) = .well ∧ waWellRegion (s.planDest r e) ≠ r)
    (hfault : ∀ j < m.body.length, s.blockFault (s.planDest r e) (s.blockLin r e m + 64 * j) = 0) (hbody : m.body ≠ []) :
    let t := s.writeBlock r e m
    ∃ tags as, (t.region r).nodes = (s.region r).nodes ∧ (t.region r).heldIn = (s.region r).heldIn ∧
      (t.region r).writing = (s.region r).writing ++ [{ entry := e, msg := m, tags := tags }] ∧ tags.length = m.body.length ∧
      as.length = m.body.length ∧ t.net = s.net ++ as ∧
      (∀ (j : Nat) (b : Row) (g : Nat), m.body[j]? = some b → tags[j]? = some g →
        ∃ a ∈ as, blockRequest (s.planDest r e) m.nf (s.blockLin r e m + 64 * j) b g a) ∧
      t.p1 r 15369 = s.p1 r 15369 ∧ t.units = s.units ∧ t.wells = s.wells := by
  intro t
  obtain ⟨v, tags, as, hrows, htags, has, honly, hkept, hrequests⟩ :=
    State.blockRows_sent hremote (field (s.planWord r e 5) 17 1 == 1) m.nf m.body s (s.blockLin r e m) hfault
  have hne : tags ≠ [] := by
    rintro rfl
    exact hbody (List.eq_nil_of_length_eq_zero htags.symm)
  have ht : t = v.updRegion r fun x => { x with writing := x.writing ++ [{ entry := e, msg := m, tags := tags }] } :=
    (State.writeBlock_eq hvalid (hremote.imp_right And.left) hrows).trans (if_neg hne)
  have hregion : t.region r =
      { s.region r with
        wtag := (v.region r).wtag, writing := (s.region r).writing ++ [{ entry := e, msg := m, tags := tags }] } := by
    rw [ht, State.region_updRegion_same, hkept]
  refine ⟨tags, as, by rw [hregion], by rw [hregion], by rw [hregion], htags, has, ?_, hrequests, ?_, ?_, ?_⟩
  · rw [ht, State.updRegion_net, honly]
  · rw [State.p1, State.p1, hregion]
  · rw [ht, State.updRegion_units, honly]
  · rw [ht, State.updRegion_wells, honly]

/-! ### What the endpoint comes to (R242) -/

section Endpoint

variable {k : Msg} {e : Nat} {left : List Node} {c : Msg} (hk : contributionNf m = k) (hentry : s.planEntry r k = some e)
  (hcode : s.planCheck r k = 0) (hslots : (s.region r).nodes.length < 4096)

include hk hentry hcode hslots

/-- A contribution that completes no block is held, combined with its siblings. -/
theorem State.endpointArrival_open (habsorb : absorb (s.heldFor r e k).length (s.heldFor r e k) k = (left, c))
    (hopen : (left.map fun n => rdHi n.msg + 1 - rdLo n.msg).sum + (rdHi c + 1 - rdLo c) ≠ s.planHi r e + 1 - s.planLo r e) :
    let t := s.endpointArrival r m
    (t.region r).heldIn = (s.region r).heldIn ∧ t.net = s.net ∧
      (t.region r).nodes = s.heldElse r e k ++ (left ++ [{ place := 21, entry := e, msg := c }]) ∧
      field (t.p1 r 5573) 23 13 = (t.region r).nodes.length ∧ t.units = s.units ∧ t.wells = s.wells := by
  intro t
  obtain ⟨ns, hns⟩ : ∃ ns, s.heldElse r e k ++ (left ++ [{ place := 21, entry := e, msg := c }]) = ns := ⟨_, rfl⟩
  have hlength : ns.length < 2 ^ 13 := by
    have hleft : left.length ≤ (s.heldFor r e k).length := by
      have h := (absorb_spec (s.heldFor r e k).length (s.heldFor r e k) k).1
      rwa [habsorb] at h
    have hparts : (s.region r).nodes.length = (s.heldFor r e k).length + (s.heldElse r e k).length :=
      List.length_eq_length_filter_add _
    rw [← hns, List.length_append, List.length_append, List.length_singleton]
    omega
  have ht : t = s.setNodes r ns := hns ▸ (State.endpointArrival_held hk hentry hcode hslots habsorb).trans (if_neg hopen)
  have hregion := s.region_setNodes r ns
  rw [ht, hns]
  refine ⟨by rw [hregion], rfl, by rw [hregion], ?_, rfl, rfl⟩
  rw [s.field_setNodes r hlength, hregion]

variable (habsorb : absorb (s.heldFor r e k).length (s.heldFor r e k) k = ([], c))
  (hsize : rdHi c + 1 - rdLo c = s.planHi r e + 1 - s.planLo r e) (hforward : s.planForward r e = false)
  (hvalid : waInvalid (s.planDest r e) = [])
  (hfault : ∀ j < c.body.length, s.blockFault (s.planDest r e) (s.blockLin r e c + 64 * j) = 0)

include habsorb hsize hforward hvalid hfault

/-- One that completes a block for the region's own well has it written and counted. -/
theorem State.endpointArrival_own (hspace : spaceOf (s.planDest r e) = .well) (hregion : waWellRegion (s.planDest r e) = r) :
    let t := s.endpointArrival r m
    let row := s.blockLin r e c / 64
    (t.region r).heldIn = (s.region r).heldIn ∧
      (∀ g i, (t.well g).rows.get 0 i =
        if g = r ∧ row ≤ i ∧ i < row + c.body.length then c.body.getD (i - row) 0 else (s.well g).rows.get 0 i) ∧
      (t.region r).nodes = s.heldElse r e k ∧
      field (t.p1 r 15369) 0 24 = min (field (s.p1 r 15369) 0 24 + 1) (2 ^ 24 - 1) ∧ t.units = s.units := by
  have hdest := s.planDest_completing r e k c
  have hlin := s.blockLin_completing r e k c c
  have hkept := s.region_completing r e k c
  rw [State.endpointArrival_completes hk hentry hcode hslots habsorb hsize hforward]
  obtain ⟨hrows, hnodes, hheld, hcount, hunits⟩ := State.writeBlock_own (s := s.completing r e k c) (m := c) (hdest ▸ hvalid)
    (hdest ▸ hspace) (hdest ▸ hregion) fun j hj => by
      rw [hdest, hlin, State.blockFault_completing]
      exact hfault j hj
  rw [hlin] at hrows
  rw [s.p1_completing r e k c r (by decide)] at hcount
  exact ⟨hheld.trans (by rw [hkept]), hrows, hnodes.trans (by rw [hkept]), hcount, hunits⟩

/-- One that completes a block for another well or a scratchpad has its rows sent there. -/
theorem State.endpointArrival_sent
    (hremote : spaceOf (s.planDest r e) = .scratch ∨ spaceOf (s.planDest r e) = .well ∧ waWellRegion (s.planDest r e) ≠ r)
    (hbody : c.body ≠ []) :
    let t := s.endpointArrival r m
    (t.region r).heldIn = (s.region r).heldIn ∧ ∃ tags as, (t.region r).nodes = s.heldElse r e k ∧
      (t.region r).writing = (s.region r).writing ++ [{ entry := e, msg := c, tags := tags }] ∧ tags.length = c.body.length ∧
      as.length = c.body.length ∧ t.net = s.net ++ as ∧
      (∀ (j : Nat) (b : Row) (g : Nat), c.body[j]? = some b → tags[j]? = some g →
        ∃ a ∈ as, blockRequest (s.planDest r e) c.nf (s.blockLin r e c + 64 * j) b g a) ∧
      t.p1 r 15369 = s.p1 r 15369 ∧ t.units = s.units ∧ t.wells = s.wells := by
  have hdest := s.planDest_completing r e k c
  have hlin := s.blockLin_completing r e k c c
  have hkept := s.region_completing r e k c
  rw [State.endpointArrival_completes hk hentry hcode hslots habsorb hsize hforward]
  obtain ⟨tags, as, hnodes, hheld, hwriting, htags, has, hnet, hrequests, hcount, hunits, hwells⟩ :=
    State.writeBlock_sent (s := s.completing r e k c) (m := c) (hdest ▸ hvalid) (hdest ▸ hremote) (fun j hj => by
      rw [hdest, hlin, State.blockFault_completing]
      exact hfault j hj) hbody
  rw [hdest, hlin] at hrequests
  exact ⟨hheld.trans (by rw [hkept]), tags, as, hnodes.trans (by rw [hkept]), hwriting.trans (by rw [hkept]), htags, has, hnet,
    hrequests, hcount.trans (s.p1_completing r e k c r (by decide)), hunits, hwells⟩

end Endpoint

/-! ### Answers to the endpoint's writes (R242) -/

/-- The last answer of a block counts it. -/
theorem State.blockAnswer_last {tag : Nat} {w : BlockWrite} {l l' : List BlockWrite} (hwriting : (s.region r).writing = l ++ w :: l')
    (hfirst : ∀ k ∈ l, tag ∉ k.tags) (hw : w ∉ l) (htags : w.tags = [tag]) :
    s.blockAnswer r tag 0 = (s.updRegion r fun x => { x with writing := l ++ l' }).blockCounted r w.msg.nf := by
  have hfind : (s.region r).writing.find? (fun k => k.tags.contains tag) = some w := by
    rw [hwriting, List.find?_append, List.find?_eq_none.mpr (by simpa using hfirst)]
    simp [htags]
  have herase : (s.region r).writing.erase w = l ++ l' := by
    rw [hwriting, List.erase_append_right _ hw, List.erase_cons_head]
  have hleft : w.tags.erase tag = [] := by rw [htags, List.erase_cons_head]
  rw [State.blockAnswer, hfind]
  simp only [ne_eq, not_true_eq_false, if_false, hleft, if_true, herase]

theorem exec_writeAcknowledgement (h : s.delivered m) (htype : m.type = 3) (hkind : m.dstKind = 2) :
    exec (.writeAcknowledgement m []) s = .next ((s.taken m).blockAnswer m.dstRegion m.tag.toNat 0) := by
  have he : exec (.writeAcknowledgement m []) s = execWriteAcknowledgement m [] s := rfl
  rw [he, execWriteAcknowledgement, if_pos htype, onMsg_arrive h (by simp [hkind])]
  simp [hkind]

/-- A contribution at its endpoint, where no arrival waits for a slot when it is done. -/
theorem exec_endpointContribution (h : s.delivered m) (hsent : s.contribution m = m) (htype : m.type = 16) (hkind : m.dstKind = 2)
    (hheld : (((s.taken m).endpointArrival m.dstRegion m).region m.dstRegion).heldIn = []) :
    exec (.reductionContribution .endpoint m []) s = .next ((s.taken m).endpointArrival m.dstRegion m) := by
  have he : exec (.reductionContribution .endpoint m []) s = execReductionContribution .endpoint m [] s := rfl
  have hstep := onMsg_arrive h (by simp [hkind]) fun t => t.endpointContribution m
  rw [he]
  simp only [execReductionContribution, hsent, htype, ne_eq, not_true_eq_false, if_false]
  rw [hstep, State.endpointContribution, if_neg (by simp [hkind]), if_pos hkind]
  exact congrArg _ (if_pos hheld)

/-! ### The statement -/

/-- Settles O39, clause by clause: what a contribution is sent with, the buffers of its path, its endpoint, and the answers to the
endpoint's writes. -/
theorem reductionContributions : Obligations.ReductionContributions := by
  refine ⟨?sent, ?router, ?window, ?endpoint, ?answer⟩
  case sent =>
    intro s p m flits
    refine ⟨exec_reductionContribution_eq p m flits s, fun hkind hnet => ?_, fun h => State.contribution_of_sent h⟩
    rw [State.contribution_of_unit (by tauto), State.contributedCells, List.map_map]
    rfl
  case router =>
    intro s r place m p site hplace hsent hok hnext htype hphase hport hreach here used
    have hbuffer : isBuffer p r place := by
      rcases hplace with ⟨hp, -, hplace, hr⟩ | ⟨c, hp, -, hc, hr, hplace⟩
      · exact .inl ⟨hp, hplace, hr⟩
      · exact .inr ⟨c, hp, hc, hr, hplace⟩
    have hsite : site = bufferSite r place := by
      rcases hplace with ⟨-, hsite, rfl, -⟩ | ⟨c, -, hsite, -, rfl, rfl⟩
      · exact hsite
      · rw [hsite, bufferSite, if_pos (Nat.mod_lt _ (by decide)), Nat.div_add_mod]
    rw [hsite] at hport
    refine ⟨fun hwindow halone hroom => ?_, fun hempty hpass => ?_, fun n hheld hmay hwindow hroom => ?_⟩
    · exact ⟨_, exec_routerContribution_alone hbuffer hsent hok hnext htype hphase hport hreach hwindow halone hroom, rfl,
        State.withCombine_combine .., rfl⟩
    · exact ⟨_, exec_routerContribution_passes hbuffer hsent hok hnext htype hphase hport hreach hempty hpass, rfl,
        State.withCombine_combine .., rfl⟩
    · exact ⟨_, exec_routerContribution_sibling hbuffer hsent hok hnext htype hphase hport hreach hheld hmay hwindow hroom, rfl,
        State.withCombine_combine ..⟩
  case window =>
    intro s r place i p n hbuffer hn
    exact ⟨_, (exec_holdWindowEnd hbuffer i).trans (congrArg _ (State.windowEnd_eq hn)), rfl, State.withCombine_combine .., rfl⟩
  case endpoint =>
    intro s m h hsent htype hkind hheld r s0 k
    have hexec := exec_endpointContribution h hsent htype hkind
    refine ⟨fun e hentry hcode hslots => ?taken, fun code hcode hne => ?error⟩
    case taken =>
      intro held others c left
      have habsorb : absorb (s0.heldFor r e k).length (s0.heldFor r e k) k = (left, c) := rfl
      clear_value left c
      constructor
      · intro hopen
        obtain ⟨hin, hend⟩ := State.endpointArrival_open (s := s0) rfl hentry hcode hslots habsorb hopen
        exact ⟨_, hexec (hin.trans hheld), hend⟩
      · rintro rfl hsize hforward dest lin hvalid hfault
        have hlin : lin = s0.blockLin r e c := rfl
        clear_value lin
        subst hlin
        refine ⟨fun hspace hown => ?own, fun hremote hbody => ?sent⟩
        case own =>
          obtain ⟨hin, hend⟩ := State.endpointArrival_own (s := s0) rfl hentry hcode hslots habsorb hsize hforward hvalid hfault hspace hown
          exact ⟨_, hexec (hin.trans hheld), hend⟩
        case sent =>
          obtain ⟨hin, tags, as, hnodes, hwriting, htags, has, hnet, hrequests, hend⟩ :=
            State.endpointArrival_sent (s := s0) rfl hentry hcode hslots habsorb hsize hforward hvalid hfault hremote hbody
          refine ⟨_, _, hexec (hin.trans hheld), hnodes, hwriting, rfl, rfl, htags, ?_, fun j b g hb hg => ?_, hend⟩
          · rw [hnet, List.length_append, has]
            rfl
          · obtain ⟨a, ha, hrequest⟩ := hrequests j b g hb hg
            exact ⟨a, by rw [hnet]; exact List.mem_append_right _ ha, hrequest⟩
    case error =>
      have hstep : s0.endpointArrival r m = s0.reduceError r k code (s0.planEntry r k) := by
        rw [← hcode]
        exact State.endpointArrival_error (hcode.trans_ne hne)
      obtain ⟨hnodes, hin, hword, hvalid, hentry, hend⟩ := s0.reduceError_spec r k (hcode ▸ s0.planCheck_lt r k) (s0.planEntry r k)
      rw [hstep] at hexec
      exact ⟨_, hexec (hin.trans hheld), hnodes, hword, hvalid, fun e he => hentry e (State.planEntry_lt he) he, hend⟩
  case answer =>
    intro s m w l l' h htype hkind r hwriting hfirst hw htags
    have hexec := exec_writeAcknowledgement h htype hkind
    rw [State.blockAnswer_last (s := s.taken m) hwriting hfirst hw htags] at hexec
    refine ⟨_, hexec, ?_, ?_, ?_, ?_⟩
    · rw [State.region_blockCounted (g := Region.writing) fun _ _ => rfl, State.region_updRegion_same]
    · rw [State.blocksDone_blockCounted, State.updRegion_p1 _ _ fun _ => by rfl]
      rfl
    · exact State.blockCounted_units ..
    · exact State.blockCounted_net ..

end Sys2Proof.Machine

/-! PROOFS. Reads of a well: what the checks of their codewords leave, and what a codeword with an error records (R249 to R251, R258, R350). -/

namespace Sys2Proof.Machine

variable {s t v : State} {but : Nat → Bool} {r c : Nat}

/-! ### A record that stands in its ring -/

/-- What a ring took stands while its registers do. -/
theorem tookRecord.of_end {code subject : Nat} {detail : Word} (h : tookRecord r code subject detail s t)
    (hp : ∀ i, ringIndex i = true → v.p1 r i = t.p1 r i) : tookRecord r code subject detail s v := by
  have hslot := s.ringSlot_lt r
  have hring (k : Nat) (hk : k < 4) : ringIndex (5632 + 4 * s.ringSlot r + k) = true := by simp [ringIndex]; omega
  have hnext : v.ringSlot r = t.ringSlot r := congrArg (field · 0 7) (hp 5574 (by decide))
  obtain ⟨hcode, hsubject, hsrc, hvalid, hstep, hdetail, hslot'⟩ := h
  have hhead := hp _ (hring 0 (by decide))
  exact ⟨hhead ▸ hcode, hhead ▸ hsubject, hhead ▸ hsrc, hhead ▸ hvalid, (hp _ (hring 1 (by decide))).trans hstep,
    (hp _ (hring 3 (by decide))).trans hdetail, hnext.trans hslot'⟩

/-- An event with a word as its detail changes page 1 in its region's ring alone. -/
theorem State.raise_word (s : State) (r : Nat) {code subject : Nat} (w : Word) (hcode : code < 4096) (hsubject : subject < 16384) :
    let t := s.raise r code subject w.toNat
    tookRecord r code subject w s t ∧ sameP1But r ringIndex s t := by
  have h := s.raise_tookRecord r code subject w.toNat
  rw [Nat.mod_eq_of_lt hcode, Nat.mod_eq_of_lt hsubject, wd, BitVec.ofNat_toNat, BitVec.setWidth_eq] at h
  exact ⟨h, fun _ _ hi => s.raise_p1_other ((not_and_or.mp hi).imp_right Bool.eq_false_iff.mpr)⟩

/-- The event carries a word that it leaves as it is. -/
theorem State.raise_tookWord (s : State) (r : Nat) {code subject i : Nat} (hcode : code < 4096) (hsubject : subject < 16384)
    (hi : ringIndex i = false) :
    let t := s.raise r code subject (s.p1 r i).toNat
    t.p1 r i = s.p1 r i ∧ tookRecord r code subject (s.p1 r i) s t :=
  ⟨s.raise_p1_other (.inr hi), (s.raise_word r (s.p1 r i) hcode hsubject).1⟩

/-! ### What upkeep leaves -/

/-- What the upkeep of a well leaves: units, messages, the sequencer's phase, every page 1 register but those of `but`, and of each well
all but the corrections that it counts and is to verify. -/
structure State.upkeep (but : Nat → Bool) (s t : State) : Prop where
  units : t.units = s.units
  net : t.net = s.net
  phase : t.seq.phase = s.seq.phase
  p1 : ∀ r i, but i = false → t.p1 r i = s.p1 r i
  well : ∀ k, t.well k = { s.well k with passCorr := (t.well k).passCorr, verify := (t.well k).verify }

theorem State.upkeep_refl : s.upkeep but s := ⟨rfl, rfl, rfl, fun _ _ _ => rfl, fun _ => rfl⟩

namespace State.upkeep

theorem trans (h : s.upkeep but t) (k : t.upkeep but v) : s.upkeep but v where
  units := k.units.trans h.units
  net := k.net.trans h.net
  phase := k.phase.trans h.phase
  p1 r i hi := (k.p1 r i hi).trans (h.p1 r i hi)
  well j := (k.well j).trans (by rw [h.well j])

theorem mono {but' : Nat → Bool} (h : s.upkeep but t) (hb : ∀ i, but i = true → but' i = true) : s.upkeep but' t :=
  { h with p1 := fun r i hi => h.p1 r i (Bool.eq_false_iff.mpr fun e => Bool.eq_false_iff.mp hi (hb i e)) }

/-- A fold of operations that each leave this and also tell something. -/
theorem foldFst {α β : Type} {f : State × β → α → State × β} (l : List α) {p : State × β} (h : s.upkeep but p.1)
    (hf : ∀ (p : State × β) (a : α), p.1.upkeep but (f p a).1) : s.upkeep but (l.foldl f p).1 :=
  List.foldlRecOn (motive := fun p => s.upkeep but p.1) l f h fun p hp a _ => hp.trans (hf p a)

theorem setP1 (h : s.upkeep but t) (r : Nat) {i : Nat} (w : Word) (hi : but i = true) : s.upkeep but (t.setP1 r i w) :=
  h.trans ⟨rfl, rfl, rfl, fun _ j hj => t.p1_setP1_other w (.inr fun e => by rw [e, hi] at hj; cases hj), fun _ => rfl⟩

theorem updP1 (h : s.upkeep but t) (r : Nat) {i : Nat} (f : Word → Word) (hi : but i = true) : s.upkeep but (t.updP1 r i f) :=
  h.setP1 r _ hi

theorem seeP1 (h : s.upkeep but t) (r : Nat) {i : Nat} (b : Nat) (hi : but i = true) : s.upkeep but (t.seeP1 r i b) :=
  h.setP1 r _ hi

theorem report (h : s.upkeep but t) (k : Cause) : s.upkeep but (t.report k) :=
  ⟨h.units, h.net, h.phase, h.p1, h.well⟩

theorem mgmt (h : s.upkeep but t) (m : Mgmt) : s.upkeep but { t with mgmt := m } :=
  ⟨h.units, h.net, h.phase, h.p1, h.well⟩

theorem note (h : s.upkeep but t) (sub : Nat) (items : List Nat) : s.upkeep but (t.note sub items) := h.mgmt _

theorem raise (h : s.upkeep but t) (r code subject detail : Nat) (hb : ∀ i, ringIndex i = true → but i = true) :
    s.upkeep but (t.raise r code subject detail) := by
  refine h.trans ⟨State.raise_units .., State.raise_net .., congrArg Sequencer.phase (State.raise_seq ..), fun q i hi => ?_, fun k => ?_⟩
  · exact t.raise_p1_other (.inr (Bool.eq_false_iff.mpr fun e => Bool.eq_false_iff.mp hi (hb i e)))
  · rw [State.well, State.raise_wells]; rfl

theorem updWell (h : s.upkeep but t) (r : Nat) {f : Well → Well}
    (hf : ∀ x, f x = { x with passCorr := (f x).passCorr, verify := (f x).verify }) : s.upkeep but (t.updWell r f) := by
  refine h.trans ⟨rfl, rfl, rfl, fun _ _ _ => rfl, fun k => ?_⟩
  by_cases e : k = r
  · subst e; rw [State.well_updWell_same]; exact hf _
  · rw [State.well_updWell_other _ _ e]

end State.upkeep

/-! ### Channel words, and what a check writes of page 1 -/

theorem chanIdx_not_ring {k : Nat} (hc : c < 16) (hk : k < 2) : ringIndex (chanIdx c k) = false :=
  Bool.or_eq_false_iff.mpr ⟨decide_eq_false (by unfold chanIdx; omega), decide_eq_false (by unfold chanIdx; omega)⟩

theorem burstChannel_lt (b : Nat) : burstChannel b < 16 := Nat.mod_lt b (by decide)

/-- The words of a region's tests, and its ring (R348). -/
def testIndex (i : Nat) : Bool := decide (81 ≤ i ∧ i ≤ 83) || ringIndex i

/-- The words of a region's ring, of the latest error of its well, and of the channels' counts (R250, R251). -/
def eccIndex (i : Nat) : Bool := ringIndex i || decide (14352 ≤ i ∧ i ≤ 14384 ∧ i % 2 = 0)

/-- What the check of a well's read may write. -/
def checkIndex (i : Nat) : Bool := testIndex i || decide (14352 ≤ i ∧ i ≤ 14384)

theorem testIndex_of_ring (i : Nat) (h : ringIndex i = true) : testIndex i = true := Bool.or_eq_true_iff.mpr (.inr h)
theorem eccIndex_of_ring (i : Nat) (h : ringIndex i = true) : eccIndex i = true := Bool.or_eq_true_iff.mpr (.inl h)
theorem checkIndex_of_test (i : Nat) (h : testIndex i = true) : checkIndex i = true := Bool.or_eq_true_iff.mpr (.inl h)

theorem checkIndex_of_ecc (i : Nat) (h : eccIndex i = true) : checkIndex i = true := by
  simp only [eccIndex, checkIndex, testIndex, Bool.or_eq_true, decide_eq_true_eq] at *
  exact h.elim (fun h => .inl (.inr h)) fun h => .inr (by omega)

theorem eccIndex_chan (hc : c < 16) : eccIndex (chanIdx c 0) = true :=
  Bool.or_eq_true_iff.mpr (.inr (decide_eq_true (by unfold chanIdx; omega)))

theorem checkIndex_chan {k : Nat} (hc : c < 16) (hk : k < 2) : checkIndex (chanIdx c k) = true :=
  Bool.or_eq_true_iff.mpr (.inr (decide_eq_true (by unfold chanIdx; omega)))

/-! ### The codewords of a burst (R249) -/

/-- What one codeword shows, and whether all before it could be read too. -/
def State.wellStep (r b : Nat) (p : State × Bool) (x : Ecc × Nat) : State × Bool :=
  ((p.1.wellWord r b x.2 x.1).1, p.2 && (p.1.wellWord r b x.2 x.1).2)

/-- What the burst's codewords tell about one that an earlier read corrected. -/
def cleanIn (es : List Ecc) (bit : Nat) : Bool := (es.getD (bit / 72) .clean).ofData == .clean

theorem State.wellBurst_eq (s : State) (r b : Nat) (es : List Ecc) :
    s.wellBurst r b es = es.zipIdx.foldl (State.wellStep r b) (s.wellVerified r b (cleanIn es), true) := rfl

/-! ### One codeword with an error (R250, R251) -/

/-- An error in burst `b` is counted in a field of its channel's word, seen and raised. -/
def State.eccEvent (s : State) (r b lo len seen code : Nat) (uncorr : Bool) : State :=
  let c := burstChannel b
  let s1 := ((s.updP1 r (chanIdx c 0) fun w => bumpField w lo len).seeP1 r (chanIdx c 0) seen).lastErr r b uncorr
  s1.raise r code c (s1.p1 r 14384).toNat

theorem State.wellFixed_eq (s : State) (r b : Nat) : s.wellFixed r b = (s.eccEvent r b 0 24 32 0x027 false).updWell r fun x =>
    { x with passCorr := x.passCorr.upd 0 (burstChannel b) (· + 1) } := rfl

theorem State.wellLost_eq (s : State) (r b : Nat) : s.wellLost r b = s.eccEvent r b 24 8 33 0x227 true := rfl

theorem State.eccEvent_spec (s : State) (r b lo len seen : Nat) {code : Nat} (uncorr : Bool) (hcode : code < 4096) :
    let t := s.eccEvent r b lo len seen code uncorr
    let w := wd (b % 2 ^ 30 + uncorr.toNat * 2 ^ 30 + 2 ^ 31)
    t.p1 r (chanIdx (burstChannel b) 0) = putField (bumpField (s.p1 r (chanIdx (burstChannel b) 0)) lo len) seen 1 1 ∧
      t.p1 r 14384 = w ∧ tookRecord r code (burstChannel b) w s t ∧ t.seq = s.seq ∧ t.wells = s.wells := by
  have hc := burstChannel_lt b
  have hne : chanIdx (burstChannel b) 0 ≠ 14384 := by unfold chanIdx; omega
  extract_lets t w
  obtain ⟨s1, hs1⟩ : ∃ s1, ((s.updP1 r (chanIdx (burstChannel b) 0) fun w => bumpField w lo len).seeP1 r
    (chanIdx (burstChannel b) 0) seen).lastErr r b uncorr = s1 := ⟨_, rfl⟩
  have hseq : s1.seq = s.seq := by rw [← hs1, State.lastErr, State.setP1_seq, State.seeP1_seq, State.updP1_seq]
  have ht : t = s1.raise r code (burstChannel b) (s1.p1 r 14384).toNat := by rw [← hs1]; rfl
  have hw : s1.p1 r 14384 = w := by rw [← hs1]; exact State.p1_setP1_same ..
  obtain ⟨hword, htook⟩ := s1.raise_tookWord r (i := 14384) hcode (show burstChannel b < 16384 by omega) (by decide)
  rw [← ht, hw] at hword htook
  refine ⟨?count, hword, htook.of_start ?ring hseq, ?seq, ?wells⟩
  case count =>
    rw [ht, State.raise_p1_other _ (.inr (chanIdx_not_ring hc (by decide))), ← hs1, State.lastErr, State.p1_setP1_other _ _ (.inr hne),
      State.seeP1, State.p1_updP1_same, State.p1_updP1_same]
  case ring =>
    have h : 5574 ≠ chanIdx (burstChannel b) 0 := by unfold chanIdx; omega
    rw [← hs1, State.lastErr, State.p1_setP1_other _ _ (.inr (by decide)), State.p1_seeP1_other _ (.inr h),
      State.p1_updP1_other _ _ (.inr h)]
  case seq => rw [ht, State.raise_seq, hseq]
  case wells => rw [ht, State.raise_wells, ← hs1, State.lastErr, State.setP1_wells, State.seeP1_wells, State.updP1_wells]

namespace State.upkeep

theorem eccEvent (h : s.upkeep but t) (r b lo len seen code : Nat) (uncorr : Bool) (hb : ∀ i, eccIndex i = true → but i = true) :
    s.upkeep but (t.eccEvent r b lo len seen code uncorr) := by
  have hi := hb _ (eccIndex_chan (burstChannel_lt b))
  exact (((h.updP1 r _ hi).seeP1 r seen hi).setP1 r _ (hb 14384 (by decide))).raise _ _ _ _ fun i k => hb i (eccIndex_of_ring i k)

theorem wellFixed (h : s.upkeep but t) (r b : Nat) (hb : ∀ i, eccIndex i = true → but i = true) :
    s.upkeep but (t.wellFixed r b) :=
  (h.eccEvent r b 0 24 32 0x027 false hb).updWell r
    (f := fun x => { x with passCorr := x.passCorr.upd 0 (burstChannel b) (· + 1) }) fun _ => rfl

theorem wellLost (h : s.upkeep but t) (r b : Nat) (hb : ∀ i, eccIndex i = true → but i = true) :
    s.upkeep but (t.wellLost r b) :=
  h.eccEvent r b 24 8 33 0x227 true hb

theorem startScrub (h : s.upkeep checkIndex t) (r b : Nat) : s.upkeep checkIndex (t.startScrub r (burstChannel b)) :=
  h.seeP1 r 11 (checkIndex_chan (burstChannel_lt b) (by decide))

/-- A test's result is counted, raised and noted (R348). -/
theorem recordTest (h : s.upkeep but t) (k : TestTarget) (pass : Bool) (hb : ∀ i, testIndex i = true → but i = true) :
    s.upkeep but (t.recordTest k pass) := by
  have hring (i : Nat) (hi : ringIndex i = true) := hb i (testIndex_of_ring i hi)
  have htest : s.upkeep but (t.testWord k pass) := h.setP1 _ _ (hb 81 (by decide))
  cases pass with
  | true =>
    simp only [State.recordTest, if_true]
    exact ((((htest.updP1 _ _ (hb 82 (by decide))).seeP1 _ _ (hb 83 (by decide))).raise _ _ _ _ hring).mgmt _).note _ _
  | false =>
    simp only [State.recordTest, Bool.false_eq_true, if_false]
    exact (((htest.updP1 _ _ (hb 82 (by decide))).seeP1 _ _ (hb 83 (by decide))).raise _ _ _ _ hring).note _ _

theorem lastingBurst (h : s.upkeep checkIndex t) (r b : Nat) : s.upkeep checkIndex (t.lastingBurst r b) :=
  ((((((h.setP1 _ _ (by decide)).updP1 _ _ (by decide)).seeP1 _ _ (by decide)).raise _ _ _ _ fun i hi =>
    checkIndex_of_test i (testIndex_of_ring i hi)).note _ _).startScrub r b)

theorem wellCorrected (h : s.upkeep checkIndex t) (r b bit : Nat) : s.upkeep checkIndex (t.wellCorrected r b bit) := by
  have hfixed := (h.wellFixed r b checkIndex_of_ecc).updWell r (f := fun x => { x with
    verify := (x.verify.filter fun v => v.1 != b || v.2 / 72 != bit / 72) ++ [(b, bit)] }) fun _ => rfl
  unfold State.wellCorrected
  extract_lets c s2 n again s3 s4
  have hs4 : s.upkeep checkIndex s4 := by
    show s.upkeep checkIndex (if _ then _ else _)
    split
    · exact hfixed.lastingBurst r b
    · exact hfixed
  split
  · exact hs4.startScrub r b
  · exact hs4

theorem wellFailed (h : s.upkeep checkIndex t) (r b : Nat) : s.upkeep checkIndex (t.wellFailed r b) :=
  ((h.wellLost r b checkIndex_of_ecc).startScrub r b).report _

theorem wellVerified (h : s.upkeep checkIndex t) (r b : Nat) (clean : Nat → Bool) : s.upkeep checkIndex (t.wellVerified r b clean) := by
  have hfound := h.updWell r (f := fun x => { x with verify := x.verify.filter fun v => !(v.1 == b && clean v.2) }) fun _ => rfl
  unfold State.wellVerified
  split
  · dsimp only
    split
    · exact hfound.lastingBurst r b
    · exact hfound.recordTest _ _ checkIndex_of_test
  · exact h

theorem wellWord (h : s.upkeep checkIndex t) (r b k : Nat) (e : Ecc) : s.upkeep checkIndex (t.wellWord r b k e).1 := by
  unfold State.wellWord
  split <;> dsimp only
  · exact h.wellCorrected ..
  · exact h.wellFailed ..
  · exact h

theorem wellBurst (h : s.upkeep checkIndex t) (r b : Nat) (es : List Ecc) : s.upkeep checkIndex (t.wellBurst r b es).1 := by
  rw [State.wellBurst_eq]
  exact foldFst (p := (_, true)) _ (h.wellVerified r b _) fun _ _ => upkeep_refl.wellWord ..

theorem wellCheck (h : s.upkeep checkIndex t) (r : Nat) (bs : List Nat) (errs : Errs) (i : Nat) :
    s.upkeep checkIndex (t.wellCheck r bs errs i).1 :=
  foldFst (p := (_, true)) _ h fun _ _ => upkeep_refl.wellBurst ..

/-- The rows of a well stand. -/
theorem rows (h : s.upkeep but t) (k : Nat) : (t.well k).rows = (s.well k).rows := by rw [h.well k]

end State.upkeep

/-! ### Reads of bursts (R249) -/

theorem State.wellWord_corrected (s : State) (r b k bit : Nat) :
    (s.wellWord r b k (.corrected bit)).1 = s.wellCorrected r b (72 * k + bit % 72) := by
  simp only [State.wellWord, Ecc.ofData]

theorem State.wellWord_uncorrectable (s : State) (r b k : Nat) : (s.wellWord r b k .uncorrectable).1 = s.wellFailed r b := by
  simp only [State.wellWord, Ecc.ofData]

theorem State.foldl_wellStep_clean (r b n i : Nat) (p : State × Bool) :
    ((List.replicate n Ecc.clean).zipIdx i).foldl (State.wellStep r b) p = p := by
  induction n generalizing i with
  | zero => rfl
  | succ n ih =>
    have hstep : State.wellStep r b p (.clean, i) = p := Prod.ext rfl (Bool.and_true _)
    rw [List.replicate_succ, List.zipIdx_cons, List.foldl_cons, hstep, ih]

/-- A burst that is clean. -/
theorem State.wellBurst_clean (s : State) (r b : Nat) : (s.wellBurst r b (List.replicate 8 .clean)).2 = true := by
  rw [State.wellBurst_eq, State.foldl_wellStep_clean]

/-- A burst of whose codewords one is in error, and which has nothing to verify. -/
theorem State.wellBurst_one {b k : Nat} {e : Ecc} (n : Nat) (hv : ∀ v ∈ (s.well r).verify, v.1 ≠ b) :
    (s.wellBurst r b (List.replicate k .clean ++ e :: List.replicate n .clean)).1 = (s.wellWord r b k e).1 := by
  have hnone (clean : Nat → Bool) : s.wellVerified r b clean = s := by
    refine if_neg fun h => ?_
    obtain ⟨v, hmem, hb⟩ := List.any_eq_true.mp h
    exact hv v hmem (beq_iff_eq.mp (Bool.and_eq_true_iff.mp hb).1)
  rw [State.wellBurst_eq, hnone, List.zipIdx_append, List.foldl_append, State.foldl_wellStep_clean, List.zipIdx_cons, List.foldl_cons,
    State.foldl_wellStep_clean, List.length_replicate, Nat.zero_add]
  rfl

theorem State.wellCheck_one {b k : Nat} {e : Ecc} (hk : k < 8) (hv : ∀ v ∈ (s.well r).verify, v.1 ≠ b) :
    (s.wellCheck r [b] [(k, e)] 0).1 = (s.wellWord r b k e).1 := by
  have hwords : (List.range 8).map (fun j => errAt [(k, e)] (0 + 8 * 0 + j)) =
      List.replicate k .clean ++ e :: List.replicate (7 - k) .clean := by
    interval_cases k <;> rfl
  have hcheck : (s.wellCheck r [b] [(k, e)] 0).1 =
      (s.wellBurst r b ((List.range 8).map fun j => errAt [(k, e)] (0 + 8 * 0 + j))).1 := rfl
  rw [hcheck, hwords, State.wellBurst_one _ hv]

/-- A read of a row that is clean gives the row. -/
theorem State.wellRead_clean (s : State) (r q : Nat) :
    ∃ t, s.wellRead r q [] 0 = (t, 0, (s.well r).rows.get 0 q) ∧ s.upkeep checkIndex t := by
  obtain ⟨t, ok, hcheck⟩ : ∃ t ok, s.wellCheck r (rowBursts q) [] 0 = (t, ok) := ⟨_, _, rfl⟩
  have hleaves := State.upkeep_refl.wellCheck (s := s) r (rowBursts q) [] 0
  rw [hcheck] at hleaves
  have hok : ok = true := by
    have hfold : (s.wellCheck r (rowBursts q) [] 0).2 =
      (true && (s.wellBurst r (q / 8 * 9 + q % 8) (List.replicate 8 .clean)).2 &&
        ((s.wellBurst r (q / 8 * 9 + q % 8) (List.replicate 8 .clean)).1.wellBurst r (q / 8 * 9 + q % 8 + 1)
          (List.replicate 8 .clean)).2) := rfl
    rw [hcheck, State.wellBurst_clean, State.wellBurst_clean] at hfold
    exact hfold
  refine ⟨t, ?_, hleaves⟩
  rw [State.wellRead, hcheck, hok]
  dsimp only
  rw [hleaves.rows]

/-- A correction of a burst that has nothing to verify leaves the words that its event wrote. -/
theorem State.wellCorrected_p1 {b bit i : Nat} (hv : ∀ v ∈ (s.well r).verify, v.1 ≠ b) (hi : i ≠ chanIdx (burstChannel b) 1) :
    (s.wellCorrected r b bit).p1 r i = (s.eccEvent r b 0 24 32 0x027 false).p1 r i := by
  have hwell : ((s.wellFixed r b).well r).verify = (s.well r).verify := by
    obtain ⟨-, -, -, -, hwells⟩ := s.eccEvent_spec r b 0 24 32 (code := 0x027) false (by decide)
    rw [State.wellFixed_eq, State.well_updWell_same, State.well, hwells]
    rfl
  have hagain : ((s.wellFixed r b).well r).verify.contains (b, bit) = false := by
    rw [hwell]
    exact Bool.eq_false_iff.mpr fun h => hv _ (List.contains_iff_mem.mp h) rfl
  unfold State.wellCorrected
  simp only [hagain, Bool.false_eq_true, if_false]
  split
  · rw [State.startScrub, State.p1_seeP1_other _ (.inr hi), State.updWell_p1, State.wellFixed_eq, State.updWell_p1]
  · rw [State.updWell_p1, State.wellFixed_eq, State.updWell_p1]

end Sys2Proof.Machine

/-! PROOFS. Refresh, patrol scrub and targeted scrub of a well (R256 to R258, R351, R362). -/

namespace Sys2Proof.Machine

variable {s t : State} {r c p : Nat}

/-! ### Refresh (R256) -/

theorem State.refresh_well (s : State) (r c p b k : Nat) :
    (s.refresh r c p b).well k = { s.well k with refreshed := ((s.refresh r c p b).well k).refreshed } := by
  by_cases e : k = r
  · subst e; rw [State.refresh, State.well_updWell_same]
  · rw [State.refresh, State.well_updWell_other _ _ e]

/-! ### Patrol scrub (R257, R258) -/

/-- The next burst of a pseudo-channel is due. -/
def State.patrolDue (s : State) (r c p : Nat) : State :=
  s.setWell r { s.well r with patrol := (s.well r).patrol.set 0 (2 * c + p) ((s.well r).patrol.get 0 (2 * c + p) + 1) }

theorem State.patrolDue_well (s : State) (r c p k : Nat) :
    (s.patrolDue r c p).well k = { s.well k with patrol := ((s.patrolDue r c p).well k).patrol } := by
  by_cases e : k = r
  · subst e; rw [State.patrolDue, State.well_setWell_same]
  · rw [State.patrolDue, State.well_setWell_other _ _ e]

theorem State.patrolDue_patrol (s : State) (r c p k : Nat) : ((s.patrolDue r c p).well r).patrol.get 0 k =
    if k = 2 * c + p then (s.well r).patrol.get 0 (2 * c + p) + 1 else (s.well r).patrol.get 0 k := by
  rw [State.patrolDue, State.well_setWell_same]
  dsimp only
  by_cases e : k = 2 * c + p
  · rw [if_pos e, e, Sparse.get_set_same]
  · rw [if_neg e, Sparse.get_set_other _ _ _ _ e]

/-- The burst that a patrol scrub reads. -/
def State.patrolBurst (s : State) (r c p : Nat) : Nat := (s.well r).patrol.get 0 (2 * c + p) % 2 ^ 25 * 32 + p * 16 + c

/-- It is read; its check is all that this does. -/
def State.patrolRead (s : State) (r c p : Nat) (errs : Errs) : State :=
  ((s.patrolDue r c p).wellCheck r [s.patrolBurst r c p] errs 0).1

/-- A pass has ended, and the corrections of the next one count from zero. -/
def State.passEnded (s : State) (r : Nat) : State :=
  (s.updP1 r 14387 fun w => bumpField w 0 36).updWell r fun y => { y with passCorr := [] }

theorem State.patrolScrub_eq (s : State) (r c p : Nat) (errs : Errs) : s.patrolScrub r c p errs =
    if (s.well r).passes < ((s.patrolRead r c p errs).well r).passes then (s.patrolRead r c p errs).passEnded r
    else s.patrolRead r c p errs := rfl

theorem State.patrolRead_upkeep (s : State) (r c p : Nat) (errs : Errs) :
    (s.patrolDue r c p).upkeep checkIndex (s.patrolRead r c p errs) :=
  State.upkeep_refl.wellCheck ..

theorem State.passEnded_well (s : State) (r k : Nat) :
    (s.passEnded r).well k = { s.well k with passCorr := ((s.passEnded r).well k).passCorr } := by
  by_cases e : k = r
  · subst e; rw [State.passEnded, State.well_updWell_same, State.updP1_well]
  · rw [State.passEnded, State.well_updWell_other _ _ e, State.updP1_well]

theorem State.passEnded_p1_other (s : State) (r : Nat) {i : Nat} (hi : i ≠ 14387) : (s.passEnded r).p1 r i = s.p1 r i := by
  rw [State.passEnded, State.updWell_p1, State.p1_updP1_other _ _ (.inr hi)]

theorem State.passEnded_p1_same (s : State) (r : Nat) : (s.passEnded r).p1 r 14387 = bumpField (s.p1 r 14387) 0 36 := by
  rw [State.passEnded, State.updWell_p1, State.p1_updP1_same]

/-- Past the reading, only the count of passes differs, and the corrections of the next pass. -/
theorem State.patrolScrub_spec (s : State) (r c p : Nat) (errs : Errs) :
    let t := s.patrolScrub r c p errs
    let v := s.patrolRead r c p errs
    (∀ k, t.well k = { v.well k with passCorr := (t.well k).passCorr }) ∧ (∀ i, i ≠ 14387 → t.p1 r i = v.p1 r i) ∧
      t.p1 r 14387 = (if (s.well r).passes < (v.well r).passes then bumpField (v.p1 r 14387) 0 36 else v.p1 r 14387) ∧
      t.units = v.units ∧ t.net = v.net ∧ t.seq = v.seq := by
  dsimp only
  rw [s.patrolScrub_eq]
  generalize s.patrolRead r c p errs = v
  by_cases h : (s.well r).passes < (v.well r).passes
  · rw [if_pos h, if_pos h]
    exact ⟨v.passEnded_well r, fun i => v.passEnded_p1_other r, v.passEnded_p1_same r, rfl, rfl, rfl⟩
  · rw [if_neg h, if_neg h]
    exact ⟨fun _ => rfl, fun _ _ => rfl, rfl, rfl, rfl, rfl⟩

/-- What the reading leaves, the scrub leaves, and the pseudo-channel goes on by one burst. -/
theorem State.patrolScrub_leaves (s : State) (r c p : Nat) (errs : Errs) :
    let t := s.patrolScrub r c p errs
    (∀ k, (t.well k).patrol = ((s.patrolDue r c p).well k).patrol) ∧ (∀ k, (t.well k).rows = (s.well k).rows) ∧
      t.units = s.units ∧ t.net = s.net ∧
      t.p1 r 14387 = (if (s.well r).passes < (t.well r).passes then bumpField (s.p1 r 14387) 0 36 else s.p1 r 14387) := by
  have hread := s.patrolRead_upkeep r c p errs
  obtain ⟨hwell, -, hpasses, hunits, hnet, -⟩ := s.patrolScrub_spec r c p errs
  have hequal : ((s.patrolScrub r c p errs).well r).passes = ((s.patrolRead r c p errs).well r).passes := by
    unfold Well.passes; rw [hwell]
  refine ⟨fun k => by rw [hwell, hread.well], fun k => by rw [hwell, hread.well, State.patrolDue_well], hunits.trans hread.units,
    hnet.trans hread.net, ?_⟩
  rw [hpasses, hequal, hread.p1 r 14387 (by decide)]
  rfl

theorem State.patrolBurst_channel (s : State) (hc : c < 16) (r p : Nat) : burstChannel (s.patrolBurst r c p) = c := by
  unfold burstChannel State.patrolBurst; omega

theorem State.patrolDue_verify {b : Nat} (h : ∀ v ∈ (s.well r).verify, v.1 ≠ b) : ∀ v ∈ ((s.patrolDue r c p).well r).verify, v.1 ≠ b := by
  rw [State.patrolDue_well]; exact h

/-- One codeword of the burst is in error, and nothing of it is to be verified. -/
theorem State.patrolRead_one {k : Nat} (e : Ecc) (hk : k < 8) (hv : ∀ v ∈ (s.well r).verify, v.1 ≠ s.patrolBurst r c p) :
    s.patrolRead r c p [(k, e)] = ((s.patrolDue r c p).wellWord r (s.patrolBurst r c p) k e).1 := by
  rw [State.patrolRead, State.wellCheck_one hk (State.patrolDue_verify hv)]

/-- A codeword of the burst that is corrected. -/
theorem State.patrolRead_corrected {k bit : Nat} (hc : c < 16) (hk : k < 8)
    (hv : ∀ v ∈ (s.well r).verify, v.1 ≠ s.patrolBurst r c p) :
    let t := s.patrolRead r c p [(k, .corrected bit)]
    let w := wd (s.patrolBurst r c p % 2 ^ 30 + 2 ^ 31)
    t.p1 r (chanIdx c 0) = putField (bumpField (s.p1 r (chanIdx c 0)) 0 24) 32 1 1 ∧ t.p1 r 14384 = w ∧
      tookRecord r 0x027 c w s t := by
  intro t w
  have ht : t = (s.patrolDue r c p).wellCorrected r (s.patrolBurst r c p) (72 * k + bit % 72) :=
    (State.patrolRead_one _ hk hv).trans (State.wellWord_corrected ..)
  obtain ⟨hcount, hword, htook, -, -⟩ :=
    (s.patrolDue r c p).eccEvent_spec r (s.patrolBurst r c p) 0 24 32 (code := 0x027) false (by decide)
  have hp1 (i : Nat) (hi : i ≠ chanIdx (burstChannel (s.patrolBurst r c p)) 1) :=
    State.wellCorrected_p1 (bit := 72 * k + bit % 72) (State.patrolDue_verify (c := c) (p := p) hv) hi
  rw [← ht] at hp1
  rw [s.patrolBurst_channel hc] at hcount htook hp1
  simp only [Bool.toNat_false, Nat.zero_mul, Nat.add_zero] at hword htook
  refine ⟨?_, ?_, ?_⟩
  · rw [hp1 _ (by unfold chanIdx; omega), hcount]
    rfl
  · rw [hp1 _ (by unfold chanIdx; omega), hword]
  · refine (htook.of_start rfl rfl).of_end fun i hi => hp1 i fun e => ?_
    rw [e, chanIdx_not_ring hc (by decide)] at hi
    cases hi

/-- One that cannot be. -/
theorem State.patrolRead_uncorrectable {k : Nat} (hc : c < 16) (hk : k < 8)
    (hv : ∀ v ∈ (s.well r).verify, v.1 ≠ s.patrolBurst r c p) :
    let t := s.patrolRead r c p [(k, .uncorrectable)]
    let w := wd (s.patrolBurst r c p % 2 ^ 30 + 2 ^ 30 + 2 ^ 31)
    t.p1 r (chanIdx c 0) = putField (bumpField (s.p1 r (chanIdx c 0)) 24 8) 33 1 1 ∧ field (t.p1 r (chanIdx c 1)) 11 1 = 1 ∧
      t.p1 r 14384 = w ∧ tookRecord r 0x227 c w s t ∧ ∃ k, t.seq.reported = s.seq.reported ++ [k] ∧ k.code = 0x227 := by
  intro t w
  have ht : t = (s.patrolDue r c p).wellFailed r (s.patrolBurst r c p) :=
    (State.patrolRead_one _ hk hv).trans (State.wellWord_uncorrectable ..)
  obtain ⟨hcount, hword, htook, hseq, -⟩ :=
    (s.patrolDue r c p).eccEvent_spec r (s.patrolBurst r c p) 24 8 33 (code := 0x227) true (by decide)
  rw [State.wellFailed, State.wellLost_eq] at ht
  rw [s.patrolBurst_channel hc] at hcount htook ht
  simp only [Bool.toNat_true, Nat.one_mul] at hword htook
  have hp1 (i : Nat) (hi : i ≠ chanIdx c 1) :
      t.p1 r i = ((s.patrolDue r c p).eccEvent r (s.patrolBurst r c p) 24 8 33 0x227 true).p1 r i := by
    rw [ht, State.report_p1, State.startScrub, State.p1_seeP1_other _ (.inr hi)]
  refine ⟨?_, ?_, ?_, ?_, causeOf 0x227 16383 (some { code := 8, region := r, target := c, part := 0 }), ?_, rfl⟩
  · rw [hp1 _ (by unfold chanIdx; omega), hcount]
    rfl
  · rw [ht, State.report_p1, State.startScrub, State.seeP1, State.p1_updP1_same, field_putField_same _ _ (by decide)]
    rfl
  · rw [hp1 _ (by unfold chanIdx; omega), hword]
  · refine (htook.of_start rfl rfl).of_end fun i hi => hp1 i fun e => ?_
    rw [e, chanIdx_not_ring hc (by decide)] at hi
    cases hi
  · rw [ht, State.report, State.startScrub, State.seeP1_seq, hseq]
    rfl

/-- The record of a check stands when the scrub is done. -/
theorem State.patrolScrub_took {code subject : Nat} {detail : Word} {errs : Errs}
    (h : tookRecord r code subject detail s (s.patrolRead r c p errs)) :
    tookRecord r code subject detail s (s.patrolScrub r c p errs) := by
  obtain ⟨-, hp1, -⟩ := s.patrolScrub_spec r c p errs
  exact h.of_end fun i hi => hp1 i fun e => by rw [e] at hi; cases hi

theorem State.patrolScrub_p1 (errs : Errs) {k : Nat} (hc : c < 16) (hk : k < 2) :
    (s.patrolScrub r c p errs).p1 r (chanIdx c k) = (s.patrolRead r c p errs).p1 r (chanIdx c k) ∧
      (s.patrolScrub r c p errs).p1 r 14384 = (s.patrolRead r c p errs).p1 r 14384 := by
  obtain ⟨-, hp1, -⟩ := s.patrolScrub_spec r c p errs
  exact ⟨hp1 _ (by unfold chanIdx; omega), hp1 _ (by decide)⟩

/-- A corrected codeword of a patrol read is counted and raised with its burst (R250). -/
theorem State.patrolScrub_corrected {k bit : Nat} (hc : c < 16) (hk : k < 8)
    (hv : ∀ v ∈ (s.well r).verify, v.1 ≠ s.patrolBurst r c p) :
    let t := s.patrolScrub r c p [(k, .corrected bit)]
    let w := wd (s.patrolBurst r c p % 2 ^ 30 + 2 ^ 31)
    field (t.p1 r (chanIdx c 0)) 0 24 = min (field (s.p1 r (chanIdx c 0)) 0 24 + 1) (2 ^ 24 - 1) ∧
      field (t.p1 r (chanIdx c 0)) 32 1 = 1 ∧ t.p1 r 14384 = w ∧ tookRecord r 0x027 c w s t := by
  obtain ⟨hcount, hword, htook⟩ := State.patrolRead_corrected (bit := bit) hc hk hv
  obtain ⟨hchan, herr⟩ := State.patrolScrub_p1 (s := s) (r := r) (p := p) [(k, .corrected bit)] hc (show 0 < 2 by decide)
  dsimp only
  rw [hchan, herr, hcount]
  refine ⟨?_, field_putField_same _ _ (by decide), hword, State.patrolScrub_took htook⟩
  rw [field_putField_other _ _ (by decide), field_bumpField_same _ (by decide)]

/-- One that cannot be corrected besides starts the targeted scrub and is reported (R251). -/
theorem State.patrolScrub_uncorrectable {k : Nat} (hc : c < 16) (hk : k < 8)
    (hv : ∀ v ∈ (s.well r).verify, v.1 ≠ s.patrolBurst r c p) :
    let t := s.patrolScrub r c p [(k, .uncorrectable)]
    let w := wd (s.patrolBurst r c p % 2 ^ 30 + 2 ^ 30 + 2 ^ 31)
    field (t.p1 r (chanIdx c 0)) 24 8 = min (field (s.p1 r (chanIdx c 0)) 24 8 + 1) 255 ∧ field (t.p1 r (chanIdx c 0)) 33 1 = 1 ∧
      field (t.p1 r (chanIdx c 1)) 11 1 = 1 ∧ t.p1 r 14384 = w ∧ tookRecord r 0x227 c w s t ∧
      ∃ k, t.seq.reported = s.seq.reported ++ [k] ∧ k.code = 0x227 := by
  obtain ⟨hcount, hscrub, hword, htook, hreported⟩ := State.patrolRead_uncorrectable hc hk hv
  obtain ⟨hchan, herr⟩ := State.patrolScrub_p1 (s := s) (r := r) (p := p) [(k, .uncorrectable)] hc (show 0 < 2 by decide)
  obtain ⟨hchan1, -⟩ := State.patrolScrub_p1 (s := s) (r := r) (p := p) [(k, .uncorrectable)] hc (show 1 < 2 by decide)
  obtain ⟨-, -, -, -, -, hseq⟩ := s.patrolScrub_spec r c p [(k, .uncorrectable)]
  dsimp only
  rw [hchan, hchan1, herr, hcount, hseq]
  refine ⟨?_, field_putField_same _ _ (by decide), hscrub, hword, State.patrolScrub_took htook, hreported⟩
  rw [field_putField_other _ _ (by decide), field_bumpField_same _ (by decide)]
  rfl

/-! ### A codeword of a targeted scrub (R258) -/

/-- What the scrub finds is a correction. -/
def foundCorrected (f : Nat × Nat × Ecc) : Bool :=
  match f.2.2.ofData with
  | .corrected _ => true
  | _ => false

/-- A codeword of channel `c` leaves all but the words of its error, and counts when it is corrected. -/
theorem State.scrubWord_spec (s : State) (r : Nat) (again : List (Nat × Nat)) {f : Nat × Nat × Ecc} (hf : burstChannel f.1 = c) :
    s.upkeep eccIndex (s.scrubWord r again f) ∧ field ((s.scrubWord r again f).p1 r (chanIdx c 0)) 0 24 =
      min (field (s.p1 r (chanIdx c 0)) 0 24 + (foundCorrected f).toNat) (2 ^ 24 - 1) := by
  obtain ⟨b, k, e⟩ := f
  have hlt := field_lt (s.p1 r (chanIdx c 0)) 0 24
  dsimp only at hf
  unfold State.scrubWord foundCorrected
  dsimp only
  cases e.ofData with
  | corrected bit =>
    obtain ⟨hcount, -⟩ := s.eccEvent_spec r b 0 24 32 (code := 0x027) false (by decide)
    rw [hf] at hcount
    refine ⟨(State.upkeep_refl.wellFixed r b fun _ h => h).updWell r fun _ => rfl, ?_⟩
    rw [State.updWell_p1, State.wellFixed_eq, State.updWell_p1, hcount, field_putField_other _ _ (by decide),
      field_bumpField_same _ (by decide), Bool.toNat_true]
  | uncorrectable =>
    obtain ⟨hcount, -⟩ := s.eccEvent_spec r b 24 8 33 (code := 0x227) true (by decide)
    rw [hf] at hcount
    refine ⟨(State.upkeep_refl.wellLost r b fun _ h => h).report _, ?_⟩
    rw [State.report_p1, State.wellLost_eq, hcount, field_putField_other _ _ (by decide), field_bumpField_other _ (by decide),
      Bool.toNat_false]
    omega
  | clean | voted =>
    dsimp only
    refine ⟨State.upkeep_refl, ?_⟩
    rw [Bool.toNat_false]
    omega

/-- The codewords that the scrub of a channel could not read clean, one after the other. -/
def State.scrubWords (s : State) (r : Nat) (again : List (Nat × Nat)) (l : List (Nat × Nat × Ecc)) : State :=
  l.foldl (fun v f => v.scrubWord r again f) s

theorem State.scrubWords_cons (s : State) (r : Nat) (again : List (Nat × Nat)) (f : Nat × Nat × Ecc) (l : List (Nat × Nat × Ecc)) :
    s.scrubWords r again (f :: l) = (s.scrubWord r again f).scrubWords r again l := rfl

theorem State.scrubWords_spec (r : Nat) (again : List (Nat × Nat)) {l : List (Nat × Nat × Ecc)} (hl : ∀ f ∈ l, burstChannel f.1 = c)
    (s : State) :
    s.upkeep eccIndex (s.scrubWords r again l) ∧ field ((s.scrubWords r again l).p1 r (chanIdx c 0)) 0 24 =
      min (field (s.p1 r (chanIdx c 0)) 0 24 + l.countP foundCorrected) (2 ^ 24 - 1) := by
  induction l generalizing s with
  | nil =>
    have := field_lt (s.p1 r (chanIdx c 0)) 0 24
    refine ⟨State.upkeep_refl, ?_⟩
    rw [List.countP_nil, State.scrubWords, List.foldl_nil]
    omega
  | cons f l ih =>
    obtain ⟨hf, hl⟩ := List.forall_mem_cons.mp hl
    obtain ⟨hfirst, hcount⟩ := s.scrubWord_spec r again hf
    obtain ⟨hrest, hcounts⟩ := ih hl (s.scrubWord r again f)
    rw [State.scrubWords_cons, hcounts, hcount, List.countP_cons]
    refine ⟨hfirst.trans hrest, ?_⟩
    generalize 2 ^ 24 - 1 = m
    cases foundCorrected f
    · rw [Bool.toNat_false, if_neg Bool.false_ne_true]; omega
    · rw [Bool.toNat_true, if_pos rfl]; omega

/-! ### The result of a targeted scrub (R258, R351) -/

/-- What the scrub of channel `c` has found is recorded, and its test's result. -/
def State.scrubbed (s : State) (r c : Nat) (here : List (Nat × Nat × Ecc)) (again : List (Nat × Nat)) (pass : Bool) : State :=
  let k : TestTarget := { code := 8, region := r, target := c, part := 0 }
  let s0 := s.scrubWords r again here
  let s1 := s0.updP1 r (chanIdx c 1) fun w => putField (if pass then w else putField w 12 1 1) 11 1 0
  (s1.recordTest k pass).updSeq fun q => { q with tests := q.tests.filter (· != k) }

/-- Each DRAM row that fails is remapped. -/
def State.repairRows (s : State) (r c : Nat) (failing : List (Nat × Nat × Nat)) : State :=
  failing.foldl (fun v f => v.repairRow r c f) s

theorem State.targetedScrub_eq (found : List (Nat × Nat × Ecc)) (again : List (Nat × Nat)) (h : field (s.p1 r (chanIdx c 1)) 11 1 = 1) :
    let here := found.filter fun f => decide (f.1 < 2 ^ 30) && burstChannel f.1 == c && decide (f.2.1 < 8)
    let failing := scrubFailing here again
    let t := s.scrubbed r c here again (failing.isEmpty && !s.passedThrice { code := 8, region := r, target := c, part := 0 })
    s.targetedScrub r c found again =
      (if (t.well r).channelFails c failing then t.channelFailed r c else t.repairRows r c failing).abortNext :=
  if_neg (by omega)

theorem State.scrubbed_spec (s : State) {here : List (Nat × Nat × Ecc)} (again : List (Nat × Nat)) (pass : Bool) (hc : c < 16)
    (hhere : ∀ f ∈ here, burstChannel f.1 = c) :
    let t := s.scrubbed r c here again pass
    s.upkeep checkIndex t ∧
      field (t.p1 r (chanIdx c 0)) 0 24 = min (field (s.p1 r (chanIdx c 0)) 0 24 + here.countP foundCorrected) (2 ^ 24 - 1) ∧
      field (t.p1 r (chanIdx c 1)) 11 1 = 0 ∧
      field (t.p1 r (chanIdx c 1)) 12 1 = if pass then field (s.p1 r (chanIdx c 1)) 12 1 else 1 := by
  intro t
  obtain ⟨hwords, hcount⟩ := State.scrubWords_spec r again hhere s
  obtain ⟨s0, hs0⟩ : ∃ s0, s.scrubWords r again here = s0 := ⟨_, rfl⟩
  rw [hs0] at hwords hcount
  obtain ⟨s1, hs1⟩ : ∃ s1, s0.updP1 r (chanIdx c 1) (fun w => putField (if pass then w else putField w 12 1 1) 11 1 0) = s1 := ⟨_, rfl⟩
  have htest : s1.upkeep testIndex t := by
    have h := State.upkeep_refl.recordTest (s := s1) (but := testIndex) { code := 8, region := r, target := c, part := 0 } pass fun _ h => h
    have ht : t = (s1.recordTest { code := 8, region := r, target := c, part := 0 } pass).updSeq fun q =>
        { q with tests := q.tests.filter (· != { code := 8, region := r, target := c, part := 0 }) } := by
      rw [← hs1, ← hs0]; rfl
    rw [ht]
    exact ⟨h.units, h.net, h.phase, h.p1, h.well⟩
  have hupd : s.upkeep checkIndex s1 := by
    rw [← hs1]
    exact (hwords.mono checkIndex_of_ecc).updP1 _ _ (checkIndex_chan hc (by decide))
  have hchan {k : Nat} (hk : k < 2) : testIndex (chanIdx c k) = false :=
    Bool.or_eq_false_iff.mpr ⟨decide_eq_false (by unfold chanIdx; omega), chanIdx_not_ring hc hk⟩
  have hother : eccIndex (chanIdx c 1) = false :=
    Bool.or_eq_false_iff.mpr ⟨chanIdx_not_ring hc (by decide), decide_eq_false (by unfold chanIdx; omega)⟩
  have hword : t.p1 r (chanIdx c 1) =
      putField (if pass then s.p1 r (chanIdx c 1) else putField (s.p1 r (chanIdx c 1)) 12 1 1) 11 1 0 := by
    rw [htest.p1 _ _ (hchan (by decide)), ← hs1, State.p1_updP1_same, hwords.p1 _ _ hother]
  refine ⟨hupd.trans (htest.mono checkIndex_of_test), ?_, ?_, ?_⟩
  · rw [htest.p1 _ _ (hchan (by decide)), ← hs1, State.p1_updP1_other _ _ (.inr (by unfold chanIdx; omega)), hcount]
  · rw [hword, field_putField_same _ _ (by decide)]; rfl
  · rw [hword, field_putField_other _ _ (by decide)]
    cases pass
    · rw [if_neg Bool.false_ne_true, field_putField_same _ _ (by decide)]; rfl
    · rfl

/-! ### Rows that are repaired (R258) -/

theorem State.note_wells (s : State) (sub : Nat) (items : List Nat) : (s.note sub items).wells = s.wells := rfl
theorem State.note_p1 (s : State) (sub : Nat) (items : List Nat) (r i : Nat) : (s.note sub items).p1 r i = s.p1 r i := rfl

/-- A repair takes a spare row, and counts in the low ten bits of the channel's second word. -/
theorem State.repairRow_spec (s : State) (r : Nat) (f : Nat × Nat × Nat) (hc : c < 16) :
    let t := s.repairRow r c f
    t.wells = (s.updWell r fun x => { x with repaired := x.repaired ++ [(c, f.1, f.2.1, f.2.2)] }).wells ∧ t.seq = s.seq ∧
      t.p1 r (chanIdx c 0) = s.p1 r (chanIdx c 0) ∧
      ∀ lo len, 10 ≤ lo → field (t.p1 r (chanIdx c 1)) lo len = field (s.p1 r (chanIdx c 1)) lo len := by
  obtain ⟨p, b, row⟩ := f
  intro t
  obtain ⟨s1, hs1⟩ : ∃ s1, s.updWell r (fun x => { x with repaired := x.repaired ++ [(c, p, b, row)] }) = s1 := ⟨_, rfl⟩
  have ht : t = ((s1.updP1 r (chanIdx c 1) fun w => bumpField w 0 10).raise r 0x028 c
      ((s1.updP1 r (chanIdx c 1) fun w => bumpField w 0 10).p1 r (chanIdx c 1)).toNat).note 5 [1, r, c, p, b, row] := by
    rw [← hs1]; rfl
  have hp1 {k : Nat} (hk : k < 2) : t.p1 r (chanIdx c k) = (s1.updP1 r (chanIdx c 1) fun w => bumpField w 0 10).p1 r (chanIdx c k) := by
    rw [ht, State.note_p1, State.raise_p1_other _ (.inr (chanIdx_not_ring hc hk))]
  have hs (i : Nat) : s1.p1 r i = s.p1 r i := by rw [← hs1, State.updWell_p1]
  dsimp only
  rw [hs1]
  refine ⟨?_, ?_, ?_, fun lo len hlo => ?_⟩
  · rw [ht, State.note_wells, State.raise_wells, State.updP1_wells]
  · rw [ht, State.note_seq, State.raise_seq, State.updP1_seq, ← hs1, State.updWell_seq]
  · rw [hp1 (by decide), State.p1_updP1_other _ _ (.inr (by unfold chanIdx; omega)), hs]
  · rw [hp1 (by decide), State.p1_updP1_same, field_bumpField_other _ (.inr (by omega)), hs]

theorem State.repairRows_spec (r : Nat) (hc : c < 16) (l : List (Nat × Nat × Nat)) (s : State) :
    let t := s.repairRows r c l
    (t.well r = { s.well r with repaired := (s.well r).repaired ++ l.map fun f => (c, f.1, f.2.1, f.2.2) }) ∧
      (∀ k, k ≠ r → t.well k = s.well k) ∧ t.seq = s.seq ∧ t.p1 r (chanIdx c 0) = s.p1 r (chanIdx c 0) ∧
      ∀ lo len, 10 ≤ lo → field (t.p1 r (chanIdx c 1)) lo len = field (s.p1 r (chanIdx c 1)) lo len := by
  induction l generalizing s with
  | nil => exact ⟨by rw [List.map_nil, List.append_nil]; rfl, fun _ _ => rfl, rfl, rfl, fun _ _ _ => rfl⟩
  | cons f l ih =>
    obtain ⟨hwells, hseq, hcount, hword⟩ := s.repairRow_spec r f hc
    obtain ⟨ihsame, ihother, ihseq, ihcount, ihword⟩ := ih (s.repairRow r c f)
    have hwell (k : Nat) : (s.repairRow r c f).well k =
        (s.updWell r fun x => { x with repaired := x.repaired ++ [(c, f.1, f.2.1, f.2.2)] }).well k :=
      congrArg (fun x => Sparse.get Well.reset x k) hwells
    refine ⟨ihsame.trans ?_, fun k hk => (ihother k hk).trans ?_, ihseq.trans hseq, ihcount.trans hcount,
      fun lo len hlo => (ihword lo len hlo).trans (hword lo len hlo)⟩
    · rw [hwell, State.well_updWell_same, List.map_cons, ← List.append_cons]
    · rw [hwell, State.well_updWell_other _ _ hk]

/-! ### A channel that has failed (R258, R362) -/

theorem quiet_phase : Quiet fun t => t.seq.phase where
  setUnit _ _ _ := rfl
  setP1 _ _ _ _ _ := rfl
  setBar _ _ _ _ := rfl
  forward _ _ := rfl
  report _ _ := rfl
  send _ _ := rfl
  note _ _ _ := rfl

theorem State.setPhase_phase (s : State) (k : Nat) : (s.setPhase k).seq.phase = k :=
  foldl_leaves (f := fun t => t.seq.phase) _ _ fun _ _ _ => rfl

/-- The end of a job is the phase Idle. -/
theorem State.jobStop_phase (s : State) (code : Nat) : (s.jobStop code).seq.phase = 0 := by
  unfold State.jobStop
  extract_lets
  exact State.setPhase_phase ..

theorem State.moveAreas_seq (s : State) (r : Nat) : (s.moveAreas r).1.seq = s.seq := by
  unfold State.moveAreas
  split
  next v areas moved he =>
    refine (congrArg (State.seq ∘ Prod.fst) he).symm.trans ?_
    refine List.foldlRecOn (motive := fun x => State.seq (Prod.fst x) = s.seq) _ _ rfl fun x hx a _ => ?_
    obtain ⟨sh, first, n, rg, g⟩ := a
    dsimp only
    split
    · exact hx
    · exact hx

theorem State.loseWell_phase (s : State) (r : Nat) : (s.loseWell r).seq.phase = s.seq.phase := by
  unfold State.loseWell
  dsimp only
  split
  · change (State.moveAreas _ r).1.seq.phase = _
    rw [State.moveAreas_seq, State.updWell_seq]
  · rw [State.updWell_seq]

theorem State.leaveService_phase (s : State) (r : Nat) : (s.leaveService r).seq.phase = s.seq.phase := by
  unfold State.leaveService State.setNodes
  dsimp only
  rw [State.updRegion_seq, State.updP1_seq, State.updRegion_seq, State.updSvc_seq, State.raise_seq, State.updP1_seq]

/-- A withdrawal begins no abort: the phase stands, or the job has ended. -/
theorem State.withdraw_phase (s : State) (r : Nat) (loses planned : Bool) :
    (s.withdraw r loses planned).seq.phase = s.seq.phase ∨ (s.withdraw r loses planned).seq.phase = 0 := by
  unfold State.withdraw
  split
  · exact .inl rfl
  · extract_lets s1 s2 s3 s4 s4a s5 _ s6
    have h4 : s4a.seq.phase = (s.leaveService r).seq.phase :=
      foldl_leaves (f := fun t => t.seq.phase) _ _ fun _ _ _ => quiet_phase.vacate ..
    have h5 : s5.seq.phase = s.seq.phase := by
      show (if _ then _ else _ : State).seq.phase = _
      split
      · exact (State.loseWell_phase ..).trans (h4.trans (s.leaveService_phase r))
      · exact h4.trans (s.leaveService_phase r)
    split
    · split
      · exact .inr (State.jobStop_phase ..)
      · split
        · exact .inr (State.jobStop_phase ..)
        · split
          · exact .inl h5
          · exact .inl ((quiet_phase.structural ..).trans h5)
    · exact .inl h5

/-- The failure is recorded, noted and reported before the region is withdrawn. -/
theorem State.channelFailed_eq (s : State) (r c : Nat) : ∃ t : State, s.channelFailed r c = t.withdraw r true false ∧ t.seq.phase = s.seq.phase :=
  ⟨_, rfl, (quiet_phase.structural ..).trans ((quiet_phase.note ..).trans (quiet_phase.raise ..))⟩

theorem State.channelFailed_spec (s : State) (r c : Nat) (h : s.seq.phase ≠ 7) :
    (s.channelFailed r c).seq.phase ≠ 7 ∧ ((s.channelFailed r c).svc r).withdrawn = true := by
  obtain ⟨t, ht, hphase⟩ := s.channelFailed_eq r c
  obtain ⟨hwithdrawn, -⟩ := t.withdraw_svc_same r true false
  rw [ht]
  refine ⟨?_, hwithdrawn⟩
  rcases t.withdraw_phase r true false with e | e
  · rwa [e, hphase]
  · rw [e]; decide

theorem Well.channelFails_congr {x y : Well} (h : y.repaired = x.repaired) (c : Nat) (l : List (Nat × Nat × Nat)) :
    y.channelFails c l = x.channelFails c l := by
  unfold Well.channelFails Well.spares; rw [h]

/-! ### What a targeted scrub comes to (R258, R351) -/

/-- The channel's words after the reading and the test, and then the rows repaired or the channel failed. -/
theorem State.targetedScrub_spec (found : List (Nat × Nat × Ecc)) (again : List (Nat × Nat)) (hc : c < 16)
    (hon : field (s.p1 r (chanIdx c 1)) 11 1 = 1) (hphase : s.seq.phase ≠ 7) :
    let here := found.filter fun f => decide (f.1 < 2 ^ 30) && burstChannel f.1 == c && decide (f.2.1 < 8)
    let failing := scrubFailing here again
    ∃ v, s.upkeep checkIndex v ∧
      field (v.p1 r (chanIdx c 0)) 0 24 = min (field (s.p1 r (chanIdx c 0)) 0 24 + here.countP foundCorrected) (2 ^ 24 - 1) ∧
      field (v.p1 r (chanIdx c 1)) 11 1 = 0 ∧
      field (v.p1 r (chanIdx c 1)) 12 1 =
        (if failing = [] ∧ s.passedThrice { code := 8, region := r, target := c, part := 0 } = false then
          field (s.p1 r (chanIdx c 1)) 12 1 else 1) ∧
      s.targetedScrub r c found again =
        if (s.well r).channelFails c failing then v.channelFailed r c else v.repairRows r c failing := by
  intro here failing
  have hchannel : ∀ f ∈ here, burstChannel f.1 = c := fun f hf => by
    have h := (List.mem_filter.mp hf).2
    simp only [Bool.and_eq_true, beq_iff_eq] at h
    exact h.1.2
  have heq := State.targetedScrub_eq found again hon
  obtain ⟨pass, hpass⟩ : ∃ pass, (failing.isEmpty && !s.passedThrice { code := 8, region := r, target := c, part := 0 }) = pass := ⟨_, rfl⟩
  obtain ⟨hleaves, hcount, hdone, hseen⟩ := s.scrubbed_spec (r := r) again pass hc hchannel
  obtain ⟨v, hv⟩ : ∃ v, s.scrubbed r c here again pass = v := ⟨_, rfl⟩
  rw [hv] at hleaves hcount hdone hseen
  have hscrub : s.targetedScrub r c found again =
      (if (v.well r).channelFails c failing then v.channelFailed r c else v.repairRows r c failing).abortNext := by
    rw [← hv, ← hpass]; exact heq
  have hvphase : v.seq.phase ≠ 7 := by rwa [hleaves.phase]
  rw [Well.channelFails_congr (x := s.well r) (by rw [hleaves.well]), State.abortNext_of_ne] at hscrub
  · refine ⟨v, hleaves, hcount, hdone, ?_, hscrub⟩
    rw [hseen, ← hpass]
    simp only [Bool.and_eq_true, Bool.not_eq_true', List.isEmpty_iff]
  · split
    · exact (v.channelFailed_spec r c hvphase).1
    · obtain ⟨-, -, hseq, -⟩ := State.repairRows_spec r hc failing v
      rwa [hseq]

/-! ### The statement -/

/-- A command about a structure that the module has takes its effect. -/
theorem guardRes_of {ok : Prop} [Decidable ok] (h : ok) (t : State) : guardRes (decide ok) t = .next t := if_pos (decide_eq_true h)

theorem State.exec_refresh {b : Nat} (hr : r < 48) (hc : c < 16) (hp : p < 2) (hb : b < 32) :
    exec (.refresh r c p b) s = .next (s.refresh r c p b) :=
  guardRes_of ⟨hr, hc, hp, hb⟩ _

theorem State.exec_patrolScrub (errs : Errs) (hr : r < 48) (hc : c < 16) (hp : p < 2) :
    exec (.patrolScrub r c p errs) s = .next (s.patrolScrub r c p errs) :=
  guardRes_of ⟨hr, hc, hp⟩ _

theorem State.exec_targetedScrub (found : List (Nat × Nat × Ecc)) (again : List (Nat × Nat)) (hr : r < 48) (hc : c < 16) :
    exec (.targetedScrub r c found again) s = .next (s.targetedScrub r c found again) :=
  guardRes_of ⟨hr, hc⟩ _

/-- Settles O41: a patrol read leaves all but the words of its check and the count of passes; of a targeted scrub, the codewords found, the
test's result and the rows repaired are read one after the other. -/
theorem wellUpkeep : Obligations.WellUpkeep := by
  refine ⟨?refresh, ?patrol, ?scrub⟩
  case refresh =>
    intro s r c p b hr hc hp hb
    exact ⟨_, State.exec_refresh hr hc hp hb, rfl, s.refresh_well r c p b⟩
  case patrol =>
    intro s r c p errs hr hc hp n b
    obtain ⟨hpatrol, hrows, hunits, hnet, hpasses⟩ := s.patrolScrub_leaves r c p errs
    refine ⟨_, State.exec_patrolScrub errs hr hc hp, fun k => ?_, fun k i => by rw [hrows], hunits, hnet, hpasses,
      fun k bit hk herrs hv => ?_, fun k hk herrs hv => ?_⟩
    · rw [hpatrol, State.patrolDue_patrol]
    · subst herrs; exact State.patrolScrub_corrected hc hk hv
    · subst herrs; exact State.patrolScrub_uncorrectable hc hk hv
  case scrub =>
    intro s r c found again hr hc hon hphase here failing
    obtain ⟨v, hleaves, hcount, hdone, hseen, hscrub⟩ := State.targetedScrub_spec found again hc hon hphase
    rw [State.exec_targetedScrub found again hr hc, hscrub]
    refine ⟨_, rfl, fun hok => ?repaired, fun hfails => ?failed⟩
    case repaired =>
      obtain ⟨hsame, hother, -, hchan0, hchan1⟩ := State.repairRows_spec r hc failing v
      rw [if_neg (ne_true_of_eq_false hok), hsame, hchan0, hchan1 _ _ (by decide), hchan1 _ _ (by decide)]
      refine ⟨hdone, by rw [hleaves.well], by rw [hleaves.well], fun k i => ?_, hcount, hseen⟩
      by_cases e : k = r
      · subst e; rw [hsame, hleaves.well]
      · rw [hother k e, hleaves.well]
    case failed =>
      rw [if_pos hfails]
      exact (v.channelFailed_spec r c (by rwa [hleaves.phase])).2

end Sys2Proof.Machine

/-! PROOFS. Line and stream entries, the start of a stream, and the rows that its gateway sends (R260, R262, R265, R266, R270). -/

namespace Sys2Proof.Machine

variable {s t : State} {r l k : Nat}

/-! ### Registers written one after the other -/

/-- Registers of a region written one after the other, each at its own index. -/
theorem State.foldl_setP1_spec (s : State) (r : Nat) {f : Nat → Nat} (g : Nat → Word) (hf : Function.Injective f) (n : Nat) :
    let t := (List.range n).foldl (fun t k => t.setP1 r (f k) (g k)) s
    t = { s with regions := t.regions } ∧ (∀ k < n, t.p1 r (f k) = g k) ∧
      ∀ r' i, ¬(r' = r ∧ ∃ k < n, i = f k) → t.p1 r' i = s.p1 r' i := by
  induction n with
  | zero => exact ⟨rfl, fun _ h => absurd h (Nat.not_lt_zero _), fun _ _ _ => rfl⟩
  | succ n ih =>
    obtain ⟨honly, hsame, hother⟩ := ih
    simp only [List.range_succ, List.foldl_append, List.foldl_cons, List.foldl_nil]
    generalize (List.range n).foldl (fun t k => t.setP1 r (f k) (g k)) s = t at honly hsame hother
    refine ⟨?_, fun k hk => ?_, fun r' i hi => ?_⟩
    · rw [honly]; rfl
    · by_cases e : k = n
      · subst e; exact State.p1_setP1_same ..
      · rw [State.p1_setP1_other _ _ (.inr fun h => e (hf h)), hsame k (by omega)]
    · rw [State.p1_setP1_other _ _ (not_and_or.mp fun ⟨hr, e⟩ => hi ⟨hr, n, n.lt_succ_self, e⟩)]
      exact hother r' i fun ⟨hr, k, hk, e⟩ => hi ⟨hr, k, by omega, e⟩

theorem lineIndex_injective (l : Nat) : Function.Injective (lineIndex l) := fun _ _ h => by unfold lineIndex at h; omega
theorem streamIndex_injective (k : Nat) : Function.Injective (streamIndex k) := fun _ _ h => by unfold streamIndex at h; omega

/-! ### Entries (R260, R265, R270) -/

theorem State.writeLine_ok {ws : List Word} (hidle : s.lineBusy r l = false) (hok : s.lineEntryOk r l ws = true) :
    s.writeLine r l ws = (List.range 5).foldl (fun t k => t.setP1 r (lineIndex l k) (ws.getD k 0)) s :=
  if_neg (by rw [hidle, hok]; decide)

theorem State.writeLine_refused {ws : List Word} (h : s.lineBusy r l = true ∨ s.lineEntryOk r l ws = false) :
    s.writeLine r l ws = s.raise r 0x172 noSubject (ws.getD 0 0).toNat :=
  if_pos (by rcases h with h | h <;> simp [h])

theorem State.writeStream_ok {ws : List Word} (hok : s.streamEntryOk r ws = true) :
    s.writeStream r k ws = ((List.range 4).foldl (fun t i => t.setP1 r (streamIndex k i) (ws.getD i 0)) s).setP1 r (streamStatus k)
      (if stInUse ws then 1 else 0) :=
  if_neg (by rw [hok]; decide)

theorem State.writeStream_refused {ws : List Word} (h : s.streamEntryOk r ws = false) :
    s.writeStream r k ws = s.raise r 0x171 noSubject (ws.getD 0 0).toNat :=
  if_pos (by rw [h]; rfl)

/-- A stream entry that is stored, with its status (R265). -/
theorem State.writeStream_ok_spec {ws : List Word} (hk : k < 64) (hok : s.streamEntryOk r ws = true) :
    let t := s.writeStream r k ws
    t = { s with regions := t.regions } ∧ (∀ i < 4, t.p1 r (streamIndex k i) = ws.getD i 0) ∧
      t.p1 r (streamStatus k) = (if stInUse ws then 1 else 0) ∧
      ∀ r' i, ¬(r' = r ∧ (i = streamStatus k ∨ ∃ j < 4, i = streamIndex k j)) → t.p1 r' i = s.p1 r' i := by
  obtain ⟨honly, hsame, hother⟩ := s.foldl_setP1_spec r (fun i => ws.getD i 0) (streamIndex_injective k) 4
  dsimp only
  rw [State.writeStream_ok hok]
  generalize (List.range 4).foldl (fun t i => t.setP1 r (streamIndex k i) (ws.getD i 0)) s = t at honly hsame hother
  refine ⟨by rw [honly]; rfl, fun i hi => ?_, State.p1_setP1_same .., fun r' i hi => ?_⟩
  · rw [State.p1_setP1_other _ _ (.inr (by unfold streamIndex streamStatus; omega)), hsame i hi]
  · rw [State.p1_setP1_other _ _ (not_and_or.mp fun ⟨hr, e⟩ => hi ⟨hr, .inl e⟩)]
    exact hother r' i fun ⟨hr, hj⟩ => hi ⟨hr, .inr hj⟩

/-! ### The start of a stream (R262, R265, R266) -/

/-- An entry of its line may start: it is in use and armed, its line valid and idle, its trigger reached, and it is the line's next. -/
structure State.mayStart (s : State) (r k : Nat) : Prop where
  inUse : stInUse (s.streamOf r k) = true
  valid : s.lineOk r (stLine (s.streamOf r k)) = true
  idle : s.lineBusy r (stLine (s.streamOf r k)) = false
  armed : field (s.p1 r (streamStatus k)) 0 2 = 1
  triggered : s.triggered r k = true
  next : s.nextStream r (stLine (s.streamOf r k)) = some k

/-- A unit of the line is absent. -/
def State.lineAbsent (s : State) (r l : Nat) : Bool := (List.range (s.lineN r l)).any fun p => s.absent (s.linePos r l p)

/-- The entry runs on its line. -/
def State.started (s : State) (r k : Nat) : State :=
  ((s.setP1 r (lineIndex (stLine (s.streamOf r k)) 5) (wd (1 + 2 * k))).setP1 r (streamStatus k) 2).updWell r fun x => { x with
    running := x.running ++ [{ line := stLine (s.streamOf r k), stream := k, nextRow := 0, buf := bufOf (s.p1 r 14385) }]
    lastStream := x.lastStream.set 0 (stLine (s.streamOf r k)) (k + 1) }

theorem State.streamStart_aborting (h : s.seq.phase = 7) : s.streamStart r k = s :=
  if_pos (by simp [h])

theorem State.streamStart_eq (h : s.mayStart r k) (hphase : s.seq.phase ≠ 7) :
    s.streamStart r k = if s.lineAbsent r (stLine (s.streamOf r k)) then s.raise r 0x173 noSubject (s.p1 r (streamStatus k)).toNat
      else s.started r k := by
  obtain ⟨huse, hvalid, hidle, harmed, htrigger, hnext⟩ := h
  exact if_neg (by simp [huse, hvalid, hidle, harmed, htrigger, hnext, hphase])

theorem State.lineAbsent_iff : s.lineAbsent r l = true ↔ ∃ p < s.lineN r l, s.absent (s.linePos r l p) = true := by
  simp only [State.lineAbsent, List.any_eq_true, List.mem_range]

theorem State.started_spec (s : State) {r k : Nat} (hk : k < 64) (hl : stLine (s.streamOf r k) < 80) :
    let t := s.started r k
    let l := stLine (s.streamOf r k)
    t.lineBusy r l = true ∧ field (t.p1 r (lineIndex l 5)) 1 7 = k ∧ t.p1 r (streamStatus k) = 2 ∧
      (t.well r).running = (s.well r).running ++ [{ line := l, stream := k, nextRow := 0, buf := bufOf (s.p1 r 14385) }] ∧
      (t.well r).rows = (s.well r).rows := by
  intro t l
  have hline : t.p1 r (lineIndex l 5) = wd (1 + 2 * k) := by
    show (s.started r k).p1 r _ = _
    rw [State.started, State.updWell_p1, State.p1_setP1_other _ _ (.inr (by unfold lineIndex streamStatus; omega)), State.p1_setP1_same]
  have hwell : t.well r = { s.well r with
      running := (s.well r).running ++ [{ line := l, stream := k, nextRow := 0, buf := bufOf (s.p1 r 14385) }]
      lastStream := (s.well r).lastStream.set 0 l (k + 1) } := by
    show (s.started r k).well r = _
    rw [State.started, State.well_updWell_same, State.setP1_well, State.setP1_well]
  refine ⟨?_, ?_, ?_, by rw [hwell], by rw [hwell]⟩
  · rw [State.lineBusy, hline, field_ofNat (by decide), beq_iff_eq]; omega
  · rw [hline, field_ofNat (by decide)]; omega
  · show (s.started r k).p1 r _ = _
    rw [State.started, State.updWell_p1, State.p1_setP1_same]

/-! ### The rows of a stream (R261, R262, R263) -/

/-- A line becomes idle in its sixth word alone. -/
theorem State.settleLine_eq (s : State) (r l : Nat) :
    s.settleLine r l = s ∨ s.settleLine r l = s.updP1 r (lineIndex l 5) fun w => putField w 0 1 0 := by
  unfold State.settleLine
  dsimp only
  split
  · exact .inl rfl
  · exact .inr rfl

/-- What page 1 writes leave, a line that becomes idle leaves. -/
theorem State.settleLine_leaves {α : Type} (f : State → α) (h : ∀ (t : State) r i w, f (t.setP1 r i w) = f t) (s : State) (r l : Nat) :
    f (s.settleLine r l) = f s := by
  rcases s.settleLine_eq r l with e | e <;> rw [e]
  exact h ..

theorem State.settleLine_p1 (s : State) (r l : Nat) {r' i : Nat} (hi : i ≠ lineIndex l 5) :
    (s.settleLine r l).p1 r' i = s.p1 r' i := by
  rcases s.settleLine_eq r l with e | e <;> rw [e]
  exact State.p1_updP1_other _ _ (.inr hi)

/-- The row of a stream that comes next, with the position that takes it (R262). -/
def State.inkRowOf (s : State) (r l : Nat) (k : Running) (ws : List Word) (d : Row) : InkRow :=
  let q := 8 * stBase ws k.buf + k.nextRow
  { data := d, row := k.nextRow % stRows ws, bcast := stBcast ws, last := k.nextRow % stRows ws + 1 == stRows ws
    pos := if stBcast ws then 0 else s.lineN r l - 1 - k.nextRow / stRows ws % max 1 (s.lineN r l)
    wa := waWell r (q / 8) + BitVec.ofNat 48 (q % 8 * 64) }

/-- It is sent to position 0, and the stream goes on by one row; the last row of a tile counts. -/
def State.rowSent (s : State) (r l : Nat) (k : Running) (row : InkRow) : State :=
  let u := s.linePos r l 0
  let v := (s.send (s.inkMsg r u 2 row (s.epoch u))).updWell r fun x => { x with
    running := x.running.map fun j => if j.line = l then { j with nextRow := j.nextRow + 1 } else j }
  if row.last then v.updP1 r (streamStatus k.stream) fun w => bumpField w 2 20 else v

/-- A row that is read clean is sent. -/
theorem State.streamRow_eq {k : Running} {d : Row} {v : State} (hrun : (s.well r).running.find? (fun k => k.line == l) = some k)
    (hcredit : s.inkCredit (s.linePos r l 0) = true)
    (hread : s.wellRead r (8 * stBase (s.streamOf r k.stream) k.buf + k.nextRow) [] 0 = (v, 0, d)) :
    let ws := s.streamOf r k.stream
    let t := v.rowSent r l k (v.inkRowOf r l k ws d)
    s.streamRow r l [] = if k.nextRow + 1 = stTiles ws * stRows ws then t.streamDone r l k.stream else t := by
  intro ws t
  unfold State.streamRow
  rw [hrun]
  dsimp only
  rw [hcredit, if_neg (by decide), hread]
  rfl

/-- The tag of a row on its way: its number, its position, broadcast, and the last of its tile (R261). -/
theorem field_rowTag {row pos : Nat} (bcast last : Bool) :
    let tag := BitVec.ofNat 16 (row % 64 + pos % 16 * 2 ^ 6 + bcast.toNat * 2 ^ 10 + last.toNat * 2 ^ 11)
    field tag 0 6 = row % 64 ∧ field tag 6 4 = pos % 16 ∧ tag.getLsbD 10 = bcast ∧ tag.getLsbD 11 = last := by
  have hb := bcast.toNat_le
  have hl := last.toNat_le
  have hbit (x i : Nat) (hi : i < 16) : (BitVec.ofNat 16 x).getLsbD i = decide (x / 2 ^ i % 2 = 1) := by
    rw [BitVec.getLsbD_ofNat, decide_eq_true hi, Bool.true_and, Nat.testBit_eq_decide_div_mod_eq]
  refine ⟨?_, ?_, (hbit _ 10 (by decide)).trans ?_, (hbit _ 11 (by decide)).trans ?_⟩
  · rw [field_ofNat (by decide)]; omega
  · rw [field_ofNat (by decide)]; omega
  · cases bcast with
    | false => exact decide_eq_false (by rw [Bool.toNat_false]; omega)
    | true => exact decide_eq_true (by rw [Bool.toNat_true]; omega)
  · cases last with
    | false => exact decide_eq_false (by rw [Bool.toNat_false]; omega)
    | true => exact decide_eq_true (by rw [Bool.toNat_true]; omega)

theorem stRows_pos (ws : List Word) : 0 < stRows ws ∧ stRows ws ≤ 64 := by unfold stRows; split <;> decide

theorem State.stThreshold_streamOf (s : State) (r k : Nat) : stThreshold (s.streamOf r k) = s.p1 r (streamIndex k 3) := rfl
theorem State.stInc_streamOf (s : State) (r k : Nat) : stInc (s.streamOf r k) = field (s.p1 r (streamIndex k 1)) 30 6 := rfl

/-- The stream's running record is that of its line, one row on. -/
def advance (l : Nat) (j : Running) : Running := if j.line = l then { j with nextRow := j.nextRow + 1 } else j

theorem State.rowSent_spec (s : State) (r l : Nat) (k : Running) (row : InkRow) :
    let t := s.rowSent r l k row
    t.net = s.net ++ [s.inkMsg r (s.linePos r l 0) 2 row (s.epoch (s.linePos r l 0))] ∧ t.units = s.units ∧
      t.well r = { s.well r with running := (s.well r).running.map (advance l) } ∧
      (∀ i, i ≠ streamStatus k.stream → t.p1 r i = s.p1 r i) ∧ ∀ i, field (t.p1 r i) 30 6 = field (s.p1 r i) 30 6 := by
  dsimp only
  unfold State.rowSent
  extract_lets u v
  have hwell : v.well r = { s.well r with running := (s.well r).running.map (advance l) } := State.well_updWell_same ..
  have hp1 (i : Nat) : v.p1 r i = s.p1 r i := rfl
  have hnet : v.net = s.net ++ [s.inkMsg r u 2 row (s.epoch u)] := rfl
  have hunits : v.units = s.units := rfl
  clear_value v
  by_cases h : row.last = true
  · rw [if_pos h]
    refine ⟨hnet, hunits, hwell, fun i hi => ?_, fun i => ?_⟩
    · rw [State.p1_updP1_other _ _ (.inr hi), hp1]
    · by_cases e : i = streamStatus k.stream
      · rw [e, State.p1_updP1_same, field_bumpField_other _ (by decide), hp1]
      · rw [State.p1_updP1_other _ _ (.inr e), hp1]
  · rw [if_neg h]
    exact ⟨hnet, hunits, hwell, fun i _ => hp1 i, fun i => by rw [hp1]⟩

/-- A stream that has sent its last row (R265). -/
theorem State.streamDone_spec (s : State) (r k : Nat) (hl : l < 80) :
    let t := s.streamDone r l k
    let inc := stInc (s.streamOf r k)
    t.net = s.net ∧ t.units = s.units ∧ t.well r = { s.well r with running := (s.well r).running.filter fun j => j.line != l } ∧
      t.p1 r (streamIndex k 3) = s.p1 r (streamIndex k 3) + wd inc ∧
      field (t.p1 r (streamStatus k)) 0 2 = if inc = 0 then 0 else 1 := by
  intro t inc
  obtain ⟨v, hv⟩ : ∃ v, s.updWell r (fun x => { x with running := x.running.filter fun k => k.line != l }) = v := ⟨_, rfl⟩
  have ht : t = ((v.updP1 r (streamStatus k) fun w => putField w 0 2 (if inc = 0 then 0 else 1)).updP1 r (streamIndex k 3) fun w =>
      w + wd inc).settleLine r l := by rw [← hv]; rfl
  have hne : streamIndex k 3 ≠ streamStatus k := by unfold streamIndex streamStatus; omega
  refine ⟨?_, ?_, ?_, ?_, ?_⟩
  · rw [ht, State.settleLine_leaves State.net fun _ _ _ _ => rfl, State.updP1_net, State.updP1_net, ← hv, State.updWell_net]
  · rw [ht, State.settleLine_leaves State.units fun _ _ _ _ => rfl, State.updP1_units, State.updP1_units, ← hv, State.updWell_units]
  · rw [ht, State.settleLine_leaves (State.well · r) fun _ _ _ _ => rfl]
    dsimp only
    rw [State.updP1_well, State.updP1_well, ← hv, State.well_updWell_same]
  · rw [ht, State.settleLine_p1 _ _ _ (by unfold streamIndex lineIndex; omega), State.p1_updP1_same, State.p1_updP1_other _ _ (.inr hne),
      ← hv, State.updWell_p1]
  · rw [ht, State.settleLine_p1 _ _ _ (by unfold streamStatus lineIndex; omega), State.p1_updP1_other _ _ (.inr hne.symm),
      State.p1_updP1_same, field_putField_same _ _ (by decide)]
    split <;> rfl

/-- The message of the row that comes next (R261, R262). -/
theorem State.inkMsg_rowOf (s : State) (r l u : Nat) (k : Running) (ws : List Word) (d : Row) (e : BitVec 12) :
    let m := s.inkMsg r u 2 (s.inkRowOf r l k ws d) e
    field m.tag 0 6 = k.nextRow % stRows ws ∧ m.tag.getLsbD 10 = stBcast ws ∧
      m.tag.getLsbD 11 = (k.nextRow % stRows ws + 1 == stRows ws) ∧
      (stBcast ws = false → s.lineN r l ≤ 16 →
        field m.tag 6 4 = s.lineN r l - 1 - k.nextRow / stRows ws % max 1 (s.lineN r l)) := by
  obtain ⟨hrow, hpos, hbcast, hlast⟩ := field_rowTag (row := (s.inkRowOf r l k ws d).row) (pos := (s.inkRowOf r l k ws d).pos)
    (s.inkRowOf r l k ws d).bcast (s.inkRowOf r l k ws d).last
  obtain ⟨hn, hle⟩ := stRows_pos ws
  refine ⟨hrow.trans (Nat.mod_eq_of_lt ((Nat.mod_lt _ hn).trans_le hle)), hbcast, hlast, fun hb hN => hpos.trans ?_⟩
  have hposition : (s.inkRowOf r l k ws d).pos = s.lineN r l - 1 - k.nextRow / stRows ws % max 1 (s.lineN r l) :=
    if_neg (by rw [hb]; exact Bool.false_ne_true)
  rw [hposition, Nat.mod_eq_of_lt (by omega)]

/-- The lines' and streams' registers lie past those that a check writes. -/
theorem checkIndex_past {i : Nat} (h : 14384 < i) : checkIndex i = false :=
  Bool.or_eq_false_iff.mpr ⟨Bool.or_eq_false_iff.mpr ⟨decide_eq_false (by omega),
    Bool.or_eq_false_iff.mpr ⟨decide_eq_false (by omega), decide_eq_false (by omega)⟩⟩, decide_eq_false (by omega)⟩

/-- What the read leaves, the entry and the line of the stream keep. -/
theorem State.upkeep.linePos {v : State} (h : s.upkeep checkIndex v) (r l p : Nat) :
    v.linePos r l p = s.linePos r l p ∧ v.lineN r l = s.lineN r l := by
  have hw (j : Nat) : v.p1 r (lineIndex l j) = s.p1 r (lineIndex l j) := h.p1 _ _ (checkIndex_past (by unfold lineIndex; omega))
  rw [State.linePos, State.linePos, State.lineN, State.lineN, hw, hw]
  exact ⟨rfl, rfl⟩

theorem State.upkeep.streamWord {v : State} (h : s.upkeep checkIndex v) (k j : Nat) :
    v.p1 r (streamIndex k j) = s.p1 r (streamIndex k j) :=
  h.p1 _ _ (checkIndex_past (by unfold streamIndex; omega))

/-- What is left of a stream after its row, by whether that was its last (R262, R265). -/
theorem State.streamRow_spec {k : Running} (hl : l < 80) (hrun : (s.well r).running.find? (fun k => k.line == l) = some k)
    (hcredit : s.inkCredit (s.linePos r l 0) = true) :
    let ws := s.streamOf r k.stream
    let q := 8 * stBase ws k.buf + k.nextRow
    let t := s.streamRow r l []
    ∃ v, s.upkeep checkIndex v ∧
      t.net = s.net ++ [v.inkMsg r (s.linePos r l 0) 2 (v.inkRowOf r l k ws ((s.well r).rows.get 0 q)) (v.epoch (s.linePos r l 0))] ∧
      t.units = s.units ∧ (t.well r).rows = (s.well r).rows ∧
      (k.nextRow + 1 ≠ stTiles ws * stRows ws → (t.well r).running = (s.well r).running.map (advance l)) ∧
      (k.nextRow + 1 = stTiles ws * stRows ws →
        (t.well r).running = ((s.well r).running.map (advance l)).filter (fun j => j.line != l) ∧
        t.p1 r (streamIndex k.stream 3) = stThreshold ws + wd (stInc ws) ∧
        field (t.p1 r (streamStatus k.stream)) 0 2 = if stInc ws = 0 then 0 else 1) := by
  intro ws q t
  obtain ⟨v, hread, hv⟩ := s.wellRead_clean r q
  have heq := State.streamRow_eq hrun hcredit hread
  obtain ⟨hnet, hunits, hwell, hp1, hinc⟩ := v.rowSent_spec r l k (v.inkRowOf r l k ws ((s.well r).rows.get 0 q))
  obtain ⟨w, hw⟩ : ∃ w, v.rowSent r l k (v.inkRowOf r l k ws ((s.well r).rows.get 0 q)) = w := ⟨_, rfl⟩
  have ht : t = if k.nextRow + 1 = stTiles ws * stRows ws then w.streamDone r l k.stream else w := hw ▸ heq
  rw [hw] at hnet hunits hwell hp1 hinc
  rw [(hv.linePos r l 0).1, hv.net] at hnet
  rw [hv.units] at hunits
  rw [hv.well] at hwell
  clear_value t
  refine ⟨v, hv, ?_⟩
  by_cases hlast : k.nextRow + 1 = stTiles ws * stRows ws
  · obtain ⟨dnet, dunits, dwell, dthreshold, dstatus⟩ := w.streamDone_spec r k.stream hl
    have hstInc : stInc (w.streamOf r k.stream) = stInc ws := by
      rw [State.stInc_streamOf, hinc, hv.streamWord, ← State.stInc_streamOf]
    have hne : streamIndex k.stream 3 ≠ streamStatus k.stream := by unfold streamIndex streamStatus; omega
    rw [hstInc] at dthreshold dstatus
    rw [ht, if_pos hlast]
    refine ⟨dnet.trans hnet, dunits.trans hunits, by rw [dwell, hwell], fun h => absurd hlast h, fun _ => ⟨by rw [dwell, hwell], ?_, dstatus⟩⟩
    rw [dthreshold, hp1 _ hne, hv.streamWord, ← State.stThreshold_streamOf]
  · rw [ht, if_neg hlast]
    exact ⟨hnet, hunits, by rw [hwell], fun _ => by rw [hwell], fun h => absurd h hlast⟩

end Sys2Proof.Machine

/-! PROOFS. Rows on the ink lines, stalls, and the commands that wait for rows (R261 to R264). -/

namespace Sys2Proof.Machine

variable {s t : State} {r l p u : Nat}

/-! ### A row on a unit's ink input (R263) -/

/-- The row goes on to the next position. -/
def State.inkPasses (s : State) (u l p : Nat) (k : InkRow) : Prop := (k.bcast = true ∨ p < k.pos) ∧ p + 1 < s.lineN (regionOf u) l

/-- The oldest row leaves the input, into the buffer when the position takes it. -/
def State.inkTaken (s : State) (u : Nat) (k : InkRow) (takes : Bool) : State :=
  s.updUnit u fun x => { x with
    inkIn := x.inkIn.drop 1, inkSince := s.aclkOf (clusterOf u), ink := if takes then x.ink ++ [k] else x.ink }

/-- A row has moved, which ends a stall of its line and may leave it idle. -/
def State.inkMoved (s : State) (r l : Nat) : State :=
  (s.updWell r fun y => { y with stalled := y.stalled.filter (· != l) }).settleLine r l

theorem State.inkMoved_units (s : State) (r l : Nat) : (s.inkMoved r l).units = s.units := by
  rw [State.inkMoved, State.settleLine_leaves State.units fun _ _ _ _ => rfl, State.updWell_units]

theorem State.inkMoved_net (s : State) (r l : Nat) : (s.inkMoved r l).net = s.net := by
  rw [State.inkMoved, State.settleLine_leaves State.net fun _ _ _ _ => rfl, State.updWell_net]

/-- The row's ways, of which the one onward is there only when the row passes. -/
theorem State.inkWays_eq {k : InkRow} {ks : List InkRow} (hin : (s.unit u).inkIn = k :: ks) (hline : s.lineOf u = some (l, p)) :
    (s.inkPasses u l p k → s.inkWays u = some (k, l, p, k.bcast || k.pos == p, some (s.linePos (regionOf u) l (p + 1)))) ∧
      (¬s.inkPasses u l p k → s.inkWays u = some (k, l, p, k.bcast || k.pos == p, none)) := by
  have hmore : (if k.bcast then decide (p + 1 < s.lineN (regionOf u) l) else decide (p < k.pos ∧ p + 1 < s.lineN (regionOf u) l)) =
      true ↔ s.inkPasses u l p k := by
    unfold State.inkPasses
    cases k.bcast <;> simp
  unfold State.inkWays
  rw [hin, hline]
  dsimp only
  exact ⟨fun h => by rw [if_pos (hmore.mpr h)], fun h => by rw [if_neg (mt hmore.mp h)]⟩

theorem State.inkRow_eq {k : InkRow} {takes : Bool} {next : Option Nat} (hways : s.inkWays u = some (k, l, p, takes, next))
    (hroom : takes = true → (s.unit u).ink.length < 64) (hnext : next.all s.inkCredit = true) :
    s.inkRow u = (match next with
      | some v => (s.inkTaken u k takes).inkForward u v k
      | none => s.inkTaken u k takes).inkMoved (regionOf u) l := by
  have hmoves : s.inkMoves u = true := by
    unfold State.inkMoves
    rw [hways]
    dsimp only
    rw [hnext, Bool.and_true, Bool.not_eq_true', Bool.and_eq_false_iff]
    cases takes with
    | false => exact .inl rfl
    | true => exact .inr (decide_eq_false (by have := hroom rfl; omega))
  unfold State.inkRow
  rw [hways]
  dsimp only
  rw [hmoves]
  rfl

theorem State.inkTaken_same {k : InkRow} {ks : List InkRow} (hin : (s.unit u).inkIn = k :: ks) (takes : Bool) :
    ((s.inkTaken u k takes).unit u).inkIn = ks ∧
      ((s.inkTaken u k takes).unit u).ink = if takes then (s.unit u).ink ++ [k] else (s.unit u).ink := by
  rw [State.inkTaken, State.unit_updUnit_same]
  dsimp only
  rw [hin]
  exact ⟨rfl, rfl⟩

theorem State.inkTaken_other (k : InkRow) (takes : Bool) {v : Nat} (hv : v ≠ u) : (s.inkTaken u k takes).unit v = s.unit v :=
  State.unit_updUnit_other _ _ hv

/-- A change of a unit that leaves its rows leaves all rows. -/
theorem State.cell_updUnit_rows (s : State) (u : Nat) {f : Unit → Unit} (hf : ∀ x, (f x).rows = x.rows) (w q : Nat) :
    ((s.updUnit u f).unit w).cell q = (s.unit w).cell q := by
  by_cases e : w = u
  · subst e; rw [State.unit_updUnit_same, Unit.cell, hf]; rfl
  · rw [State.unit_updUnit_other _ _ e]

theorem State.inkTaken_cell (s : State) (u : Nat) (k : InkRow) (takes : Bool) (w q : Nat) :
    ((s.inkTaken u k takes).unit w).cell q = (s.unit w).cell q := s.cell_updUnit_rows u (fun _ => by rfl) w q

/-- The row goes over the crossbar within a cluster, and as a message to another. -/
theorem State.inkForward_spec (s : State) {u v : Nat} (k : InkRow) (hv : v ≠ u) :
    let t := s.inkForward u v k
    t.unit u = s.unit u ∧ (∀ w q, (t.unit w).cell q = (s.unit w).cell q) ∧
      (clusterOf u = clusterOf v → (t.unit v).inkIn = (s.unit v).inkIn ++ [k] ∧ t.net = s.net) ∧
      (clusterOf u ≠ clusterOf v → ∃ m, t.net = s.net ++ [m] ∧ m.type = 20 ∧ m.dstUnit = v ∧ m.body = [k.data] ∧
        m.epoch = s.stamp (clusterOf u) v) := by
  dsimp only
  unfold State.inkForward
  by_cases h : clusterOf u = clusterOf v
  · rw [if_pos h, State.inkPush]
    refine ⟨State.unit_updUnit_other _ _ hv.symm, s.cell_updUnit_rows v fun _ => by rfl, fun _ => ⟨?_, rfl⟩, fun e => absurd h e⟩
    rw [State.unit_updUnit_same]
  · rw [if_neg h]
    exact ⟨rfl, fun _ _ => rfl, fun e => absurd e h, fun _ => ⟨_, rfl, rfl, rfl, rfl, rfl⟩⟩

/-! ### Stalls (R263, R264) -/

/-- A stall is recorded with its line, counted, seen and raised (Table WEL-6). -/
theorem State.stallEvent_spec (s : State) (r : Nat) (hl : l < 128) :
    let t := s.stallEvent r l
    let w := t.p1 r 14388
    field w 0 8 = 128 + l ∧ field w 20 1 = 1 ∧ field w 8 12 = min (field (s.p1 r 14388) 8 12 + 1) 4095 ∧
      tookRecord r 0x029 16383 w s t ∧ t.units = s.units ∧ t.wells = s.wells ∧ t.net = s.net := by
  intro t w
  obtain ⟨v, hv⟩ : ∃ v, s.updP1 r 14388 (fun w => putField (bumpField (putField w 0 8 (l % 128 + 128)) 8 12) 20 1 1) = v := ⟨_, rfl⟩
  have ht : t = v.raise r 0x029 noSubject (v.p1 r 14388).toNat := by rw [← hv]; rfl
  obtain ⟨hword, htook⟩ := v.raise_tookWord r (i := 14388) (code := 0x029) (subject := noSubject) (by decide) (by decide) (by decide)
  rw [← ht] at hword htook
  have hw : w = putField (bumpField (putField (s.p1 r 14388) 0 8 (l % 128 + 128)) 8 12) 20 1 1 := by
    show t.p1 r 14388 = _
    rw [hword, ← hv, State.p1_updP1_same]
  rw [← hword] at htook
  refine ⟨?_, ?_, ?_, htook.of_start ?_ ?_, ?_, ?_, ?_⟩
  · rw [hw, field_putField_other _ _ (by decide), field_bumpField_other _ (by decide), field_putField_same _ _ (by decide)]
    omega
  · rw [hw, field_putField_same _ _ (by decide)]; rfl
  · rw [hw, field_putField_other _ _ (by decide), field_bumpField_same _ (by decide), field_putField_other _ _ (by decide)]
    rfl
  · rw [← hv, State.p1_updP1_other _ _ (.inr (by decide))]
  · rw [← hv, State.updP1_seq]
  · rw [ht, State.raise_units, ← hv, State.updP1_units]
  · rw [ht, State.raise_wells, ← hv, State.updP1_wells]
  · rw [ht, State.raise_net, ← hv, State.updP1_net]

theorem State.inkStall_eq (hbusy : s.lineBusy r l = true) (hstalled : l ∉ (s.well r).stalled) (hblocked : s.inkBlocked r l = true) :
    s.inkStall r l = (s.updWell r fun x => { x with stalled := x.stalled ++ [l] }).stallEvent r l :=
  if_neg (by simp [hbusy, hstalled, hblocked])

theorem State.inkCommandWait_eq {c : MxaCmd} (hline : s.lineOf u = some (l, p)) (hwaits : (s.unit u).inkWaits = some c)
    (hstalled : (s.unit u).inkStalled = false) (hlate : c.takenAt + 2 ^ 20 ≤ s.aclkOf (clusterOf u)) :
    s.inkCommandWait u = (s.setUnit u { s.unit u with inkStalled := true }).stallEvent (regionOf u) l := by
  unfold State.inkCommandWait
  dsimp only
  rw [hline, hwaits]
  dsimp only
  exact if_pos (Bool.and_eq_true_iff.mpr ⟨by rw [hstalled]; rfl, decide_eq_true hlate⟩)

/-- A unit's line is one of the region's 80. -/
theorem State.lineOf_lt (h : s.lineOf u = some (l, p)) : l < 80 := by
  obtain ⟨j, hj, hfound⟩ := List.exists_of_findSome?_eq_some h
  obtain ⟨q, -, hq⟩ := Option.map_eq_some_iff.mp hfound
  cases hq
  exact List.mem_range.mp (List.mem_filter.mp hj).1

/-! ### The statement -/

theorem State.exec_lineEntryWrite (ws : List Word) (hr : r < 48) (hl : l < 80) :
    exec (.lineEntryWrite r l ws) s = .next (s.writeLine r l ws) :=
  guardRes_of ⟨hr, hl⟩ _

theorem State.exec_streamEntryWrite {k : Nat} (ws : List Word) (hr : r < 48) (hk : k < 64) :
    exec (.streamEntryWrite r k ws) s = .next (s.writeStream r k ws) :=
  guardRes_of ⟨hr, hk⟩ _

theorem State.exec_streamStart {k : Nat} (hr : r < 48) (hk : k < 64) : exec (.streamStart r k) s = .next (s.streamStart r k) :=
  guardRes_of ⟨hr, hk⟩ _

theorem State.exec_streamRow (errs : Errs) (hr : r < 48) (hl : l < 80) :
    exec (.streamRow r l errs) s = .next (s.streamRow r l errs) :=
  guardRes_of ⟨hr, hl⟩ _

theorem State.exec_inkLineRow (hu : u < 15360) : exec (.inkLineRow u) s = .next (s.inkRow u) :=
  guardRes_of hu _

theorem State.exec_inkStall (hr : r < 48) (hl : l < 80) : exec (.inkStall r l) s = .next (s.inkStall r l) :=
  guardRes_of ⟨hr, hl⟩ _

theorem State.exec_inkCommandWait (hu : u < 15360) : exec (.inkCommandWait u) s = .next (s.inkCommandWait u) :=
  guardRes_of hu _

/-- Settles O42, clause by clause: an entry is stored or refused, a stream starts or its line refuses, its row is read, sent and counted,
a row on an input moves, and a stall is recorded. -/
theorem inkLinesAndStreams : Obligations.InkLinesAndStreams := by
  refine ⟨?line, ?stream, ?start, ?row, ?ink, ?stall, ?wait⟩
  case line =>
    intro s r l ws hr hl
    refine ⟨_, State.exec_lineEntryWrite ws hr hl, ?_⟩
    by_cases h : s.lineBusy r l = true ∨ s.lineEntryOk r l ws = false
    · have hraise := s.raise_word r (code := 0x172) (subject := noSubject) (ws.getD 0 0) (by decide) (by decide)
      rw [State.writeLine_refused h]
      refine ⟨State.raise_units .., State.raise_wells .., State.raise_net .., fun hidle hok => ?_, fun _ => hraise⟩
      rw [hidle, hok] at h
      cases h <;> contradiction
    · have hspec := s.foldl_setP1_spec r (fun k => ws.getD k 0) (lineIndex_injective l) 5
      obtain ⟨hidle, hok⟩ := not_or.mp h
      rw [State.writeLine_ok (by simpa using hidle) (by simpa using hok)]
      refine ⟨?_, ?_, ?_, fun _ _ => hspec, fun e => absurd e h⟩ <;> rw [hspec.1]
  case stream =>
    intro s r k ws hr hk
    refine ⟨_, State.exec_streamEntryWrite ws hr hk, ?_⟩
    by_cases h : s.streamEntryOk r ws = true
    · have hspec := State.writeStream_ok_spec hk h
      refine ⟨?_, ?_, ?_, fun _ => hspec, fun e => by rw [h] at e; cases e⟩ <;> rw [hspec.1]
    · have hraise := s.raise_word r (code := 0x171) (subject := noSubject) (ws.getD 0 0) (by decide) (by decide)
      rw [State.writeStream_refused (by simpa using h)]
      exact ⟨State.raise_units .., State.raise_wells .., State.raise_net .., fun e => absurd e h, fun _ => hraise⟩
  case start =>
    intro s r k hr hk ws l absent huse hvalid hidle harmed htrigger hnext
    rw [State.exec_streamStart hr hk]
    refine ⟨fun h => by rw [State.streamStart_aborting h], fun hphase => ?_⟩
    have hmay : s.mayStart r k := ⟨huse, hvalid, hidle, harmed, decide_eq_true htrigger, hnext⟩
    have hl : l < 80 := of_decide_eq_true (Bool.and_eq_true_iff.mp hvalid).1
    refine ⟨_, rfl, ?_⟩
    have heq := State.streamStart_eq hmay hphase
    by_cases h : s.lineAbsent r l = true
    · rw [heq.trans (if_pos h)]
      obtain ⟨htook, hring⟩ := s.raise_word r (code := 0x173) (subject := noSubject) (s.p1 r (streamStatus k)) (by decide) (by decide)
      exact ⟨State.raise_units .., State.raise_net .., fun e => absurd (State.lineAbsent_iff.mp h) e,
        fun _ => ⟨htook, hring, State.raise_wells ..⟩⟩
    · rw [heq.trans (if_neg h)]
      obtain ⟨hbusy, hstream, hstatus, hrunning, hrows⟩ := s.started_spec hk hl
      exact ⟨rfl, rfl, fun _ => ⟨hbusy, hstream, hstatus, hrunning, fun i => by rw [hrows]⟩, fun e => absurd (State.lineAbsent_iff.mpr e) h⟩
  case row =>
    intro s r l k hr hl hrun ws n q hcredit
    obtain ⟨v, hv, hnet, hunits, hrows, hgoes, hends⟩ := State.streamRow_spec hl hrun hcredit
    obtain ⟨hrow, hbcast, hlast, hpos⟩ := v.inkMsg_rowOf r l (s.linePos r l 0) k ws ((s.well r).rows.get 0 q) (v.epoch (s.linePos r l 0))
    rw [(hv.linePos r l 0).2] at hpos
    refine ⟨_, _, State.exec_streamRow [] hr hl, hnet, rfl, rfl, rfl, rfl, rfl, rfl, hrow, hbcast, hlast, hpos, hunits,
      fun i => by rw [hrows], fun hne j hj hline => ?_, fun he => ?_⟩
    · rw [hgoes hne] at hj
      obtain ⟨j', hmem, rfl⟩ := List.mem_map.mp hj
      by_cases e : j'.line = l
      · exact ⟨j', hmem, e, if_pos e⟩
      · rw [advance, if_neg e] at hline
        exact absurd hline e
    · obtain ⟨hrunning, hthreshold, hstatus⟩ := hends he
      refine ⟨fun j hj => ?_, hthreshold, hstatus⟩
      rw [hrunning] at hj
      exact bne_iff_ne.mp (List.mem_filter.mp hj).2
  case ink =>
    intro s u l p k ks hu hin hline r takes passes v hroom hcredit hvu
    obtain ⟨hpass, hstay⟩ := State.inkWays_eq hin hline
    obtain ⟨hinput, hbuffer⟩ := State.inkTaken_same hin takes
    refine ⟨_, State.exec_inkLineRow hu, ?_⟩
    by_cases h : passes
    · obtain ⟨hunit, hcells, hnear, hfar⟩ := (s.inkTaken u k takes).inkForward_spec k hvu
      rw [State.inkRow_eq (hpass h) hroom (hcredit h)]
      dsimp only
      simp only [State.unit_eq_of_units (State.inkMoved_units ..), State.inkMoved_net]
      refine ⟨by rw [hunit, hinput], by rw [hunit, hbuffer], fun w q => by rw [hcells, State.inkTaken_cell], fun e => absurd h e,
        fun _ hc => ?_, fun _ hc => hfar hc⟩
      obtain ⟨harrives, hnet⟩ := hnear hc
      rw [State.inkTaken_other _ _ hvu] at harrives
      exact ⟨harrives, hnet⟩
    · rw [State.inkRow_eq (hstay h) hroom rfl]
      dsimp only
      simp only [State.unit_eq_of_units (State.inkMoved_units ..), State.inkMoved_net]
      exact ⟨hinput, hbuffer, s.inkTaken_cell u k takes, fun _ => ⟨rfl, fun w hw => State.inkTaken_other _ _ hw⟩,
        fun e => absurd e h, fun e => absurd e h⟩
  case stall =>
    intro s r l hr hl hbusy hstalled hblocked
    obtain ⟨hword, hseen, hcount, htook, hunits, hwells, hnet⟩ :=
      (s.updWell r fun x => { x with stalled := x.stalled ++ [l] }).stallEvent_spec r (show l < 128 by omega)
    refine ⟨_, State.exec_inkStall hr hl, ?_⟩
    rw [State.inkStall_eq hbusy hstalled hblocked]
    refine ⟨?_, hunits, hnet, ?_, ?_, hseen, hcount, htook⟩
    · rw [State.well, hwells]
      exact congrArg Well.stalled (State.well_updWell_same ..)
    · unfold field at hword ⊢; omega
    · unfold field at hword ⊢; omega
  case wait =>
    intro s u l p c hu hline hwaits hstalled hlate
    obtain ⟨hword, -, -, htook, hunits, -, hnet⟩ := (s.setUnit u { s.unit u with inkStalled := true }).stallEvent_spec (regionOf u)
      ((State.lineOf_lt hline).trans (by decide))
    refine ⟨_, State.exec_inkCommandWait hu, ?_⟩
    rw [State.inkCommandWait_eq hline hwaits hstalled hlate]
    refine ⟨?_, hnet, hword, htook⟩
    rw [State.unit_eq_of_units hunits, State.unit_setUnit_same]

end Sys2Proof.Machine
